-- ==== Sys2Proof/Word.lean ====
section
/-! DEFINITION. The word types of the S9: bytes, and the 32-bit and 64-bit words in which R8 and R116
lay out registers, descriptors and records. -/

namespace Sys2Proof

/-- One byte. -/
abbrev Byte := BitVec 8
/-- A 32-bit word: a descriptor word (R116), a BAR0 register (R471). -/
abbrev W32 := BitVec 32
/-- A 64-bit word: a parameter or scalar register (R142, R148), a RISC-V integer register. -/
abbrev W64 := BitVec 64
/-- A 512-bit vector register of a Wick core (R80, VLEN 512). -/
abbrev W512 := BitVec 512

end Sys2Proof
end

