-- ==== Sys2Proof/Syntax.lean ====
section
/-! DEFINITION. The commands of the S9: `Instr`, one constructor per row of spec/opcode_table.json, and the types
of their operands. The table gives the rows no operand fields; a command carries exactly what reaches the block from
OUTSIDE at that step (which engine, the bytes of a frame or a record, a reading of a sensor, a physical upset that
strikes during the step). Everything else is in State. -/

namespace Sys2Proof

/-- An engine of one physical Station, by the engine index e of R177: 0-3 Lantern, 4-11 Wick pair,
12-15 Tender channel, 16 Port engine. -/
structure Eng where
  st : Fin 16
  e : Fin 17
  deriving DecidableEq, Repr

/-- A physical Wick pair (R12). -/
structure WickRef where
  st : Fin 16
  p : Fin 9
  deriving DecidableEq, Repr

/-- A physical unit with a spare and a known-answer test (R74, R107): a Lantern or a Wick pair. -/
inductive UnitRef where
  | lantern (st : Fin 16) (p : Fin 5)
  | wick (st : Fin 16) (p : Fin 9)
  deriving DecidableEq, Repr

/-- A page of BAR0 by its page number (R485): 442 pages. -/
abbrev PageNo := Fin 442

/-- A link (R244). -/
abbrev LinkNo := Fin 96

/-- A physical disturbance that strikes while a command runs. The spec gives the check that meets each one; the
disturbance itself comes from outside the logic. -/
inductive Upset where
  /-- One flipped bit in the 64-bit SRAM word that holds byte address `addr` of the SRAM space (R183). -/
  | sramSingle (addr : Nat)
  /-- Two flipped bits in that word (R183). -/
  | sramDouble (addr : Nat)
  /-- Bad symbols, by position, in the DRAM codeword that holds byte address `addr` (R185). -/
  | dramSymbols (addr : Nat) (symbols : List Nat)
  /-- A change of one SRAM byte that the ECC cannot see (R349: three or more bit errors in one word). -/
  | sramSilent (addr : Nat) (value : Byte)
  /-- A change of one DRAM byte that the code cannot see. -/
  | dramSilent (addr : Nat) (value : Byte)
  /-- An uncorrectable Gallery packet at the router of a Station (R19). -/
  | gallery (router : Fin 16)
  /-- A single-bit error of a Gallery packet, corrected in flight at the router of a Station (R19). -/
  | gallerySingle (router : Fin 16)
  /-- A flipped bit of one accumulator of the Lantern that runs the command (R66). -/
  | accumulator (row col bit : Nat)
  /-- The two rounding stages disagree on a row (R68). -/
  | rounding (row : Nat)
  /-- The two cores of the pair differ at this commit (R81). -/
  | compare
  /-- Uncorrectable ECC in local or curve memory of the pair (R108). -/
  | localMemory
  /-- Uncorrectable ECC in the Instruction Store word fetched (R114). -/
  | instructionStore
  deriving DecidableEq, Repr

/-- An admin command record (R410). -/
structure CmdRec where
  /-- TAG, returned in the completion (R410). -/
  tag : Nat
  /-- RESULT_PTR, or 0. -/
  resultPtr : Nat
  /-- The 7 reserved bytes after OPCODE. -/
  reserved : List Byte
  /-- The 104 bytes of ARGS. -/
  args : List Byte
  deriving DecidableEq, Repr

/-- A pair of which an instruction is asked, with what strikes it while the instruction runs. -/
structure WickOp where
  w : WickRef
  us : List Upset
  deriving DecidableEq, Repr

/-- A frame of 280 wire bytes as it leaves the receiver's RX stage (R298). -/
abbrev Frame := List Byte

/-- A partner's HELLO (R316). -/
structure Hello where
  /-- The partner's position c0..c3. -/
  pos : List Nat
  /-- The lowest rate code each side allows as its maximum: 0 = 224, 1 = 112, 2 = 56 Gb/s. -/
  rateMax : Nat
  sealCapable : Bool
  sealRequire : Bool
  deriving DecidableEq, Repr

/-- A partner's second message (R316, R317): its Daymark certificate chain, and an initiator's ML-KEM encapsulation key when sealing. -/
structure ChainMsg where
  chain : List Byte
  kem : List Byte
  deriving DecidableEq, Repr

/-- The reply of a member to PREPARE (R344). -/
structure PrepareReply where
  rank : Nat
  bank : Nat
  imageHash : List Byte
  fq : Nat
  mooringReady : Bool
  mooringRoot : List Byte
  servoLocked : Bool
  activeDomain : Nat
  grandmaster : Nat
  strict : Bool
  switchTicks : Nat
  pending : Nat
  /-- R264: the logical links of the bank's schedule that are down at the member. -/
  linksDown : List Nat
  /-- The code with which the member cannot launch: 0x1030 (R227), 0x1041 and the other codes of R236, 0x1009 (R144); else 0. -/
  refused : Nat
  deriving DecidableEq, Repr

/-- What PREPARE carries (R344, R409): the job record and its lists; the largest F_q that the head Keeper knows (R227), and the links it
knows to be down, by rank and logical link (R264). -/
structure PrepareMsg where
  record : List Byte
  patches : List Byte
  buffers : List Byte
  fq : Nat
  down : List (Nat × Nat)
  deriving DecidableEq, Repr

/-- The strap pins (R493, R494), read as the coordinates c0..c3 and POS_PAR. -/
structure Straps where
  d0 : Fin 32
  d1 : Fin 32
  d2 : Fin 32
  d3 : Fin 32
  par : Bool
  /-- R327: the Keeper's boot setting CLOCK_MODE, which a cold reset takes with the straps: forwarded mode. -/
  clockMode : Bool
  deriving DecidableEq, Repr

/-- A signed firmware bundle or Relight copy as it stands in flash (R420, R423, R440): the manifest's fields, its
components and what a check of it needs. The spec gives the manifest no byte layout. -/
structure Bundle where
  /-- An erased or absent region. -/
  present : Bool
  keyslot : Nat
  svn : Nat
  fwSet : Nat
  /-- SHA3-256 digests that the manifest lists, one per component. -/
  digests : List (List Byte)
  /-- The components' bytes. -/
  components : List (List Byte)
  /-- REVOKE, 4 bits. -/
  revoke : Nat
  /-- RAISE_SVN. -/
  raiseSvn : Option Nat
  settingsFormat : Nat
  settingsFrom : Nat
  /-- PCI device ID the bundle is for (R440, R443). -/
  deviceId : Nat
  /-- Carries Relight (R440). -/
  hasRelight : Bool
  /-- Relight carried by the bundle, as one component. -/
  relight : List Byte
  /-- Berwamen debug keys the manifest lists (R436). -/
  debugKeys : List (List Byte)
  /-- The public key that travels with the object. -/
  key : List Byte
  /-- The manifest's bytes, over which the signature runs. -/
  manifest : List Byte
  signature : List Byte
  deriving DecidableEq, Repr

/-- R496: a reset pin that is released: PERST# or WARM_RESET#, and the size of BAR2 that the system software then assigns (R397),
2^(30 + bar2) bytes. -/
structure PinRelease where
  perst : Bool
  bar2 : Fin 9
  deriving DecidableEq, Repr

/-- A JTAG TAP operation (R436, R499). -/
inductive JtagOp where
  | idcode
  | bypass
  /-- SAMPLE, PRELOAD or EXTEST under scope BSCAN. -/
  | sample
  | preload
  | extest
  /-- A debug-module access under scope ENGINE: halt or read out an engine. -/
  | engineHalt (g : Eng)
  | engineState (g : Eng)
  /-- The Keeper cores' debug module, scope KEEPER. -/
  | keeper
  deriving DecidableEq, Repr

/-- One command of the S9: one constructor per row of spec/opcode_table.json, in the table's order. -/
inductive Instr where
  -- engine issue
  | nop (g : Eng)
  | matmul (g : Eng) (us : List Upset)
  | matmulChain (g : Eng) (us : List Upset)
  | accDrain (g : Eng) (us : List Upset)
  | copy (g : Eng) (us : List Upset)
  | gather (g : Eng) (us : List Upset)
  | scatter (g : Eng) (us : List Upset)
  | fill (g : Eng) (us : List Upset)
  | kernel (g : Eng) (us : List Upset)
  | reduceScalar (g : Eng) (us : List Upset)
  | send (g : Eng) (us : List Upset)
  | recv (g : Eng) (us : List Upset)
  | branch (g : Eng)
  | loopback (g : Eng)
  | setparam (g : Eng)
  | waitWatch (g : Eng)
  | waitWatchTarget (g : Eng)
  | stepEnd (g : Eng)
  | fork (g : Eng)
  | tallyVerify (g : Eng) (us : List Upset)
  | tap (g : Eng) (us : List Upset)
  | halt (g : Eng)
  | descriptorFetch (g : Eng) (us : List Upset)
  | descriptorComplete (g : Eng)
  | fifoPush (g : Eng) (us : List Upset)
  | fifoPop (g : Eng) (us : List Upset)
  -- Wick pair
  | wickInstruction (w : WickRef) (fetch : List Upset) (core0 core1 : Bool) (us : List Upset)
  | tlyRed (o : WickOp) (rd rs1 : Fin 32)
  | tlyAdd (o : WickOp) (rd rs1 rs2 : Fin 32)
  | tlyMul (o : WickOp) (rd rs1 rs2 : Fin 32)
  | tlySh (o : WickOp) (rd rs1 rs2 : Fin 32)
  | tlyTile (w : WickRef) (rd rs1 : Fin 32) (us : List Upset)
  | tlyChk (w : WickRef) (rd rs1 : Fin 32) (us : List Upset)
  | tlyBeta (w : WickRef) (rd rs1 rs2 rs3 : Fin 32) (us : List Upset)
  | crvEv (o : WickOp) (vd vs2 rs1 : Fin 32)
  | rngU32 (o : WickOp) (vd rs1 rs2 : Fin 32)
  | rngF32 (o : WickOp) (vd rs1 rs2 : Fin 32)
  | redMax (o : WickOp) (rd vs2 : Fin 32)
  | redMin (o : WickOp) (rd vs2 : Fin 32)
  | redAmax (o : WickOp) (rd vs2 rs1 : Fin 32)
  | redAmin (o : WickOp) (rd vs2 rs1 : Fin 32)
  | redSum (o : WickOp) (rd vs2 : Fin 32)
  | cvtIn (o : WickOp) (vd vs2 rs1 : Fin 32)
  | cvtOut (o : WickOp) (vd vs2 rs1 : Fin 32)
  | cvtMxs (o : WickOp) (rd vs2 rs1 : Fin 32)
  | ecall (w : WickRef) (us : List Upset)
  | pushStore (o : WickOp) (addr : Nat) (data : List Byte) (vector : Bool)
  | pushQueueRoom (w : WickRef)
  -- self-test, power gating
  | spareKatTimer (unit : UnitRef)
  | spareKatComplete (unit : UnitRef) (pass : Bool)
  | katStart (unit : UnitRef)
  | faultKatComplete (unit : UnitRef) (pass : Bool)
  | engineWakeDone (unit : UnitRef)
  | powerGateDelayExpiry (unit : UnitRef)
  -- steps
  | stepBoundary
  | stepCommit (us : List Upset)
  | checkpointCopyDone
  | deadlockWatchdog (g : Eng)
  -- memory upkeep
  | sramScrubRead (st : Fin 16) (us : List Upset)
  | scrubWriteback (st : Fin 16)
  | scrubPeriodEnd (st : Fin 16)
  | dramPatrolRead (ch : Fin 256) (us : List Upset)
  | dramRefresh (ch : Fin 256)
  | dramTemperatureRead (group : Fin 16) (celsius : Nat)
  -- faults and replay
  | faultReport
  | rollbackComplete (us : List Upset)
  | replayOrigin
  -- fabric
  | flashStart (l : LinkNo)
  | departureBufferFetch (st : Fin 16) (us : List Upset)
  | departureDeadline (st : Fin 16)
  | scheduledFrameRx (l : LinkNo) (f : Frame)
  | flitRelease (st : Fin 16)
  | recvFlit (st : Fin 16) (us : List Upset)
  | bulkFrameRx (l : LinkNo) (f : Frame)
  | bulkForward (l : LinkNo)
  | controlFrameRx (l : LinkNo) (f : Frame)
  | linkFrameRx (l : LinkNo) (f : Frame)
  | trainFrameRx (l : LinkNo) (f : Frame)
  | linkHello (l : LinkNo) (h : Hello) (nonce : List Byte)
  | linkCertChain (l : LinkNo) (m : ChainMsg) (ownerCert : List Byte)
  | linkTranscriptSignature (l : LinkNo) (sigC sigZ sigH kem : List Byte)
  | delayMeasureDone (l : LinkNo) (ticks : Nat)
  | equaliseRateDone (l : LinkNo) (errors bits : Nat)
  | trainingTimeout (l : LinkNo)
  | linkDownRetry (l : LinkNo)
  | lossOfSignal (l : LinkNo)
  | resumeProof (l : LinkNo) (nonce proof : List Byte) (ticks : Nat)
  | ackTimeout (l : LinkNo)
  | graceExpiry (l : LinkNo)
  | unfence (l : LinkNo)
  | retrain (l : LinkNo)
  | cablePresentChange (conn : Fin 12) (present : Bool)
  -- partition
  | partitionForm (c : CmdRec) (record : List Byte)
  | formationReport (rank pid : Nat) (hash : List Byte)
  | formationTimeout
  | formedMessage
  | formationAbort
  | partitionDissolve (c : CmdRec)
  -- time
  | watchReferencePulse
  | domainTimeout (domB : Bool)
  | ppsInEdge
  | ppsTimeout
  | todMessageRx (msg : List Byte)
  | todTimeout
  | ppsOutPulse
  | ppsOutEnd
  | todTxSend
  | timeRevert
  | todSecWrite (value : Nat)
  -- jobs
  | jobRecord (q : Fin 64) (record : List Byte) (patches buffers : Option (List Byte))
  | jobDispatch
  | prepare (m : PrepareMsg)
  | prepareReply (r : PrepareReply)
  | switchComplete (us : List Upset)
  | launchWatch
  | leadingSet (c : CmdRec) (record : List Byte) (other : List Byte)
  | leadingClear (c : CmdRec)
  | leadingLaunchMessage (launch : Nat)
  | leadingEntriesRx (entries : List (List Byte))
  | divergenceMessage (entry theirs : List Byte)
  | drainComplete
  | ledgerSignComplete (signature : List Byte)
  | memberCertRx (rank : Nat) (cert : List Byte) (signature : List Byte)
  | certGatherTimeout
  | ledgerDeferredWrite
  -- host interface
  | sqTailDoorbell (q : Fin 65) (value : W32)
  | cqHeadDoorbell (q : Fin 65) (value : W32)
  | hostFlagDoorbell (i : Fin 64) (value : W32)
  | completionPost (q : Fin 65)
  | queueEnable (q : Fin 65) (value : W32)
  | queueDisable (q : Fin 65) (value : W32)
  | bar2Read (off len : Nat) (us : List Upset)
  | bar2Write (off : Nat) (data : List Byte) (us : List Upset)
  | registerWrite (addr size value : Nat)
  | hostDmaComplete (data : List Byte)
  | hostDmaTimeout
  -- admin commands
  | powerUp (c : CmdRec)
  | powerDown (c : CmdRec)
  | loadImage (c : CmdRec)
  | imageFetchComplete (bank : Fin 16) (image : Option (List Byte))
  | loadStrictRelease (bank : Fin 16)
  | releaseBank (c : CmdRec)
  | tensorAddr (c : CmdRec)
  | mooringOpen (c : CmdRec)
  | mooringSeal (c : CmdRec)
  | mooringVerifyComplete (m : Fin 64)
  | mooringRelease (c : CmdRec)
  | endJob (c : CmdRec)
  | endJobStepMessage (k : Nat)
  | resetWarm (c : CmdRec)
  | mctpCommand (record : List Byte) (attached : List Byte)
  -- attestation and ownership
  | spdmGetVersion
  | spdmGetCertificate (slot : Nat)
  | spdmChallenge (slot : Nat) (message : List Byte)
  | spdmGetMeasurements (index : Nat) (signed : Bool) (message : List Byte)
  | getNonce (request : List Byte) (random : List Byte)
  | nonceExpiry
  | enrol (request : List Byte)
  | addKey (request : List Byte)
  | revokeKey (request : List Byte)
  | setPolicy (request : List Byte)
  | setOwnerCert (request : List Byte)
  | lock (request : List Byte)
  | unlock (request : List Byte)
  | release (request : List Byte)
  | debugUnlock (request : List Byte)
  -- firmware update
  | requestUpdate (maxTransfer : Nat)
  | updateComponent (bundleSize : Nat)
  | firmwareDataResponse (ok : Bool) (data : List Byte)
  | firmwareDataTimeout
  | transferComplete (staged : Bundle)
  | flashWriteStepDone (readBackOk : Bool)
  | cancelUpdate
  | cancelUpdateComponent
  | activateFirmware
  | activateTimeout
  | healthConfirmed (passed : Bool)
  | trialTimeout
  | revertCopyDone
  -- power, reset, pins
  | powerApplied (straps : Straps)
  | warmResetPin (perst : Bool)
  | functionLevelReset
  | feedADrop (mvA mvB : Nat)
  | feedAReturn (mvA : Nat)
  | singleFeedEnter (mvA mvB : Nat)
  | singleFeedExit (mvA mvB : Nat)
  | powerFail (mvA mvB : Nat)
  | powerSample (watts : Nat)
  | temperatureSample (tj : Nat) (station : Fin 16) (td : Nat)
  | oppWrite (value : Nat)
  | droopDetect (st : Fin 16)
  | droopRelease (st : Fin 16)
  | stationPllLoss (st : Fin 16)
  | keeperCompareMismatch
  | detourLinkTest
  -- register actions
  | engineReset (g : Eng)
  | pageLock (page : PageNo)
  | eventClear (page : PageNo) (bits hwSet : W32)
  | eventSet (page : PageNo) (bits : W32)
  | eventEnableWrite (page : PageNo) (value : W32)
  | stationFreeze (st : Fin 16) (freeze : Bool)
  | engineResume (g : Eng)
  | paramWrite (st : Fin 16) (value : W64)
  | strictWrite (strict : Bool)
  | resetRelease (pin : PinRelease)
  | signalLock (l : LinkNo) (rate : Fin 3) (nonce : List Byte)
  | mooringVerifyResume (m : Fin 64)
  | lowWordRead (addr size : Nat)
  | smbusAlertResponse
  | jtagInstruction (op : JtagOp)
  | tapReset
  | rmaEntry
  deriving DecidableEq, Repr

end Sys2Proof
end

