-- ==== Sys2Proof/Decode.lean ====
section
/-! DEFINITION. The decoder of command words. spec/opcode_table.json gives its rows no bits: no word spells a command. The Xseltar
encodings of R94 are those of instructions that a Wick core fetches. -/

namespace Sys2Proof

/-- The command that a word spells by the bits of the table: none, since no row of the table has bits. -/
def decodeTableWord (_nbits _w : Nat) : Option Instr := none

/-- A register field of an instruction word, by its lowest bit. -/
def regField (n lo : Nat) : Fin 32 := Fin.ofNat 32 (n / 2 ^ lo)

/-- R94: the Xseltar instruction that a 32-bit word is, for the pair that fetched it: custom-0 holds the Tally forms, custom-1 the
vector forms. A word that R94 does not list is none of them. A register field that a form does not use is not looked at
(DEDUCED: R94 asks for a value only of tly.chk's rd; assumption 48). -/
def decodeXseltar (w : WickRef) (n : Nat) (us : List Upset) : Option Instr :=
  let rd := regField n 7
  let rs1 := regField n 15
  let rs2 := regField n 20
  let f7 := n / 2 ^ 25 % 128
  match n % 128, n / 2 ^ 12 % 8 with
  | 0x0B, 0 =>
    match f7 with
    | 0 => some (.tlyRed ⟨w, us⟩ rd rs1)
    | 1 => some (.tlyAdd ⟨w, us⟩ rd rs1 rs2)
    | 2 => some (.tlyMul ⟨w, us⟩ rd rs1 rs2)
    | 3 => some (.tlySh ⟨w, us⟩ rd rs1 rs2)
    | 4 => some (.tlyTile w rd rs1 us)
    | 5 => some (.tlyChk w rd rs1 us)
    | _ => none
  | 0x0B, 1 => if n / 2 ^ 25 % 4 = 0 then some (.tlyBeta w rd rs1 rs2 (regField n 27) us) else none
  | 0x2B, 0 => if f7 = 0 then some (.crvEv ⟨w, us⟩ rd rs2 rs1) else none
  | 0x2B, 1 => if f7 = 0 then some (.rngU32 ⟨w, us⟩ rd rs1 rs2) else if f7 = 1 then some (.rngF32 ⟨w, us⟩ rd rs1 rs2) else none
  | 0x2B, 2 =>
    match f7 with
    | 0 => some (.redMax ⟨w, us⟩ rd rs2)
    | 1 => some (.redMin ⟨w, us⟩ rd rs2)
    | 2 => some (.redAmax ⟨w, us⟩ rd rs2 rs1)
    | 3 => some (.redAmin ⟨w, us⟩ rd rs2 rs1)
    | 4 => some (.redSum ⟨w, us⟩ rd rs2)
    | _ => none
  | 0x2B, 3 =>
    match f7 with
    | 0 => some (.cvtIn ⟨w, us⟩ rd rs2 rs1)
    | 1 => some (.cvtOut ⟨w, us⟩ rd rs2 rs1)
    | 2 => some (.cvtMxs ⟨w, us⟩ rd rs2 rs1)
    | _ => none
  | _, _ => none

end Sys2Proof
end

