-- ==== Sys2Proof/Config.lean ====
section
/-! DEFINITION. What the spec leaves open: free values, and the cryptographic functions whose standards lie outside the spec.
Each is an opaque constant: nothing in the package can see its value. -/

namespace Sys2Proof.Config

/-- Free value number n of 64 bits: a result that the spec does not state (DESIGN CHOICE, assumption 2). -/
opaque freeValue : Nat → W64

/-- R433, R388: ML-DSA verification (public key, message, signature). The standard lies outside the spec (assumption 3). -/
opaque dsaVerify : List Byte → List Byte → List Byte → Bool

/-- ML-DSA signing by a module key: the key's name and the message. -/
opaque dsaSign : Nat → List Byte → List Byte

/-- R317: the AES-256-GCM keystream of a key and an IV, n bytes. The standard lies outside the spec. -/
opaque gcmStream : List Byte → List Byte → Nat → List Byte

/-- R317: the 16-byte AES-256-GCM tag of a key, IV, additional data and ciphertext. -/
opaque gcmTag : List Byte → List Byte → List Byte → List Byte → List Byte

/-- R317: ML-KEM-768, whose standard lies outside the spec: the encapsulation key of key pair n; the ciphertext and the shared secret
that encapsulation number n makes for a key; and the secret that key pair n takes from a ciphertext. -/
opaque kemPublic : Nat → List Byte
opaque kemEncaps : List Byte → Nat → List Byte
opaque kemSecret : List Byte → Nat → List Byte
opaque kemDecaps : Nat → List Byte → List Byte

/-- R316: the public key that a certificate chain certifies, when the chain leads to the Berwamen manufacturing CA. -/
opaque chainKey : List Byte → Option (List Byte)

/-- R438: an owner certificate binds this Daymark public key under an owner key. -/
opaque ownerCertOk : List Byte → List Byte → List Byte → Bool

/-- R424: the module's own Daymark public key, by key index. -/
opaque modulePublic : Nat → List Byte

/-- R499: the manufacturer field of IDCODE, 11 bits, which the spec does not give (assumption 2). -/
opaque manufacturer : Nat

/-- R435: the bytes of the mask ROM, which the spec does not give. -/
opaque maskRom : List Byte

end Sys2Proof.Config
end

