-- ==== Sys2Proof/Machine/EngineState.lean ====
section
/-! DEFINITION. The parts of the state that the Stations, their engines, the program banks and the recovery unit own
(R12, R16, R51, R80, R111 to R177, R183 to R195, R207 to R235, R351 to R365): plain data only. -/

namespace Sys2Proof.Machine

/-- A sparse table, sorted by key with no repeats; what an unlisted key holds is said where the table is read. -/
abbrev Tbl (α : Type) := List (Nat × α)

/-- Memory: address and byte pairs in one canonical form, addresses strictly rising and no byte 0 listed. -/
abbrev Mem := List Host.Cell

/-- R73: the four roles of a Lantern or Wick pair. -/
inductive Role where
  | dark | enabled | spare | test
  deriving DecidableEq, Repr

/-- R76, R461: how an idle unit is gated. -/
inductive Gate where
  | awake | clockGated | powerGated
  deriving DecidableEq, Repr

/-- What a Lantern and a Wick pair have in common as units (R73 to R76, R107): role, binding, gating and self-test. -/
structure UnitSt where
  role : Role
  /-- Logical number, when bound (R17). -/
  logical : Option Nat
  gate : Gate
  waking : Bool
  /-- A known-answer test is running: on a spare, or on a faulting unit during a hold. -/
  katRunning : Bool
  /-- The last completed test passed since power-up. -/
  katPassed : Bool
  katCount : Nat
  /-- Watch count from which the test interval runs (R74): the last test's start, or power-up. -/
  katAt : Nat
  /-- Watch count since which the unit has been idle. -/
  idleSince : Nat
  /-- A fault of this unit awaits the known-answer test of the hold (R71). -/
  suspect : Bool
  deriving DecidableEq, Repr

/-- R51: an OPEN accumulator set. -/
structure AccSet where
  /-- Slot count (R37). -/
  slots : Nat
  tile : Nat
  mUsed : Nat
  nUsed : Nat
  /-- Check group code g; G = 32 × 2^g (R63). -/
  g : Nat
  /-- Column of B at which the tile's first group starts (R60). -/
  col0 : Nat
  /-- The accumulators N, row-major (R36). -/
  acc : List Int
  /-- Side flags, row-major: bit 0 NAN, bit 1 PINF, bit 2 NINF (R40). -/
  flags : List Nat
  /-- Right-hand residues, per row and group (R66). -/
  right : List Nat
  deriving DecidableEq, Repr

/-- A physical Lantern. -/
structure Lantern where
  unit : UnitSt
  set : Option AccSet
  deriving DecidableEq, Repr

/-- A kernel resident in a pair's code region (R89): the SRAM address and length it was copied from. -/
structure Resident where
  addr : Nat
  len : Nat
  /-- Where it stands in the code region. -/
  at_ : Nat
  deriving DecidableEq, Repr

/-- A physical Wick pair (R80 to R96). Its scalar registers xss0 to xss15 are the engine's (R94). -/
structure Wick where
  unit : UnitSt
  /-- Integer registers x1 to x31; unlisted 0. -/
  x : Tbl W64
  f : Tbl W64
  v : Tbl W512
  pc : W64
  vl : Nat
  vtype : W64
  vstart : Nat
  /-- fflags in bits [4:0] and frm in bits [7:5]. -/
  fcsr : W64
  vxrm : Nat
  vxsat : Bool
  /-- The reservation of a load-reserved: address and length. -/
  resv : Option (Nat × Nat)
  xsseed : W64
  /-- Local memory, 128 KiB (R85). -/
  lmem : Mem
  /-- Kernels in the code region, most recently used first. -/
  resident : List Resident
  /-- Curve memory: the declared tables of the bank (R96), each 4,112 bytes. -/
  curves : Tbl (List Byte)
  /-- A kernel invocation is running (IN_KERNEL), in user mode; otherwise the runtime runs, in machine mode (R80). -/
  inKernel : Bool
  /-- Flat invocation index (xsinv). -/
  inv : Nat
  /-- R93: the verified set of at most 64 tiles (SRAM tile numbers), newest first. -/
  verified : List Nat
  /-- R93: the dirty set of at most 256 tiles. -/
  dirty : List Nat
  /-- R103: a push store that waits for room: target engine and descriptor. -/
  stalled : Option (Eng × List Byte)
  /-- R108: 0x2073 raised in this step. -/
  localFault : Bool
  deriving DecidableEq, Repr

/-- R166: loop state of one nesting depth. -/
structure LoopSt where
  active : Bool
  remaining : Nat
  deriving DecidableEq, Repr

/-- A registration with a scoreboard entry (R158): its key, whether as writer, and the turn entry used. -/
structure SbReg where
  key : Nat
  writer : Bool
  turn : Nat
  deriving DecidableEq, Repr

/-- A descriptor latched at issue (R115, R141). -/
structure Latched where
  pos : Nat
  pushed : Bool
  /-- W0 to W15, with substituted counts in place. -/
  w : List Nat
  /-- Handle indices A, B, C, D, with substitution in place. -/
  h : List Nat
  /-- Byte offsets of A, B, C, D. -/
  off : List Int
  /-- P0 to P63 as latched (R89). -/
  p : Tbl W64
  sb : List SbReg
  /-- Next segment to run; a segment pops and pushes at most one entry of each FIFO (R134). -/
  seg : Nat
  nseg : Nat
  /-- What the descriptor waits on: none, 1 an empty FIFO, 2 a full FIFO. -/
  blocked : Nat
  /-- Every byte and Tally is written; completion is due. -/
  done : Bool
  /-- WAIT_WATCH target, in ticks (R122). -/
  target : Nat
  /-- Flits sent or received, and the running transfer Tally, of a SEND or RECV (R282 to R284). -/
  flits : Nat
  tally : Nat
  /-- Scalar registers to write at completion (R101). -/
  res : List (Nat × W64)
  deriving DecidableEq, Repr

/-- A Command Stream engine, by Station and engine index e (R16, R177). -/
structure Engine where
  /-- Has a stream in the bound variant. -/
  present : Bool
  pushed : Bool
  /-- Stream Position (R112). -/
  pos : Nat
  /-- Prefetch buffer of at most 8 descriptors, with their positions (R114). -/
  prefetch : List (Nat × List Byte)
  p : Tbl W64
  s : Tbl W64
  loops : Tbl LoopSt
  /-- Issues of each position in the current step (R160). -/
  issues : Tbl Nat
  cur : Option Latched
  halted : Bool
  /-- STEP_END or FORK issued in this step. -/
  stepEnded : Bool
  forkId : Option Nat
  /-- Stopped at a fault. -/
  stopped : Bool
  /-- Stopped at a break: the slots that caused it (R172). -/
  atBreak : Option Nat
  /-- RESUME was written: the next issue does not test the breaks (R173). -/
  resumed : Bool
  /-- What the engine waits on before issue: WAIT_KIND of STN_ENG_STATE, and the flag or handle. -/
  waiting : Option (Nat × Nat)
  /-- R103: push queue of at most 8 descriptors. -/
  queue : List (List Byte)
  /-- Watch count of the last issue or completion. -/
  lastAct : Nat
  /-- R175: Watch count from which the watchdog's count runs: the last issue or completion, moved on by every suspension since. -/
  wdFrom : Nat
  deriving DecidableEq, Repr

/-- R126: a handle, relocated. -/
structure Handle where
  space : Nat
  fmt : Nat
  blk16 : Bool
  ndim : Nat
  blockdim : Nat
  alias_ : Nat
  base : Nat
  aux : Nat
  tally : Nat
  /-- BOUND0 to BOUND5, as stored (extent minus 1). -/
  bound : List Nat
  /-- PITCH0 to PITCH4, as stored. -/
  pitch : List Nat
  deriving DecidableEq, Repr

/-- R132: head and tail pointers of a stream FIFO, counted in entries. -/
structure Fifo where
  head : Nat
  tail : Nat
  deriving DecidableEq, Repr

/-- R158: a scoreboard entry. -/
structure SbEntry where
  writers : Nat
  readers : Nat
  turn : Nat
  count : Nat
  deriving DecidableEq, Repr

/-- The scrubber of a Station (R184). -/
structure Scrub where
  /-- Corrected lines waiting for an idle clock: line address and the address of the word. -/
  pending : List Nat
  /-- Lines of the present pass still unread, and the next line that the pass reads. -/
  left : Nat
  line : Nat
  /-- Corrections per bank in this period. -/
  perBank : Tbl Nat
  deriving DecidableEq, Repr

/-- A physical Station. -/
structure Station where
  /-- The whole Station is dark (R363). -/
  dark : Bool
  /-- Station flags; unlisted 0 (R150). -/
  flags : Tbl Nat
  /-- The Handle Table; unlisted entries are undefined (R125). -/
  handles : Tbl Handle
  fifos : Tbl Fifo
  /-- A break with FREEZE_ON_BREAK froze the Station (R173). -/
  frozen : Bool
  /-- R175: Watch count at which the pause of the watchdog counts began, while one lasts. -/
  pausedAt : Option Nat
  scrub : Scrub
  /-- Watch counts at which the Gallery router raised 0x2050 (R363). -/
  gallery : List Nat
  /-- Packets that the Gallery router corrected in flight (R19). -/
  galCorrected : Nat
  deriving DecidableEq, Repr

/-- R209: bank states. -/
inductive BankSt where
  | free | loading | loaded | stale
  deriving DecidableEq, Repr

/-- R144, R214: a parameter declaration. -/
structure ParamDecl where
  init : Int
  min : Int
  max : Int
  kind : Nat
  tensor : Nat
  deriving DecidableEq, Repr

/-- R214: a stream entry. -/
structure StreamEnt where
  first : Nat
  present : Bool
  pushed : Bool
  count : Nat
  deriving DecidableEq, Repr

/-- R213: a tensor record. -/
structure Tensor where
  id : Nat
  lst : Nat
  cls : Nat
  size : Nat
  align : Nat
  tgcode : Nat
  moff : Nat
  deriving DecidableEq, Repr

/-- R214: a variant of a logical Station. -/
structure Variant where
  lst : Nat
  lanterns : Nat
  wicks : Nat
  ndesc : Nat
  nhandles : Nat
  nseg : Nat
  /-- Descriptors, 64 bytes each. -/
  descs : List (List Byte)
  streams : List StreamEnt
  /-- Handle i + 1 as its 32 bytes and its relocation word. -/
  handles : List (List Byte × Nat)
  /-- Four turn entries per descriptor. -/
  turns : List (List Nat)
  params : List ParamDecl
  segs : List (List Nat)
  deriving DecidableEq, Repr

/-- R218: a step record. -/
structure StepRec where
  period : Nat
  fabric : Nat
  base : Nat
  pairs : List (Nat × Nat)
  deriving DecidableEq, Repr

/-- R220: a fork table entry. -/
structure ForkEnt where
  id : Nat
  defseg : Nat
  keys : List (Nat × Nat)
  deriving DecidableEq, Repr

/-- R219: a weight block. -/
structure Block where
  leaf : List Byte
  lst : Nat
  len : Nat
  moff : Nat
  deriving DecidableEq, Repr

/-- R275: a departure, receive or Bulk Phrase, or any other fixed-size schedule record, as its bytes with the kind. -/
structure SchedRec where
  kind : Nat
  bytes : List Byte
  deriving DecidableEq, Repr

/-- A verified image in the Keeper's terms (R210 to R221). -/
structure Image where
  replay : Bool
  stretchOk : Bool
  stretchMax : Nat
  fenv : Nat
  chips : Nat
  nsteps : Nat
  lantMin : Nat
  lantMax : Nat
  wickMin : Nat
  wickMax : Nat
  nstations : Nat
  tensors : List Tensor
  variants : List Variant
  /-- SLOT and its targets (logical Station, engine, register). -/
  patches : List (Nat × List (Nat × Nat × Nat))
  /-- Initial Station flags per logical Station, and chip flags. -/
  flags : List (List Nat)
  chipFlags : List Nat
  hostMask : Nat
  envelope : List (Nat × Nat)
  steps : List StepRec
  root : List Byte
  blockLog2 : Nat
  blocks : List Block
  forks : List ForkEnt
  curves : List (List Byte)
  checkpoint : List Nat
  /-- The SCHEDULE and DETOURS sections' bytes, or none. -/
  schedule : Option (List Byte)
  detours : List Byte
  ndetours : Nat
  deriving DecidableEq, Repr

/-- A tensor's placement (R232, R235). -/
structure Placed where
  id : Nat
  copy : Nat
  space : Nat
  addr : Nat
  size : Nat
  deriving DecidableEq, Repr

/-- What placement binds for one logical Station (R229 to R235). -/
structure PlacedSt where
  phys : Nat
  variant : Nat
  lanterns : Nat
  wicks : Nat
  lantMap : List Nat
  wickMap : List Nat
  tensors : List Placed
  deriving DecidableEq, Repr

/-- A placement of a bank (R228, R235). -/
structure Placement where
  stations : List PlacedSt
  jobArea : Nat
  jobAreaLen : Nat
  moorBase : Nat
  fwSet : Nat
  stepping : Nat
  darkHash : List Byte
  sectorHash : List Byte
  deriving DecidableEq, Repr

/-- A program bank (R111, R209). -/
structure Bank where
  st : BankSt
  /-- The image copy in the Keeper's DRAM region. -/
  bytes : List Byte
  hash : List Byte
  img : Option Image
  fq : Nat
  placement : Option Placement
  /-- The descriptors stand in the Instruction Store (R238). -/
  installed : Bool
  /-- First descriptor slot of the bank in the store of each physical Station. -/
  istoreBase : List Nat
  /-- The load that is in progress: the image's host address. -/
  hostPtr : Nat
  /-- Held at step 2 under Strict Timing (R208). -/
  strictHeld : Bool
  /-- Dark map changed while placing (R242). -/
  staleOnLoad : Bool
  /-- Largest bound of R361. -/
  bound : Nat
  /-- R227: the code of the load that last failed in this bank, or 0. -/
  failed : Nat
  deriving DecidableEq, Repr

/-- R194: Mooring states. -/
inductive MoorSt where
  | empty | filling | verifying | ready | failed
  deriving DecidableEq, Repr

/-- A Mooring (R193, R194). -/
structure Mooring where
  st : MoorSt
  /-- Offset and length of its extent in every Station's DRAM. -/
  off : Nat
  len : Nat
  /-- The image whose manifest it holds, as the bank named at MOORING_OPEN had it, and the physical Station of each logical one. -/
  img : Option Image
  phys : List Nat
  /-- The verification is held under Strict Timing (R410). -/
  strictHeld : Bool
  deriving DecidableEq, Repr

/-- Where a fault was found: the physical unit, when it has one. -/
inductive FaultAt where
  | chip
  | eng (g : Eng)
  | unit (u : UnitRef)
  | link (l : LinkNo)
  deriving DecidableEq, Repr

/-- A detected fault that waits for its report to the hold unit (R355). -/
structure FaultRec where
  code : Nat
  step : Nat
  at_ : FaultAt
  /-- The failing tile to repair (R188): space 0 SRAM, 1 DRAM, 2 Instruction Store, and its byte address. -/
  tile : Option (Nat × Nat)
  deriving DecidableEq, Repr

/-- A hold (R355): HOLD_STEP, HOLD_CAUSE and HOLD_RANK. -/
structure Hold where
  step : Nat
  cause : Nat
  rank : Nat
  deriving DecidableEq, Repr

/-- The register part of the checkpoint set for one stream (R351). -/
structure CkEng where
  p : Tbl W64
  s : Tbl W64
  pos : Nat
  loops : Tbl LoopSt
  halted : Bool
  deriving DecidableEq, Repr

/-- The register part for one Station (R351). -/
structure CkStation where
  flags : Tbl Nat
  fifos : Tbl Fifo
  deriving DecidableEq, Repr

/-- One slot of the register part (R351). -/
structure CkSlot where
  step : Nat
  /-- The step record that the step runs (R274), and S(k) in 1/1,024 tick. -/
  rec_ : Nat
  start : Nat
  engs : Tbl CkEng
  stations : Tbl CkStation
  chipFlags : Tbl Nat
  sb : Tbl SbEntry
  /-- Doorbell increments applied since S(k). -/
  hostInc : Tbl Nat
  deriving DecidableEq, Repr

/-- The hold unit and the Keeper's recovery state (R355 to R365). -/
structure Recov where
  /-- Detected faults that are not yet reported, oldest first. -/
  faults : List FaultRec
  /-- Holds raised or received since the last origin, oldest first. -/
  holds : List Hold
  /-- Earliest step named: the target step j. -/
  target : Option Nat
  /-- Holds to send in the next reserved Flash of every member link, oldest first, with the links on which each still has to go
  out. -/
  sends : List (Hold × List Nat)
  /-- Primaries are being restored from the second copies. -/
  restoring : Bool
  /-- The rollback to the target is complete. -/
  rolledBack : Bool
  /-- The replay origin O_r. -/
  origin : Option Nat
  /-- Steps whose replay has begun and not committed. -/
  replaying : List Nat
  /-- Watch counts at which replays began in the last second. -/
  begun : List Nat
  /-- HELD without replay: the original cause (R365). -/
  noReplay : Option Nat
  /-- The terminal cause of FAULTED (R364). -/
  terminal : Option (Nat × Nat)
  /-- Steps committed: C(k) has been reached for every k below this. -/
  committed : Nat
  /-- The checkpoint copier runs for the commit of this step (R352). -/
  copying : Option Nat
  /-- R77: the units of every swap in this step, the one that went dark and its spare. -/
  swapped : List UnitRef
  /-- R366: the Watch count of the last detour link test, or of L. -/
  linkTestAt : Nat
  deriving DecidableEq, Repr

/-- What the job in force fixes for the engines (R112, R122, R169, R171, R226, R274, R344). -/
structure Run where
  /-- The bank that is current for all streams, and the Mooring bound in SRAM. -/
  bank : Nat
  mooring : Option Nat
  /-- The bank and Mooring of the previous launch, when they still stand in the Stations (R238). -/
  bound : Option (Nat × Option Nat)
  /-- The launch Watch count L, in 1/1,024 tick (R122, R359). -/
  l1024 : Nat
  /-- F_q of the partition (R227). -/
  fq : Nat
  /-- Step number k, its step record, and S(k) in 1/1,024 tick (R169, R274). -/
  step : Nat
  rec_ : Nat
  start : Nat
  /-- Steps are replayed: the image, the job record and the register allow it (R365). -/
  replay : Bool
  /-- The FORK reached in this step, and the value v taken or received for it (R171). -/
  forkId : Option Nat
  forkValue : Option Nat
  /-- Declared host buffers in SRAM: address and length (R24). -/
  hostBufs : List (Nat × Nat)
  /-- END_JOB: no stream is released from this boundary on (R411). -/
  endStep : Option Nat
  /-- GEN of the partition grid (R312). -/
  gen : Nat
  /-- Watch count at which the partition grid started (R267), in 1/1,024 tick. -/
  grid : Nat
  /-- Leading entries of the running step, oldest first (R369). -/
  leadLog : List (List Byte)
  deriving DecidableEq, Repr

/-- What the Keeper counts and logs for the Ledger while a job runs (R381 to R385). -/
structure Led where
  /-- R385: twelve counts, performed and failed by turns. -/
  checks : Tbl Nat
  /-- Event entries of 32 bytes, oldest first (R383). -/
  events : List (List Byte)
  eventsLost : Nat
  /-- TAP entries of 48 bytes, oldest first (R384). -/
  taps : List (List Byte)
  tapsLost : Nat
  /-- PRT_LATE_RELEASES increments of the job (R385). -/
  late : Nat
  /-- A doorbell was applied during the job (R381, HOST_FED). -/
  hostFed : Bool
  deriving DecidableEq, Repr

end Sys2Proof.Machine
end

