-- ==== Sys2Proof/Machine/Bits.lean ====
section
/-! DEFINITION. Bit fields, little-endian bytes (R8), sparse tables and byte memory: the helpers every meaning uses. -/

namespace Sys2Proof.Machine

/-- Bits [hi:lo] of a word. -/
def bits (w hi lo : Nat) : Nat := w / 2 ^ lo % 2 ^ (hi + 1 - lo)

/-- Bit `i` of a word. -/
def bitAt (w i : Nat) : Bool := w / 2 ^ i % 2 == 1

/-- `w` with bits [hi:lo] replaced by the low bits of `v`. -/
def setBits (w hi lo v : Nat) : Nat :=
  w / 2 ^ (hi + 1) * 2 ^ (hi + 1) + v % 2 ^ (hi + 1 - lo) * 2 ^ lo + w % 2 ^ lo

/-- `w` with bit `i` set. -/
def orBit (w i : Nat) : Nat := if bitAt w i then w else w + 2 ^ i

/-- A Bool as 0 or 1. -/
def b2n (b : Bool) : Nat := if b then 1 else 0

/-- Ceiling of a / b. -/
def ceilDiv (a b : Nat) : Nat := (a + b - 1) / b

/-- `a` rounded up to a multiple of `b`. -/
def roundUp (a b : Nat) : Nat := ceilDiv a b * b

/-- R8: the value of little-endian bytes. -/
def leNat : List Byte → Nat
  | [] => 0
  | b :: bs => b.toNat + 256 * leNat bs

/-- R8: `n` little-endian bytes of a value. -/
def leBytes : Nat → Nat → List Byte
  | 0, _ => []
  | n + 1, v => BitVec.ofNat 8 v :: leBytes n (v / 256)

/-- `n` bytes of a list from offset `o`; bytes past the end read 0. -/
def slice (bs : List Byte) (o n : Nat) : List Byte :=
  let r := (bs.drop o).take n
  r ++ List.replicate (n - r.length) 0

/-- A little-endian field of `n` bytes at offset `o`. -/
def field (bs : List Byte) (o n : Nat) : Nat := leNat (slice bs o n)

/-- The same read as two's complement. -/
def fieldInt (bs : List Byte) (o n : Nat) : Int :=
  let v := field bs o n
  if v < 2 ^ (8 * n - 1) then (v : Int) else (v : Int) - 2 ^ (8 * n)

/-- The low `n` bits of an integer, as two's complement. -/
def wrapInt (n : Nat) (v : Int) : Nat := (v % 2 ^ n).toNat

/-- A word of `n` bits read as signed. -/
def signed (n w : Nat) : Int := if w < 2 ^ (n - 1) then (w : Int) else (w : Int) - 2 ^ n

/-- All bytes zero. -/
def zeroBytes (bs : List Byte) : Bool := bs.all (· == 0)

/-- Saturating 32-bit increment (the counters of R204, R206, R79, R110). -/
def satInc (v : Nat) : Nat := if v < 0xFFFFFFFF then v + 1 else 0xFFFFFFFF

/-- The entry of a table, or `d` where none is listed. -/
def tget {α : Type} (d : α) : Tbl α → Nat → α
  | [], _ => d
  | (j, v) :: t, k => if j = k then v else tget d t k

/-- The entry of a table, if listed. -/
def tget? {α : Type} : Tbl α → Nat → Option α
  | [], _ => none
  | (j, v) :: t, k => if j = k then some v else tget? t k

/-- A table with key `k` set to `v`, keys kept rising. -/
def tput {α : Type} : Tbl α → Nat → α → Tbl α
  | [], k, v => [(k, v)]
  | (j, w) :: t, k, v =>
    if k < j then (k, v) :: (j, w) :: t
    else if j = k then (k, v) :: t
    else (j, w) :: tput t k v

/-- A table without key `k`. -/
def terase {α : Type} : Tbl α → Nat → Tbl α
  | [], _ => []
  | (j, w) :: t, k => if j = k then terase t k else (j, w) :: terase t k

/-- A table of numbers with an unlisted key worth 0. -/
def nget (t : Tbl Nat) (k : Nat) : Nat := tget 0 t k

/-- Every entry of a table mapped. -/
def tmap {α : Type} (f : Nat → α → α) : Tbl α → Tbl α
  | [] => []
  | (j, v) :: t => (j, f j v) :: tmap f t

/-- The byte at an address; an unlisted byte reads 0 (DESIGN CHOICE, assumption 4). -/
def rd : Mem → Nat → Byte
  | [], _ => 0
  | (j, v) :: m, a => if j = a then v else rd m a

/-- Writing one byte keeps the canonical form: writing 0 removes the entry. -/
def wr : Mem → Nat → Byte → Mem
  | [], a, b => if b = 0 then [] else [(a, b)]
  | (j, v) :: m, a, b =>
    if a < j then (if b = 0 then (j, v) :: m else (a, b) :: (j, v) :: m)
    else if j = a then (if b = 0 then m else (a, b) :: m)
    else (j, v) :: wr m a b

/-- `n` bytes from an address. -/
def rdN (m : Mem) (a : Nat) : Nat → List Byte
  | 0 => []
  | n + 1 => rd m a :: rdN m (a + 1) n

/-- Bytes written from an address upward. -/
def wrN (m : Mem) (a : Nat) : List Byte → Mem
  | [] => m
  | b :: bs => wrN (wr m a b) (a + 1) bs

/-- The canonical form of a memory: addresses strictly rising from `lo`, no byte 0 listed. -/
def Mem.wfFrom : Nat → Mem → Bool
  | _, [] => true
  | lo, (a, b) :: m => decide (lo ≤ a) && (b != 0) && Mem.wfFrom (a + 1) m

/-- The canonical form. -/
def Mem.wf (m : Mem) : Bool := Mem.wfFrom 0 m

/-- An element of a list of numbers, 0 past its end. -/
def nth (l : List Nat) (i : Nat) : Nat := l.getD i 0

/-- A fixed number of applications, with the index passed. -/
def iterN {α : Type} (f : Nat → α → α) : Nat → Nat → α → α
  | 0, _, a => a
  | n + 1, i, a => iterN f n (i + 1) (f i a)

/-- The first number below `n` (from `i`) that satisfies `p`. -/
def findNat (p : Nat → Bool) : Nat → Nat → Option Nat
  | 0, _ => none
  | n + 1, i => if p i then some i else findNat p n (i + 1)

/-- A list without repeats, first occurrences kept. -/
def nub : List Nat → List Nat
  | [] => []
  | x :: xs => x :: (nub xs).filter (· != x)

end Sys2Proof.Machine
end

