-- ==== Sys2Proof/Machine/Formats.lean ====
section
/-! DEFINITION. Number formats (R26 to R46, R503): exact decoding, rounding once, MX scales, and the FP32 arithmetic that
the Wick pair's fixed-order instructions use (R97, R99). -/

namespace Sys2Proof.Machine

/-- An exact value: NaN, an infinity, or m × 2^e. -/
inductive Num where
  | nan
  | inf (neg : Bool)
  | fin (m : Int) (e : Int)
  deriving DecidableEq, Repr

/-- Special values of a floating-point format (R29). -/
inductive Special where
  /-- Infinity and NaN at the top exponent. -/
  | ieee
  /-- FP8 E4M3: NaN at S.1111.111 only. -/
  | e4m3
  /-- Every encoding is finite. -/
  | none
  deriving DecidableEq, Repr

/-- R29: exponent bits, mantissa bits, bias and special values. -/
structure FpFmt where
  ex : Nat
  ma : Nat
  bias : Nat
  sp : Special
  deriving DecidableEq, Repr

/-- R29: the floating-point formats, by format code. -/
def fpFmt : Nat → Option FpFmt
  | 0 => some ⟨8, 23, 127, .ieee⟩
  | 1 => some ⟨8, 7, 127, .ieee⟩
  | 2 => some ⟨5, 10, 15, .ieee⟩
  | 3 => some ⟨4, 3, 7, .e4m3⟩
  | 4 => some ⟨5, 2, 15, .ieee⟩
  | 5 => some ⟨3, 2, 3, .none⟩
  | 6 => some ⟨2, 3, 1, .none⟩
  | 7 => some ⟨2, 1, 1, .none⟩
  | _ => none

/-- R26: element bits of a format code. -/
def elemBits (fmt : Nat) : Nat :=
  nth [32, 16, 16, 8, 8, 6, 6, 4, 8, 4, 8, 8, 6, 6, 4, 8, 4, 8] fmt

/-- R26: MX format codes. -/
def isMx (fmt : Nat) : Bool := 0x0A ≤ fmt && fmt ≤ 0x0F

/-- The element format of an MX code (R32); other codes are their own. -/
def baseFmt (fmt : Nat) : Nat :=
  if fmt = 0x0A then 3 else if fmt = 0x0B then 4 else if fmt = 0x0C then 5 else if fmt = 0x0D then 6
  else if fmt = 0x0E then 7 else if fmt = 0x0F then 8 else fmt

/-- 2^k as an integer, for k ≥ 0. -/
def pow2 (k : Int) : Int := 2 ^ k.toNat

/-- R29, R30: exact value of a floating-point encoding. -/
def decodeFp (f : FpFmt) (c : Nat) : Num :=
  let neg := bitAt c (f.ex + f.ma)
  let e := bits c (f.ex + f.ma - 1) f.ma
  let m := c % 2 ^ f.ma
  let sg : Int := if neg then -1 else 1
  if f.sp = .ieee && e = 2 ^ f.ex - 1 then (if m = 0 then .inf neg else .nan)
  else if f.sp = .e4m3 && e = 15 && m = 7 then .nan
  else if e = 0 then .fin (sg * m) (1 - (f.bias : Int) - f.ma)
  else .fin (sg * ((m + 2 ^ f.ma : Nat) : Int)) ((e : Int) - f.bias - f.ma)

/-- R29 to R31: exact value of an element, without a block scale. MXINT8 elements carry 2^-6 (R32). -/
def decodeElem (fmt c : Nat) : Num :=
  match fpFmt (baseFmt fmt) with
  | some f => decodeFp f c
  | none =>
    if fmt = 8 then .fin (signed 8 c) 0
    else if fmt = 9 then .fin (signed 4 c) 0
    else if fmt = 0x0F then .fin (signed 8 c) (-6)
    else .nan

/-- R32: a value under an E8M0 scale byte. -/
def scaleNum (s : Nat) (v : Num) : Num :=
  if s = 0xFF then .nan
  else match v with
    | .fin m e => .fin m (e + s - 127)
    | x => x

/-- R34: a CB4 element through its slice's table of E4M3 bytes. -/
def cb4Num (table : List Byte) (i : Nat) : Num := decodeElem 3 (table.getD i 0).toNat

/-- Floor of log2 of a positive number. -/
def log2 (n : Nat) : Nat := Nat.log2 n

/-- R43, R44: |v| = a × 2^e rounded to a multiple of 2^q in the mode; the quotient. Modes: 0 nearest even, 1 toward zero,
2 toward +∞, 3 toward −∞. -/
def roundQuot (mode : Nat) (neg : Bool) (a : Nat) (e q : Int) : Nat :=
  if q ≤ e then a * 2 ^ (e - q).toNat
  else
    let d := 2 ^ (q - e).toNat
    let n := a / d
    let r := a % d
    let up :=
      if mode = 0 then d < 2 * r || (2 * r = d && n % 2 = 1)
      else if mode = 1 then false
      else if mode = 2 then !neg && r ≠ 0
      else neg && r ≠ 0
    if up then n + 1 else n

/-- Sign bit of a format. -/
def signBit (f : FpFmt) (neg : Bool) : Nat := if neg then 2 ^ (f.ex + f.ma) else 0

/-- Encoding of the largest finite value of a sign. -/
def maxCode (f : FpFmt) (neg : Bool) : Nat :=
  signBit f neg +
    match f.sp with
    | .ieee => (2 ^ f.ex - 1) * 2 ^ f.ma - 1
    | .e4m3 => 0x7E
    | .none => 2 ^ (f.ex + f.ma) - 1

/-- R41: the canonical NaN of a format; +0 where the format has none. -/
def nanCode (fmt : Nat) : Nat :=
  nth [0x7FC00000, 0x7FC0, 0x7E00, 0x7F, 0x7E] fmt

/-- R41, R44: an infinity of a sign: canonical NaN in E4M3, the largest finite value where there is neither. -/
def infCode (f : FpFmt) (neg : Bool) : Nat :=
  match f.sp with
  | .ieee => signBit f neg + (2 ^ f.ex - 1) * 2 ^ f.ma
  | .e4m3 => 0x7F
  | .none => maxCode f neg

/-- Whether a rounded magnitude with exponent field `e` and mantissa `m` exceeds the largest finite value. -/
def overflows (f : FpFmt) (e m : Nat) : Bool :=
  match f.sp with
  | .ieee => 2 ^ f.ex - 1 ≤ e
  | .e4m3 => 15 < e || (e = 15 && m = 7)
  | .none => 2 ^ f.ex ≤ e

/-- R44: the overflow result of a mode and sign. -/
def overflowCode (f : FpFmt) (mode : Nat) (sat neg : Bool) : Nat :=
  if sat then maxCode f neg
  else if mode = 0 then infCode f neg
  else if mode = 1 then maxCode f neg
  else if mode = 2 then (if neg then maxCode f neg else infCode f neg)
  else (if neg then infCode f neg else maxCode f neg)

/-- R44: m × 2^e rounded once into a floating-point format. -/
def roundFp (f : FpFmt) (mode : Nat) (sat : Bool) (m e : Int) : Nat :=
  if m = 0 then 0
  else
    let neg := decide (m < 0)
    let a := m.natAbs
    let top : Int := (log2 a : Int) + e
    let emin : Int := 1 - (f.bias : Int)
    let q : Int := (if top < emin then emin else top) - f.ma
    let n := roundQuot mode neg a e q
    if n < 2 ^ f.ma then signBit f neg + n
    else
      let carry := n = 2 ^ (f.ma + 1)
      let ef := (q + f.ma + f.bias + (if carry then 1 else 0)).toNat
      let mf := if carry then 0 else n - 2 ^ f.ma
      if overflows f ef mf then overflowCode f mode sat neg
      else signBit f neg + ef * 2 ^ f.ma + mf

/-- R503: m × 2^e rounded to an integer in the mode, limited to [lo, hi]. -/
def roundInt (mode : Nat) (lo hi : Int) (m e : Int) : Int :=
  let neg := decide (m < 0)
  let n : Int := roundQuot mode neg m.natAbs e 0
  let v := if neg then -n else n
  if v < lo then lo else if hi < v then hi else v

/-- R41, R44, R46, R503: a value rounded into a non-MX format. -/
def encodeNum (fmt mode : Nat) (sat : Bool) (v : Num) : Nat :=
  match fpFmt fmt with
  | some f =>
    match v with
    | .nan => nanCode fmt
    | .inf neg => if sat then maxCode f neg else infCode f neg
    | .fin m e => roundFp f mode sat m e
  | none =>
    let lo : Int := if fmt = 9 then -8 else -128
    let hi : Int := if fmt = 9 then 7 else 127
    let w := if fmt = 9 then 4 else 8
    match v with
    | .nan => 0
    | .inf neg => wrapInt w (if neg then lo else hi)
    | .fin m e => wrapInt w (roundInt mode lo hi m e)

/-- R45 step 4: v / 2^X into an MX element format; overflow gives the largest finite value. -/
def encodeMx (fmt mode : Nat) (scale : Nat) (v : Num) : Nat :=
  let sh : Num → Num
    | .fin m e => .fin m (e - ((scale : Int) - 127))
    | x => x
  if fmt = 0x0F then
    match sh v with
    | .fin m e => wrapInt 8 (roundInt mode (-127) 127 m (e + 6))
    | .inf neg => wrapInt 8 (if neg then -127 else 127)
    | .nan => 0
  else encodeNum (baseFmt fmt) mode true (sh v)

/-- R45: emax of the element format of an MX code. -/
def mxEmax (fmt : Nat) : Int :=
  if fmt = 0x0A then 8 else if fmt = 0x0B then 15 else if fmt = 0x0C then 4 else if fmt = 0x0D then 2
  else if fmt = 0x0E then 2 else 0

/-- Floor of log2 |m × 2^e| for a non-zero m. -/
def topExp (m e : Int) : Int := (log2 m.natAbs : Int) + e

/-- The largest top exponent over the non-zero finite values. -/
def maxTop : List Num → Option Int
  | [] => none
  | .fin m e :: t =>
    if m = 0 then maxTop t
    else match maxTop t with
      | none => some (topExp m e)
      | some x => some (if x < topExp m e then topExp m e else x)
  | _ :: t => maxTop t

/-- R45 steps 1 to 3: the scale byte of a block. -/
def mxScale (fmt : Nat) (vs : List Num) : Nat :=
  if vs.any (fun v => match v with | .fin _ _ => false | _ => true) then 0xFF
  else match maxTop vs with
    | none => 0
    | some t =>
      let x := t - mxEmax fmt
      let x := if x < -127 then -127 else if 127 < x then 127 else x
      (x + 127).toNat

/-- R45: a block's scale byte and element codes. -/
def mxBlock (fmt mode : Nat) (vs : List Num) : Nat × List Nat :=
  let s := mxScale fmt vs
  if s = 0xFF || (maxTop vs).isNone then (s, vs.map fun _ => 0)
  else (s, vs.map (encodeMx fmt mode s))

/-- The value of an FP32 encoding. -/
def fp32 (c : Nat) : Num := decodeElem 0 c

/-- Sign of an FP32 encoding. -/
def fpNeg (c : Nat) : Bool := bitAt c 31

/-- The RISC-V canonical FP32 NaN. -/
def fpNan : Nat := 0x7FC00000

/-- Exact sum of two finite values. -/
def addNum (m1 e1 m2 e2 : Int) : Int × Int :=
  let e := if e1 < e2 then e1 else e2
  (m1 * pow2 (e1 - e) + m2 * pow2 (e2 - e), e)

/-- IEEE sum of an exact product term and an FP32 addend, rounded once to nearest even (R97, R99): the values, and the
signs that a zero sum takes. -/
def sumRound (x : Num) (xneg : Bool) (y : Num) (yneg : Bool) : Nat :=
  match x, y with
  | .nan, _ => fpNan
  | _, .nan => fpNan
  | .inf a, .inf b => if a = b then (if a then 0xFF800000 else 0x7F800000) else fpNan
  | .inf a, _ => if a then 0xFF800000 else 0x7F800000
  | _, .inf b => if b then 0xFF800000 else 0x7F800000
  | .fin m1 e1, .fin m2 e2 =>
    let s := addNum m1 e1 m2 e2
    if s.1 = 0 then (if m1 = 0 && m2 = 0 && xneg && yneg then 0x80000000 else 0)
    else roundFp ⟨8, 23, 127, .ieee⟩ 0 false s.1 s.2

/-- FP32 addition, nearest even. -/
def fpAdd (a b : Nat) : Nat := sumRound (fp32 a) (fpNeg a) (fp32 b) (fpNeg b)

/-- FP32 subtraction, nearest even. -/
def fpSub (a b : Nat) : Nat :=
  let nb := if fpNeg b then b - 2 ^ 31 else b + 2 ^ 31
  sumRound (fp32 a) (fpNeg a) (fp32 nb) (fpNeg nb)

/-- Exact product of two values. -/
def mulNum (x y : Num) : Num :=
  match x, y with
  | .nan, _ => .nan
  | _, .nan => .nan
  | .inf a, .inf b => .inf (a != b)
  | .inf a, .fin m _ => if m = 0 then .nan else .inf (a != decide (m < 0))
  | .fin m _, .inf b => if m = 0 then .nan else .inf (b != decide (m < 0))
  | .fin m e, .fin n f => .fin (m * n) (e + f)

/-- FP32 fused multiply-add, rounded once to nearest even (R97 step 4). -/
def fpFma (a b c : Nat) : Nat :=
  sumRound (mulNum (fp32 a) (fp32 b)) (fpNeg a != fpNeg b) (fp32 c) (fpNeg c)

/-- FP32 times 2^k, rounded to nearest even; NaN and infinity pass. -/
def fpScale (a : Nat) (k : Int) : Nat :=
  match fp32 a with
  | .nan => fpNan
  | .inf neg => if neg then 0xFF800000 else 0x7F800000
  | .fin m e =>
    if m = 0 then (if fpNeg a then 0x80000000 else 0)
    else roundFp ⟨8, 23, 127, .ieee⟩ 0 false m (e + k)

/-- Order of two FP32 encodings that are not NaN, +0 above −0 (R99): a < b. -/
def fpLt (a b : Nat) : Bool :=
  let key (c : Nat) : Int := if fpNeg c then -((c % 2 ^ 31 : Nat) : Int) - 1 else ((c % 2 ^ 31 : Nat) : Int)
  decide (key a < key b)

/-- Whether an FP32 encoding is NaN. -/
def fpIsNan (c : Nat) : Bool := decide (0x7F800000 < c % 2 ^ 31)

/-- R99, R101: the binary tree sum over a list padded with −0 to the next power of two. -/
def treeSum : Nat → List Nat → Nat
  | 0, xs => xs.headD 0
  | d + 1, xs => fpAdd (treeSum d (xs.take (2 ^ d))) (treeSum d (xs.drop (2 ^ d)))

/-- R99: depth of the tree for n elements. -/
def treeDepth (n : Nat) : Nat := if n ≤ 1 then 0 else log2 (n - 1) + 1

/-- R42: no NaN payload is preserved. -/
def plainNan (c : Nat) : Nat := if fpIsNan c then fpNan else c

/-- R99: red.sum. -/
def redSumOf (xs : List Nat) : Nat :=
  if xs.isEmpty then 0
  else
    let d := treeDepth xs.length
    plainNan (treeSum d (xs ++ List.replicate (2 ^ d - xs.length) 0x80000000))

/-- Index and value of the extreme element, first of ties; `better a b`: a replaces b. -/
def bestOf (better : Nat → Nat → Bool) : List Nat → Nat → Nat → Nat → Nat × Nat
  | [], _, bi, bv => (bi, bv)
  | x :: xs, i, bi, bv => if better x bv then bestOf better xs (i + 1) i x else bestOf better xs (i + 1) bi bv

/-- Index of the first NaN. -/
def firstNan (xs : List Nat) : Option Nat := xs.findIdx? fpIsNan

/-- R99: largest or smallest FP32 element: its index and value; NaN wins. -/
def redExt (max : Bool) (xs : List Nat) : Option (Nat × Nat) :=
  match xs with
  | [] => none
  | x :: rest =>
    match firstNan xs with
    | some i => some (i, fpNan)
    | none => some (bestOf (fun a b => if max then fpLt b a else fpLt a b) rest 1 0 x)

/-- The Tally modulus, 2^61 − 1 (R66, R189). -/
def tallyP : Nat := 2 ^ 61 - 1

/-- res(x) of an integer (R66, R94). -/
def res (x : Int) : Nat := (x % (tallyP : Int)).toNat

/-- R62: value × 2^150 of a finite element, as an integer; NaN and infinity count as zero (R63). -/
def alpha150 : Num → Int
  | .fin m e => m * pow2 (e + 150)
  | _ => 0

/-- R189: the words of a tile added in, from word number i. -/
def tallyWords : List Byte → Nat → Nat → Nat
  | a :: b :: c :: d :: e :: f :: g :: h :: r, i, t =>
    tallyWords r (i + 1) ((t + (i + 1) * (leNat [a, b, c, d, e, f, g, h] % tallyP)) % tallyP)
  | _, _, t => t

/-- R189: the block Tally of a tile's bytes (512 words) with tile index j. -/
def blockTally (j : Nat) (bytes : List Byte) : Nat := tallyWords bytes 0 ((j + 1) * 2 ^ 32 % tallyP)

end Sys2Proof.Machine
end

