-- ==== Sys2Proof/Machine/RegTable.lean ====
section
/-! DEFINITION. The registers of BAR0 (R470, R474, R475): for every page kind the registers that its chapter lists, with their
fields, access codes, reset values and ranges, and the page index of R485. -/

namespace Sys2Proof.Machine

/-- R475: access codes. `cnt` is a counter that accepts only writes of 0 (RWS counters, SET_DURING_CLEAR, LOCKED_WRITES);
`anySet` returns to its reset value at any write (PRT_SLACK_MIN, PRT_LANDING_PEAK). -/
inductive Acc where
  | ro | rw | w1c | w1s | wo | rws | rwl | cnt | anySet
  deriving DecidableEq, Repr

/-- A field: bits [hi:lo], access, reset value, and the range outside which a write is ignored. -/
structure RegField where
  hi : Nat
  lo : Nat
  acc : Acc
  reset : Nat
  lim : Option (Nat × Nat)
  deriving DecidableEq, Repr

/-- A register or an array of `count` registers `stride` bytes apart: 64 bits wide or 32, cold or warm domain. -/
structure RegDesc where
  off : Nat
  count : Nat
  stride : Nat
  wide : Bool
  cold : Bool
  fields : List RegField
  deriving DecidableEq, Repr

/-- R485: the kinds of page. -/
inductive PageKind where
  | kpr | kprSec | kprUpd | kprRcv | kprLdg | lnt | wck | stnSync | stnSram | tnd | prt | stnClk | stnParam | lnk | xch | drm | pci | pwr | tim | fus
  deriving DecidableEq, Repr

/-- The registers of the KPR page, in order of offset. -/
def regsKpr : List RegDesc :=
  [ ⟨0x000, 1, 0, false, true, [⟨7, 0, .ro, 1, none⟩]⟩   -- KPR_IDENT
  , ⟨0x004, 1, 0, false, true, [⟨7, 0, .ro, 0, none⟩, ⟨15, 8, .ro, 1, none⟩, ⟨23, 16, .ro, 0, none⟩]⟩   -- KPR_VERSION
  , ⟨0x030, 1, 0, false, false, [⟨0, 0, .w1s, 0, none⟩]⟩   -- KPR_LOCK
  , ⟨0x034, 1, 0, false, false, [⟨15, 0, .cnt, 0, none⟩]⟩   -- SET_DURING_CLEAR
  , ⟨0x038, 1, 0, false, false, [⟨15, 0, .cnt, 0, none⟩]⟩   -- LOCKED_WRITES
  , ⟨0x040, 1, 0, false, true, [⟨1, 0, .ro, 0, none⟩, ⟨2, 2, .ro, 0, none⟩, ⟨15, 8, .ro, 0, none⟩, ⟨31, 16, .ro, 0, none⟩]⟩   -- KPR_BOOT
  , ⟨0x044, 1, 0, false, true, [⟨31, 0, .ro, 0, none⟩]⟩   -- KPR_FW_SET
  , ⟨0x100, 14, 4, false, false, [⟨31, 0, .ro, 0, none⟩]⟩   -- KPR_EVT_SUMMARY_i
  ]

/-- The registers of the KPR_SEC page, in order of offset. -/
def regsKprSec : List RegDesc :=
  [ ⟨0x000, 1, 0, false, true, [⟨7, 0, .ro, 0x11, none⟩]⟩   -- KPR_SEC_IDENT
  , ⟨0x004, 1, 0, false, true, [⟨7, 0, .ro, 0, none⟩, ⟨15, 8, .ro, 1, none⟩, ⟨23, 16, .ro, 0, none⟩]⟩   -- KPR_SEC_VERSION
  , ⟨0x014, 1, 0, false, false, [⟨0, 0, .ro, 0, none⟩, ⟨1, 1, .ro, 0, none⟩, ⟨2, 2, .ro, 1, none⟩, ⟨6, 3, .ro, 0, none⟩, ⟨9, 7, .ro, 0, none⟩, ⟨12, 10, .ro, 0, none⟩]⟩   -- KPR_SEC_STATUS
  , ⟨0x018, 1, 0, false, false, [⟨0, 0, .w1c, 0, none⟩, ⟨1, 1, .w1c, 0, none⟩, ⟨2, 2, .w1c, 0, none⟩, ⟨3, 3, .w1c, 0, none⟩, ⟨4, 4, .w1c, 0, none⟩]⟩   -- KPR_SEC_EVENT
  , ⟨0x01C, 1, 0, false, false, [⟨0, 0, .rw, 0, none⟩, ⟨1, 1, .rw, 0, none⟩, ⟨2, 2, .rw, 0, none⟩, ⟨3, 3, .rw, 0, none⟩, ⟨4, 4, .rw, 0, none⟩]⟩   -- KPR_SEC_EVENT_ENABLE
  , ⟨0x020, 1, 0, false, false, [⟨0, 0, .w1s, 0, none⟩, ⟨1, 1, .w1s, 0, none⟩, ⟨2, 2, .w1s, 0, none⟩, ⟨3, 3, .w1s, 0, none⟩, ⟨4, 4, .w1s, 0, none⟩]⟩   -- KPR_SEC_EVENT_SET
  , ⟨0x024, 1, 0, false, false, [⟨15, 0, .ro, 0, none⟩, ⟨23, 16, .ro, 0, none⟩]⟩   -- KPR_SEC_ERR_CAPTURE_A
  , ⟨0x028, 1, 0, false, false, [⟨31, 0, .ro, 0, none⟩]⟩   -- KPR_SEC_ERR_CAPTURE_A
  , ⟨0x02C, 1, 0, false, false, [⟨31, 0, .ro, 0, none⟩]⟩   -- KPR_SEC_ERR_CAPTURE_A
  , ⟨0x030, 1, 0, false, false, [⟨0, 0, .w1s, 0, none⟩]⟩   -- KPR_SEC_LOCK
  , ⟨0x034, 1, 0, false, false, [⟨15, 0, .cnt, 0, none⟩]⟩   -- SET_DURING_CLEAR
  , ⟨0x038, 1, 0, false, false, [⟨15, 0, .cnt, 0, none⟩]⟩   -- LOCKED_WRITES
  , ⟨0x040, 1, 0, true, true, [⟨63, 0, .ro, 0, none⟩]⟩   -- KPR_SEC_DAYMARK_KEYID
  , ⟨0x048, 4, 8, true, false, [⟨63, 0, .ro, 0, none⟩]⟩   -- KPR_SEC_OWNER_KEYID_i
  , ⟨0x068, 1, 0, false, false, [⟨15, 0, .ro, 0, none⟩]⟩   -- KPR_SEC_OWNER_ROLES
  ]

/-- The registers of the KPR_UPD page, in order of offset. -/
def regsKprUpd : List RegDesc :=
  [ ⟨0x000, 1, 0, false, true, [⟨7, 0, .ro, 0x12, none⟩]⟩   -- KPR_UPD_IDENT
  , ⟨0x004, 1, 0, false, true, [⟨7, 0, .ro, 0, none⟩, ⟨15, 8, .ro, 1, none⟩, ⟨23, 16, .ro, 0, none⟩]⟩   -- KPR_UPD_VERSION
  , ⟨0x014, 1, 0, false, false, [⟨2, 0, .ro, 0, none⟩, ⟨3, 3, .ro, 0, none⟩, ⟨4, 4, .ro, 0, none⟩, ⟨9, 5, .ro, 0, none⟩]⟩   -- KPR_UPD_STATUS
  , ⟨0x018, 1, 0, false, false, [⟨0, 0, .w1c, 0, none⟩, ⟨1, 1, .w1c, 0, none⟩, ⟨2, 2, .w1c, 0, none⟩, ⟨3, 3, .w1c, 0, none⟩, ⟨4, 4, .w1c, 0, none⟩, ⟨5, 5, .w1c, 0, none⟩]⟩   -- KPR_UPD_EVENT
  , ⟨0x01C, 1, 0, false, false, [⟨0, 0, .rw, 0, none⟩, ⟨1, 1, .rw, 0, none⟩, ⟨2, 2, .rw, 0, none⟩, ⟨3, 3, .rw, 0, none⟩, ⟨4, 4, .rw, 0, none⟩, ⟨5, 5, .rw, 0, none⟩]⟩   -- KPR_UPD_EVENT_ENABLE
  , ⟨0x020, 1, 0, false, false, [⟨0, 0, .w1s, 0, none⟩, ⟨1, 1, .w1s, 0, none⟩, ⟨2, 2, .w1s, 0, none⟩, ⟨3, 3, .w1s, 0, none⟩, ⟨4, 4, .w1s, 0, none⟩, ⟨5, 5, .w1s, 0, none⟩]⟩   -- KPR_UPD_EVENT_SET
  , ⟨0x024, 1, 0, false, false, [⟨15, 0, .ro, 0, none⟩]⟩   -- KPR_UPD_ERR_CAPTURE_A
  , ⟨0x028, 1, 0, false, false, [⟨15, 0, .ro, 0, none⟩]⟩   -- KPR_UPD_ERR_CAPTURE_A
  , ⟨0x02C, 1, 0, false, false, [⟨31, 0, .ro, 0, none⟩]⟩   -- KPR_UPD_ERR_CAPTURE_A
  , ⟨0x030, 1, 0, false, false, [⟨0, 0, .w1s, 0, none⟩]⟩   -- KPR_UPD_LOCK
  , ⟨0x034, 1, 0, false, false, [⟨15, 0, .cnt, 0, none⟩]⟩   -- SET_DURING_CLEAR
  , ⟨0x038, 1, 0, false, false, [⟨15, 0, .cnt, 0, none⟩]⟩   -- LOCKED_WRITES
  , ⟨0x040, 1, 0, false, false, [⟨24, 0, .ro, 0, none⟩]⟩   -- KPR_UPD_RECEIVED
  , ⟨0x044, 1, 0, false, false, [⟨31, 0, .ro, 0, none⟩]⟩   -- KPR_UPD_NEW_SET
  , ⟨0x048, 1, 0, false, true, [⟨15, 0, .cnt, 0, none⟩, ⟨31, 16, .cnt, 0, none⟩]⟩   -- KPR_UPD_COUNTS
  ]

/-- The registers of the KPR_RCV page, in order of offset. -/
def regsKprRcv : List RegDesc :=
  [ ⟨0x000, 1, 0, false, true, [⟨7, 0, .ro, 0xE, none⟩]⟩   -- KPR_RCV_IDENT
  , ⟨0x004, 1, 0, false, true, [⟨7, 0, .ro, 0, none⟩, ⟨15, 8, .ro, 1, none⟩, ⟨23, 16, .ro, 0, none⟩]⟩   -- KPR_RCV_VERSION
  , ⟨0x010, 1, 0, false, false, [⟨0, 0, .rwl, 1, none⟩, ⟨1, 1, .rwl, 1, none⟩]⟩   -- KPR_RCV_CONTROL
  , ⟨0x014, 1, 0, false, false, [⟨0, 0, .ro, 0, none⟩, ⟨1, 1, .ro, 0, none⟩, ⟨2, 2, .ro, 0, none⟩, ⟨3, 3, .ro, 0, none⟩]⟩   -- KPR_RCV_STATUS
  , ⟨0x018, 1, 0, false, false, [⟨0, 0, .w1c, 0, none⟩, ⟨1, 1, .w1c, 0, none⟩, ⟨2, 2, .w1c, 0, none⟩, ⟨3, 3, .w1c, 0, none⟩, ⟨4, 4, .w1c, 0, none⟩, ⟨5, 5, .w1c, 0, none⟩, ⟨6, 6, .w1c, 0, none⟩, ⟨7, 7, .w1c, 0, none⟩, ⟨8, 8, .w1c, 0, none⟩, ⟨9, 9, .w1c, 0, none⟩]⟩   -- KPR_RCV_EVENT
  , ⟨0x01C, 1, 0, false, false, [⟨0, 0, .rw, 0, none⟩, ⟨1, 1, .rw, 0, none⟩, ⟨2, 2, .rw, 0, none⟩, ⟨3, 3, .rw, 0, none⟩, ⟨4, 4, .rw, 0, none⟩, ⟨5, 5, .rw, 0, none⟩, ⟨6, 6, .rw, 0, none⟩, ⟨7, 7, .rw, 0, none⟩, ⟨8, 8, .rw, 0, none⟩, ⟨9, 9, .rw, 0, none⟩]⟩   -- KPR_RCV_EVENT_ENABLE
  , ⟨0x020, 1, 0, false, false, [⟨0, 0, .w1s, 0, none⟩, ⟨1, 1, .w1s, 0, none⟩, ⟨2, 2, .w1s, 0, none⟩, ⟨3, 3, .w1s, 0, none⟩, ⟨4, 4, .w1s, 0, none⟩, ⟨5, 5, .w1s, 0, none⟩, ⟨6, 6, .w1s, 0, none⟩, ⟨7, 7, .w1s, 0, none⟩, ⟨8, 8, .w1s, 0, none⟩, ⟨9, 9, .w1s, 0, none⟩]⟩   -- KPR_RCV_EVENT_SET
  , ⟨0x024, 1, 0, false, false, [⟨15, 0, .ro, 0, none⟩, ⟨31, 16, .ro, 0, none⟩]⟩   -- KPR_RCV_ERR_CAPTURE_A
  , ⟨0x028, 1, 0, false, false, [⟨31, 0, .ro, 0, none⟩]⟩   -- KPR_RCV_ERR_CAPTURE_A
  , ⟨0x02C, 1, 0, false, false, [⟨31, 0, .ro, 0, none⟩]⟩   -- KPR_RCV_ERR_CAPTURE_A
  , ⟨0x030, 1, 0, false, false, [⟨0, 0, .w1s, 0, none⟩]⟩   -- KPR_RCV_LOCK
  , ⟨0x034, 1, 0, false, false, [⟨15, 0, .cnt, 0, none⟩]⟩   -- SET_DURING_CLEAR
  , ⟨0x038, 1, 0, false, false, [⟨15, 0, .cnt, 0, none⟩]⟩   -- LOCKED_WRITES
  , ⟨0x040, 1, 0, false, false, [⟨13, 0, .rwl, 0x64, some (1, 10000)⟩]⟩   -- KPR_RCV_REPLAY_LIMIT
  , ⟨0x048, 1, 0, false, true, [⟨31, 0, .cnt, 0, none⟩]⟩   -- KPR_RCV_REPLAYS
  , ⟨0x04C, 1, 0, false, true, [⟨31, 0, .cnt, 0, none⟩]⟩   -- KPR_RCV_SWAPS
  , ⟨0x050, 1, 0, false, false, [⟨31, 0, .ro, 0, none⟩]⟩   -- KPR_RCV_BOUND
  , ⟨0x054, 1, 0, false, false, [⟨11, 0, .rwl, 1, some (1, 3600)⟩]⟩   -- KPR_RCV_LINK_TEST
  , ⟨0x060, 1, 0, false, true, [⟨0, 0, .ro, 0, none⟩, ⟨1, 1, .ro, 1, none⟩, ⟨31, 16, .ro, 0, none⟩]⟩   -- KPR_RCV_FOG
  , ⟨0x080, 16, 4, false, false, [⟨31, 0, .ro, 0, none⟩]⟩   -- KPR_RCV_DIV_i
  ]

/-- The registers of the KPR_LDG page, in order of offset. -/
def regsKprLdg : List RegDesc :=
  [ ⟨0x000, 1, 0, false, true, [⟨7, 0, .ro, 0xF, none⟩]⟩   -- KPR_LDG_IDENT
  , ⟨0x004, 1, 0, false, true, [⟨7, 0, .ro, 0, none⟩, ⟨15, 8, .ro, 1, none⟩, ⟨23, 16, .ro, 0, none⟩]⟩   -- KPR_LDG_VERSION
  , ⟨0x010, 1, 0, false, true, [⟨0, 0, .rw, 0, none⟩]⟩   -- KPR_LDG_CONTROL
  , ⟨0x014, 1, 0, false, false, [⟨0, 0, .ro, 0, none⟩, ⟨1, 1, .ro, 0, none⟩, ⟨8, 2, .ro, 0, none⟩, ⟨13, 9, .ro, 0, none⟩]⟩   -- KPR_LDG_STATUS
  , ⟨0x018, 1, 0, false, false, [⟨0, 0, .w1c, 0, none⟩, ⟨1, 1, .w1c, 0, none⟩, ⟨2, 2, .w1c, 0, none⟩, ⟨3, 3, .w1c, 0, none⟩]⟩   -- KPR_LDG_EVENT
  , ⟨0x01C, 1, 0, false, false, [⟨0, 0, .rw, 0, none⟩, ⟨1, 1, .rw, 0, none⟩, ⟨2, 2, .rw, 0, none⟩, ⟨3, 3, .rw, 0, none⟩]⟩   -- KPR_LDG_EVENT_ENABLE
  , ⟨0x020, 1, 0, false, false, [⟨0, 0, .w1s, 0, none⟩, ⟨1, 1, .w1s, 0, none⟩, ⟨2, 2, .w1s, 0, none⟩, ⟨3, 3, .w1s, 0, none⟩]⟩   -- KPR_LDG_EVENT_SET
  , ⟨0x024, 1, 0, false, false, [⟨15, 0, .ro, 0, none⟩]⟩   -- KPR_LDG_ERR_CAPTURE_A
  , ⟨0x028, 1, 0, false, false, [⟨31, 0, .ro, 0, none⟩]⟩   -- KPR_LDG_ERR_CAPTURE_A
  , ⟨0x02C, 1, 0, false, false, [⟨31, 0, .ro, 0, none⟩]⟩   -- KPR_LDG_ERR_CAPTURE_A
  , ⟨0x030, 1, 0, false, false, [⟨0, 0, .w1s, 0, none⟩]⟩   -- KPR_LDG_LOCK
  , ⟨0x034, 1, 0, false, false, [⟨15, 0, .cnt, 0, none⟩]⟩   -- SET_DURING_CLEAR
  , ⟨0x038, 1, 0, false, false, [⟨15, 0, .cnt, 0, none⟩]⟩   -- LOCKED_WRITES
  , ⟨0x040, 1, 0, true, true, [⟨63, 0, .ro, 0, none⟩]⟩   -- KPR_LDG_STORE_BASE
  , ⟨0x048, 1, 0, false, false, [⟨7, 0, .ro, 0, none⟩]⟩   -- KPR_LDG_STORE_NEXT
  , ⟨0x04C, 1, 0, false, true, [⟨31, 0, .cnt, 0, none⟩]⟩   -- KPR_LDG_SIGNED
  ]

/-- The registers of the LNT page, in order of offset. -/
def regsLnt : List RegDesc :=
  [ ⟨0x000, 1, 0, false, true, [⟨7, 0, .ro, 3, none⟩, ⟨11, 8, .ro, 0, none⟩, ⟨14, 12, .ro, 0, none⟩]⟩   -- LNT_IDENT
  , ⟨0x004, 1, 0, false, true, [⟨7, 0, .ro, 0, none⟩, ⟨15, 8, .ro, 1, none⟩, ⟨23, 16, .ro, 0, none⟩]⟩   -- LNT_VERSION
  , ⟨0x008, 1, 0, false, true, [⟨0, 0, .ro, 1, none⟩, ⟨1, 1, .ro, 1, none⟩, ⟨2, 2, .ro, 1, none⟩, ⟨15, 8, .ro, 0x20, none⟩, ⟨23, 16, .ro, 0x50, none⟩]⟩   -- LNT_CAPS
  , ⟨0x010, 1, 0, false, false, [⟨0, 0, .rwl, 0, none⟩, ⟨1, 1, .wo, 0, none⟩, ⟨3, 2, .rw, 0, some (0, 2)⟩]⟩   -- LNT_CONTROL
  , ⟨0x014, 1, 0, false, false, [⟨1, 0, .ro, 0, none⟩, ⟨2, 2, .ro, 0, none⟩, ⟨3, 3, .ro, 0, none⟩, ⟨4, 4, .ro, 0, none⟩, ⟨5, 5, .ro, 1, none⟩, ⟨11, 8, .ro, 0xF, none⟩]⟩   -- LNT_STATUS
  , ⟨0x018, 1, 0, false, false, [⟨0, 0, .w1c, 0, none⟩, ⟨1, 1, .w1c, 0, none⟩, ⟨2, 2, .w1c, 0, none⟩, ⟨3, 3, .w1c, 0, none⟩, ⟨4, 4, .w1c, 0, none⟩, ⟨5, 5, .w1c, 0, none⟩, ⟨6, 6, .w1c, 0, none⟩]⟩   -- LNT_EVENT
  , ⟨0x01C, 1, 0, false, false, [⟨0, 0, .rw, 0, none⟩, ⟨1, 1, .rw, 0, none⟩, ⟨2, 2, .rw, 0, none⟩, ⟨3, 3, .rw, 0, none⟩, ⟨4, 4, .rw, 0, none⟩, ⟨5, 5, .rw, 0, none⟩, ⟨6, 6, .rw, 0, none⟩]⟩   -- LNT_EVENT_ENABLE
  , ⟨0x020, 1, 0, false, false, [⟨0, 0, .w1s, 0, none⟩, ⟨1, 1, .w1s, 0, none⟩, ⟨2, 2, .w1s, 0, none⟩, ⟨3, 3, .w1s, 0, none⟩, ⟨4, 4, .w1s, 0, none⟩, ⟨5, 5, .w1s, 0, none⟩, ⟨6, 6, .w1s, 0, none⟩]⟩   -- LNT_EVENT_SET
  , ⟨0x024, 1, 0, false, false, [⟨15, 0, .ro, 0, none⟩, ⟨31, 16, .ro, 0, none⟩]⟩   -- LNT_ERR_CAPTURE_A
  , ⟨0x028, 1, 0, false, false, [⟨19, 0, .ro, 0, none⟩, ⟨24, 20, .ro, 0, none⟩]⟩   -- LNT_ERR_CAPTURE_B
  , ⟨0x02C, 1, 0, false, false, [⟨15, 0, .ro, 0, none⟩, ⟨31, 16, .ro, 0, none⟩]⟩   -- LNT_ERR_CAPTURE_C
  , ⟨0x030, 1, 0, false, false, [⟨0, 0, .w1s, 0, none⟩]⟩   -- LNT_LOCK
  , ⟨0x034, 1, 0, false, false, [⟨15, 0, .cnt, 0, none⟩]⟩   -- SET_DURING_CLEAR
  , ⟨0x038, 1, 0, false, false, [⟨15, 0, .cnt, 0, none⟩]⟩   -- LOCKED_WRITES
  , ⟨0x040, 1, 0, false, false, [⟨15, 0, .ro, 0, none⟩, ⟨18, 16, .ro, 0, none⟩]⟩   -- LNT_SLOTS
  , ⟨0x048, 1, 0, true, false, [⟨60, 0, .ro, 0, none⟩]⟩   -- LNT_LEFT
  , ⟨0x050, 1, 0, true, false, [⟨60, 0, .ro, 0, none⟩]⟩   -- LNT_RIGHT
  , ⟨0x060, 1, 0, true, true, [⟨63, 0, .cnt, 0, none⟩]⟩   -- LNT_CHECKS
  , ⟨0x068, 1, 0, false, true, [⟨31, 0, .cnt, 0, none⟩]⟩   -- LNT_CHECK_FAILS
  , ⟨0x070, 1, 0, false, false, [⟨0, 0, .w1s, 0, none⟩, ⟨25, 16, .rwl, 0x64, some (10, 1000)⟩]⟩   -- LNT_KAT_CONTROL
  , ⟨0x074, 1, 0, false, false, [⟨0, 0, .ro, 0, none⟩, ⟨1, 1, .ro, 0, none⟩, ⟨31, 16, .ro, 0, none⟩]⟩   -- LNT_KAT_STATUS
  , ⟨0x080, 1, 0, true, false, [⟨63, 0, .ro, 0, none⟩]⟩   -- LNT_BUSY_CLOCKS
  , ⟨0x088, 1, 0, true, false, [⟨63, 0, .ro, 0, none⟩]⟩   -- LNT_FEED_STALLS
  , ⟨0x090, 1, 0, true, false, [⟨63, 0, .ro, 0, none⟩]⟩   -- LNT_BLOCKS
  ]

/-- The registers of the WCK page, in order of offset. -/
def regsWck : List RegDesc :=
  [ ⟨0x000, 1, 0, false, true, [⟨7, 0, .ro, 4, none⟩, ⟨11, 8, .ro, 0, none⟩, ⟨15, 12, .ro, 0, none⟩]⟩   -- WCK_IDENT
  , ⟨0x004, 1, 0, false, true, [⟨7, 0, .ro, 0, none⟩, ⟨15, 8, .ro, 1, none⟩, ⟨23, 16, .ro, 0, none⟩]⟩   -- WCK_VERSION
  , ⟨0x008, 1, 0, false, true, [⟨7, 0, .ro, 8, none⟩, ⟨12, 8, .ro, 0x10, none⟩, ⟨23, 16, .ro, 1, none⟩, ⟨31, 24, .ro, 0x80, none⟩]⟩   -- WCK_CAPS
  , ⟨0x010, 1, 0, false, false, [⟨0, 0, .rwl, 0, none⟩, ⟨1, 1, .wo, 0, none⟩, ⟨3, 2, .rw, 0, some (0, 2)⟩]⟩   -- WCK_CONTROL
  , ⟨0x014, 1, 0, false, false, [⟨1, 0, .ro, 0, none⟩, ⟨2, 2, .ro, 0, none⟩, ⟨3, 3, .ro, 0, none⟩, ⟨4, 4, .ro, 0, none⟩, ⟨5, 5, .ro, 1, none⟩, ⟨6, 6, .ro, 0, none⟩, ⟨11, 8, .ro, 0xF, none⟩, ⟨15, 12, .ro, 0, none⟩]⟩   -- WCK_STATUS
  , ⟨0x018, 1, 0, false, false, [⟨0, 0, .w1c, 0, none⟩, ⟨1, 1, .w1c, 0, none⟩, ⟨2, 2, .w1c, 0, none⟩, ⟨3, 3, .w1c, 0, none⟩, ⟨4, 4, .w1c, 0, none⟩, ⟨5, 5, .w1c, 0, none⟩, ⟨6, 6, .w1c, 0, none⟩, ⟨7, 7, .w1c, 0, none⟩]⟩   -- WCK_EVENT
  , ⟨0x01C, 1, 0, false, false, [⟨0, 0, .rw, 0, none⟩, ⟨1, 1, .rw, 0, none⟩, ⟨2, 2, .rw, 0, none⟩, ⟨3, 3, .rw, 0, none⟩, ⟨4, 4, .rw, 0, none⟩, ⟨5, 5, .rw, 0, none⟩, ⟨6, 6, .rw, 0, none⟩, ⟨7, 7, .rw, 0, none⟩]⟩   -- WCK_EVENT_ENABLE
  , ⟨0x020, 1, 0, false, false, [⟨0, 0, .w1s, 0, none⟩, ⟨1, 1, .w1s, 0, none⟩, ⟨2, 2, .w1s, 0, none⟩, ⟨3, 3, .w1s, 0, none⟩, ⟨4, 4, .w1s, 0, none⟩, ⟨5, 5, .w1s, 0, none⟩, ⟨6, 6, .w1s, 0, none⟩, ⟨7, 7, .w1s, 0, none⟩]⟩   -- WCK_EVENT_SET
  , ⟨0x024, 1, 0, false, false, [⟨15, 0, .ro, 0, none⟩, ⟨31, 16, .ro, 0, none⟩]⟩   -- WCK_ERR_CAPTURE_A
  , ⟨0x028, 1, 0, false, false, [⟨19, 0, .ro, 0, none⟩]⟩   -- WCK_ERR_CAPTURE_B
  , ⟨0x02C, 1, 0, false, false, [⟨15, 0, .ro, 0, none⟩, ⟨31, 16, .ro, 0, none⟩]⟩   -- WCK_ERR_CAPTURE_C
  , ⟨0x030, 1, 0, false, false, [⟨0, 0, .w1s, 0, none⟩]⟩   -- WCK_LOCK
  , ⟨0x034, 1, 0, false, false, [⟨15, 0, .cnt, 0, none⟩]⟩   -- SET_DURING_CLEAR
  , ⟨0x038, 1, 0, false, false, [⟨15, 0, .cnt, 0, none⟩]⟩   -- LOCKED_WRITES
  , ⟨0x040, 1, 0, true, false, [⟨63, 0, .ro, 0, none⟩]⟩   -- WCK_FAULT_PC
  , ⟨0x048, 1, 0, true, false, [⟨63, 0, .ro, 0, none⟩]⟩   -- WCK_FAULT_ADDR
  , ⟨0x060, 1, 0, false, true, [⟨31, 0, .cnt, 0, none⟩]⟩   -- WCK_MISMATCHES
  , ⟨0x070, 1, 0, false, false, [⟨0, 0, .w1s, 0, none⟩, ⟨25, 16, .rwl, 0x64, some (10, 1000)⟩]⟩   -- WCK_KAT_CONTROL
  , ⟨0x074, 1, 0, false, false, [⟨0, 0, .ro, 0, none⟩, ⟨1, 1, .ro, 0, none⟩, ⟨31, 16, .ro, 0, none⟩]⟩   -- WCK_KAT_STATUS
  , ⟨0x080, 1, 0, true, false, [⟨63, 0, .ro, 0, none⟩]⟩   -- WCK_RETIRED
  , ⟨0x088, 1, 0, true, false, [⟨63, 0, .ro, 0, none⟩]⟩   -- WCK_BUSY_CLOCKS
  ]

/-- The registers of the STN_SYNC page, in order of offset. -/
def regsStnSync : List RegDesc :=
  [ ⟨0x000, 1, 0, false, true, [⟨7, 0, .ro, 6, none⟩, ⟨11, 8, .ro, 0, none⟩]⟩   -- STN_SYNC_IDENT
  , ⟨0x004, 1, 0, false, true, [⟨7, 0, .ro, 0, none⟩, ⟨15, 8, .ro, 1, none⟩, ⟨23, 16, .ro, 0, none⟩]⟩   -- STN_SYNC_VERSION
  , ⟨0x010, 1, 0, false, false, [⟨0, 0, .rw, 0, none⟩]⟩   -- STN_SYNC_CONTROL
  , ⟨0x014, 1, 0, false, false, [⟨0, 0, .ro, 0, none⟩, ⟨1, 1, .ro, 0, none⟩]⟩   -- STN_SYNC_STATUS
  , ⟨0x018, 1, 0, false, false, [⟨0, 0, .w1c, 0, none⟩, ⟨1, 1, .w1c, 0, none⟩, ⟨2, 2, .w1c, 0, none⟩, ⟨3, 3, .w1c, 0, none⟩]⟩   -- STN_SYNC_EVENT
  , ⟨0x01C, 1, 0, false, false, [⟨0, 0, .rw, 0, none⟩, ⟨1, 1, .rw, 0, none⟩, ⟨2, 2, .rw, 0, none⟩, ⟨3, 3, .rw, 0, none⟩]⟩   -- STN_SYNC_EVENT_ENABLE
  , ⟨0x020, 1, 0, false, false, [⟨0, 0, .w1s, 0, none⟩, ⟨1, 1, .w1s, 0, none⟩, ⟨2, 2, .w1s, 0, none⟩, ⟨3, 3, .w1s, 0, none⟩]⟩   -- STN_SYNC_EVENT_SET
  , ⟨0x024, 1, 0, false, false, [⟨15, 0, .ro, 0, none⟩, ⟨31, 16, .ro, 0, none⟩]⟩   -- STN_SYNC_ERR_CAPTURE_A
  , ⟨0x028, 1, 0, false, false, [⟨19, 0, .ro, 0, none⟩, ⟨24, 20, .ro, 0, none⟩]⟩   -- STN_SYNC_ERR_CAPTURE_B
  , ⟨0x02C, 1, 0, false, false, [⟨11, 0, .ro, 0, none⟩, ⟨12, 12, .ro, 0, none⟩, ⟨14, 13, .ro, 0, none⟩]⟩   -- STN_SYNC_ERR_CAPTURE_C
  , ⟨0x030, 1, 0, false, false, [⟨0, 0, .w1s, 0, none⟩]⟩   -- STN_SYNC_LOCK
  , ⟨0x034, 1, 0, false, false, [⟨15, 0, .cnt, 0, none⟩]⟩   -- SET_DURING_CLEAR
  , ⟨0x038, 1, 0, false, false, [⟨15, 0, .cnt, 0, none⟩]⟩   -- LOCKED_WRITES
  , ⟨0x040, 1, 0, false, false, [⟨19, 0, .rwl, 0x3E8, some (25, 1000000)⟩]⟩   -- STN_WATCHDOG
  , ⟨0x400, 256, 4, false, false, [⟨15, 0, .ro, 0, none⟩]⟩   -- STN_FLAG_i
  , ⟨0x800, 64, 4, false, false, [⟨15, 0, .ro, 0, none⟩, ⟨16, 16, .ro, 0, none⟩]⟩   -- STN_CHIP_FLAG_i
  , ⟨0xA00, 17, 64, false, false, [⟨0, 0, .w1s, 0, none⟩, ⟨1, 1, .rw, 0, none⟩, ⟨7, 4, .rw, 0, none⟩]⟩   -- STN_ENG_CONTROL_e
  , ⟨0xA04, 17, 64, false, false, [⟨19, 0, .ro, 0, none⟩, ⟨20, 20, .ro, 0, none⟩, ⟨21, 21, .ro, 0, none⟩, ⟨23, 22, .ro, 0, none⟩, ⟨27, 24, .ro, 0, none⟩]⟩   -- STN_ENG_STATE_e
  , ⟨0xA10, 17, 64, false, false, [⟨15, 0, .rw, 0, none⟩, ⟨31, 16, .rw, 0, none⟩]⟩   -- STN_BRK_FILTER_e_k
  , ⟨0xA14, 17, 64, false, false, [⟨15, 0, .rw, 0, none⟩, ⟨31, 16, .rw, 0, none⟩]⟩   -- STN_BRK_FILTER_e_k
  , ⟨0xA18, 17, 64, false, false, [⟨15, 0, .rw, 0, none⟩, ⟨31, 16, .rw, 0, none⟩]⟩   -- STN_BRK_FILTER_e_k
  , ⟨0xA1C, 17, 64, false, false, [⟨15, 0, .rw, 0, none⟩, ⟨31, 16, .rw, 0, none⟩]⟩   -- STN_BRK_FILTER_e_k
  , ⟨0xA20, 17, 64, false, false, [⟨31, 0, .rw, 0, none⟩]⟩   -- STN_BRK_COUNT_e_k
  , ⟨0xA24, 17, 64, false, false, [⟨31, 0, .rw, 0, none⟩]⟩   -- STN_BRK_COUNT_e_k
  , ⟨0xA28, 17, 64, false, false, [⟨31, 0, .rw, 0, none⟩]⟩   -- STN_BRK_COUNT_e_k
  , ⟨0xA2C, 17, 64, false, false, [⟨31, 0, .rw, 0, none⟩]⟩   -- STN_BRK_COUNT_e_k
  , ⟨0xA30, 17, 64, false, false, [⟨31, 0, .rw, 0, none⟩]⟩   -- STN_BRK_LIMIT_e_k
  , ⟨0xA34, 17, 64, false, false, [⟨31, 0, .rw, 0, none⟩]⟩   -- STN_BRK_LIMIT_e_k
  , ⟨0xA38, 17, 64, false, false, [⟨31, 0, .rw, 0, none⟩]⟩   -- STN_BRK_LIMIT_e_k
  , ⟨0xA3C, 17, 64, false, false, [⟨31, 0, .rw, 0, none⟩]⟩   -- STN_BRK_LIMIT_e_k
  ]

/-- The registers of the STN_SRAM page, in order of offset. -/
def regsStnSram : List RegDesc :=
  [ ⟨0x000, 1, 0, false, true, [⟨7, 0, .ro, 7, none⟩, ⟨11, 8, .ro, 0, none⟩]⟩   -- STN_SRAM_IDENT
  , ⟨0x004, 1, 0, false, true, [⟨7, 0, .ro, 0, none⟩, ⟨15, 8, .ro, 1, none⟩, ⟨23, 16, .ro, 0, none⟩]⟩   -- STN_SRAM_VERSION
  , ⟨0x010, 1, 0, false, false, [⟨0, 0, .rwl, 1, none⟩]⟩   -- STN_SRAM_CONTROL
  , ⟨0x014, 1, 0, false, false, [⟨0, 0, .ro, 0, none⟩]⟩   -- STN_SRAM_STATUS
  , ⟨0x018, 1, 0, false, false, [⟨0, 0, .w1c, 0, none⟩, ⟨1, 1, .w1c, 0, none⟩, ⟨2, 2, .w1c, 0, none⟩, ⟨3, 3, .w1c, 0, none⟩]⟩   -- STN_SRAM_EVENT
  , ⟨0x01C, 1, 0, false, false, [⟨0, 0, .rw, 0, none⟩, ⟨1, 1, .rw, 0, none⟩, ⟨2, 2, .rw, 0, none⟩, ⟨3, 3, .rw, 0, none⟩]⟩   -- STN_SRAM_EVENT_ENABLE
  , ⟨0x020, 1, 0, false, false, [⟨0, 0, .w1s, 0, none⟩, ⟨1, 1, .w1s, 0, none⟩, ⟨2, 2, .w1s, 0, none⟩, ⟨3, 3, .w1s, 0, none⟩]⟩   -- STN_SRAM_EVENT_SET
  , ⟨0x024, 1, 0, false, false, [⟨15, 0, .ro, 0, none⟩]⟩   -- STN_SRAM_ERR_CAPTURE_A
  , ⟨0x028, 1, 0, false, false, [⟨25, 0, .ro, 0, none⟩]⟩   -- STN_SRAM_ERR_CAPTURE_B
  , ⟨0x02C, 1, 0, false, false, [⟨7, 0, .ro, 0, none⟩, ⟨8, 8, .ro, 0, none⟩]⟩   -- STN_SRAM_ERR_CAPTURE_C
  , ⟨0x030, 1, 0, false, false, [⟨0, 0, .w1s, 0, none⟩]⟩   -- STN_SRAM_LOCK
  , ⟨0x034, 1, 0, false, false, [⟨15, 0, .cnt, 0, none⟩]⟩   -- SET_DURING_CLEAR
  , ⟨0x038, 1, 0, false, false, [⟨15, 0, .cnt, 0, none⟩]⟩   -- LOCKED_WRITES
  , ⟨0x040, 1, 0, false, false, [⟨13, 0, .rwl, 0x64, some (10, 10000)⟩]⟩   -- STN_SRAM_SCRUB_PERIOD
  , ⟨0x048, 1, 0, false, true, [⟨31, 0, .cnt, 0, none⟩]⟩   -- STN_SRAM_CE_COUNT
  , ⟨0x04C, 1, 0, false, false, [⟨15, 0, .rw, 0x3E8, none⟩]⟩   -- STN_SRAM_CE_LIMIT
  , ⟨0x050, 1, 0, false, true, [⟨31, 0, .cnt, 0, none⟩]⟩   -- STN_SRAM_UE_COUNT
  ]

/-- The registers of the TND page, in order of offset. -/
def regsTnd : List RegDesc :=
  [ ⟨0x000, 1, 0, false, true, [⟨7, 0, .ro, 5, none⟩, ⟨11, 8, .ro, 0, none⟩]⟩   -- TND_IDENT
  , ⟨0x004, 1, 0, false, true, [⟨7, 0, .ro, 0, none⟩, ⟨15, 8, .ro, 1, none⟩, ⟨23, 16, .ro, 0, none⟩]⟩   -- TND_VERSION
  , ⟨0x010, 1, 0, false, false, [⟨3, 0, .wo, 0, none⟩]⟩   -- TND_CONTROL
  , ⟨0x014, 1, 0, false, false, [⟨3, 0, .ro, 0, none⟩, ⟨7, 4, .ro, 0, none⟩, ⟨11, 8, .ro, 0, none⟩]⟩   -- TND_STATUS
  , ⟨0x018, 1, 0, false, false, [⟨0, 0, .w1c, 0, none⟩, ⟨1, 1, .w1c, 0, none⟩, ⟨2, 2, .w1c, 0, none⟩, ⟨3, 3, .w1c, 0, none⟩]⟩   -- TND_EVENT
  , ⟨0x01C, 1, 0, false, false, [⟨0, 0, .rw, 0, none⟩, ⟨1, 1, .rw, 0, none⟩, ⟨2, 2, .rw, 0, none⟩, ⟨3, 3, .rw, 0, none⟩]⟩   -- TND_EVENT_ENABLE
  , ⟨0x020, 1, 0, false, false, [⟨0, 0, .w1s, 0, none⟩, ⟨1, 1, .w1s, 0, none⟩, ⟨2, 2, .w1s, 0, none⟩, ⟨3, 3, .w1s, 0, none⟩]⟩   -- TND_EVENT_SET
  , ⟨0x024, 1, 0, false, false, [⟨15, 0, .ro, 0, none⟩, ⟨31, 16, .ro, 0, none⟩]⟩   -- TND_ERR_CAPTURE_A
  , ⟨0x028, 1, 0, false, false, [⟨19, 0, .ro, 0, none⟩, ⟨21, 20, .ro, 0, none⟩]⟩   -- TND_ERR_CAPTURE_B
  , ⟨0x02C, 1, 0, false, false, [⟨31, 0, .ro, 0, none⟩]⟩   -- TND_ERR_CAPTURE_C
  , ⟨0x030, 1, 0, false, false, [⟨0, 0, .w1s, 0, none⟩]⟩   -- TND_LOCK
  , ⟨0x034, 1, 0, false, false, [⟨15, 0, .cnt, 0, none⟩]⟩   -- SET_DURING_CLEAR
  , ⟨0x038, 1, 0, false, false, [⟨15, 0, .cnt, 0, none⟩]⟩   -- LOCKED_WRITES
  , ⟨0x040, 4, 8, true, false, [⟨63, 0, .ro, 0, none⟩]⟩   -- TND_BYTES_c
  ]

/-- The registers of the PRT page, in order of offset. -/
def regsPrt : List RegDesc :=
  [ ⟨0x000, 1, 0, false, true, [⟨7, 0, .ro, 8, none⟩, ⟨11, 8, .ro, 0, none⟩]⟩   -- PRT_IDENT
  , ⟨0x004, 1, 0, false, true, [⟨7, 0, .ro, 0, none⟩, ⟨15, 8, .ro, 1, none⟩, ⟨23, 16, .ro, 0, none⟩]⟩   -- PRT_VERSION
  , ⟨0x010, 1, 0, false, false, [⟨0, 0, .wo, 0, none⟩]⟩   -- PRT_CONTROL
  , ⟨0x014, 1, 0, false, false, [⟨0, 0, .ro, 0, none⟩, ⟨1, 1, .ro, 0, none⟩, ⟨10, 2, .ro, 0, none⟩, ⟨20, 11, .ro, 0, none⟩, ⟨21, 21, .ro, 0, none⟩]⟩   -- PRT_STATUS
  , ⟨0x018, 1, 0, false, false, [⟨0, 0, .w1c, 0, none⟩, ⟨1, 1, .w1c, 0, none⟩, ⟨2, 2, .w1c, 0, none⟩, ⟨3, 3, .w1c, 0, none⟩, ⟨4, 4, .w1c, 0, none⟩]⟩   -- PRT_EVENT
  , ⟨0x01C, 1, 0, false, false, [⟨0, 0, .rw, 0, none⟩, ⟨1, 1, .rw, 0, none⟩, ⟨2, 2, .rw, 0, none⟩, ⟨3, 3, .rw, 0, none⟩, ⟨4, 4, .rw, 0, none⟩]⟩   -- PRT_EVENT_ENABLE
  , ⟨0x020, 1, 0, false, false, [⟨0, 0, .w1s, 0, none⟩, ⟨1, 1, .w1s, 0, none⟩, ⟨2, 2, .w1s, 0, none⟩, ⟨3, 3, .w1s, 0, none⟩, ⟨4, 4, .w1s, 0, none⟩]⟩   -- PRT_EVENT_SET
  , ⟨0x024, 1, 0, false, false, [⟨15, 0, .ro, 0, none⟩, ⟨31, 16, .ro, 0, none⟩]⟩   -- PRT_ERR_CAPTURE_A
  , ⟨0x028, 1, 0, false, false, [⟨19, 0, .ro, 0, none⟩, ⟨31, 20, .ro, 0, none⟩]⟩   -- PRT_ERR_CAPTURE_B
  , ⟨0x02C, 1, 0, false, false, [⟨11, 0, .ro, 0, none⟩, ⟨31, 12, .ro, 0, none⟩]⟩   -- PRT_ERR_CAPTURE_C
  , ⟨0x030, 1, 0, false, false, [⟨0, 0, .w1s, 0, none⟩]⟩   -- PRT_LOCK
  , ⟨0x034, 1, 0, false, false, [⟨15, 0, .cnt, 0, none⟩]⟩   -- SET_DURING_CLEAR
  , ⟨0x038, 1, 0, false, false, [⟨15, 0, .cnt, 0, none⟩]⟩   -- LOCKED_WRITES
  , ⟨0x040, 1, 0, true, false, [⟨63, 0, .ro, 0, none⟩]⟩   -- PRT_FLITS_SENT
  , ⟨0x048, 1, 0, true, false, [⟨63, 0, .ro, 0, none⟩]⟩   -- PRT_FLITS_DELIVERED
  , ⟨0x050, 1, 0, false, true, [⟨31, 0, .cnt, 0, none⟩]⟩   -- PRT_LATE_RELEASES
  , ⟨0x054, 1, 0, false, false, [⟨15, 0, .anySet, 0xFFFF, none⟩]⟩   -- PRT_SLACK_MIN
  , ⟨0x058, 1, 0, false, false, [⟨9, 0, .anySet, 0, none⟩]⟩   -- PRT_LANDING_PEAK
  ]

/-- The registers of the STN_CLK page, in order of offset. -/
def regsStnClk : List RegDesc :=
  [ ⟨0x000, 1, 0, false, true, [⟨7, 0, .ro, 0xD, none⟩]⟩   -- STN_CLK_IDENT
  , ⟨0x004, 1, 0, false, true, [⟨7, 0, .ro, 0, none⟩, ⟨15, 8, .ro, 1, none⟩, ⟨23, 16, .ro, 0, none⟩]⟩   -- STN_CLK_VERSION
  , ⟨0x010, 1, 0, false, true, [⟨3, 0, .rwl, 3, some (1, 8)⟩]⟩   -- STN_CLK_CONTROL
  , ⟨0x014, 1, 0, false, false, [⟨0, 0, .ro, 0, none⟩, ⟨1, 1, .ro, 0, none⟩, ⟨4, 2, .ro, 0, none⟩, ⟨5, 5, .ro, 0, none⟩]⟩   -- STN_CLK_STATUS
  , ⟨0x030, 1, 0, false, false, [⟨0, 0, .w1s, 0, none⟩]⟩   -- STN_CLK_LOCK
  , ⟨0x034, 1, 0, false, false, [⟨15, 0, .cnt, 0, none⟩]⟩   -- SET_DURING_CLEAR
  , ⟨0x038, 1, 0, false, false, [⟨15, 0, .cnt, 0, none⟩]⟩   -- LOCKED_WRITES
  , ⟨0x040, 1, 0, false, true, [⟨31, 0, .cnt, 0, none⟩]⟩   -- STN_CLK_DROOPS
  , ⟨0x048, 1, 0, true, false, [⟨63, 0, .ro, 0, none⟩]⟩   -- STN_CLK_STRETCHED
  ]

/-- The registers of the STN_PARAM page, in order of offset. -/
def regsStnParam : List RegDesc :=
  [ ⟨0x000, 1, 0, false, true, [⟨7, 0, .ro, 0x14, none⟩]⟩   -- STN_PARAM_IDENT
  , ⟨0x004, 1, 0, false, true, [⟨7, 0, .ro, 0, none⟩, ⟨15, 8, .ro, 1, none⟩, ⟨23, 16, .ro, 0, none⟩]⟩   -- STN_PARAM_VERSION
  , ⟨0x030, 1, 0, false, false, [⟨0, 0, .w1s, 0, none⟩]⟩   -- STN_PARAM_LOCK
  , ⟨0x034, 1, 0, false, false, [⟨15, 0, .cnt, 0, none⟩]⟩   -- SET_DURING_CLEAR
  , ⟨0x038, 1, 0, false, false, [⟨15, 0, .cnt, 0, none⟩]⟩   -- LOCKED_WRITES
  , ⟨0x040, 1, 0, false, false, [⟨4, 0, .rw, 0, some (0, 16)⟩, ⟨5, 5, .rw, 0, none⟩, ⟨11, 6, .rw, 0, none⟩]⟩   -- STN_PARAM_SELECT
  , ⟨0x048, 1, 0, true, false, [⟨63, 0, .rw, 0, none⟩]⟩   -- STN_PARAM_DATA
  ]

/-- The registers of the LNK page, in order of offset. -/
def regsLnk : List RegDesc :=
  [ ⟨0x000, 1, 0, false, true, [⟨7, 0, .ro, 9, none⟩, ⟨14, 8, .ro, 0, none⟩]⟩   -- LNK_IDENT
  , ⟨0x004, 1, 0, false, true, [⟨7, 0, .ro, 0, none⟩, ⟨15, 8, .ro, 1, none⟩, ⟨23, 16, .ro, 0, none⟩]⟩   -- LNK_VERSION
  , ⟨0x010, 1, 0, false, false, [⟨0, 0, .rwl, 1, none⟩, ⟨2, 1, .rwl, 0, some (0, 2)⟩, ⟨3, 3, .rwl, 0, none⟩, ⟨4, 4, .w1s, 0, none⟩, ⟨5, 5, .w1s, 0, none⟩]⟩   -- LNK_CONTROL
  , ⟨0x014, 1, 0, false, false, [⟨3, 0, .ro, 0, none⟩, ⟨5, 4, .ro, 0, none⟩, ⟨6, 6, .ro, 0, none⟩, ⟨7, 7, .ro, 0, none⟩, ⟨8, 8, .ro, 0, none⟩, ⟨9, 9, .ro, 0, none⟩, ⟨20, 10, .ro, 0, none⟩]⟩   -- LNK_STATUS
  , ⟨0x018, 1, 0, false, false, [⟨0, 0, .w1c, 0, none⟩, ⟨1, 1, .w1c, 0, none⟩, ⟨2, 2, .w1c, 0, none⟩, ⟨3, 3, .w1c, 0, none⟩, ⟨4, 4, .w1c, 0, none⟩, ⟨5, 5, .w1c, 0, none⟩, ⟨6, 6, .w1c, 0, none⟩, ⟨7, 7, .w1c, 0, none⟩, ⟨8, 8, .w1c, 0, none⟩]⟩   -- LNK_EVENT
  , ⟨0x01C, 1, 0, false, false, [⟨0, 0, .rw, 0, none⟩, ⟨1, 1, .rw, 0, none⟩, ⟨2, 2, .rw, 0, none⟩, ⟨3, 3, .rw, 0, none⟩, ⟨4, 4, .rw, 0, none⟩, ⟨5, 5, .rw, 0, none⟩, ⟨6, 6, .rw, 0, none⟩, ⟨7, 7, .rw, 0, none⟩, ⟨8, 8, .rw, 0, none⟩]⟩   -- LNK_EVENT_ENABLE
  , ⟨0x020, 1, 0, false, false, [⟨0, 0, .w1s, 0, none⟩, ⟨1, 1, .w1s, 0, none⟩, ⟨2, 2, .w1s, 0, none⟩, ⟨3, 3, .w1s, 0, none⟩, ⟨4, 4, .w1s, 0, none⟩, ⟨5, 5, .w1s, 0, none⟩, ⟨6, 6, .w1s, 0, none⟩, ⟨7, 7, .w1s, 0, none⟩, ⟨8, 8, .w1s, 0, none⟩]⟩   -- LNK_EVENT_SET
  , ⟨0x024, 1, 0, false, false, [⟨15, 0, .ro, 0, none⟩, ⟨19, 16, .ro, 0, none⟩]⟩   -- LNK_ERR_CAPTURE_A
  , ⟨0x028, 1, 0, false, false, [⟨18, 0, .ro, 0, none⟩]⟩   -- LNK_ERR_CAPTURE_B
  , ⟨0x02C, 1, 0, false, false, [⟨31, 0, .ro, 0, none⟩]⟩   -- LNK_ERR_CAPTURE_C
  , ⟨0x030, 1, 0, false, false, [⟨0, 0, .w1s, 0, none⟩]⟩   -- LNK_LOCK
  , ⟨0x034, 1, 0, false, false, [⟨15, 0, .cnt, 0, none⟩]⟩   -- SET_DURING_CLEAR
  , ⟨0x038, 1, 0, false, false, [⟨15, 0, .cnt, 0, none⟩]⟩   -- LOCKED_WRITES
  , ⟨0x040, 1, 0, false, false, [⟨13, 0, .rwl, 0xC8, some (50, 10000)⟩, ⟨25, 16, .rwl, 0xA, some (5, 1000)⟩]⟩   -- LNK_TIMERS
  , ⟨0x044, 1, 0, false, false, [⟨15, 0, .rw, 0x3E8, none⟩]⟩   -- LNK_ERR_LIMIT
  , ⟨0x048, 1, 0, false, false, [⟨18, 0, .ro, 0, none⟩, ⟨19, 19, .ro, 0, none⟩, ⟨27, 20, .ro, 0, none⟩]⟩   -- LNK_PARTNER
  , ⟨0x080, 1, 0, true, false, [⟨31, 0, .ro, 0, none⟩, ⟨63, 32, .ro, 0, none⟩]⟩   -- LNK_COUNTS_A
  , ⟨0x088, 1, 0, true, false, [⟨31, 0, .ro, 0, none⟩, ⟨63, 32, .ro, 0, none⟩]⟩   -- LNK_COUNTS_B
  , ⟨0x090, 1, 0, true, false, [⟨31, 0, .ro, 0, none⟩, ⟨63, 32, .ro, 0, none⟩]⟩   -- LNK_COUNTS_C
  ]

/-- The registers of the XCH page, in order of offset. -/
def regsXch : List RegDesc :=
  [ ⟨0x000, 1, 0, false, true, [⟨7, 0, .ro, 0xB, none⟩]⟩   -- XCH_IDENT
  , ⟨0x004, 1, 0, false, true, [⟨7, 0, .ro, 0, none⟩, ⟨15, 8, .ro, 1, none⟩, ⟨23, 16, .ro, 0, none⟩]⟩   -- XCH_VERSION
  , ⟨0x014, 1, 0, false, false, [⟨0, 0, .ro, 0, none⟩, ⟨2, 1, .ro, 0, none⟩]⟩   -- XCH_STATUS
  , ⟨0x018, 1, 0, false, false, [⟨0, 0, .w1c, 0, none⟩]⟩   -- XCH_EVENT
  , ⟨0x01C, 1, 0, false, false, [⟨0, 0, .rw, 0, none⟩]⟩   -- XCH_EVENT_ENABLE
  , ⟨0x020, 1, 0, false, false, [⟨0, 0, .w1s, 0, none⟩]⟩   -- XCH_EVENT_SET
  , ⟨0x024, 1, 0, false, false, [⟨15, 0, .ro, 0, none⟩, ⟨22, 16, .ro, 0, none⟩]⟩   -- XCH_ERR_CAPTURE_A
  , ⟨0x028, 1, 0, false, false, [⟨19, 0, .ro, 0, none⟩, ⟨31, 20, .ro, 0, none⟩]⟩   -- XCH_ERR_CAPTURE_B
  , ⟨0x030, 1, 0, false, false, [⟨0, 0, .w1s, 0, none⟩]⟩   -- XCH_LOCK
  , ⟨0x034, 1, 0, false, false, [⟨15, 0, .cnt, 0, none⟩]⟩   -- SET_DURING_CLEAR
  , ⟨0x038, 1, 0, false, false, [⟨15, 0, .cnt, 0, none⟩]⟩   -- LOCKED_WRITES
  , ⟨0x040, 1, 0, true, false, [⟨63, 0, .ro, 0, none⟩]⟩   -- XCH_FORWARDED
  ]

/-- The registers of the DRM page, in order of offset. -/
def regsDrm : List RegDesc :=
  [ ⟨0x000, 1, 0, false, true, [⟨7, 0, .ro, 0xA, none⟩, ⟨11, 8, .ro, 0, none⟩]⟩   -- DRM_IDENT
  , ⟨0x004, 1, 0, false, true, [⟨7, 0, .ro, 0, none⟩, ⟨15, 8, .ro, 1, none⟩, ⟨23, 16, .ro, 0, none⟩]⟩   -- DRM_VERSION
  , ⟨0x010, 1, 0, false, false, [⟨0, 0, .rwl, 1, none⟩]⟩   -- DRM_CONTROL
  , ⟨0x014, 1, 0, false, false, [⟨0, 0, .ro, 0, none⟩, ⟨1, 1, .ro, 0, none⟩, ⟨2, 2, .ro, 1, none⟩, ⟨15, 8, .ro, 0, none⟩]⟩   -- DRM_STATUS
  , ⟨0x018, 1, 0, false, false, [⟨0, 0, .w1c, 0, none⟩, ⟨1, 1, .w1c, 0, none⟩, ⟨2, 2, .w1c, 0, none⟩]⟩   -- DRM_EVENT
  , ⟨0x01C, 1, 0, false, false, [⟨0, 0, .rw, 0, none⟩, ⟨1, 1, .rw, 0, none⟩, ⟨2, 2, .rw, 0, none⟩]⟩   -- DRM_EVENT_ENABLE
  , ⟨0x020, 1, 0, false, false, [⟨0, 0, .w1s, 0, none⟩, ⟨1, 1, .w1s, 0, none⟩, ⟨2, 2, .w1s, 0, none⟩]⟩   -- DRM_EVENT_SET
  , ⟨0x024, 1, 0, false, false, [⟨15, 0, .ro, 0, none⟩, ⟨19, 16, .ro, 0, none⟩]⟩   -- DRM_ERR_CAPTURE_A
  , ⟨0x028, 1, 0, false, false, [⟨30, 0, .ro, 0, none⟩, ⟨31, 31, .ro, 0, none⟩]⟩   -- DRM_ERR_CAPTURE_B
  , ⟨0x02C, 1, 0, false, false, [⟨5, 0, .ro, 0, none⟩, ⟨11, 6, .ro, 0, none⟩]⟩   -- DRM_ERR_CAPTURE_C
  , ⟨0x030, 1, 0, false, false, [⟨0, 0, .w1s, 0, none⟩]⟩   -- DRM_LOCK
  , ⟨0x034, 1, 0, false, false, [⟨15, 0, .cnt, 0, none⟩]⟩   -- SET_DURING_CLEAR
  , ⟨0x038, 1, 0, false, false, [⟨15, 0, .cnt, 0, none⟩]⟩   -- LOCKED_WRITES
  , ⟨0x040, 1, 0, false, false, [⟨7, 0, .rwl, 0x18, some (1, 168)⟩]⟩   -- DRM_PATROL_PERIOD
  , ⟨0x100, 16, 4, false, true, [⟨31, 0, .cnt, 0, none⟩]⟩   -- DRM_CE_COUNT_c
  , ⟨0x180, 16, 4, false, true, [⟨5, 0, .rws, 0, none⟩, ⟨6, 6, .rws, 0, none⟩]⟩   -- DRM_RETIRED_c
  ]

/-- The registers of the PCI page, in order of offset. -/
def regsPci : List RegDesc :=
  [ ⟨0x000, 1, 0, false, true, [⟨7, 0, .ro, 0x10, none⟩]⟩   -- PCI_IDENT
  , ⟨0x004, 1, 0, false, true, [⟨7, 0, .ro, 0, none⟩, ⟨15, 8, .ro, 1, none⟩, ⟨23, 16, .ro, 0, none⟩]⟩   -- PCI_VERSION
  , ⟨0x014, 1, 0, false, false, [⟨3, 0, .ro, 1, none⟩, ⟨6, 4, .ro, 0, none⟩, ⟨10, 7, .ro, 0, none⟩]⟩   -- PCI_STATUS
  , ⟨0x018, 1, 0, false, false, [⟨0, 0, .w1c, 0, none⟩, ⟨1, 1, .w1c, 0, none⟩, ⟨2, 2, .w1c, 0, none⟩, ⟨3, 3, .w1c, 0, none⟩, ⟨4, 4, .w1c, 0, none⟩]⟩   -- PCI_EVENT
  , ⟨0x01C, 1, 0, false, false, [⟨0, 0, .rw, 0, none⟩, ⟨1, 1, .rw, 0, none⟩, ⟨2, 2, .rw, 0, none⟩, ⟨3, 3, .rw, 0, none⟩, ⟨4, 4, .rw, 0, none⟩]⟩   -- PCI_EVENT_ENABLE
  , ⟨0x020, 1, 0, false, false, [⟨0, 0, .w1s, 0, none⟩, ⟨1, 1, .w1s, 0, none⟩, ⟨2, 2, .w1s, 0, none⟩, ⟨3, 3, .w1s, 0, none⟩, ⟨4, 4, .w1s, 0, none⟩]⟩   -- PCI_EVENT_SET
  , ⟨0x024, 1, 0, false, false, [⟨15, 0, .ro, 0, none⟩, ⟨22, 16, .ro, 0, none⟩]⟩   -- PCI_ERR_CAPTURE_A
  , ⟨0x028, 1, 0, false, false, [⟨31, 0, .ro, 0, none⟩]⟩   -- PCI_ERR_CAPTURE_A
  , ⟨0x02C, 1, 0, false, false, [⟨31, 0, .ro, 0, none⟩]⟩   -- PCI_ERR_CAPTURE_A
  , ⟨0x030, 1, 0, false, false, [⟨0, 0, .w1s, 0, none⟩]⟩   -- PCI_LOCK
  , ⟨0x034, 1, 0, false, false, [⟨15, 0, .cnt, 0, none⟩]⟩   -- SET_DURING_CLEAR
  , ⟨0x038, 1, 0, false, false, [⟨15, 0, .cnt, 0, none⟩]⟩   -- LOCKED_WRITES
  , ⟨0x040, 1, 0, true, false, [⟨37, 0, .rw, 0, none⟩]⟩   -- PCI_BAR2_WINDOW
  , ⟨0x100, 65, 32, true, false, [⟨63, 12, .rw, 0, none⟩]⟩   -- PCI_Q_SQ_BASE_q
  , ⟨0x108, 65, 32, true, false, [⟨63, 12, .rw, 0, none⟩]⟩   -- PCI_Q_SQ_BASE_q
  , ⟨0x110, 65, 32, false, false, [⟨0, 0, .rw, 0, none⟩, ⟨7, 4, .rw, 4, some (4, 12)⟩, ⟨26, 16, .rw, 0, some (2, 2047)⟩]⟩   -- PCI_Q_CONFIG_q
  , ⟨0x114, 65, 32, false, false, [⟨11, 0, .ro, 0, none⟩, ⟨23, 12, .ro, 0, none⟩, ⟨24, 24, .ro, 0, none⟩]⟩   -- PCI_Q_STATE_q
  ]

/-- The registers of the PWR page, in order of offset. -/
def regsPwr : List RegDesc :=
  [ ⟨0x000, 1, 0, false, true, [⟨7, 0, .ro, 0x13, none⟩]⟩   -- PWR_IDENT
  , ⟨0x004, 1, 0, false, true, [⟨7, 0, .ro, 0, none⟩, ⟨15, 8, .ro, 1, none⟩, ⟨23, 16, .ro, 0, none⟩]⟩   -- PWR_VERSION
  , ⟨0x010, 1, 0, false, true, [⟨2, 0, .rwl, 0, none⟩]⟩   -- PWR_CONTROL
  , ⟨0x014, 1, 0, false, false, [⟨0, 0, .ro, 0, none⟩, ⟨1, 1, .ro, 0, none⟩, ⟨2, 2, .ro, 0, none⟩, ⟨3, 3, .ro, 0, none⟩, ⟨5, 4, .ro, 0, none⟩, ⟨8, 6, .ro, 0, none⟩, ⟨9, 9, .ro, 0, none⟩]⟩   -- PWR_STATUS
  , ⟨0x018, 1, 0, false, false, [⟨0, 0, .w1c, 0, none⟩, ⟨1, 1, .w1c, 0, none⟩, ⟨2, 2, .w1c, 0, none⟩, ⟨3, 3, .w1c, 0, none⟩, ⟨4, 4, .w1c, 0, none⟩, ⟨5, 5, .w1c, 0, none⟩, ⟨6, 6, .w1c, 0, none⟩]⟩   -- PWR_EVENT
  , ⟨0x01C, 1, 0, false, false, [⟨0, 0, .rw, 0, none⟩, ⟨1, 1, .rw, 0, none⟩, ⟨2, 2, .rw, 0, none⟩, ⟨3, 3, .rw, 0, none⟩, ⟨4, 4, .rw, 0, none⟩, ⟨5, 5, .rw, 0, none⟩, ⟨6, 6, .rw, 0, none⟩]⟩   -- PWR_EVENT_ENABLE
  , ⟨0x020, 1, 0, false, false, [⟨0, 0, .w1s, 0, none⟩, ⟨1, 1, .w1s, 0, none⟩, ⟨2, 2, .w1s, 0, none⟩, ⟨3, 3, .w1s, 0, none⟩, ⟨4, 4, .w1s, 0, none⟩, ⟨5, 5, .w1s, 0, none⟩, ⟨6, 6, .w1s, 0, none⟩]⟩   -- PWR_EVENT_SET
  , ⟨0x024, 1, 0, false, false, [⟨15, 0, .ro, 0, none⟩]⟩   -- PWR_ERR_CAPTURE_A
  , ⟨0x028, 1, 0, false, false, [⟨15, 0, .ro, 0, none⟩]⟩   -- PWR_ERR_CAPTURE_A
  , ⟨0x02C, 1, 0, false, false, [⟨3, 0, .ro, 0, none⟩]⟩   -- PWR_ERR_CAPTURE_A
  , ⟨0x030, 1, 0, false, false, [⟨0, 0, .w1s, 0, none⟩]⟩   -- PWR_LOCK
  , ⟨0x034, 1, 0, false, false, [⟨15, 0, .cnt, 0, none⟩]⟩   -- SET_DURING_CLEAR
  , ⟨0x038, 1, 0, false, false, [⟨15, 0, .cnt, 0, none⟩]⟩   -- LOCKED_WRITES
  , ⟨0x040, 1, 0, false, false, [⟨15, 0, .ro, 0, none⟩, ⟨31, 16, .ro, 0, none⟩]⟩   -- PWR_FEED_A
  , ⟨0x044, 1, 0, false, false, [⟨15, 0, .ro, 0, none⟩, ⟨31, 16, .ro, 0, none⟩]⟩   -- PWR_FEED_A
  , ⟨0x048, 1, 0, false, false, [⟨15, 0, .ro, 0, none⟩, ⟨31, 16, .ro, 0, none⟩]⟩   -- PWR_INPUT
  , ⟨0x04C, 1, 0, false, false, [⟨7, 0, .ro, 0, none⟩, ⟨15, 8, .ro, 0, none⟩, ⟨19, 16, .ro, 0, none⟩]⟩   -- PWR_TEMP
  , ⟨0x050, 1, 0, false, false, [⟨13, 0, .rwl, 0x32, some (5, 10000)⟩]⟩   -- PWR_GATE_DELAY
  , ⟨0x058, 1, 0, false, true, [⟨31, 0, .cnt, 0, none⟩]⟩   -- PWR_TRIPS
  ]

/-- The registers of the TIM page, in order of offset. -/
def regsTim : List RegDesc :=
  [ ⟨0x000, 1, 0, false, true, [⟨7, 0, .ro, 0xC, none⟩]⟩   -- TIM_IDENT
  , ⟨0x004, 1, 0, false, true, [⟨7, 0, .ro, 0, none⟩, ⟨15, 8, .ro, 1, none⟩, ⟨23, 16, .ro, 0, none⟩]⟩   -- TIM_VERSION
  , ⟨0x010, 1, 0, false, true, [⟨1, 0, .rwl, 0, some (0, 2)⟩, ⟨2, 2, .rwl, 0, none⟩, ⟨3, 3, .w1s, 0, none⟩, ⟨4, 4, .rwl, 1, none⟩, ⟨5, 5, .rwl, 1, none⟩]⟩   -- TIM_CONTROL
  , ⟨0x014, 1, 0, false, false, [⟨1, 0, .ro, 0, none⟩, ⟨2, 2, .ro, 0, none⟩, ⟨3, 3, .ro, 0, none⟩, ⟨4, 4, .ro, 0, none⟩, ⟨5, 5, .ro, 0, none⟩, ⟨6, 6, .ro, 0, none⟩, ⟨7, 7, .ro, 0, none⟩, ⟨8, 8, .ro, 0, none⟩, ⟨10, 9, .ro, 0, none⟩]⟩   -- TIM_STATUS
  , ⟨0x018, 1, 0, false, false, [⟨0, 0, .w1c, 0, none⟩, ⟨1, 1, .w1c, 0, none⟩, ⟨2, 2, .w1c, 0, none⟩, ⟨3, 3, .w1c, 0, none⟩, ⟨4, 4, .w1c, 0, none⟩, ⟨5, 5, .w1c, 0, none⟩, ⟨6, 6, .w1c, 0, none⟩]⟩   -- TIM_EVENT
  , ⟨0x01C, 1, 0, false, false, [⟨0, 0, .rw, 0, none⟩, ⟨1, 1, .rw, 0, none⟩, ⟨2, 2, .rw, 0, none⟩, ⟨3, 3, .rw, 0, none⟩, ⟨4, 4, .rw, 0, none⟩, ⟨5, 5, .rw, 0, none⟩, ⟨6, 6, .rw, 0, none⟩]⟩   -- TIM_EVENT_ENABLE
  , ⟨0x020, 1, 0, false, false, [⟨0, 0, .w1s, 0, none⟩, ⟨1, 1, .w1s, 0, none⟩, ⟨2, 2, .w1s, 0, none⟩, ⟨3, 3, .w1s, 0, none⟩, ⟨4, 4, .w1s, 0, none⟩, ⟨5, 5, .w1s, 0, none⟩, ⟨6, 6, .w1s, 0, none⟩]⟩   -- TIM_EVENT_SET
  , ⟨0x024, 1, 0, false, false, [⟨15, 0, .ro, 0, none⟩]⟩   -- TIM_ERR_CAPTURE_A
  , ⟨0x028, 1, 0, false, false, [⟨31, 0, .ro, 0, none⟩]⟩   -- TIM_ERR_CAPTURE_A
  , ⟨0x02C, 1, 0, false, false, [⟨31, 0, .ro, 0, none⟩]⟩   -- TIM_ERR_CAPTURE_A
  , ⟨0x030, 1, 0, false, false, [⟨0, 0, .w1s, 0, none⟩]⟩   -- TIM_LOCK
  , ⟨0x034, 1, 0, false, false, [⟨15, 0, .cnt, 0, none⟩]⟩   -- SET_DURING_CLEAR
  , ⟨0x038, 1, 0, false, false, [⟨15, 0, .cnt, 0, none⟩]⟩   -- LOCKED_WRITES
  , ⟨0x040, 1, 0, true, false, [⟨63, 0, .ro, 0, none⟩]⟩   -- TIM_WATCH
  , ⟨0x048, 1, 0, false, false, [⟨31, 0, .ro, 0, none⟩]⟩   -- TIM_TOD_NS
  , ⟨0x050, 1, 0, true, false, [⟨47, 0, .rwl, 0, none⟩]⟩   -- TIM_TOD_SEC
  , ⟨0x058, 1, 0, true, true, [⟨63, 0, .rwl, 0x100000000, none⟩]⟩   -- TIM_TOD_INC
  , ⟨0x060, 1, 0, false, false, [⟨15, 0, .ro, 0, none⟩, ⟨31, 16, .ro, 0, none⟩]⟩   -- TIM_OFFSET
  , ⟨0x064, 1, 0, false, false, [⟨31, 0, .ro, 0, none⟩]⟩   -- TIM_HELD
  , ⟨0x068, 1, 0, true, false, [⟨63, 0, .ro, 0, none⟩]⟩   -- TIM_PPS_STAMP
  , ⟨0x070, 1, 0, false, false, [⟨6, 0, .ro, 0x7F, none⟩, ⟨14, 8, .ro, 0x7F, none⟩, ⟨23, 16, .ro, 0, none⟩]⟩   -- TIM_UPSTREAM
  ]

/-- The registers of the FUS page, in order of offset. -/
def regsFus : List RegDesc :=
  [ ⟨0x000, 1, 0, false, true, [⟨7, 0, .ro, 0x02, none⟩]⟩   -- FUS_IDENT
  , ⟨0x004, 1, 0, false, true, [⟨7, 0, .ro, 0, none⟩, ⟨15, 8, .ro, 1, none⟩, ⟨23, 16, .ro, 0, none⟩]⟩   -- FUS_VERSION
  , ⟨0x030, 1, 0, false, false, [⟨0, 0, .w1s, 0, none⟩]⟩   -- FUS_LOCK
  , ⟨0x034, 1, 0, false, false, [⟨15, 0, .cnt, 0, none⟩]⟩   -- SET_DURING_CLEAR
  , ⟨0x038, 1, 0, false, false, [⟨15, 0, .cnt, 0, none⟩]⟩   -- LOCKED_WRITES
  , ⟨0x040, 4, 4, false, true, [⟨31, 0, .ro, 0, none⟩]⟩   -- FUS_CHIP_ID_i
  , ⟨0x050, 1, 0, false, true, [⟨1, 0, .ro, 0, none⟩, ⟨2, 2, .ro, 0, none⟩, ⟨9, 3, .ro, 0, none⟩, ⟨15, 10, .ro, 0, none⟩, ⟨19, 16, .ro, 0, none⟩, ⟨21, 20, .ro, 0, none⟩]⟩   -- FUS_STATE
  , ⟨0x100, 16, 4, false, true, [⟨4, 0, .ro, 0, none⟩, ⟨13, 5, .ro, 0, none⟩, ⟨14, 14, .ro, 0, none⟩, ⟨15, 15, .ro, 1, none⟩, ⟨20, 16, .ro, 0, none⟩, ⟨29, 21, .ro, 0, none⟩, ⟨30, 30, .ro, 0, none⟩]⟩   -- FUS_DARK_STATION_n
  ]

/-- The registers of a page kind. -/
def regsOf : PageKind → List RegDesc
  | .kpr => regsKpr
  | .kprSec => regsKprSec
  | .kprUpd => regsKprUpd
  | .kprRcv => regsKprRcv
  | .kprLdg => regsKprLdg
  | .lnt => regsLnt
  | .wck => regsWck
  | .stnSync => regsStnSync
  | .stnSram => regsStnSram
  | .tnd => regsTnd
  | .prt => regsPrt
  | .stnClk => regsStnClk
  | .stnParam => regsStnParam
  | .lnk => regsLnk
  | .xch => regsXch
  | .drm => regsDrm
  | .pci => regsPci
  | .pwr => regsPwr
  | .tim => regsTim
  | .fus => regsFus

/-- R485: a page number's kind, Station (or group) and instance. -/
def pageKind (p : Nat) : PageKind × Nat × Nat :=
  if p = 0 then (.kpr, 0, 0) else if p = 1 then (.kprSec, 0, 0) else if p = 2 then (.kprUpd, 0, 0)
  else if p = 3 then (.kprRcv, 0, 0) else if p = 4 then (.kprLdg, 0, 0)
  else if p < 325 then
    let n := (p - 5) / 20
    let j := (p - 5) % 20
    if j < 5 then (.lnt, n, j) else if j < 14 then (.wck, n, j - 5)
    else if j = 14 then (.stnSync, n, 0) else if j = 15 then (.stnSram, n, 0) else if j = 16 then (.tnd, n, 0)
    else if j = 17 then (.prt, n, 0) else if j = 18 then (.stnClk, n, 0) else (.stnParam, n, 0)
  else if p < 421 then (.lnk, 0, p - 325)
  else if p = 421 then (.xch, 0, 0)
  else if p < 438 then (.drm, p - 422, 0)
  else if p = 438 then (.pci, 0, 0) else if p = 439 then (.pwr, 0, 0) else if p = 440 then (.tim, 0, 0)
  else (.fus, 0, 0)

/-- R485: BAR0 offset of a page. -/
def pageBase (p : Nat) : Nat :=
  let k := pageKind p
  let stn := 0x100000 + k.2.1 * 0x100000
  match k.1 with
  | .kpr => 0 | .kprSec => 0x1000 | .kprUpd => 0x2000 | .kprRcv => 0x6000 | .kprLdg => 0x7000
  | .lnt => stn + 0x10000 + k.2.2 * 0x1000
  | .wck => stn + 0x20000 + k.2.2 * 0x1000
  | .stnSync => stn + 0x30000 | .stnSram => stn + 0x40000 | .tnd => stn + 0x50000
  | .prt => stn + 0x60000 | .stnClk => stn + 0x70000 | .stnParam => stn + 0x80000
  | .lnk => 0x2000000 + k.2.2 * 0x1000
  | .xch => 0x2300000 | .drm => 0x2400000 + k.2.1 * 0x1000
  | .pci => 0x2800000 | .pwr => 0x2900000 | .tim => 0x2A00000 | .fus => 0x2B00000

/-- Page numbers of the single pages and of the pages of a Station, link or DRAM group (R485). -/
def pgKpr : Nat := 0
def pgSec : Nat := 1
def pgUpd : Nat := 2
def pgRcv : Nat := 3
def pgLdg : Nat := 4
def pgLnt (n p : Nat) : Nat := 5 + 20 * n + p
def pgWck (n p : Nat) : Nat := 10 + 20 * n + p
def pgSync (n : Nat) : Nat := 19 + 20 * n
def pgSram (n : Nat) : Nat := 20 + 20 * n
def pgTnd (n : Nat) : Nat := 21 + 20 * n
def pgPrt (n : Nat) : Nat := 22 + 20 * n
def pgClk (n : Nat) : Nat := 23 + 20 * n
def pgParam (n : Nat) : Nat := 24 + 20 * n
def pgLnk (l : Nat) : Nat := 325 + l
def pgXch : Nat := 421
def pgDrm (n : Nat) : Nat := 422 + n
def pgPci : Nat := 438
def pgPwr : Nat := 439
def pgTim : Nat := 440
def pgFus : Nat := 441

/-- The page that holds a BAR0 address, if one is listed (R470). -/
def pageAt (a : Nat) : Option Nat :=
  let b := a / 0x1000 * 0x1000
  let chk (p : Nat) : Option Nat := if p < 442 && pageBase p = b then some p else none
  if b < 0x100000 then
    (if b = 0 then some 0 else if b = 0x1000 then some 1 else if b = 0x2000 then some 2
     else if b = 0x6000 then some 3 else if b = 0x7000 then some 4 else none)
  else if b < 0x1100000 then
    let n := (b - 0x100000) / 0x100000
    let o := b % 0x100000
    let j := o / 0x10000
    let i := o % 0x10000 / 0x1000
    if j = 1 then (if i < 5 then chk (pgLnt n i) else none)
    else if j = 2 then (if i < 9 then chk (pgWck n i) else none)
    else if 3 ≤ j && j ≤ 8 && i = 0 then chk (16 + 20 * n + j) else none
  else if b < 0x2300000 then (if 0x2000000 ≤ b then (if (b - 0x2000000) / 0x1000 < 96 then some (pgLnk ((b - 0x2000000) / 0x1000)) else none) else none)
  else if b = 0x2300000 then some pgXch
  else if 0x2400000 ≤ b && b < 0x2410000 then some (pgDrm ((b - 0x2400000) / 0x1000))
  else if b = 0x2800000 then some pgPci else if b = 0x2900000 then some pgPwr
  else if b = 0x2A00000 then some pgTim else if b = 0x2B00000 then some pgFus else none

/-- Whether offset `o` (of a 4-byte word) lies in a register description, and in which word of which element. -/
def RegDesc.hit (d : RegDesc) (o : Nat) : Option (Nat × Nat) :=
  let w := if d.wide then 8 else 4
  if o < d.off then none
  else
    let r := o - d.off
    let i := if d.stride = 0 then 0 else r / d.stride
    let b := if d.stride = 0 then r else r % d.stride
    if i < d.count && b < w then some (i, b / 4) else none

/-- The register that holds the word at an offset of a page kind: description, element, and word 0 or 1. -/
def regFind (ds : List RegDesc) (o : Nat) : Option (RegDesc × Nat × Nat) :=
  match ds with
  | [] => none
  | d :: t =>
    match d.hit o with
    | some (i, w) => some (d, i, w)
    | none => regFind t o

/-- Reset value of a register from its fields. -/
def RegDesc.resetVal (d : RegDesc) : Nat := d.fields.foldl (fun v f => v + f.reset * 2 ^ f.lo) 0

/-- Reset value of the word at a BAR0 address; 0 at reserved addresses (R470). -/
def regReset (a : Nat) : Nat :=
  match pageAt a with
  | none => 0
  | some p =>
    match regFind (regsOf (pageKind p).1) (a % 0x1000 / 4 * 4) with
    | none => 0
    | some (d, _, w) => d.resetVal / 2 ^ (32 * w) % 2 ^ 32

end Sys2Proof.Machine
end

