-- ==== Sys2Proof/Machine/FabState.lean ====
section
/-! DEFINITION. The parts of the state that the fabric owns: links (R297 to R321), Port buffers (R282 to R285), the partition
(R249 to R264), fabric time (R329 to R346) and Bulk messages (R303): plain data only. -/

namespace Sys2Proof.Machine

/-- R314: link states, codes 0 to 8 in this order. -/
inductive LinkSt where
  | down | detect | equalise | auth | position | delay | up | resume | fenced
  deriving DecidableEq, Repr

/-- R301, R302: what a replay-buffer entry carries. -/
inductive TxKind where
  | scheduled | bulk | control
  deriving DecidableEq, Repr

/-- R307: an entry of the replay buffer. -/
structure TxEntry where
  seq : Nat
  kind : TxKind
  /-- Count of partition-grid origins when it left (R310). -/
  epoch : Nat
  /-- The 128-bit header. -/
  header : Nat
  payload : List Byte
  /-- Requested by a NAK, or due after an ack timeout (R309, R311). -/
  again : Bool
  deriving DecidableEq, Repr

/-- A Bulk flit that waits: its header without SEQ, and its payload (R303). -/
structure BulkFlit where
  header : Nat
  payload : List Byte
  deriving DecidableEq, Repr

/-- R291, R313: a late Scheduled transit flit in the staging buffer, with the grid it belongs to. -/
structure LateFlit where
  header : Nat
  payload : List Byte
  epoch : Nat
  deriving DecidableEq, Repr

/-- A link and its training (R297 to R321). -/
structure Link where
  st : LinkSt
  /-- Rate code: 0 = 224, 1 = 112, 2 = 56 Gb/s (R297). -/
  rate : Nat
  sealed : Bool
  /-- The authenticated partner's chip number. -/
  partner : Option Nat
  /-- The partner's claimed chip number. -/
  claimed : Nat
  /-- Measured channel delay in ticks, seal included (R271). -/
  delay : Nat
  /-- Unfit for the schedule (R266, R271). -/
  unfit : Bool
  /-- A cable is present in the connector (R492). -/
  cable : Bool
  /-- Next Watch count at which a Flash of this link may start. -/
  flashAt : Nat
  /-- Watch count at which full training began, and of the next try from DOWN with its backoff in ticks (R314). -/
  trainBegan : Nat
  retryAt : Nat
  backoff : Nat
  /-- R316: both HELLOs, the chain's public key, and what the transcript adds. -/
  helloSent : List Byte
  helloGot : Option (List Byte)
  partnerPos : List Nat
  chainKey : Option (List Byte)
  transcript : List Byte
  /-- R317: the number of this chip's key pair, the encapsulation key, the ciphertext and the shared secret. -/
  kemNo : Nat
  kemKey : List Byte
  kemCipher : List Byte
  shared : List Byte
  /-- R314: the message that this chip's TRAIN frames repeat, and the next 256-byte part of it. -/
  msg : List Byte
  msgAt : Nat
  /-- R318: the session secret R and both resume nonces. -/
  secret : List Byte
  nonceSent : List Byte
  /-- When GRACE expires. -/
  graceAt : Option Nat
  /-- R317: keys, frame counts and tag failures under the present key. -/
  keyTx : List Byte
  keyRx : List Byte
  sentUnder : Nat
  gotUnder : Nat
  tagFails : Nat
  /-- R306, R307, R311: next SEQ, the replay buffer oldest first, the Watch of the last progress, and timeouts in a row. -/
  seq : Nat
  buf : List TxEntry
  ackAt : Nat
  timeouts : Nat
  /-- R308: E, the SEQs received ahead of it, whether any frame has come, and the NAK to send (first SEQ, count). -/
  expect : Nat
  got : List Nat
  ackValid : Bool
  nak : Option (Nat × Nat)
  /-- R308: missing SEQs that have been requested already. -/
  asked : List Nat
  /-- R313. -/
  offIn : Bool
  offOut : Bool
  rxBulk : List BulkFlit
  bulkQ : List BulkFlit
  late : List LateFlit
  /-- R271, R313: Scheduled flits in the receiver's staging buffer: the Watch at which each leaves its channel stage. -/
  staged : List Nat
  /-- R366: frames received, and half-flits corrected, since the last detour test. -/
  frames : Nat
  fec : Nat
  /-- Watch counts of the errors that R319 counts. -/
  errAt : List Nat
  /-- Scheduled transit occupancies of the transmitter, by start (R272, R289). -/
  occ : List Nat
  deriving DecidableEq, Repr

/-- A SEND's flit in the departure buffer (R282). -/
structure DepFlit where
  /-- Physical link, origin Flash and departure Watch of its slot. -/
  link : Nat
  origin : Nat
  due : Nat
  stag : Nat
  index : Nat
  tally : Nat
  payload : List Byte
  deriving DecidableEq, Repr

/-- A flit in the landing buffer (R283, R285). -/
structure LandFlit where
  stag : Nat
  index : Nat
  tally : Nat
  payload : List Byte
  /-- Origin Flash. -/
  origin : Nat
  /-- R272, R285: the Watch from which a RECV may take it: its landing, or in Strict Timing its release; and whether it has come. -/
  release : Nat
  free : Bool
  deriving DecidableEq, Repr

/-- The buffers of a Port engine. -/
structure Port where
  dep : List DepFlit
  land : List LandFlit
  deriving DecidableEq, Repr

/-- R251 to R257: no partition, FORMING, FORMED. -/
inductive PartSt where
  | none | forming | formed
  deriving DecidableEq, Repr

/-- The partition that the chip belongs to, or the single-chip partition (R255). -/
structure Part where
  st : PartSt
  /-- The 144-byte record and its hash. -/
  record : List Byte
  hash : List Byte
  pid : Nat
  rank : Nat
  chips : Nat
  /-- Logical coordinates and extents. -/
  self : List Nat
  shape : List Nat
  /-- The 512-byte Sector table (R257). -/
  sector : List Byte
  /-- At the head Keeper: ranks whose matching reports have arrived, and a rank whose report differed (R253). -/
  reports : List Nat
  differed : Option Nat
  deadline : Nat
  /-- R263, R264: active detour records, 32 bytes each. -/
  detours : List (List Byte)
  deriving DecidableEq, Repr

/-- A domain block (R333), with the Watch count and path delay of its arrival. -/
structure TimeBlk where
  gmid : Nat
  steps : Nat
  gmclass : Nat
  leap : Nat
  /-- ORIGIN as sent, 32 bits. -/
  origin : Nat
  /-- CORRECTION, in units of 2^-16 ns. -/
  corr : Int
  anchorSec : Nat
  utc : Int
  anchorNs : Nat
  anchorFrac : Nat
  inc : Nat
  at_ : Nat
  path : Nat
  deriving DecidableEq, Repr

/-- What the chip knows of one domain (R336 to R339). -/
structure Dom where
  /-- Latest block received on each link with the VALID flag. -/
  seen : Tbl TimeBlk
  upstream : Option Nat
  blk : Option TimeBlk
  /-- Delivered an accepted block within the last 8 control periods. -/
  valid : Bool
  offset : Int
  /-- Offsets of the latest consecutive valid syncs, newest first, at most 64. -/
  syncs : List Int
  eligible : Bool
  /-- Held offset D of an adoption or switch (R338). -/
  held : Int
  /-- This chip stopped originating the domain (R337). -/
  yielded : Bool
  deriving DecidableEq, Repr

/-- R336: servo states, 0 to 3 in this order. -/
inductive Servo where
  | free | acquire | locked | holdover
  deriving DecidableEq, Repr

/-- Fabric time on this chip (R329 to R346). -/
structure TimeSt where
  servo : Servo
  /-- The active domain is B. -/
  actB : Bool
  domA : Dom
  domB : Dom
  /-- Consecutive syncs with |offset| ≤ 2, and with |offset| > 4. -/
  good : Nat
  bad : Nat
  /-- D in force: the servo's target, and what ToD takes from W (R338). -/
  target : Int
  /-- Syncs measured so far on an adopted interim grandmaster, and whether one is followed (R339). -/
  interim : Bool
  /-- Index of the free value that is the present trim of the fabric reference. -/
  trim : Nat
  /-- A step of the Watch that waits for the next reference pulse (R331). -/
  stepBy : Option Int
  /-- R332, R333: ToD anchor in force at a grandmaster: W_a, seconds, nanoseconds, fraction. -/
  anchorW : Nat
  anchorSec : Nat
  anchorNs : Nat
  anchorFrac : Nat
  /-- A host write of TIM_TOD_SEC that waits for the next second boundary. -/
  secWrite : Option Nat
  utc : Int
  leap : Nat
  /-- R340: edges in a row at the right spacing, Watch of the last edge, validity. -/
  ppsRun : Nat
  ppsAt : Option Nat
  ppsValid : Bool
  /-- R341: the last good TOD message's Watch, and bad messages counted. -/
  todAt : Option Nat
  todBad : Nat
  todMsg : Option (List Byte)
  todLost : Bool
  /-- R343: PPS_OUT is high since, and a TOD_TX message is due. -/
  ppsHigh : Option Nat
  todDue : Option Nat
  deriving DecidableEq, Repr

/-- R333, R344, R358: a GO block. -/
structure GoBlk where
  pid : Nat
  bank : Nat
  watch : Nat
  job : Nat
  deriving DecidableEq, Repr

/-- R303: a Bulk message under reassembly at this Keeper. -/
structure BulkMsg where
  src : Nat
  msgid : Nat
  bchan : Nat
  /-- Flits by INDEX: the valid bytes. -/
  parts : Tbl (List Byte)
  /-- INDEX of the LAST flit, when it has come. -/
  last : Option Nat
  deriving DecidableEq, Repr

/-- R171, R304: a fork value to forward: FORK_ID, step and v. -/
structure ForkMsg where
  id : Nat
  step : Nat
  value : Nat
  deriving DecidableEq, Repr

/-- The fabric side of the module. -/
structure Fab where
  /-- Sampled strap coordinates c0 to c3, and whether they are valid (R245, R246). -/
  pos : List Nat
  posOk : Bool
  links : Tbl Link
  ports : Tbl Port
  part : Part
  time : TimeSt
  /-- The GO block that the chip sends in its control Flashes (R344, R358). -/
  go : Option GoBlk
  /-- Fork value to send, and the member links on which it still has to go out (R269). -/
  fork : Option ForkMsg
  forkLinks : List Nat
  /-- R303: this Keeper's own flits that wait for room in a Bulk queue, and its next message number. -/
  outbox : List BulkFlit
  msgid : Nat
  bulk : List BulkMsg
  /-- Keys (SRC, MSGID) of messages already handed over, newest first, for duplicates (R303). -/
  bulkDone : List (Nat × Nat)
  /-- R367: the Leading pair: the record and the physical pair link; comparison state. -/
  leading : Option (List Byte)
  pairLink : Option Nat
  comparing : Bool
  /-- Entries sent by the counterpart and own committed entries that wait for comparison (R369). -/
  leadOwn : List (List Byte)
  leadTheirs : List (List Byte)
  /-- L received from the other head Keeper (R368). -/
  leadLaunch : Option Nat
  deriving DecidableEq, Repr

end Sys2Proof.Machine
end

