-- ==== Sys2Proof/Machine/JobState.lean ====
section
/-! DEFINITION. The parts of the state that the Keeper's host interface owns: queues and completions (R402 to R404, R414), jobs and
their launch (R405 to R411, R344), host DMA (R408), and the Ledger store's certificates in the making (R387 to R390). -/

namespace Sys2Proof.Machine

/-- Where a command came from, for its completion (R410, R412). -/
structure CmdFrom where
  mctp : Bool
  sqIndex : Nat
  tag : Nat
  resultPtr : Nat
  deriving DecidableEq, Repr

/-- R403, R404: ring state of a queue pair; its configuration stands in the PCI registers. -/
structure Queue where
  enabled : Bool
  error : Bool
  sqHead : Nat
  sqTail : Nat
  /-- Head reported in the last completion. -/
  sqReported : Nat
  cqHead : Nat
  cqTail : Nat
  phase : Bool
  /-- Completions that wait for room, 64 bytes each with PHASE 0, and vectors do not change. -/
  comps : List (List Byte)
  deriving DecidableEq, Repr

/-- R407: a buffer entry. -/
structure BufEnt where
  rank : Nat
  tensor : Nat
  kind : Nat
  off : Nat
  len : Nat
  host : Nat
  deriving DecidableEq, Repr

/-- R405: a job, with where its record was taken. -/
structure Job where
  queue : Nat
  sqIndex : Nat
  record : List Byte
  patches : List (Nat × Nat)
  bufs : List BufEnt
  deriving DecidableEq, Repr

/-- R408: one host DMA copy: into device memory before L, or out to the host in DRAINING. -/
structure Dma where
  out : Bool
  space : Nat
  addr : Nat
  len : Nat
  host : Nat
  started : Nat
  deriving DecidableEq, Repr

/-- The job in force on this module. -/
structure Active where
  job : Job
  /-- Taken from a job queue of this module (the head Keeper), or received in PREPARE. -/
  own : Bool
  /-- R344 step 1: replies received, by rank; the L of a Leading partner. -/
  replies : List PrepareReply
  /-- L, when it has been chosen or received. -/
  launch : Option Nat
  /-- The switch of R238 is in progress, or complete. -/
  switching : Bool
  switched : Bool
  /-- A late launch has been raised (R345). -/
  lateLaunch : Bool
  dma : List Dma
  /-- A host DMA failed in DRAINING (R408). -/
  dmaFailed : Bool
  /-- Hashes of R381 and R382, 32 bytes each. -/
  inputHash : List Byte
  outputHash : List Byte
  darkHash : List Byte
  placeHash : List Byte
  /-- END_OFFSET, END_CODE, original cause and rank of the detecting chip. -/
  endOffset : Nat
  endCode : Nat
  cause : Nat
  causeRank : Nat
  steps : Nat
  replays : Nat
  /-- F_q of the launch, the largest that PREPARE has named (R227). -/
  fq : Nat
  /-- R264: this chip would take part in two detours. -/
  clash : Bool
  deriving DecidableEq, Repr

/-- An ended job whose certificate or completion is still due (R387, R389, R414). -/
structure Ended where
  slot : Nat
  jobId : Nat
  pid : Nat
  /-- This member's logical rank in the job. -/
  rank : Nat
  chips : Nat
  /-- Length of the record in the slot, and its hash. -/
  recLen : Nat
  recHash : List Byte
  /-- Member certificate signed; partition certificate written or given up. -/
  signed : Bool
  parted : Bool
  /-- R438: its signature was in progress when a scope withheld the Daymark, and so completes. -/
  begun : Bool
  /-- At the head Keeper: member certificates by rank. -/
  certs : Tbl (List Byte)
  endedAt : Nat
  /-- Where the completion goes: the job queue, and the 64-byte record with FLAGS and SLOT still to set. -/
  queue : Option Nat
  comp : List Byte
  deriving DecidableEq, Repr

/-- The Keeper's host side. -/
structure JobSt where
  queues : Tbl Queue
  /-- Jobs accepted and waiting, in the order in which they were taken from their queues. -/
  waiting : List Job
  /-- The queue served last (R409). -/
  lastQ : Nat
  active : Option Active
  ended : List Ended
  /-- R387: records held under Strict Timing while a job is RUNNING, oldest first, each with what ends its job. -/
  deferred : List (Ended × List Byte)
  /-- The END_JOB commands that wait for their job to end: JOB_ID and origin. -/
  endCmds : List (Nat × CmdFrom)
  /-- R370: the Keeper has halted. -/
  halted : Bool
  /-- Queued loads: bank commands' origins, by bank; Mooring seals, by Mooring; the PARTITION_FORM command. -/
  bankCmd : Tbl CmdFrom
  moorCmd : Tbl CmdFrom
  formCmd : Option CmdFrom
  deriving DecidableEq, Repr

end Sys2Proof.Machine
end

