-- ==== Sys2Proof/Machine/KeeperState.lean ====
section
/-! DEFINITION. The parts of the state that the Keeper, the power controller and the pins own: fuses and flash (R420, R421), boot
(R422 to R424), ownership and debug (R429 to R437), firmware update (R441 to R450), power (R454 to R467), clocks (R325), DRAM refresh
(R187) and pins (R492 to R502): plain data only. -/

namespace Sys2Proof.Machine

/-- R415: the lifecycle states, 0 to 9 in this order. -/
inductive Life where
  | off | keep | ready | loaded | armed | running | held | draining | updating | faulted
  deriving DecidableEq, Repr

/-- R421: the fuse array; DARK and the grade counts stand in the FUS_DARK_STATION_n registers. -/
structure Fuses where
  chipId : List Byte
  /-- DAYMARK_SEED, which only the cryptographic unit reads. -/
  seed : Nat
  kill : Bool
  vendorHash : List (List Byte)
  revoked : Nat
  svn : Nat
  epoch : Nat
  lifecycle : Nat
  grade : Nat
  deriving DecidableEq, Repr

/-- R420: flash regions. -/
structure Flash where
  relightA : Bundle
  relightB : Bundle
  active : Bundle
  fallback : Bundle
  /-- R426: the Daymark chain, and the owner chain of slot 1. -/
  identity : List Byte
  identityOk : Bool
  deriving DecidableEq, Repr

/-- R439: what the boot left. -/
structure Boot where
  /-- 0 ACTIVE, 1 FALLBACK, 2 ROM recovery. -/
  source : Nat
  relightB : Bool
  svn : Nat
  fwSet : Nat
  lastCode : Nat
  /-- The bundle and the Relight copy that booted. -/
  bundle : Bundle
  relight : Bundle
  deriving DecidableEq, Repr

/-- R429: an owner key. -/
structure OwnerKey where
  key : List Byte
  roles : Nat
  deriving DecidableEq, Repr

/-- R429 to R437: ownership, the nonce and the debug scopes. -/
structure Sec where
  owned : Bool
  /-- The stored record failed R429. -/
  recordBad : Bool
  /-- OWNER_EPOCH of the stored record, and whether its tag verifies. -/
  epoch : Nat
  tagOk : Bool
  policy : Nat
  lock : Bool
  keys : List OwnerKey
  ownerCert : Option (List Byte)
  /-- The outstanding nonce and the time at which it expires. -/
  nonce : Option (List Byte × Nat)
  /-- Open scopes, bit s. -/
  debugOpen : Nat
  deriving DecidableEq, Repr

/-- R445: states of the update record, 0 to 6 in this order. -/
inductive UpRec where
  | idle | copying | writing | written | trial | confirming | reverting
  deriving DecidableEq, Repr

/-- R441 to R450: where an open PLDM update stands. -/
inductive UpPhase where
  | closed | requested | transfer | writeFallback | writeActive | applied
  deriving DecidableEq, Repr

/-- R441 to R450: the update record and the update in progress. -/
structure Upd where
  rec_ : UpRec
  phase : UpPhase
  /-- The state the module left. -/
  left : Life
  oldDigest : List Byte
  newDigest : List Byte
  /-- Settings formats, and whether the new one stands beside the old (R448). -/
  oldFormat : Nat
  newFormat : Nat
  both : Bool
  trialAt : Option Nat
  maxTransfer : Nat
  size : Nat
  /-- Bytes staged so far, failures at this offset, and when the last expected thing came. -/
  bytes : List Byte
  fails : Nat
  lastAt : Nat
  staged : Option Bundle
  /-- The present flash write has been tried again (R444). -/
  retried : Bool
  /-- What a revert reports in CAUSE. -/
  cause : Nat
  deriving DecidableEq, Repr

/-- R454 to R467: the power controller. -/
structure Pwr where
  mvA : Nat
  mvB : Nat
  onB : Bool
  single : Bool
  band : Nat
  /-- Since when the temperatures allow the next band up. -/
  coolAt : Option Nat
  kt : Nat
  /-- Since when the input has stayed below 95 % of the cap. -/
  lowAt : Option Nat
  /-- Input readings of the last second, newest first: Watch and watts. -/
  readings : List (Nat × Nat)
  /-- Since when the input is above 1,150 W, Tj above 105 °C and Td above 95 °C. -/
  peakAt : Option Nat
  tjAt : Option Nat
  tdAt : Option Nat
  /-- When the temperatures were last read. -/
  tempAt : Nat
  tj : Nat
  td : Nat
  hot : Nat
  /-- A trip has happened since the last reset, with its code. -/
  trip : Option Nat
  /-- The rails of R467 are off in FAULTED. -/
  railsOff : Bool
  /-- R456: the brown-out flag, in the controller's own memory. -/
  brownout : Bool
  deriving DecidableEq, Repr

/-- R325: the clock of a Station. -/
structure Clk where
  locked : Bool
  k : Nat
  /-- R325: the Station's detectors see the droop now. -/
  droops : Bool
  /-- R348: the Watch count at which k last changed, from which the stretched clocks count. -/
  since : Nat
  deriving DecidableEq, Repr

/-- R187: the DRAM of a Station: refresh by self-refresh, and the temperature last read. -/
structure DramSt where
  selfRefresh : Bool
  temp : Nat
  /-- Per channel: when its last refresh began, and the line that the patrol reads next (R186). -/
  refreshed : Tbl Nat
  patrol : Tbl Nat
  /-- R186: lines that the patrol corrected and that wait for their write-back. -/
  pending : List Nat
  deriving DecidableEq, Repr

/-- Pins and the JTAG port (R492 to R502). -/
structure Pins where
  /-- PERST_N and WARM_RST_N are low. -/
  perst : Bool
  warm : Bool
  /-- CBL_3V3 of each fabric connector. -/
  cblPower : Tbl Bool
  /-- PCI Express training: 0 none, 1 to 4 as PCI_STATUS.RATE, and the width. -/
  pciRate : Nat
  pciWidth : Nat
  /-- R396: BAR2 has 2^bar2Log2 bytes, 30 to 38. -/
  bar2Log2 : Nat
  /-- Selected JTAG instruction: 0 IDCODE, 1 BYPASS, 2 SAMPLE, 3 PRELOAD, 4 EXTEST. -/
  tap : Nat
  deriving DecidableEq, Repr

/-- What the Keeper, the power controller and the pins own. -/
structure Kpr where
  fuses : Fuses
  flash : Flash
  boot : Boot
  sec : Sec
  upd : Upd
  pwr : Pwr
  clk : Tbl Clk
  dram : Tbl DramSt
  pins : Pins
  /-- R447: the Watch count at which the activation pause ends. -/
  pauseUntil : Nat
  /-- R327: forwarded clock mode, from the boot setting CLOCK_MODE. -/
  forwarded : Bool
  /-- R72, R474: stepping of the silicon: 1 A1, 2 B0. -/
  stepping : Nat
  deriving DecidableEq, Repr

end Sys2Proof.Machine
end

