-- ==== Sys2Proof/Machine/State.lean ====
section
/-! DEFINITION. The state of the S9 (one module), the reasons a command can stop, and the state after reset. -/

namespace Sys2Proof.Machine

/-- What the block has put on its buses and pins: the model's own record, newest first. -/
inductive Out where
  /-- A status code reported by the block of a page (R11). -/
  | report (code page : Nat)
  /-- What a notice names beside its code: links, records, units (R362, R366). -/
  | notice (code : Nat) (names : List Nat)
  /-- An MSI-X message on a vector (R399). -/
  | msix (vec : Nat)
  /-- Bytes returned to a read. -/
  | data (bytes : List Byte)
  /-- A write to host memory. -/
  | hostWrite (addr : Nat) (bytes : List Byte)
  /-- The 280 bytes of a frame on a link's wire (R298). -/
  | wire (l : Nat) (bytes : List Byte)
  /-- A TRAIN frame of a link in a training state (R314); the spec gives its message no layout. -/
  | train (l state : Nat)
  /-- A Keeper management message to a member's rank, a head Keeper or a counterpart; the spec gives it no wire layout. -/
  | msg (dest : Nat) (name : String) (data : List Byte)
  /-- A reassembled Bulk message handed to its endpoint (R303). -/
  | bulk (bchan src : Nat) (bytes : List Byte)
  /-- A level on a pin (R492 to R502). -/
  | pin (name : String) (level : Nat)
  /-- A message on a management bus: SPDM, PLDM, Berwamen, SMBus, JTAG, TOD_TX. -/
  | reply (bus : String) (bytes : List Byte)
  deriving DecidableEq, Repr

/-- Why a command stops with a fault. It has no constructors: the spec gives every command an effect, and what the hardware calls a
fault (R355) is a next state that records it. -/
inductive Fault where
  deriving DecidableEq, Repr

/-- Why a command is refused. -/
inductive Refusal where
  /-- No meaning written yet; safe. -/
  | notModelled (mnemonic : String)
  /-- JTAG_INSTRUCTION on the Keeper cores' debug module under an open KEEPER scope; safe. -/
  | jtagKeeperAccess
  deriving DecidableEq, Repr

/-- The state of one module. -/
structure State where
  /-- Commands that wait, first in, first out (the model's own queue). -/
  pending : List Instr
  /-- The Watch, in ticks (R330). -/
  watch : Nat
  /-- Counter behind free values (the model's own): the next one; number 0 is the trim of the servo at reset. -/
  free : Nat
  out : List Out
  life : Life
  /-- Stored BAR0 words by address; an unlisted word holds its reset value (R474). -/
  regs : Tbl Nat
  /-- R472: latched high words and staged low words, by register address. -/
  latched : Tbl Nat
  staged : Tbl Nat
  sram : Mem
  dram : Mem
  /-- Instruction Stores (R111): bank b of Station n from n × 0x200_0000 + b × 0x20_0000, 64 bytes a slot; R239 bounds what all banks
  hold together. -/
  istore : Mem
  /-- Bad bits of SRAM words by word address: 1 or 2 (R183). -/
  sramEcc : Tbl Nat
  /-- Bad symbols of DRAM codewords by their 64-byte address (R185). -/
  dramEcc : Tbl (List Nat)
  /-- Uncorrectable Instruction Store words by byte address (R114). -/
  istoreBad : List Nat
  /-- Corrections per channel × 36 + symbol in this patrol pass (R186). -/
  symCount : Tbl Nat
  stations : Tbl Station
  lanterns : Tbl Lantern
  wicks : Tbl Wick
  engs : Tbl Engine
  chipFlags : Tbl Nat
  hostMask : Nat
  /-- Scoreboard entries (R158): alias group a at key a, a handle of no group at 0x1000000 + Station × 4096 + index. -/
  sb : Tbl SbEntry
  banks : Tbl Bank
  moorings : Tbl Mooring
  run : Run
  ck0 : Option CkSlot
  ck1 : Option CkSlot
  recov : Recov
  fab : Fab
  led : Led
  jobs : JobSt
  kpr : Kpr
  deriving DecidableEq, Repr

def unitReset : UnitSt := ⟨.enabled, none, .powerGated, false, false, false, 0, 0, 0, false⟩

/-- No job in force (R209, R274). -/
def runReset : Run :=
  { bank := 0, mooring := none, bound := none, l1024 := 0, fq := 1024, step := 0, rec_ := 0, start := 0, replay := false
    forkId := none, forkValue := none, hostBufs := [], endStep := none, gen := 0, grid := 0, leadLog := [] }

/-- No hold, no fault (R355). -/
def recovReset : Recov :=
  { faults := [], holds := [], target := none, sends := [], restoring := false
    rolledBack := false, origin := none, replaying := [], begun := [], noReplay := none, terminal := none, committed := 0
    copying := none, swapped := [], linkTestAt := 0 }

/-- R255, R257: the Sector table of the single-chip partition at the coordinates given. -/
def singleSector (phys : List Nat) : List Byte :=
  List.replicate 8 0 ++ List.replicate 4 1 ++ List.replicate 4 0 ++ (phys.map fun c => BitVec.ofNat 8 c) ++ List.replicate 12 0 ++
    ((List.range 4).flatMap fun _ => (0xFE : Byte) :: List.replicate 31 0xFF) ++ List.replicate 128 0xFF ++ List.replicate 224 0

/-- R255: a chip in no partition runs as the single-chip partition of rank 0. -/
def partReset : Part :=
  { st := .none, record := [], hash := List.replicate 32 0, pid := 0, rank := 0, chips := 1, self := [0, 0, 0, 0]
    shape := [1, 1, 1, 1], sector := singleSector [0, 0, 0, 0], reports := [], differed := none, deadline := 0, detours := [] }

def domReset0 : Dom :=
  { seen := [], upstream := none, blk := none, valid := false, offset := 0, syncs := [], eligible := false, held := 0
    yielded := false }

/-- R336, R347: fabric time after reset: FREE, no domain, INC at its reset value. -/
def timeReset : TimeSt :=
  { servo := .free, actB := false, domA := domReset0, domB := domReset0, good := 0, bad := 0, target := 0, interim := false
    trim := 0, stepBy := none, anchorW := 0, anchorSec := 0, anchorNs := 0, anchorFrac := 0, secWrite := none, utc := 0
    leap := 0, ppsRun := 0, ppsAt := none, ppsValid := false, todAt := none, todBad := 0, todMsg := none, todLost := false
    ppsHigh := none, todDue := none }

/-- R314: every link DOWN; no coordinates (assumption 12). -/
def fabReset : Fab :=
  { pos := [0, 0, 0, 0], posOk := true, links := [], ports := [], part := partReset, time := timeReset, go := none
    fork := none, forkLinks := [], bulk := [], bulkDone := [], outbox := [], msgid := 0, leading := none, pairLink := none, comparing := false
    leadOwn := [], leadTheirs := [], leadLaunch := none }

def ledReset : Led :=
  { checks := [], events := [], eventsLost := 0, taps := [], tapsLost := 0, late := 0, hostFed := false }

/-- R403: every queue pair disabled; no job. -/
def jobsReset : JobSt :=
  { queues := [], waiting := [], lastQ := 63, active := none, ended := [], deferred := [], endCmds := []
    halted := false, bankCmd := [], moorCmd := [], formCmd := none }

/-- An erased or absent object. -/
def noBundle : Bundle :=
  { present := false, keyslot := 0, svn := 0, fwSet := 0, digests := [], components := [], revoke := 0, raiseSvn := none
    settingsFormat := 0, settingsFrom := 0, deviceId := 0, hasRelight := false, relight := [], debugKeys := [], key := []
    manifest := [], signature := [] }

/-- The module's own firmware at State.reset (DESIGN CHOICE, assumption 12). -/
def factoryBundle : Bundle := { noBundle with present := true, fwSet := 1, deviceId := 0x5390 }

/-- R441: no update. -/
def updReset : Upd :=
  { rec_ := .idle, phase := .closed, left := .keep, oldDigest := [], newDigest := [], oldFormat := 0, newFormat := 0
    both := false, trialAt := none, maxTransfer := 0, size := 0, bytes := [], fails := 0, lastAt := 0, staged := none
    retried := false, cause := 0 }

/-- R469: the power controller after reset; both feeds at 56 V (assumption 12). -/
def pwrReset : Pwr :=
  { mvA := 56000, mvB := 56000, onB := false, single := false, band := 0, coolAt := none, kt := 0, lowAt := none
    readings := [], peakAt := none, tjAt := none, tdAt := none, tempAt := 0, tj := 0, td := 0, hot := 0, trip := none
    railsOff := false, brownout := false }

/-- R420 to R439: the Keeper of a production module that booted ACTIVE, with no owner (assumption 12). -/
def kprReset : Kpr :=
  { fuses := { chipId := List.replicate 16 0, seed := 0, kill := false, vendorHash := List.replicate 4 (List.replicate 32 0)
               revoked := 0, svn := 0, epoch := 0, lifecycle := 1, grade := 0 }
    flash := { relightA := factoryBundle, relightB := factoryBundle, active := factoryBundle, fallback := factoryBundle
               identity := [], identityOk := true }
    boot := { source := 0, relightB := false, svn := 0, fwSet := 1, lastCode := 0, bundle := factoryBundle
              relight := factoryBundle }
    sec := { owned := false, recordBad := false, epoch := 0, tagOk := true, policy := 0, lock := false, keys := [], ownerCert := none, nonce := none
             debugOpen := 0 }
    upd := updReset
    pwr := pwrReset
    clk := []
    dram := []
    pins := { perst := false, warm := false, cblPower := [], pciRate := 0, pciWidth := 0, bar2Log2 := 38, tap := 0 }
    pauseUntil := 0
    forwarded := false
    stepping := 1 }

/-- R415, R481: the machine after the cold reset of its power-up: KEEP, every register at its reset value, memory with nothing
listed. -/
def State.reset : State :=
  { pending := [], watch := 0, free := 1, out := [], life := .keep, regs := [], latched := [], staged := [], sram := []
    dram := [], istore := [], sramEcc := [], dramEcc := [], istoreBad := [], symCount := [], stations := [], lanterns := []
    wicks := [], engs := [], chipFlags := [], hostMask := 0, sb := [], banks := [], moorings := [], run := runReset
    ck0 := none, ck1 := none, recov := recovReset, fab := fabReset, led := ledReset, jobs := jobsReset, kpr := kprReset }

end Sys2Proof.Machine
end

