-- ==== Sys2Proof/Machine/Ops.lean ====
section
/-! DEFINITION. The named operations over the state: registers and events (R472 to R479), detected faults (R355), access to
SRAM and DRAM under their codes (R183, R185), and block Tallies (R189, R192). -/

namespace Sys2Proof.Machine

/-- What a command answers. -/
abbrev Res := Host.Outcome State Fault Refusal

/-- Something put on a bus or pin. -/
def emit (o : Out) (s : State) : State := { s with out := o :: s.out }

/-- A status code reported by the block of a page (R11). -/
def report (code page : Nat) (s : State) : State := emit (.report code page) s

/-- A fresh free value's index (the model's own counter). -/
def bumpFree (s : State) : State := { s with free := s.free + 1 }

/-- Stored value of the BAR0 word at an address, or its reset value. -/
def regGet (s : State) (a : Nat) : Nat := (tget? s.regs a).getD (regReset a)

/-- Hardware places a value in a BAR0 word. -/
def regPut (a v : Nat) (s : State) : State := { s with regs := tput s.regs a v }

/-- Hardware adds 1 to a saturating 32-bit counter. -/
def regCount (a : Nat) (s : State) : State := regPut a (satInc (regGet s a)) s

/-- Hardware adds to a 64-bit counter in two words; it wraps. -/
def regAdd64 (a n : Nat) (s : State) : State :=
  let v := (regGet s a + 2 ^ 32 * regGet s (a + 4) + n) % 2 ^ 64
  regPut (a + 4) (v / 2 ^ 32) (regPut a (v % 2 ^ 32) s)

/-- Hardware places a 64-bit value. -/
def regPut64 (a v : Nat) (s : State) : State := regPut (a + 4) (v / 2 ^ 32 % 2 ^ 32) (regPut a (v % 2 ^ 32) s)

/-- R479: the summary bit of a page. -/
def summaryOn (s : State) (p : Nat) : Bool :=
  Nat.land (regGet s (pageBase p + 0x18)) (regGet s (pageBase p + 0x1C)) != 0

/-- R479: MSI-X vector 1 when the summary bit of a page rises. -/
def afterSummary (p : Nat) (was : Bool) (s : State) : State :=
  if !was && summaryOn s p then emit (.msix 1) s else s

/-- R476, R477: a unit sets an EVENT bit; the captures load when every bit was 0. -/
def setEvent (p bit a b c : Nat) (s : State) : State :=
  let base := pageBase p
  let s1 := if regGet s (base + 0x18) = 0
    then regPut (base + 0x2C) c (regPut (base + 0x28) b (regPut (base + 0x24) a s)) else s
  afterSummary p (summaryOn s p) (regPut (base + 0x18) (orBit (regGet s (base + 0x18)) bit) s1)

/-- An event that a status code names: the report and the EVENT bit with its captures. -/
def raise (code p bit a b c : Nat) (s : State) : State := setEvent p bit a b c (report code p s)

/-- R24, R475: an action refused in the present state, recorded with 0x2040 in the PCI page. -/
def conflict (queue addr : Nat) (s : State) : State :=
  raise 0x2040 pgPci 1 (0x2040 + queue * 2 ^ 16) (addr % 2 ^ 32) (addr / 2 ^ 32 % 2 ^ 32) s

/-- R482: pages served while the rails are off. -/
def servedOff : PageKind → Bool
  | .kpr | .kprSec | .kprUpd | .kprRcv | .kprLdg | .fus | .pwr | .pci => true
  | _ => false

/-- R482: the rails of the other pages are off. -/
def railsOff (s : State) : Bool := s.life = .keep || s.life = .off || s.kpr.pwr.railsOff

/-- R447, R496: the activation pause, or a reset pin that is low: the module stays in reset and the PCI Express link is down, so nothing
is served. -/
def paused (s : State) : Bool := decide (s.watch < s.kpr.pauseUntil) || s.kpr.pins.perst || s.kpr.pins.warm

/-- R447, R471, R482: what a host write to a page meets before its effect: the activation pause, and rails that are off. -/
def hostWrite (p a : Nat) (act : State → State) (s : State) : State :=
  if paused s || s.life = .off then s
  else if railsOff s && !servedOff (pageKind p).1 then conflict 0x7F a s
  else act s

/-- R436, R437: an open debug scope withholds the Daymark. -/
def withheld (s : State) : Bool := bitAt s.kpr.sec.debugOpen 1 || bitAt s.kpr.sec.debugOpen 2

/-- R428, R437: the Daymark is killed or withheld. -/
def daymarkOff (s : State) : Bool := s.kpr.fuses.kill || withheld s

/-- R385: pair i of the CHECKS counts: one check performed, and whether it failed. -/
def chk (i : Nat) (failed : Bool) (s : State) : State :=
  let c := tput s.led.checks (2 * i) (nget s.led.checks (2 * i) + 1)
  { s with led := { s.led with checks := if failed then tput c (2 * i + 1) (nget c (2 * i + 1) + 1) else c } }

/-- R385: one failure more of a pair whose check is counted elsewhere. -/
def chkFail (i : Nat) (s : State) : State :=
  { s with led := { s.led with checks := tput s.led.checks (2 * i + 1) (nget s.led.checks (2 * i + 1) + 1) } }

/-- R385: an ECC correction (pair 4), or an uncorrectable read. -/
def chkEcc (bad : Bool) (s : State) : State :=
  let k := 8 + b2n bad
  { s with led := { s.led with checks := tput s.led.checks k (nget s.led.checks k + 1) } }

/-- R371: FOG_N is driven low and MSI-X vector 0 is sent; the first cause is recorded. -/
def assertFog (cause : Nat) (s : State) : State :=
  let a := pageBase pgRcv + 0x60
  let v := regGet s a
  if bitAt v 0 then s else emit (.msix 0) (emit (.pin "FOG_N" 0) (regPut a (1 + cause * 2 ^ 16) s))

/-- R371: FOG_N is high-impedance again; the cause stays to be read. -/
def releaseFog (s : State) : State :=
  let a := pageBase pgRcv + 0x60
  if bitAt (regGet s a) 0 then emit (.pin "FOG_N" 1) (regPut a (regGet s a / 2 ^ 16 * 2 ^ 16 + 2) s) else s

/-- R355: a detecting unit's fault waits for its report to the hold unit. -/
def detect (code : Nat) (at_ : FaultAt) (tile : Option (Nat × Nat)) (s : State) : State :=
  { s with recov := { s.recov with faults := s.recov.faults ++ [⟨code, s.run.step, at_, tile⟩] } }

/-! ### Units by number -/

def ekey (g : Eng) : Nat := g.st.val * 17 + g.e.val

def engReset : Engine :=
  ⟨false, false, 0, [], [], [], [], [], none, false, false, none, false, none, false, none, [], 0, 0⟩

/-- An engine of a Station by number; 16 when out of range. -/
def engAt (n e : Nat) : Eng := ⟨Fin.ofNat 16 n, if h : e < 17 then ⟨e, h⟩ else 16⟩

def engOf (s : State) (g : Eng) : Engine := tget engReset s.engs (ekey g)
def putEng (g : Eng) (e : Engine) (s : State) : State := { s with engs := tput s.engs (ekey g) e }

def stationReset : Station := ⟨false, [], [], [], false, none, ⟨[], 0, 0, []⟩, [], 0⟩
def stnOf (s : State) (n : Nat) : Station := tget stationReset s.stations n
def putStn (n : Nat) (t : Station) (s : State) : State := { s with stations := tput s.stations n t }

/-- Physical Lantern p at reset: the lowest grade count enabled, the next the spare (R230). -/
def lanReset (p : Nat) : Lantern := ⟨{ unitReset with role := if p < 4 then .enabled else .spare }, none⟩
def lanOf (s : State) (n p : Nat) : Lantern := tget (lanReset p) s.lanterns (n * 5 + p)
def putLan (n p : Nat) (l : Lantern) (s : State) : State := { s with lanterns := tput s.lanterns (n * 5 + p) l }

def wickReset (p : Nat) : Wick :=
  { unit := { unitReset with role := if p < 8 then .enabled else .spare }
    x := [], f := [], v := [], pc := 0, vl := 0, vtype := 0x8000000000000000, vstart := 0, fcsr := 0, vxrm := 0, vxsat := false
    resv := none, xsseed := 0, lmem := [], resident := [], curves := [], inKernel := false, inv := 0, verified := [], dirty := []
    stalled := none, localFault := false }
def wickOf (s : State) (n p : Nat) : Wick := tget (wickReset p) s.wicks (n * 9 + p)
def putWick (n p : Nat) (w : Wick) (s : State) : State := { s with wicks := tput s.wicks (n * 9 + p) w }

def bankReset : Bank :=
  { st := .free, bytes := [], hash := [], img := none, fq := 1024, placement := none, installed := false, istoreBase := [],
    hostPtr := 0, strictHeld := false, staleOnLoad := false, bound := 0, failed := 0 }
def bankOf (s : State) (b : Nat) : Bank := tget bankReset s.banks b
def putBank (b : Nat) (k : Bank) (s : State) : State := { s with banks := tput s.banks b k }

def moorReset : Mooring :=
  { st := .empty, off := 0, len := 0, img := none, phys := [], strictHeld := false }
def moorOf (s : State) (m : Nat) : Mooring := tget moorReset s.moorings m
def putMoor (m : Nat) (k : Mooring) (s : State) : State := { s with moorings := tput s.moorings m k }

/-- Physical Lantern bound to logical number i in physical Station n (R17). -/
def lanPhys (s : State) (n i : Nat) : Option Nat :=
  findNat (fun p => (lanOf s n p).unit.logical == some i && (lanOf s n p).unit.role != .dark) 5 0

/-- Physical Wick pair bound to logical number i. -/
def wickPhys (s : State) (n i : Nat) : Option Nat :=
  findNat (fun p => (wickOf s n p).unit.logical == some i && (wickOf s n p).unit.role != .dark) 9 0

/-- R117: engine class of an engine index: 0 Lantern, 1 Wick pair, 2 Tender channel, 3 Port engine. -/
def engClass (e : Nat) : Nat := if e < 4 then 0 else if e < 12 then 1 else if e < 16 then 2 else 3

/-- The page of an engine's block (R485). -/
def engPage (s : State) (g : Eng) : Nat :=
  let c := engClass g.e
  if c = 0 then pgLnt g.st ((lanPhys s g.st g.e).getD g.e)
  else if c = 1 then pgWck g.st ((wickPhys s g.st (g.e - 4)).getD (g.e - 4))
  else if c = 2 then pgTnd g.st else pgPrt g.st

/-- EVENT bit of a status code in the page of an engine class (R79, R110, R205, R296). -/
def engBit (cls code : Nat) : Option Nat :=
  let l : List (Nat × Nat) :=
    if cls = 0 then [(0x2001, 0), (0x2062, 1), (0x2003, 2), (0x2060, 3), (0x2061, 4), (0x2063, 5), (0x2064, 6)]
    else if cls = 1 then [(0x2002, 0), (0x2003, 1), (0x2070, 2), (0x2071, 3), (0x2072, 4), (0x2073, 5), (0x2074, 6),
      (0x2030, 6), (0x2075, 7)]
    else if cls = 2 then [(0x2003, 0), (0x2092, 1), (0x2081, 2), (0x2074, 3), (0x2030, 3)]
    else [(0x2010, 0), (0x2011, 1), (0x2012, 2), (0x2003, 3), (0x2081, 4)]
  l.lookup code

/-- Raise a code in an engine's page, with its captures; a code without a bit there is only reported. So is 0x2050: R19 counts in "the
router's page", which R485 does not list, and the struck engine's page reports it without an EVENT bit (DESIGN CHOICE,
assumption 46). -/
def raiseEng (g : Eng) (code a b c : Nat) (s : State) : State :=
  match engBit (engClass g.e) code with
  | some bit =>
    -- R110: with the captures of a Wick pair; a kernel's own fault fills them in afterwards
    let page := pageBase (engPage s g)
    let s1 := if engClass g.e = 1 && regGet s (page + 0x18) = 0 then regPut64 (page + 0x48) 0 (regPut64 (page + 0x40) 0 s) else s
    raise code (engPage s g) bit a b c s1
  | none => report code (engPage s g) s

/-- The physical unit behind an engine, when it has a spare and a self-test (R71, R82). -/
def unitRefOf (s : State) (g : Eng) : FaultAt :=
  if engClass g.e = 0 then
    match lanPhys s g.st g.e with
    | some p => if h : p < 5 then .unit (.lantern g.st ⟨p, h⟩) else .eng g
    | none => .eng g
  else if engClass g.e = 1 then
    match wickPhys s g.st (g.e - 4) with
    | some p => if h : p < 9 then .unit (.wick g.st ⟨p, h⟩) else .eng g
    | none => .eng g
  else .eng g

/-! ### Memory under its codes -/

/-- Why an engine's access or check failed: the status code, the failing tile (space and byte address), a detail and, for a
Lantern, the row. -/
structure Fail where
  code : Nat
  tile : Option (Nat × Nat)
  detail : Nat
  row : Nat
  /-- A second code raised in the same clock (R77, R109), or 0. -/
  also : Nat := 0
  deriving DecidableEq, Repr

/-- A computation over the state that can fail: what it wrote before it failed stays written. -/
abbrev M (α : Type) := ExceptT Fail (StateM State) α

/-- Run a computation. -/
def M.go {α : Type} (x : M α) (s : State) : Except Fail α × State := x.run.run s

/-- Stop with a status code. -/
def failM {α : Type} (code : Nat) (tile : Option (Nat × Nat)) (detail row : Nat) : M α :=
  throw { code := code, tile := tile, detail := detail, row := row }

/-- Station that holds an SRAM address (R178). -/
def sramStn (a : Nat) : Nat := a / 0x4000000 % 16

/-- SRAM bank of an address (R182). -/
def sramBank (a : Nat) : Nat := a / 64 % 256

/-- DRAM channel of an address (R179). -/
def dramChan (a : Nat) : Nat := 16 * (a / 0x200000000 % 16) + a / 4096 % 16

/-- R204: SYNDROME of a bad SRAM word. The spec names no SECDED matrix, so it is a free value (assumption 51). -/
def syndrome (s : State) : Nat := (Config.freeValue s.free).toNat % 256

/-- R183: a corrected SRAM word counts, and notice 0x0031 is given at the limit of its bank (R204). -/
def sramCorrected (byScrub : Bool) (a : Nat) (s : State) : State :=
  let n := sramStn a
  let base := pageBase (pgSram n)
  let t := stnOf s n
  let k := nget t.scrub.perBank (sramBank a) + 1
  let s := chkEcc false (regCount (base + 0x48)
    (putStn n { t with scrub := { t.scrub with perBank := tput t.scrub.perBank (sramBank a) k } } s))
  if k = regGet s (base + 0x4C) then
    bumpFree (raise 0x0031 (pgSram n) 1 0x0031 (a % 0x4000000) (syndrome s + b2n byScrub * 256) s)
  else s

/-- R183: read one SRAM word: a single-bit error is corrected and written back, a double-bit error raises 0x2090.
The answer is whether the data is delivered. -/
def sramWord (byScrub : Bool) (a : Nat) (s : State) : Bool × State :=
  let w := a / 8 * 8
  let bad := nget s.sramEcc w
  if bad = 0 then (true, s)
  else if bad = 1 then (true, sramCorrected byScrub w { s with sramEcc := terase s.sramEcc w })
  else
    let n := sramStn w
    (false, bumpFree (raise 0x2090 (pgSram n) 2 0x2090 (w % 0x4000000) (syndrome s + b2n byScrub * 256)
      (regCount (pageBase (pgSram n) + 0x50) (chkEcc true s))))

/-- R186: the retired symbol position of a channel, if any. -/
def retiredSym (s : State) (ch : Nat) : Option Nat :=
  let v := regGet s (pageBase (pgDrm (ch / 16)) + 0x180 + 4 * (ch % 16))
  if bitAt v 6 then some (bits v 5 0) else none

/-- R185, R186: a corrected symbol counts; at the sixteenth in a pass its position is retired, with notice 0x0032, unless
the channel has retired one. -/
def dramCorrected (patrol : Bool) (a sym : Nat) (s : State) : State :=
  let ch := dramChan a
  let base := pageBase (pgDrm (ch / 16))
  let k := nget s.symCount (ch * 36 + sym) + 1
  let s := regCount (base + 0x100 + 4 * (ch % 16)) { chkEcc false s with symCount := tput s.symCount (ch * 36 + sym) k }
  if k = 16 && (retiredSym s ch).isNone then
    raise 0x0032 (pgDrm (ch / 16)) 0 (0x0032 + ch % 16 * 2 ^ 16) (a / 64 + b2n patrol * 2 ^ 31) sym
      (regPut (base + 0x180 + 4 * (ch % 16)) (sym + 64) s)
  else s

def dramReset : DramSt := ⟨true, 0, [], [], []⟩
def dramOf (s : State) (n : Nat) : DramSt := tget dramReset s.kpr.dram n
def putDramSt (n : Nat) (d : DramSt) (s : State) : State := { s with kpr := { s.kpr with dram := tput s.kpr.dram n d } }

/-- R186: a line that the patrol corrected waits for its write-back in an idle clock of its channel. -/
def awaitPatrol (c : Nat) (s : State) : State :=
  let d := dramOf s (dramChan c / 16)
  putDramSt (dramChan c / 16) { d with pending := d.pending.filter (· != c) ++ [c] } s

/-- R185, R186: read one DRAM codeword; `patrol` marks the scrubber. Two or more bad symbols beside the retired position
raise 0x2093. -/
def dramWord (patrol : Bool) (a : Nat) (s : State) : Bool × State :=
  let c := a / 64 * 64
  let ch := dramChan c
  let bad := (nub (tget [] s.dramEcc c)).filter (fun y => some y != retiredSym s ch)
  match bad with
  | [] => (true, s)
  | [y] => (true, dramCorrected patrol c y (if patrol then awaitPatrol c s else s))
  | y :: z :: _ =>
    (false, raise 0x2093 (pgDrm (ch / 16)) 1 (0x2093 + ch % 16 * 2 ^ 16) (c / 64 + b2n patrol * 2 ^ 31) (y + z * 64) (chkEcc true s))

/-- The Mooring whose copy holds a DRAM address. -/
def mooringAt (s : State) (a : Nat) : Option Nat :=
  findNat (fun m =>
    let k := moorOf s m
    let x := a % 0x200000000
    k.st != .empty && decide (k.off ≤ x) && decide (x < k.off + k.len)) 64 0

/-- R188: no recovery source: 0x2091 in the page of the memory, and a Mooring copy makes its Mooring FAILED. -/
def noSource (space a : Nat) (s : State) : State :=
  if space = 1 then
    let s1 := match mooringAt s a with
      | some m => putMoor m { moorOf s m with st := .failed } s
      | none => s
    raise 0x2091 (pgDrm (dramChan a / 16)) 2 (0x2091 + dramChan a % 16 * 2 ^ 16) (a / 64) 0 s1
  else raise 0x2091 (pgSram (sramStn a)) 3 0x2091 (a % 0x4000000) 0 s

/-- Check every word of an SRAM range. -/
def sramCheck : Nat → Nat → M Unit
  | 0, _ => pure ()
  | n + 1, w => do
    let s ← get
    let r := sramWord false w s
    set r.2
    if r.1 then sramCheck n (w + 8) else failM 0x2090 (some (0, w)) 0 0

/-- Check every codeword of a DRAM range. -/
def dramCheck : Nat → Nat → M Unit
  | 0, _ => pure ()
  | n + 1, w => do
    let s ← get
    let r := dramWord false w s
    set r.2
    if r.1 then dramCheck n (w + 64) else failM 0x2093 (some (1, w)) 0 0

/-- Read `n` bytes of a space (0 SRAM, 1 DRAM) under its code. -/
def readMem (space a n : Nat) : M (List Byte) := do
  if n = 0 then pure []
  else if space = 1 then do
    dramCheck ((a + n - 1) / 64 - a / 64 + 1) (a / 64 * 64)
    pure (rdN (← get).dram a n)
  else do
    sramCheck ((a + n - 1) / 8 - a / 8 + 1) (a / 8 * 8)
    pure (rdN (← get).sram a n)

/-- R183: a partly written SRAM word at an end of a write is read first. -/
def mergeCheck (a n : Nat) : M Unit := do
  if a % 8 = 0 && 8 ≤ n then pure () else sramCheck 1 (a / 8 * 8)
  if (a + n) % 8 = 0 then pure () else sramCheck 1 ((a + n - 1) / 8 * 8)

/-- The marks of the SRAM words a write covers go: it wrote new check bits (R183). -/
def clearSram (a n : Nat) (t : Tbl Nat) : Tbl Nat := t.filter (fun e => e.1 + 8 ≤ a || a + n ≤ e.1)

/-- The marks of the DRAM codewords that a write covers whole go. -/
def clearDram (a n : Nat) (t : Tbl (List Nat)) : Tbl (List Nat) := t.filter (fun e => e.1 < a || a + n < e.1 + 64)

/-- Pending scrub write-backs of lines that a write touches are dropped (R184, R203). -/
def dropWritebacks (a n : Nat) (s : State) : State :=
  let st := sramStn a
  let t := stnOf s st
  let p := t.scrub.pending.filter (fun l => l + 64 ≤ a || a + n ≤ l)
  if p = t.scrub.pending then s else putStn st { t with scrub := { t.scrub with pending := p } } s

/-- R186: the same for the patrol's write-backs. -/
def dropPatrolled (a n : Nat) (d : DramSt) : DramSt :=
  { d with pending := d.pending.filter (fun l => l + 64 ≤ a || a + n ≤ l) }

/-- Bytes put into a space without a check of what stood there. -/
def pokeMem (space a : Nat) (bs : List Byte) (s : State) : State :=
  if space = 1 then
    { s with
      dram := wrN s.dram a bs, dramEcc := clearDram a bs.length s.dramEcc
      kpr := { s.kpr with dram := tmap (fun _ d => dropPatrolled a bs.length d) s.kpr.dram } }
  else dropWritebacks a bs.length
    { s with sram := wrN s.sram a bs, sramEcc := clearSram a bs.length s.sramEcc }

/-- Write bytes to a space under its code (R183). -/
def writeMem (space a : Nat) (bs : List Byte) : M Unit := do
  if bs.isEmpty then pure ()
  else do
    if space = 1 then pure () else mergeCheck a bs.length
    modify (pokeMem space a bs)

/-! ### Block Tallies -/

/-- The handle of an index in a Station's Handle Table (R125). -/
def handleOf (s : State) (st h : Nat) : Option Handle := if h = 0 then none else tget? (stnOf s st).handles h

/-- Where the Tally of tile `slot` of a Tally area stands (R190). -/
def tallyAddr (th : Handle) (slot : Nat) : Nat := th.base * 4096 + 0x40 + 8 * slot

/-- R192: verify one tile (read whole) against its stored Tally: 0x2003 on a difference. `j` is the tile index that enters
the Tally, `slot` the entry of the area. -/
def verifyTile (st : Nat) (h : Handle) (addr j slot : Nat) : M Unit := do
  match handleOf (← get) st h.tally with
  | none => pure ()
  | some th => do
    let bytes ← readMem h.space addr 4096
    let tb ← readMem th.space (tallyAddr th slot) 8
    modify (chk 1 (bits (leNat tb) 60 0 != blockTally j bytes))
    if bits (leNat tb) 60 0 = blockTally j bytes then pure ()
    else failM 0x2003 (some (h.space, addr)) j 0

/-- R192: compute and store the Tally of one whole tile. The answer is the Tally, for the Leading log (R369). -/
def sealTile (st : Nat) (h : Handle) (addr j slot : Nat) : M (Option Nat) := do
  match handleOf (← get) st h.tally with
  | none => pure none
  | some th => do
    let bytes ← readMem h.space addr 4096
    let t := blockTally j bytes
    writeMem th.space (tallyAddr th slot) (leBytes 8 t)
    pure (some t)

/-! ### Physical upsets -/

/-- A physical disturbance marks the memory it strikes. Those of the datapath are met by the command itself. -/
def strike (u : Upset) (s : State) : State :=
  match u with
  | .sramSingle a =>
    let w := a / 8 * 8
    { s with sramEcc := tput s.sramEcc w (if nget s.sramEcc w = 0 then 1 else 2) }
  | .sramDouble a => { s with sramEcc := tput s.sramEcc (a / 8 * 8) 2 }
  | .dramSymbols a ys =>
    let c := a / 64 * 64
    { s with dramEcc := tput s.dramEcc c (nub (tget [] s.dramEcc c ++ ys)) }
  | .sramSilent a v => { s with sram := wr s.sram a v }
  | .dramSilent a v => { s with dram := wr s.dram a v }
  | .gallerySingle r =>
    let t := stnOf s r.val
    putStn r.val { t with galCorrected := satInc t.galCorrected } s
  | _ => s

/-- Every upset of a command. -/
def strikes (us : List Upset) (s : State) : State := us.foldl (fun t u => strike u t) s

/-- R19: an uncorrectable Gallery packet at some router during the command. -/
def galleryUpset (us : List Upset) : Option (Fin 16) :=
  us.findSome? fun u => match u with
    | .gallery r => some r
    | _ => none

end Sys2Proof.Machine
end

