-- ==== Sys2Proof/Machine/Operands.lean ====
section
/-! DEFINITION. Operand forms of a descriptor: its words (R116), its CRC (R119), handles and strides (R126, R127), loop nests
(R135 to R139), substitution (R142) and the latched descriptor with its issue checks (R140). -/

namespace Sys2Proof.Machine

/-- R119: one byte into a reflected CRC-32C. -/
def crcStep : Nat → BitVec 32 → BitVec 32
  | 0, c => c
  | n + 1, c => crcStep n (if c.getLsbD 0 then (c >>> 1) ^^^ 0x82F63B78#32 else c >>> 1)

/-- R119: CRC-32C (Castagnoli, reflected, initial and final all ones). -/
def crc32c (bs : List Byte) : Nat :=
  ((bs.foldl (fun c b => crcStep 8 (c ^^^ b.setWidth 32)) 0xFFFFFFFF#32) ^^^ 0xFFFFFFFF#32).toNat

/-- R116: the sixteen words of a descriptor. -/
def descWords (bs : List Byte) : List Nat := (List.range 16).map fun i => field bs (4 * i) 4

/-- R119: W15 matches. -/
def descCrcOk (bs : List Byte) : Bool := field bs 60 4 == crc32c (bs.take 60)

def dOp (w : List Nat) : Nat := bits (nth w 0) 7 0
def dVer (w : List Nat) : Nat := bits (nth w 0) 11 8
def dClass (w : List Nat) : Nat := bits (nth w 0) 15 12
def dTop (w : List Nat) : Nat := bits (nth w 0) 31 16
def dW7 (w : List Nat) : Nat := nth w 7

/-- Handle indices A, B, C, D as they stand in W5 and W6. -/
def dHandles (w : List Nat) : List Nat :=
  [bits (nth w 5) 11 0, bits (nth w 5) 23 12, bits (nth w 6) 11 0, bits (nth w 6) 23 12]

/-- R142: parameter-register base. -/
def dPbase (w : List Nat) : Nat := bits (nth w 6) 29 24

/-- R135: the words of the used loop levels, innermost first. -/
def levels (w : List Nat) : List Nat := ((w.drop 8).take 6).filter fun l => bitAt l 30

def lvlCount (l : Nat) : Nat := bits l 15 0

/-- R135: dimension code of handle k (0 A, 1 B, 2 C, 3 D) at a level; 0xF is none. -/
def lvlDim (k l : Nat) : Nat :=
  let code (j : Nat) := bits l (19 + 4 * j) (16 + 4 * j)
  if k < 3 then code k
  else
    let f := bits l 29 28
    if f = 0 then 15 else code (f - 1)

/-- Iterations of a nest: the product of the counts; 1 with no level (R135). -/
def nestCount (ls : List Nat) : Nat := ls.foldl (fun a l => a * lvlCount l) 1

/-- Loop indices of the flat iteration t, innermost first (R137). -/
def nestIdx : List Nat → Nat → List Nat
  | [], _ => []
  | l :: ls, t => if lvlCount l = 0 then 0 :: nestIdx ls 0 else t % lvlCount l :: nestIdx ls (t / lvlCount l)

/-- R26 to R28: whether the bytes of a handle describe a handle at all. -/
def parseHandle (bs : List Byte) : Handle :=
  let w := field bs 0 8
  { space := bits w 1 0, fmt := bits w 6 2, blk16 := bitAt w 7, ndim := bits w 10 8, blockdim := bits w 13 11
    alias_ := bits w 21 14, base := bits w 47 22, aux := bits w 59 48
    tally := bits (field bs 8 2) 15 4
    bound := (List.range 6).map fun d => field bs (0xA + 2 * d) 2
    pitch := (List.range 5).map fun d => field bs (0x16 + 2 * d) 2 }

/-- R126: the 32 bytes of a handle, with the scoreboard fields at zero (R127). -/
def handleBytes (h : Handle) : List Byte :=
  leBytes 8 (h.space + h.fmt * 2 ^ 2 + b2n h.blk16 * 2 ^ 7 + h.ndim * 2 ^ 8 + h.blockdim * 2 ^ 11 + h.alias_ * 2 ^ 14 +
    h.base * 2 ^ 22 + h.aux * 2 ^ 48) ++ leBytes 2 (h.tally * 16) ++
    ((List.range 6).map fun d => leBytes 2 (nth h.bound d)).flatten ++
    ((List.range 5).map fun d => leBytes 2 (nth h.pitch d)).flatten

/-- Extent of a dimension; 1 beyond NDIM. -/
def Handle.extent (h : Handle) (d : Nat) : Nat := if d < h.ndim then nth h.bound d + 1 else 1

/-- R127: stride of dimension d in bits. -/
def Handle.stride (h : Handle) : Nat → Nat
  | 0 => elemBits h.fmt
  | d + 1 => h.stride d * (nth h.pitch d + 1)

/-- R127: bytes of the allocation (of one entry, for a stream). -/
def Handle.allocBytes (h : Handle) : Nat := ceilDiv (h.stride (h.ndim - 1) * h.extent (h.ndim - 1)) 8

/-- Tiles of the allocation, or of one FIFO entry (R128, R132). -/
def Handle.tiles (h : Handle) : Nat := ceilDiv h.allocBytes 4096

def Handle.isStream (h : Handle) : Bool := h.space == 2

/-- R132: entries of a FIFO. -/
def Handle.depth (h : Handle) : Nat := h.alias_ + 1

/-- Space of the bytes: a FIFO stands in SRAM. -/
def Handle.memSpace (h : Handle) : Nat := if h.space = 1 then 1 else 0

/-- Bit offset from element 0 of coordinates x. -/
def Handle.bitOff (h : Handle) (x : List Nat) : Nat :=
  (List.range h.ndim).foldl (fun a d => a + nth x d * h.stride d) 0

/-- R120: which of A, B, C, D an opcode uses, given W7. -/
def usedHandles (op w7 : Nat) (hs : List Nat) : List Bool :=
  if op = 0x10 then [true, true, true, bitAt w7 18]
  else if op = 0x11 then [true, true, true, false]
  else if op = 0x12 then [false, false, true, bitAt w7 20]
  else if op = 0x20 || op = 0x61 then [true, false, true, false]
  else if op = 0x21 || op = 0x22 then [true, true, true, false]
  else if op = 0x23 || op = 0x41 then [false, false, true, false]
  else if op = 0x30 then hs.map (· != 0)
  else if op = 0x31 || op = 0x60 then [true, false, false, false]
  else if op = 0x40 then [true, false, true, false]
  else [false, false, false, false]

/-- W7 of a Lantern descriptor (R52). -/
def lanTile (w7 : Nat) : Nat := bits w7 14 12
def lanMt (w7 : Nat) : Nat := 2 ^ lanTile w7
def lanNt (w7 : Nat) : Nat := 1024 / 2 ^ lanTile w7
def lanKlevels (w7 : Nat) : Nat := bits w7 17 15

/-- W7 of a Tender descriptor (R198): the run length. TAP and TALLY_VERIFY move one element (R198). -/
def tndRun (op w7 : Nat) : Nat := if 0x20 ≤ op && op ≤ 0x23 then bits w7 15 0 + 1 else 1

/-- R136, R197: by how much level number l moves handle k along dimension d. -/
def unitStep (op w7 k lvl d : Nat) : Nat :=
  if op = 0x10 || op = 0x11 then
    if lvl < lanKlevels w7 then 32
    else if k = 0 then lanMt w7
    else if k = 1 || k = 3 then lanNt w7
    else if d = 0 then lanNt w7 else lanMt w7
  else if op = 0x21 || op = 0x22 then
    if k = 1 then (if d = 0 then (if bitAt w7 19 then 4 else 2) else 1)
    else if d = 0 then tndRun op w7 else 1
  else if op = 0x20 || op = 0x23 then (if d = 0 then tndRun op w7 else 1)
  else 1

/-- R136, R138: elements of dimension 0 that one unit touches, beyond its origin. -/
def unitSpan (op w7 k : Nat) : Nat :=
  if (op = 0x21 || op = 0x22) && k = 1 then (if bitAt w7 19 then 4 else 2)
  else tndRun op w7

/-- R137: coordinates of handle k at loop indices `idx` (innermost first). -/
def coords (op w7 k : Nat) (ls idx : List Nat) : List Nat :=
  let walk := (ls.zip idx).zipIdx
  (List.range 6).map fun d =>
    walk.foldl (fun a e => if lvlDim k e.1.1 = d then a + e.1.2 * unitStep op w7 k e.2 d else a) 0

/-- Largest coordinates over a nest with no empty level. -/
def maxCoords (op w7 k : Nat) (ls : List Nat) : List Nat :=
  coords op w7 k ls (ls.map fun l => lvlCount l - 1)

/-- R138: origin (and unit) of handle k stays within its bounds over the whole nest; Lantern units may overhang. -/
def boundsOk (op w7 k : Nat) (ls : List Nat) (h : Handle) : Bool :=
  if ls.any fun l => lvlCount l = 0 then true
  else
    let x := maxCoords op w7 k ls
    let span := if 0x10 ≤ op && op ≤ 0x12 then 1 else unitSpan op w7 k
    (List.range 6).all fun d =>
      decide (nth x d + (if d = 0 then span else 1) ≤ h.extent d)

/-- R136, R138: how many elements of dimension d of handle k one unit of a Lantern touches beyond its origin; the parts past a bound
are not touched (R33, R48). -/
def lanSpan (op w7 k d : Nat) (h : Handle) : Nat :=
  if op = 0x12 then h.extent d
  else if k = 0 then (if d = (if bitAt w7 10 && h.ndim != 1 then 1 else 0) then 32 else lanMt w7)
  else if k = 1 then (if d = (if bitAt w7 11 then 0 else 1) then 32 else lanNt w7)
  else if k = 2 then (if d = 0 then lanNt w7 else lanMt w7)
  else lanNt w7

/-- R138: the last coordinates that a nest touches of handle k: an ACC_DRAIN its whole C and D. -/
def lastTouched (op w7 k : Nat) (ls : List Nat) (h : Handle) : List Nat :=
  let x := maxCoords op w7 k ls
  (List.range 6).map fun d =>
    if 0x10 ≤ op && op ≤ 0x12 then min (nth x d + lanSpan op w7 k d h - 1) (h.extent d - 1)
    else nth x d + (if d = 0 then unitSpan op w7 k - 1 else 0)

/-- R138: with a byte offset, every byte touched stays inside the allocation of R128. -/
def offsetOk (op w7 k : Nat) (ls : List Nat) (h : Handle) (off : Int) : Bool :=
  if off = 0 || ls.any (fun l => lvlCount l = 0) then true
  else
    let last := h.bitOff (lastTouched op w7 k ls h) + elemBits h.fmt
    decide (0 ≤ off) && decide (off.toNat + ceilDiv last 8 ≤ h.tiles * 4096)

/-- R142: the parameter registers that W14 consumes, in order, each with its use (0 to 13). -/
def substUses (w : List Nat) : List (Nat × Nat) :=
  let set := (List.range 14).filter fun i => bitAt (nth w 14) i
  set.zipIdx.map fun e => (e.1, dPbase w + e.2)

/-- A word list with entry i replaced. -/
def setNth (l : List Nat) (i v : Nat) : List Nat := l.set i v

/-- R141, R142: the descriptor's words, handle indices and offsets as latched with the stream's parameters. -/
def latchWords (w : List Nat) (p : Nat → W64) : List Nat × List Nat × List Int :=
  (substUses w).foldl (fun (acc : List Nat × List Nat × List Int) e =>
    let v := (p e.2).toNat
    if e.1 < 6 then (setNth acc.1 (8 + e.1) (setBits (nth acc.1 (8 + e.1)) 15 0 (v % 2 ^ 16)), acc.2.1, acc.2.2)
    else if e.1 < 10 then (acc.1, acc.2.1, acc.2.2.set (e.1 - 6) (p e.2).toInt)
    else (acc.1, setNth acc.2.1 (e.1 - 10) (v % 2 ^ 12), acc.2.2)) (w, dHandles w, [0, 0, 0, 0])

/-- R140: parameter ranges, zero upper bits and byte-offset multiples of the registers taken. -/
def substOk (w : List Nat) (p : Nat → W64) (decl : Nat → Option ParamDecl) : Bool :=
  (substUses w).all fun e =>
    let v := p e.2
    let inRange := match decl e.2 with
      | some d => decide (d.min ≤ v.toInt) && decide (v.toInt ≤ d.max)
      | none => false
    inRange &&
      (if e.1 < 6 then decide (v.toNat < 2 ^ 16)
       else if e.1 < 10 then decide (v.toInt % 64 = 0)
       else decide (v.toNat < 2 ^ 12))

/-- Bits [61:0] and so on of one packed element at a bit address (R27). -/
def elemAt (m : Mem) (bitAddr width : Nat) : Nat :=
  leNat (rdN m (bitAddr / 8) 5) / 2 ^ (bitAddr % 8) % 2 ^ width

end Sys2Proof.Machine
end

