-- ==== Sys2Proof/Machine/Flags.lean ====
section
/-! DEFINITION. Flags (R150 to R156) and handle scoreboards with turns (R158 to R162). -/

namespace Sys2Proof.Machine

/-- R150: value of a Station flag (scope 0) or chip flag (scope 1). -/
def flagGet (s : State) (st scope i : Nat) : Nat := if scope = 0 then nget (stnOf s st).flags i else nget s.chipFlags i

/-- Set a flag. -/
def flagPut (st scope i v : Nat) (s : State) : State :=
  if scope = 0 then
    let t := stnOf s st
    putStn st { t with flags := tput t.flags i v } s
  else { s with chipFlags := tput s.chipFlags i v }

/-- R116: a WAIT word: flag index, scope and threshold. -/
def waitIdx (w : Nat) : Nat := bits w 9 0
def waitScope (w : Nat) : Nat := bits w 10 10
def waitThr (w : Nat) : Nat := bits w 31 16

/-- R116: increment of a SIGNAL word. -/
def sigInc (w : Nat) : Nat := bits w 23 16

/-- R151: both WAITs name the same flag. -/
def sameFlag (a b : Nat) : Bool := waitIdx a = waitIdx b && waitScope a = waitScope b

/-- R151: every active WAIT finds its flag at or above its threshold; the sum where both name one flag. -/
def waitsMet (s : State) (st : Nat) (w : List Nat) : Bool :=
  let a := nth w 1
  let b := nth w 2
  if waitThr a != 0 && waitThr b != 0 && sameFlag a b then
    decide (waitThr a + waitThr b ≤ flagGet s st (waitScope a) (waitIdx a))
  else
    (waitThr a = 0 || decide (waitThr a ≤ flagGet s st (waitScope a) (waitIdx a))) &&
      (waitThr b = 0 || decide (waitThr b ≤ flagGet s st (waitScope b) (waitIdx b)))

/-- The flag of the first WAIT that is not met, with its scope in bit 12 (STN_SYNC_ERR_CAPTURE_C). -/
def unmetFlag (s : State) (st : Nat) (w : List Nat) : Nat :=
  let a := nth w 1
  let x := if waitThr a != 0 && decide (flagGet s st (waitScope a) (waitIdx a) < waitThr a) then a
    else if waitThr (nth w 2) != 0 then nth w 2 else a
  waitIdx x + waitScope x * 2 ^ 12

/-- R151: subtract the threshold of one WAIT. -/
def waitTake (st w : Nat) (s : State) : State :=
  if waitThr w = 0 then s
  else flagPut st (waitScope w) (waitIdx w) (flagGet s st (waitScope w) (waitIdx w) - waitThr w) s

/-- R151: subtract both thresholds. -/
def waitsTake (st : Nat) (w : List Nat) (s : State) : State := waitTake st (nth w 2) (waitTake st (nth w 1) s)

/-- R154: one SIGNAL: the answer is whether the flag would pass 65,535, in which case it is not applied. -/
def signalOne (st w : Nat) (s : State) : Bool × State :=
  if sigInc w = 0 then (false, s)
  else
    let v := flagGet s st (waitScope w) (waitIdx w) + sigInc w
    if 65535 < v then (true, s) else (false, flagPut st (waitScope w) (waitIdx w) v s)

/-! ### Scoreboards -/

/-- R158, R162: the key of a handle's scoreboard entry: its alias group, or the handle itself. -/
def sbKey (st idx : Nat) (h : Handle) : Nat :=
  if h.alias_ != 0 && !h.isStream then h.alias_ else 0x1000000 + st * 4096 + idx

def sbOf (s : State) (k : Nat) : SbEntry := tget ⟨0, 0, 0, 0⟩ s.sb k
def putSb (k : Nat) (e : SbEntry) (s : State) : State := { s with sb := tput s.sb k e }

/-- R158: whether the descriptor writes handle k (0 A to 3 D). -/
def writesHandle (op w7 k : Nat) : Bool :=
  if k = 2 then op != 0x60 && op != 0x31
  else if k = 3 then op = 0x30 && bitAt w7 20
  else false

/-- R133, R158: a stream handle, which FIFO levels order and no scoreboard entry does (DEDUCED, assumption 25). -/
def streamHandle (s : State) (st i : Nat) : Bool :=
  match handleOf s st i with
  | some h => h.isStream
  | none => false

/-- R158: the registrations of a descriptor, one per scoreboard entry, with the turn entry that each uses. -/
def sbRegs (s : State) (st op w7 : Nat) (hs : List Nat) (used : List Bool) (turns : List Nat) : List SbReg :=
  let ks := (List.range 4).filter fun k => used.getD k false && nth hs k != 0 && !streamHandle s st (nth hs k)
  let keyOf (k : Nat) : Nat :=
    match handleOf s st (nth hs k) with
    | some h => sbKey st (nth hs k) h
    | none => 0x1000000 + st * 4096 + nth hs k
  let keys := nub (ks.map keyOf)
  keys.map fun key =>
    let mine := ks.filter fun k => keyOf k = key
    let wr := [2, 3, 0, 1].filter fun k => mine.contains k && (writesHandle op w7 k ||
      mine.any fun j => nth hs j = nth hs k && writesHandle op w7 j)
    match wr with
    | k :: _ => ⟨key, true, nth turns k⟩
    | [] => ⟨key, false, nth turns (mine.headD 0)⟩

/-- R177: the handle index that a scoreboard wait names: the first of the descriptor's handles on the entry. -/
def sbHandle (s : State) (st : Nat) (hs : List Nat) (key : Nat) : Nat :=
  (hs.find? fun i => i != 0 && (match handleOf s st i with
    | some h => sbKey st i h
    | none => 0x1000000 + st * 4096 + i) = key).getD 0

/-- R160: the turn of a turn entry at the n-th issue. -/
def turnAt (entry n : Nat) : Nat := (bits entry 15 0 + bits entry 23 16 * n) % 2 ^ 16

/-- R159, R160: whether a registration may be made now. -/
def sbFree (s : State) (n : Nat) (r : SbReg) : Bool :=
  let e := sbOf s r.key
  (if r.writer then e.writers = 0 && e.readers = 0 else e.writers = 0 && decide (e.readers < 15)) &&
    (!bitAt r.turn 31 || e.turn = turnAt r.turn n)

/-- R158: register with one entry. -/
def sbTake (r : SbReg) (s : State) : State :=
  let e := sbOf s r.key
  putSb r.key (if r.writer then { e with writers := e.writers + 1 } else { e with readers := e.readers + 1 }) s

/-- R160: the turn counter and the reader-completion count after a completion. -/
def turnDone (r : SbReg) (e : SbEntry) : SbEntry :=
  if !bitAt r.turn 31 then e
  else if r.writer then { e with turn := (e.turn + 1) % 2 ^ 16 }
  else if e.count + 1 = bits r.turn 27 24 then { e with turn := (e.turn + 1) % 2 ^ 16, count := 0 }
  else { e with count := e.count + 1 }

/-- R158, R160: deregister from one entry at completion. -/
def sbDone (r : SbReg) (s : State) : State :=
  let e := sbOf s r.key
  putSb r.key (turnDone r (if r.writer then { e with writers := e.writers - 1 } else { e with readers := e.readers - 1 })) s

/-- Deregister without completing (an engine reset, R481): turns do not advance. -/
def sbDrop (r : SbReg) (s : State) : State :=
  let e := sbOf s r.key
  putSb r.key (if r.writer then { e with writers := e.writers - 1 } else { e with readers := e.readers - 1 }) s

/-! ### Stream FIFOs -/

def fifoOf (s : State) (st idx : Nat) : Fifo := tget ⟨0, 0⟩ (stnOf s st).fifos idx

/-- R133: entries present. -/
def fifoFill (s : State) (st idx : Nat) : Nat := (fifoOf s st idx).tail - (fifoOf s st idx).head

def putFifo (st idx : Nat) (f : Fifo) (s : State) : State :=
  let t := stnOf s st
  putStn st { t with fifos := tput t.fifos idx f } s

/-- R133: a pop frees the entry's space. -/
def fifoPopped (st idx : Nat) (s : State) : State :=
  let f := fifoOf s st idx
  putFifo st idx { f with head := f.head + 1 } s

/-- R133: a pushed entry becomes visible. -/
def fifoPushed (st idx : Nat) (s : State) : State :=
  let f := fifoOf s st idx
  putFifo st idx { f with tail := f.tail + 1 } s

/-- R132: first tile of entry number n of a ring, from BASE. -/
def entryTile (h : Handle) (n : Nat) : Nat := n % h.depth * h.tiles

end Sys2Proof.Machine
end

