-- ==== Sys2Proof/Machine/DescCheck.lean ====
section
/-! DEFINITION. The static checks of one descriptor (R116 to R124, R35, R52, R87, R101, R135, R198): used by the verifier and,
for pushed descriptors, at issue (R105). -/

namespace Sys2Proof.Machine

/-- R120: the opcodes and the engine classes that may run each, as a bit mask (1 Lantern, 2 Wick, 4 Tender, 8 Port). -/
def opClasses : List (Nat × Nat) :=
  [(0x00, 15), (0x10, 1), (0x11, 1), (0x12, 1), (0x20, 4), (0x21, 4), (0x22, 4), (0x23, 4), (0x30, 2), (0x31, 2),
   (0x40, 8), (0x41, 8), (0x50, 15), (0x51, 15), (0x52, 15), (0x53, 15), (0x54, 15), (0x55, 15), (0x60, 6), (0x61, 4),
   (0x7F, 15)]

/-- R120: a recognised opcode. -/
def opKnown (op : Nat) : Bool := (opClasses.lookup op).isSome

/-- R117: the class field equals the stream's class and the opcode allows it. -/
def classOk (w : List Nat) (cls : Nat) : Bool :=
  dClass w = cls && bitAt ((opClasses.lookup (dOp w)).getD 0) cls

/-- R118: reserved bits of W1 to W6 are zero. -/
def reservedOk (w : List Nat) : Bool :=
  bits (nth w 1) 15 11 = 0 && bits (nth w 2) 15 11 = 0 && bits (nth w 3) 15 11 = 0 && bits (nth w 3) 31 24 = 0 &&
  bits (nth w 4) 15 11 = 0 && bits (nth w 4) 31 24 = 0 && bits (nth w 5) 31 24 = 0 && bits (nth w 6) 31 30 = 0

/-- R118: a WAIT or SIGNAL word: inactive means index and scope zero; active names a flag that exists. -/
def flagWordOk (active : Bool) (w : Nat) : Bool :=
  if active then (if waitScope w = 1 then decide (waitIdx w < 64) else decide (waitIdx w < 256))
  else waitIdx w = 0 && waitScope w = 0

/-- R118: both WAITs and both SIGNALs. -/
def flagsOk (w : List Nat) : Bool :=
  flagWordOk (waitThr (nth w 1) != 0) (nth w 1) && flagWordOk (waitThr (nth w 2) != 0) (nth w 2) &&
  flagWordOk (sigInc (nth w 3) != 0) (nth w 3) && flagWordOk (sigInc (nth w 4) != 0) (nth w 4)

/-- R124: the control and empty opcodes. -/
def isControl (op : Nat) : Bool := op = 0 || (0x50 ≤ op && op ≤ 0x55) || op = 0x7F

/-- No WAIT and no SIGNAL is active. -/
def noFlags (w : List Nat) : Bool :=
  waitThr (nth w 1) = 0 && waitThr (nth w 2) = 0 && sigInc (nth w 3) = 0 && sigInc (nth w 4) = 0

/-- R121 to R124, R147, R164, R166, R168, R170: the fields of a control or empty descriptor. -/
def controlOk (w : List Nat) : Bool :=
  let op := dOp w
  let w7 := dW7 w
  if !isControl op then true
  else
    nth w 5 = 0 && nth w 6 = 0 && ((w.drop 8).take 7).all (· = 0) &&
    (if op = 0 || op = 0x7F then w7 = 0
     else if op = 0x50 then
       bits w7 13 11 != 7 && bits w7 31 14 != 0 && (bitAt w7 10 || bits w7 9 8 = 0) && (bits w7 13 11 != 6 || bits w7 10 0 = 0)
     else if op = 0x51 then bits w7 14 0 != 0 && bits w7 30 15 != 0 && !bitAt w7 31
     else if op = 0x52 then (2 ≤ bits w7 7 6 || bits w7 16 8 = 0) && (bits w7 7 6 != 3 || bits w7 31 17 = 0)
     else if op = 0x53 then !bitAt w7 7 && (bitAt w7 6 || bits w7 5 0 = 0)
     else if op = 0x54 then w7 = 0 && noFlags w
     else bits w7 31 13 = 0 && (bitAt w7 12 || bits w7 11 8 = 0) && noFlags w)

/-- R123: W7 of TALLY_VERIFY is reserved, and [31:16] of TAP's. -/
def auditOk (w : List Nat) : Bool :=
  if dOp w = 0x60 then dW7 w = 0 else if dOp w = 0x61 then bits (dW7 w) 31 16 = 0 else true

/-- R223 check 5: the first failing code of one descriptor, in the order R223 gives. -/
def check5 (bs : List Byte) (cls : Nat) : Option Nat :=
  let w := descWords bs
  if !descCrcOk bs then some 0x1001
  else if dVer w != 1 then some 0x1003
  else if !opKnown (dOp w) then some 0x1002
  else if !classOk w cls then some 0x1004
  else if !(reservedOk w && controlOk w && auditOk w) then some 0x1005
  else if !flagsOk w then some 0x1006
  else none

/-- R26: a format code and block-size field that a handle may hold. -/
def fmtOk (fmt : Nat) (blk16 : Bool) : Bool := decide (fmt ≤ 0x11) && (!blk16 || isMx fmt)

/-- R35: formats of a Lantern operand A or B. -/
def fmtOperand (fmt : Nat) : Bool := decide (1 ≤ fmt) && decide (fmt ≤ 0x10)

/-- R35: formats of a Lantern output. -/
def fmtOutput (fmt : Nat) : Bool := decide (fmt ≤ 4) || isMx fmt

/-- R35: formats of a bias. -/
def fmtBias (fmt : Nat) : Bool := decide (fmt ≤ 2)

/-- R52: whether a Lantern descriptor rounds out. -/
def lanRounds (op w7 : Nat) : Bool := if op = 0x12 then bits w7 20 19 = 0 || bits w7 20 19 = 2 else !bitAt w7 9

/-- R52: whether an ACC_DRAIN merges, or spills. -/
def drainMerges (w7 : Nat) : Bool := bitAt w7 20
def drainSpills (w7 : Nat) : Bool := bitAt w7 19

/-- R52: W7 of a Lantern descriptor. -/
def lanW7Ok (op w7 nlv : Nat) : Bool :=
  decide (lanTile w7 ≤ 5) && bits w7 31 25 = 0 && (lanRounds op w7 || bits w7 8 0 = 0) &&
  (if op = 0x12 then
     bits w7 11 9 = 0 && bits w7 18 15 = 0 &&
     (if drainMerges w7 then bits w7 24 21 != 0 else bits w7 24 21 = 0)
   else decide (lanKlevels w7 ≤ nlv) && bits w7 24 19 = 0 && (op = 0x10 || !bitAt w7 18))

/-- R87: W7 of a KERNEL (its reserved bits and SCRATCH). -/
def kernelW7Ok (w7 : Nat) : Bool := bits w7 31 21 = 0 && decide (bits w7 19 15 ≤ 18)

/-- R101: W7 of a REDUCE_SCALAR. -/
def reduceW7Ok (w7 : Nat) : Bool :=
  bits w7 31 13 = 0 && decide (bits w7 2 0 ≤ 4) && [0, 1, 2, 3, 4, 8].contains (bits w7 7 3) &&
  (!bitAt w7 12 || (bits w7 11 8 != 15 && (bits w7 2 0 = 2 || bits w7 2 0 = 3)))

/-- R198: W7 of COPY, GATHER, SCATTER and FILL. -/
def tenderW7Ok (op w7 : Nat) : Bool :=
  bits w7 31 27 = 0 &&
  (if op = 0x20 then bits w7 26 16 = 0
   else if op = 0x21 || op = 0x22 then bits w7 26 20 = 0
   else if op = 0x23 then bits w7 19 16 = 0
   else true)

/-- R135: the loop levels, given the NDIM of each used handle (0 for an unused one). -/
def levelsOk (w : List Nat) (nd : List Nat) : Bool :=
  let ls := (w.drop 8).take 6
  let n := (levels w).length
  (ls.zipIdx.all fun e => if e.2 < n then bitAt e.1 30 && !bitAt e.1 31 else e.1 = 0) &&
  (levels w).all fun l =>
    ((List.range 3).all fun k => lvlDim k l = 15 || decide (lvlDim k l < nth nd k)) &&
    (bits l 29 28 = 0 || (nth nd 3 != 0 && lvlDim 3 l != 15 && decide (lvlDim 3 l < nth nd 3)))

end Sys2Proof.Machine
end

