-- ==== Sys2Proof/Machine/Issue.lean ====
section
/-! DEFINITION. Issue and completion of a descriptor, shared by every opcode (R112 to R115, R140, R151, R152, R158 to R160, R172,
R353), and what an engine does when it fails (R70, R82, R140). -/

namespace Sys2Proof.Machine

/-! ### The bound variant -/

/-- The placed record and variant of the current bank in a physical Station. -/
def boundOf (s : State) (b st : Nat) : Option (PlacedSt × Variant) :=
  match (bankOf s b).placement, (bankOf s b).img with
  | some pl, some im =>
    match pl.stations.find? (fun r => r.phys = st) with
    | some r => (im.variants[r.variant]?).map fun v => (r, v)
    | none => none
  | _, _ => none

/-- R233, R234: space and byte address of a tensor's primary. -/
def tensorAddr (im : Image) (pl : Placement) (id : Nat) : Option (Nat × Nat) :=
  match im.tensors.find? (fun t => t.id = id) with
  | none => none
  | some t =>
    match pl.stations[t.lst]? with
    | none => none
    | some r =>
      if t.cls = 5 then some (1, r.phys * 0x200000000 + pl.moorBase + t.moff * 4096)
      else match r.tensors.find? (fun p => p.id = id && p.copy = 0) with
        | some p => some (p.space, p.addr)
        | none => none

/-- R144, R234: the declaration of parameter i of an engine, relocated. -/
def paramDecl (s : State) (g : Eng) (i : Nat) : Option ParamDecl :=
  match boundOf s s.run.bank g.st, (bankOf s s.run.bank).placement, (bankOf s s.run.bank).img with
  | some (_, v), some pl, some im =>
    (v.params[g.e.val * 64 + i]?).map fun d =>
      if d.kind = 1 then
        match tensorAddr im pl d.tensor with
        | some (_, a) => { d with init := d.init + a, min := d.min + a, max := d.max + a }
        | none => d
      else d
  | _, _, _ => none

/-- The stream entry of an engine in the current bank. -/
def streamOf (s : State) (g : Eng) : Option StreamEnt :=
  match boundOf s s.run.bank g.st with
  | some (_, v) => v.streams[g.e.val]?
  | none => none

/-- Byte address in the Instruction Store of a descriptor of an engine's stream. -/
def istoreAddr (s : State) (g : Eng) (pos : Nat) : Nat :=
  let first := ((streamOf s g).map StreamEnt.first).getD 0
  g.st.val * 0x2000000 + (nth (bankOf s s.run.bank).istoreBase g.st.val + first + pos) * 64

/-- R160: the four turn entries of the descriptor at a position; none for pushed descriptors. -/
def turnsOf (s : State) (g : Eng) (pos : Nat) : List Nat :=
  match boundOf s s.run.bank g.st with
  | some (_, v) => (v.turns[((v.streams[g.e.val]?).map StreamEnt.first).getD 0 + pos]?).getD []
  | none => []

/-- SRAM and DRAM ranges (space, address, length) of an allocation (R128, R132); a remote receive handle has none (R281). -/
def allocRange (h : Handle) : Nat × Nat × Nat :=
  (h.memSpace, h.base * 4096, if h.space = 3 then 0 else h.tiles * 4096 * (if h.isStream then h.depth else 1))

/-- Two ranges overlap. -/
def overlap (a b : Nat × Nat × Nat) : Bool :=
  a.1 = b.1 && decide (a.2.1 < b.2.1 + b.2.2) && decide (b.2.1 < a.2.1 + a.2.2)

/-- Ranges of the checkpoint primaries of the current bank with their second copies (R221, R351). -/
def ckTensors (s : State) : List (Placed × Placed) :=
  match (bankOf s s.run.bank).placement with
  | none => []
  | some pl => (pl.stations.map fun r =>
      (r.tensors.filter fun t => t.copy = 0).filterMap fun t =>
        (r.tensors.find? fun u => u.id = t.id && u.copy = 1).map fun u => (t, u)).flatten

/-- R353: the commit gate holds back a descriptor that writes a checkpoint primary. -/
def gateCloses (s : State) (st op w7 : Nat) (hs : List Nat) : Bool :=
  if s.run.step ≤ s.recov.committed then false
  else (List.range 4).any fun k =>
    writesHandle op w7 k && match handleOf s st (nth hs k) with
      | some h => (ckTensors s).any fun p => overlap (allocRange h) (p.1.space, p.1.addr, p.1.size * 4096)
      | none => false

/-! ### The next descriptor -/

/-- STN_SYNC_CONTROL.FREEZE or a break froze the Station (R173, R177). -/
def isFrozen (s : State) (st : Nat) : Bool :=
  bitAt (regGet s (pageBase (pgSync st) + 0x10)) 0 || (stnOf s st).frozen

/-- R175: some engine of the Station is stopped at a break, or the Station is frozen. -/
def stnPaused (s : State) (n : Nat) : Bool := isFrozen s n || (List.range 17).any fun e => (engOf s (engAt n e)).atBreak.isSome

/-- R175: the watchdog counts of a Station stand still from the start of a pause, and go on from there at its end. -/
def settlePause (n : Nat) (s : State) : State :=
  let t := stnOf s n
  if stnPaused s n then putStn n { t with pausedAt := some (t.pausedAt.getD s.watch) } s
  else match t.pausedAt with
    | none => s
    | some w => (List.range 17).foldl (fun u e =>
        let x := engOf u (engAt n e)
        putEng (engAt n e) { x with wdFrom := x.wdFrom + (s.watch - max w x.wdFrom) } u) (putStn n { t with pausedAt := none } s)

/-- The engine could take its next descriptor now (R115): the job runs, the stream is released, nothing is in progress, and
it is not stopped, frozen or at a break. -/
def engFree (s : State) (g : Eng) : Bool :=
  let e := engOf s g
  s.life = .running && e.present && !e.halted && !e.stepEnded && !e.stopped && e.cur.isNone &&
    (e.atBreak.isNone || e.resumed) && !isFrozen s g.st

/-- The 64 bytes of the next descriptor: the head of the push queue, or the prefetched descriptor at the Stream Position. -/
def nextBytes (s : State) (g : Eng) : Option (List Byte) :=
  let e := engOf s g
  if e.pushed then e.queue.head?
  else match e.prefetch with
    | (p, bs) :: _ => if p = e.pos then some bs else none
    | [] => none

/-- R172: the enabled slots whose filter matches and whose count would reach the limit, as a mask. A limit of 0
never breaks. -/
def breakMask (s : State) (g : Eng) (top : Nat) : Nat :=
  let base := pageBase (pgSync g.st) + 0xA00 + g.e.val * 0x40
  let en := bits (regGet s base) 7 4
  (List.range 4).foldl (fun m k =>
    let f := regGet s (base + 0x10 + 4 * k)
    let hit := Nat.land top (bits f 31 16) = Nat.land (bits f 15 0) (bits f 31 16)
    let limit := regGet s (base + 0x30 + 4 * k)
    if bitAt en k && hit && limit != 0 && (regGet s (base + 0x20 + 4 * k) + 1) % 2 ^ 32 = limit
      then m + 2 ^ k else m) 0

/-- R172: a descriptor issues: every slot whose filter matches counts it. The count wraps. -/
def breakCount (g : Eng) (top : Nat) (s : State) : State :=
  let base := pageBase (pgSync g.st) + 0xA00 + g.e.val * 0x40
  (List.range 4).foldl (fun t k =>
    let f := regGet s (base + 0x10 + 4 * k)
    if Nat.land top (bits f 31 16) = Nat.land (bits f 15 0) (bits f 31 16)
      then regPut (base + 0x20 + 4 * k) ((regGet s (base + 0x20 + 4 * k) + 1) % 2 ^ 32) t else t) s

/-- R173: the engine stops at a break, and freezes the Station when FREEZE_ON_BREAK is set. -/
def stopAtBreak (g : Eng) (top mask : Nat) (s : State) : State :=
  let e := engOf s g
  let s1 := putEng g { e with atBreak := some mask, resumed := false, waiting := none } s
  let ctl := regGet s (pageBase (pgSync g.st) + 0xA00 + g.e.val * 0x40)
  let s2 := if bitAt ctl 1 then putStn g.st { stnOf s1 g.st with frozen := true } s1 else s1
  raise 0x0021 (pgSync g.st) 3 (0x0021 + top * 2 ^ 16) (e.pos + g.e.val * 2 ^ 20) 0 (settlePause g.st s2)

/-- R134, R139: how many segments a descriptor runs; a segment pops and pushes at most one entry of each FIFO. -/
def segments (op w7 : Nat) (ls : List Nat) : Nat :=
  if op = 0x10 || op = 0x11 then nestCount (ls.drop (lanKlevels w7))
  else if op = 0x30 then nestCount ls
  else if (0x20 ≤ op && op ≤ 0x23) || op = 0x61 then
    (if nestCount ls = 0 then 0 else if ls.isEmpty then 1 else lvlCount (ls.getLastD 0))
  else if op = 0x31 || op = 0x60 || op = 0x40 || op = 0x41 then (if nestCount ls = 0 then 0 else 1)
  else 1

/-- R115, R141: the descriptor with everything that issue latches. -/
def latch (s : State) (g : Eng) (bs : List Byte) : Latched :=
  let e := engOf s g
  let w0 := descWords bs
  let r := latchWords w0 (fun i => tget 0 e.p i)
  let op := dOp w0
  let used := usedHandles op (dW7 w0) r.2.1
  let turns := if e.pushed then [] else turnsOf s g e.pos
  { pos := e.pos, pushed := e.pushed, w := r.1, h := r.2.1, off := r.2.2, p := e.p
    sb := sbRegs s g.st op (dW7 w0) r.2.1 used turns
    seg := 0, nseg := segments op (dW7 w0) (levels r.1), blocked := 0, done := false, target := 0
    flits := 0, tally := 0, res := [] }

/-- R135, R138, R140: levels and bounds of every used handle with the latched counts, offsets and indices. -/
def latchedBounds (s : State) (g : Eng) (l : Latched) : Bool :=
  let op := dOp l.w
  let w7 := dW7 l.w
  let used := usedHandles op w7 l.h
  let nd := (List.range 4).map fun k =>
    if used.getD k false then ((handleOf s g.st (nth l.h k)).map Handle.ndim).getD 0 else 0
  (isControl op || levelsOk l.w nd) && (List.range 4).all fun k =>
    !(used.getD k false) ||
      match handleOf s g.st (nth l.h k) with
      | none => false
      | some h =>
        h.space = 3 || (boundsOk op w7 k (levels l.w) h && offsetOk op w7 k (levels l.w) h (l.off.getD k 0))

/-- R156: a SIGNAL word of a descriptor increments a host flag, which only a doorbell does. -/
def signalsHost (s : State) (w : Nat) : Bool := sigInc w != 0 && waitScope w = 1 && bitAt s.hostMask (waitIdx w)

/-- R105: the checks of a pushed descriptor at issue, apart from its class's own: the reason. A SIGNAL of a host flag, which R156 leaves
to doorbells, gives reason 6 (DESIGN CHOICE, assumption 35). -/
def pushedReason (s : State) (g : Eng) (bs : List Byte) (l : Latched) : Option Nat :=
  let w := descWords bs
  let op := dOp w
  if !descCrcOk bs then some 2
  else if dVer w != 1 then some 3
  else if dClass w != engClass g.e then some 4
  else if !opKnown op || op = 0x40 || op = 0x41 || op = 0x50 || op = 0x51 || (0x53 ≤ op && op ≤ 0x55) then some 5
  else if !bitAt ((opClasses.lookup op).getD 0) (engClass g.e) then some 4
  else if !(reservedOk w && controlOk w && auditOk w && flagsOk w && bits (nth w 14) 31 14 = 0 &&
      (op < 0x20 || 0x23 < op || tenderW7Ok op (dW7 w)) && !signalsHost s (nth w 3) && !signalsHost s (nth w 4)) then some 6
  else if latchedBounds s g l then none
  else some 7

/-- What an attempt to issue comes to. -/
inductive Issue where
  /-- Nothing issues; the state records what the engine waits on. -/
  | no (s : State)
  /-- A check at issue fails: the descriptor does not issue (R140). -/
  | bad (f : Fail) (s : State)
  /-- The descriptor issues. -/
  | ok (l : Latched) (s : State)

/-- The engine waits: WAIT_KIND and object (R177). -/
def setWaiting (g : Eng) (kind obj : Nat) (s : State) : State := putEng g { engOf s g with waiting := some (kind, obj) } s

/-- Gate of the physical unit behind an engine; Tender channels and the Port engine are never gated (R76). -/
def engAwake (s : State) (g : Eng) : Bool :=
  if engClass g.e = 0 then
    match lanPhys s g.st g.e with
    | some p => (lanOf s g.st p).unit.gate = .awake
    | none => false
  else if engClass g.e = 1 then
    match wickPhys s g.st (g.e - 4) with
    | some p => (wickOf s g.st p).unit.gate = .awake
    | none => false
  else true

/-- R76, R462: start waking a gated unit. -/
def startWake (g : Eng) (s : State) : State :=
  if engClass g.e = 0 then
    match lanPhys s g.st g.e with
    | some p =>
      let u := lanOf s g.st p
      if u.unit.gate = .awake then s else putLan g.st p { u with unit := { u.unit with waking := true } } s
    | none => s
  else if engClass g.e = 1 then
    match wickPhys s g.st (g.e - 4) with
    | some p =>
      let u := wickOf s g.st p
      if u.unit.gate = .awake then s else putWick g.st p { u with unit := { u.unit with waking := true } } s
    | none => s
  else s

/-- R115: everything that issue does at once: thresholds subtracted, registrations made, breaks counted, the Stream Position
moved (R112), and the descriptor latched. -/
def issueNow (g : Eng) (l : Latched) (s : State) : State :=
  let s1 := l.sb.foldl (fun t r => sbTake r t) (waitsTake g.st l.w s)
  let s2 := breakCount g (dTop l.w) s1
  let e := engOf s2 g
  let op := dOp l.w
  putEng g
    { e with
      cur := some l
      pos := if l.pushed || op = 0x7F then e.pos else e.pos + 1
      prefetch := if l.pushed then e.prefetch else e.prefetch.tail
      queue := if l.pushed then e.queue.tail else e.queue
      issues := if l.pushed then e.issues else tput e.issues l.pos (nget e.issues l.pos + 1)
      waiting := none, atBreak := none, resumed := false, lastAct := s2.watch, wdFrom := s2.watch } s2

/-- R115, R140, R151, R159, R160, R172: try to issue a descriptor of one opcode. `cls` is the check of the engine's own class,
and `wake` says whether the opcode needs its unit awake. -/
def tryIssue (op : Nat) (wake : Bool) (cls : Latched → M Unit) (g : Eng) (s : State) : Issue :=
  if !engFree s g then .no s
  else
    match nextBytes s g with
    | none => .no s
    | some bs =>
      let w := descWords bs
      let e := engOf s g
      if dOp w != op then .no s
      else if !waitsMet s g.st w then .no (setWaiting g 0 (unmetFlag s g.st w) s)
      else if !e.resumed && breakMask s g (dTop w) != 0 then .no (stopAtBreak g (dTop w) (breakMask s g (dTop w)) s)
      else
        let l := latch s g bs
        match l.sb.find? (fun r => !sbFree s (nget e.issues e.pos) r) with
        | some r => .no (setWaiting g 2 (sbHandle s g.st l.h r.key) s)
        | none =>
          if gateCloses s g.st op (dW7 w) l.h || (engClass g.e = 2 && s.recov.copying.isSome) then
            .no (setWaiting g 2 (nth l.h 2) s)
          else if wake && !engAwake s g then .no (startWake g s)
          else
            let bad : Option Fail :=
              if e.pushed then
                match pushedReason s g bs l with
                | some r => some { code := 0x2074, tile := none, detail := r, row := 0 }
                | none => if substOk w (fun i => tget 0 e.p i) (paramDecl s g) then none else some { code := 0x2074, tile := none, detail := 7, row := 0 }
              else if substOk w (fun i => tget 0 e.p i) (paramDecl s g) && latchedBounds s g l then none
              else some { code := 0x2081, tile := none, detail := 0, row := 0 }
            match bad with
            | some f => .bad f s
            | none =>
              match (cls l).go s with
              | (.error f, s1) => .bad f s1
              | (.ok _, s1) => .ok l (issueNow g l s1)

/-! ### Failing and completing -/

/-- Capture words B and C of an engine's page: position, row, detail (R79, R110, R205, R296). -/
def engCaps (g : Eng) (pos : Nat) (f : Fail) : Nat × Nat :=
  if engClass g.e = 0 then (pos + f.row * 2 ^ 20, f.detail)
  else if engClass g.e = 1 then (pos, f.detail % 2 ^ 32)
  else if engClass g.e = 2 then (pos + (g.e.val - 12) * 2 ^ 20, f.detail)
  else (pos + f.row % 4096 * 2 ^ 20, f.detail % 2 ^ 32)

/-- R70, R77, R82, R109, R140: the engine stops at the descriptor's Stream Position, the fault is captured, counted and detected. -/
def engFail (g : Eng) (top pos : Nat) (f : Fail) (s : State) : State :=
  let c := engCaps g pos f
  let s0 := raiseEng g f.code (f.code + top * 2 ^ 16) c.1 c.2 s
  let s1 := if f.also = 0 then s0 else raiseEng g f.also (f.also + top * 2 ^ 16) c.1 c.2 s0
  let page := pageBase (engPage s g)
  let s2 :=
    if engClass g.e = 0 && [0x2001, 0x2003, 0x2062].contains f.code then regCount (page + 0x68) s1
    else if engClass g.e = 1 && [0x2002, 0x2003, 0x2073].contains f.code then regCount (page + 0x60) s1 else s1
  detect f.code (unitRefOf s g) f.tile (putEng g { engOf s2 g with stopped := true, pos := pos, waiting := none } s2)

/-- A failed issue (R140, R105). -/
def issueBad (g : Eng) (f : Fail) (s : State) : State :=
  let top := ((nextBytes s g).map fun bs => dTop (descWords bs)).getD 0
  engFail g top (engOf s g).pos f s

/-- A descriptor in progress fails: it stays in progress, abandoned at the rollback (R357). -/
def runBad (g : Eng) (l : Latched) (f : Fail) (s : State) : State := engFail g (dTop l.w) l.pos f s

/-- Record the progress of the descriptor in hand. -/
def setCur (g : Eng) (l : Latched) (s : State) : State := putEng g { engOf s g with cur := some l } s

/-- The descriptor's work is done; its completion is due. -/
def finish (g : Eng) (l : Latched) (s : State) : State := setCur g { l with done := true, blocked := 0 } s

/-- Issue with a continuation: what most opcodes do. -/
def issueThen (op : Nat) (wake : Bool) (cls : Latched → M Unit) (run : Latched → State → State) (g : Eng) (s : State) : State :=
  match tryIssue op wake cls g s with
  | .no t => t
  | .bad f t => issueBad g f t
  | .ok l t => run l t

/-- No check of the engine's own class. -/
def noCheck (_ : Latched) : M Unit := pure ()

end Sys2Proof.Machine
end

