-- ==== Sys2Proof/Machine/Control.lean ====
section
/-! DEFINITION. The control and empty descriptors (R121, R122, R147, R164, R166, R168, R170), descriptor fetch (R114) and
descriptor completion (R152, R154, R160). -/

namespace Sys2Proof.Machine

/-! ### NOP and HALT -/

/-- R121, R462: a NOP starts the wake of a gated engine and completes when it is awake. -/
def runNop (g : Eng) (l : Latched) (s : State) : State :=
  if engAwake s g then finish g l s else startWake g (setCur g l s)

/-- R121: issue of a NOP. -/
def execNop (g : Eng) (s : State) : Res := .next (issueThen 0x00 false noCheck (runNop g) g s)

/-- R121: issue of a HALT: it completes at once, and its completion halts the engine. -/
def execHalt (g : Eng) (s : State) : Res := .next (issueThen 0x7F false noCheck (finish g) g s)

/-! ### BRANCH, LOOPBACK, SETPARAM -/

/-- R164: the comparison of a BRANCH. -/
def branchTaken (cond : Nat) (a b : W64) : Bool :=
  if cond = 0 then a == b else if cond = 1 then a != b else if cond = 2 then a.slt b else if cond = 3 then !a.slt b
  else if cond = 4 then a.ult b else if cond = 5 then !a.ult b else cond == 6

/-- R164: the second operand of a BRANCH. -/
def branchRhs (e : Engine) (w7 : Nat) : W64 := if bitAt w7 10 then tget 0 e.p (bits w7 9 4) else tget 0 e.s (bits w7 7 4)

/-- R112, R114: a taken jump sets the Stream Position and empties the prefetch buffer. -/
def jumpTo (g : Eng) (pos : Nat) (s : State) : State := putEng g { engOf s g with pos := pos, prefetch := [] } s

/-- R164: a BRANCH that has issued. -/
def runBranch (g : Eng) (l : Latched) (s : State) : State :=
  let e := engOf s g
  let w7 := dW7 l.w
  if branchTaken (bits w7 13 11) (tget 0 e.s (bits w7 3 0)) (branchRhs e w7)
    then jumpTo g (l.pos + bits w7 31 14) (finish g l s) else finish g l s

/-- R164: issue of a BRANCH. -/
def execBranch (g : Eng) (s : State) : Res := .next (issueThen 0x50 false noCheck (runBranch g) g s)

/-- The descriptor bytes of an engine's stream in the bound variant. -/
def streamDescs (s : State) (g : Eng) : List (List Byte) :=
  match boundOf s s.run.bank g.st with
  | some (_, v) =>
    match v.streams[g.e.val]? with
    | some t => (v.descs.drop t.first).take t.count
    | none => []
  | none => []

/-- R166, R167: the nesting depth of the LOOPBACK at a position: the bodies that enclose it. -/
def loopDepth (ds : List (List Byte)) (p : Nat) : Nat :=
  (ds.zipIdx.filter fun e =>
    let w := descWords e.1
    dOp w = 0x51 && decide (e.2 - bits (dW7 w) 14 0 ≤ p) && decide (p < e.2)).length

/-- R166: loop state of a depth; inactive where unlisted. -/
def loopOf (e : Engine) (d : Nat) : LoopSt := tget ⟨false, 0⟩ e.loops d

/-- R166: a LOOPBACK that has issued at depth d. -/
def runLoopback (g : Eng) (l : Latched) (s : State) : State :=
  let e := engOf s g
  let w7 := dW7 l.w
  let d := loopDepth (streamDescs s g) l.pos
  let st := loopOf e d
  let rem := if st.active then st.remaining - 1 else bits w7 30 15 - 1
  if 0 < rem then
    jumpTo g (l.pos - bits w7 14 0) (finish g l (putEng g { e with loops := tput e.loops d ⟨true, rem⟩ } s))
  else finish g l (putEng g { e with loops := tput e.loops d ⟨false, rem⟩ } s)

/-- R166: issue of a LOOPBACK. -/
def execLoopback (g : Eng) (s : State) : Res := .next (issueThen 0x51 false noCheck (runLoopback g) g s)

/-- R147: the new value of P(PDST). -/
def setparamValue (e : Engine) (w7 : Nat) : W64 :=
  let imm := BitVec.ofInt 64 (signed 15 (bits w7 31 17))
  let old := tget 0 e.p (bits w7 5 0)
  let sh := tget 0 e.s (bits w7 11 8) <<< bits w7 16 12
  if bits w7 7 6 = 0 then imm else if bits w7 7 6 = 1 then old + imm
  else if bits w7 7 6 = 2 then sh + imm else old + sh

/-- R147: a result outside PDST's declared range fails at issue. -/
def checkSetparam (g : Eng) (l : Latched) : M Unit := do
  let s ← get
  let v := (setparamValue (engOf s g) (dW7 l.w)).toInt
  match paramDecl s g (bits (dW7 l.w) 5 0) with
  | some d => if d.min ≤ v ∧ v ≤ d.max then pure () else failM (if l.pushed then 0x2074 else 0x2081) none 7 0
  | none => failM (if l.pushed then 0x2074 else 0x2081) none 7 0

/-- R147: a SETPARAM that has issued writes its register. -/
def runSetparam (g : Eng) (l : Latched) (s : State) : State :=
  let e := engOf s g
  finish g l (putEng g { e with p := tput e.p (bits (dW7 l.w) 5 0) (setparamValue e (dW7 l.w)) } s)

/-- R147: issue of a SETPARAM. -/
def execSetparam (g : Eng) (s : State) : Res := .next (issueThen 0x52 false (checkSetparam g) (runSetparam g) g s)

/-! ### WAIT_WATCH -/

/-- R122: the target Watch count, rounded up to a whole tick. -/
def watchTarget (s : State) (e : Engine) (w7 : Nat) : Nat :=
  let n := (if bitAt w7 6 then (tget 0 e.p (bits w7 5 0)).toNat else 0) + bits w7 31 8
  ceilDiv (s.run.l1024 + s.run.fq * n) 1024

/-- R122: a WAIT_WATCH that has issued completes at once when its target has passed. -/
def runWaitWatch (g : Eng) (l : Latched) (s : State) : State :=
  let t := watchTarget s (engOf s g) (dW7 l.w)
  if t ≤ s.watch then finish g { l with target := t } s
  else setWaiting g 3 0 (setCur g { l with target := t } s)

/-- R122: issue of a WAIT_WATCH. -/
def execWaitWatch (g : Eng) (s : State) : Res := .next (issueThen 0x53 false noCheck (runWaitWatch g) g s)

/-- The pending WAIT_WATCH of an engine. -/
def pendingWatch (s : State) (g : Eng) : Option Latched :=
  match (engOf s g).cur with
  | some l => if dOp l.w = 0x53 && !l.done && s.life = .running then some l else none
  | none => none

/-- The Watch moves on to a count, never back. -/
def watchTo (n : Nat) (s : State) : State := { s with watch := max s.watch n }

/-- R122: the Watch replica reaches the target. -/
def waitReached (g : Eng) (l : Latched) (s : State) : State :=
  let s1 := finish g l (watchTo l.target s)
  putEng g { engOf s1 g with waiting := none } s1

/-- R122: the Watch reaches a pending WAIT_WATCH target, and the descriptor completes. -/
def execWaitWatchTarget (g : Eng) (s : State) : Res :=
  .next (match pendingWatch s g with
    | some l => waitReached g l s
    | none => s)

/-! ### STEP_END and FORK -/

/-- R168: an engine that has issued STEP_END waits at it. -/
def runStepEnd (g : Eng) (_l : Latched) (s : State) : State := putEng g { engOf s g with cur := none, stepEnded := true } s

/-- R168: issue of a STEP_END. -/
def execStepEnd (g : Eng) (s : State) : Res := .next (issueThen 0x54 false noCheck (runStepEnd g) g s)

/-- R170, R171: a FORK that has issued ends the step; the decider supplies v = S(SSRC). -/
def runFork (g : Eng) (l : Latched) (s : State) : State :=
  let e := engOf s g
  let w7 := dW7 l.w
  let v := if bitAt w7 12 then some (tget 0 e.s (bits w7 11 8)).toNat else s.run.forkValue
  putEng g { e with cur := none, stepEnded := true, forkId := some (bits w7 7 0) }
    { s with run := { s.run with forkId := some (bits w7 7 0), forkValue := v } }

/-- R170: issue of a FORK. -/
def execFork (g : Eng) (s : State) : Res := .next (issueThen 0x55 false noCheck (runFork g) g s)

/-! ### Fetch -/

/-- The position that an engine fetches next: after the last prefetched descriptor, or the Stream Position. -/
def fetchPos (e : Engine) : Nat := match e.prefetch.getLast? with
  | some (p, _) => p + 1
  | none => e.pos

/-- R114: the engine may fetch: its stream is loaded, the buffer has room and the stream holds the position. -/
def canFetch (s : State) (g : Eng) : Bool :=
  let e := engOf s g
  s.life = .running && e.present && !e.pushed && decide (e.prefetch.length < 8) &&
    decide (fetchPos e < ((streamOf s g).map StreamEnt.count).getD 0)

/-- The 64 bytes of the descriptor at a position. -/
def fetchBytes (s : State) (g : Eng) (pos : Nat) : List Byte := rdN s.istore (istoreAddr s g pos) 64

/-- R114: the fetched descriptor fails: an uncorrectable word of the store, or its CRC. -/
def fetchFails (s : State) (g : Eng) (pos : Nat) : Bool :=
  let a := istoreAddr s g pos
  s.istoreBad.any (fun b => decide (a ≤ b) && decide (b < a + 64)) || !descCrcOk (fetchBytes s g pos)

/-- The upset of an Instruction Store word marks the word at the fetched descriptor. -/
def strikeStore (us : List Upset) (a : Nat) (s : State) : State :=
  if us.contains .instructionStore then { s with istoreBad := s.istoreBad ++ [a] } else s

/-- R114: fetch into a free entry, or raise 0x2080. -/
def fetchDesc (g : Eng) (us : List Upset) (s0 : State) : State :=
  let pos := fetchPos (engOf s0 g)
  let s := strikeStore us (istoreAddr s0 g pos) s0
  let e := engOf s g
  if fetchFails s g pos then
    detect 0x2080 (.eng g) (some (2, istoreAddr s g pos)) (report 0x2080 (engPage s g) s)
  else putEng g { e with prefetch := e.prefetch ++ [(pos, fetchBytes s g pos)] } s

/-- R114: the engine fetches a descriptor. -/
def execDescriptorFetch (g : Eng) (us : List Upset) (s : State) : Res :=
  .next (if canFetch s g then fetchDesc g us s else s)

end Sys2Proof.Machine
end

