-- ==== Sys2Proof/Machine/Xfer.lean ====
section
/-! DEFINITION. What every data-moving engine shares: where a handle's elements stand (R132, R134, R137), the tiles that an access
verifies and seals (R191, R192), packed bit runs (R27), the Leading log (R369), and the segments of a descriptor with its FIFO
entries (R133, R134). -/

namespace Sys2Proof.Machine

/-- An operand in hand: its handle, index, and the FIFO entry in use (0 outside FIFOs). -/
structure Opnd where
  idx : Nat
  h : Handle
  entry : Nat
  /-- Byte offset of R142. -/
  off : Int
  deriving DecidableEq, Repr

/-- Byte address of element 0: of the allocation, or of the FIFO entry (R132, R134). -/
def Opnd.base (o : Opnd) : Nat :=
  let b := o.h.base * 4096 + (if o.h.isStream then entryTile o.h o.entry * 4096 else 0)
  ((b : Int) + o.off).toNat

/-- Bit address of the element at coordinates x. -/
def Opnd.bitAddr (o : Opnd) (x : List Nat) : Nat := 8 * o.base + o.h.bitOff x

/-- R191: tile index and Tally slot of the tile that holds a byte address. -/
def Opnd.tileOf (o : Opnd) (addr : Nat) : Nat × Nat :=
  let t := (addr - o.h.base * 4096) / 4096
  if o.h.isStream then (t % o.h.tiles, t) else (t, t)

/-- Handle k of a latched descriptor as an operand; `push` selects the FIFO entry at the tail. -/
def opnd (s : State) (g : Eng) (l : Latched) (k : Nat) (push : Bool) : M Opnd :=
  match handleOf s g.st (nth l.h k) with
  | none => failM 0x2081 none 0 0
  | some h =>
    let f := fifoOf s g.st (nth l.h k)
    pure ⟨nth l.h k, h, if push then f.tail else f.head, l.off.getD k 0⟩

/-- The AUX operand of an MX or CB4 operand: the same FIFO entry, no offset (R129). -/
def auxOpnd (s : State) (g : Eng) (o : Opnd) : M Opnd :=
  match handleOf s g.st o.h.aux with
  | none => failM 0x2081 none 0 0
  | some h => pure ⟨o.h.aux, h, o.entry, 0⟩

/-- Tile base addresses that a byte range touches. -/
def tilesOf (addr n : Nat) : List Nat :=
  if n = 0 then []
  else (List.range ((addr + n - 1) / 4096 - addr / 4096 + 1)).map fun i => (addr / 4096 + i) * 4096

/-- R192: verify every tile that a byte range of an operand touches, but for tiles that this segment has written and not yet sealed. -/
def verifyRange (st : Nat) (o : Opnd) (fresh : List Nat) (addr n : Nat) : M Unit :=
  ((tilesOf addr n).filter fun t => !fresh.contains t).forM fun t => verifyTile st { o.h with space := o.h.memSpace } t (o.tileOf t).1 (o.tileOf t).2

/-- R369: a Leading entry's 32 bytes. -/
def leadEntry (s : State) (g : Eng) (l : Latched) (idx tile tally : Nat) : List Byte :=
  leBytes 4 s.run.step ++ leBytes 1 (((bankOf s s.run.bank).placement.map fun p =>
      (p.stations.findIdx? fun r => r.phys = g.st.val).getD g.st.val).getD g.st.val) ++
    leBytes 1 g.e.val ++ leBytes 2 0 ++ leBytes 4 l.pos ++ leBytes 2 (dTop l.w) ++ leBytes 2 idx ++ leBytes 4 tile ++
    leBytes 4 (nget (engOf s g).issues l.pos - 1) ++ leBytes 8 tally

/-- R369: what an entry's descriptor issue and handle are: step, engine, position, Topmark, handle and issue count. -/
def leadIssue (e : List Byte) : List Byte := slice e 0 0x10 ++ slice e 0x14 4

/-- R369: entries of one issue stay in tile order, one for each tile of a handle; every FIFO entry's tile is logged. -/
def leadAdd (stream : Bool) (e : List Byte) : List (List Byte) → List (List Byte)
  | [] => [e]
  | x :: r =>
    if stream || leadIssue x != leadIssue e then x :: leadAdd stream e r
    else if field x 0x10 4 = field e 0x10 4 then e :: r
    else if field e 0x10 4 < field x 0x10 4 then e :: x :: r
    else x :: leadAdd stream e r

/-- R369: append to the running step's log. -/
def logLead (stream : Bool) (e : List Byte) (s : State) : State :=
  { s with run := { s.run with leadLog := leadAdd stream e s.run.leadLog } }

/-- R192, R369: seal one written tile of an operand and log the Tally it produced. -/
def sealOne (g : Eng) (l : Latched) (o : Opnd) (t : Nat) : M Unit := do
  match ← sealTile g.st { o.h with space := o.h.memSpace } t (o.tileOf t).1 (o.tileOf t).2 with
  | none => pure ()
  | some v => modify fun s => logLead o.h.isStream (leadEntry s g l o.idx (o.tileOf t).2 v) s

/-- Seal every tile of a list, once. -/
def sealAll (g : Eng) (l : Latched) (o : Opnd) (ts : List Nat) : M Unit := (nub ts).forM (sealOne g l o)

/-- R27: read `n` bits at a bit address of an operand's space, its tiles verified first. -/
def readBits (st : Nat) (o : Opnd) (fresh : List Nat) (ba n : Nat) : M Nat := do
  let a := ba / 8
  let len := ceilDiv (ba % 8 + n) 8
  verifyRange st o fresh a len
  let bs ← readMem o.h.memSpace a len
  pure (leNat bs / 2 ^ (ba % 8) % 2 ^ n)

/-- R27: write `n` bits at a bit address, the other bits of the bytes kept. The answer is the tiles touched. -/
def writeBits (o : Opnd) (ba n v : Nat) : M (List Nat) := do
  let a := ba / 8
  let len := ceilDiv (ba % 8 + n) 8
  if n = 0 then pure []
  else if ba % 8 = 0 && n % 8 = 0 then do
    writeMem o.h.memSpace a (leBytes len v)
    pure (tilesOf a len)
  else do
    let old ← readMem o.h.memSpace a len
    let w := leNat old
    writeMem o.h.memSpace a (leBytes len (setBits w (ba % 8 + n - 1) (ba % 8) v))
    pure (tilesOf a len)

/-! ### Segments -/

/-- Whether handle k of a latched descriptor is a stream handle in use. -/
def streamAt (s : State) (g : Eng) (l : Latched) (k : Nat) : Bool :=
  (usedHandles (dOp l.w) (dW7 l.w) l.h).getD k false &&
    ((handleOf s g.st (nth l.h k)).map Handle.isStream).getD false

/-- R57, R134: the handles that a segment pops. A reduction that runs no block pops nothing. -/
def pops (s : State) (g : Eng) (l : Latched) : List Nat :=
  let op := dOp l.w
  let empty := (op = 0x10 || op = 0x11) && nestCount ((levels l.w).take (lanKlevels (dW7 l.w))) = 0
  if empty then [] else [0, 1, 3].filter (streamAt s g l)

/-- R134: whether a segment pushes an entry to C. A chained Lantern descriptor writes nothing. -/
def pushes (s : State) (g : Eng) (l : Latched) : Bool :=
  streamAt s g l 2 && !((dOp l.w = 0x10 || dOp l.w = 0x11) && bitAt (dW7 l.w) 9)

/-- R133: what the next segment waits on: 0 nothing, 1 an empty FIFO, 2 a full one. -/
def segBlock (s : State) (g : Eng) (l : Latched) : Nat :=
  if (pops s g l).any fun k => fifoFill s g.st (nth l.h k) = 0 then 1
  else if pushes s g l then
    match handleOf s g.st (nth l.h 2) with
    | some h => if fifoFill s g.st (nth l.h 2) < h.depth then 0 else 2
    | none => 0
  else 0

/-- R133: after a segment the popped entries are free and the pushed entry is visible. -/
def moveEntries (g : Eng) (l : Latched) (s : State) : State :=
  let s1 := (pops s g l).foldl (fun t k => fifoPopped g.st (nth l.h k) t) s
  if pushes s g l then fifoPushed g.st (nth l.h 2) s1 else s1

/-- Run the segments that remain, until one waits on a FIFO or fails. -/
def runSegs (body : Latched → M Unit) (g : Eng) : Nat → Latched → State → State
  | 0, l, s => finish g l s
  | n + 1, l, s =>
    let b := segBlock s g l
    if b != 0 then setWaiting g 1 (nth l.h (if b = 2 then 2 else (pops s g l).headD 0)) (setCur g { l with blocked := b } s)
    else
      match (body l).go s with
      | (.error f, s1) => runBad g l f s1
      | (.ok _, s1) =>
        runSegs body g n { l with seg := l.seg + 1, blocked := 0, res := (((engOf s1 g).cur.map Latched.res).getD l.res) }
          (moveEntries g l s1)

/-- Run a latched descriptor from its next segment. -/
def runFrom (body : Latched → M Unit) (g : Eng) (l : Latched) (s : State) : State :=
  runSegs body g (l.nseg - l.seg) l s

/-- R19: an uncorrectable Gallery packet during the access is a detected fault, and counts against its router (R363). -/
def galleryGate (us : List Upset) : M Unit :=
  match galleryUpset us with
  | none => pure ()
  | some r => do
    modify fun s => let t := stnOf s r.val; putStn r.val { t with gallery := t.gallery ++ [s.watch] } s
    failM 0x2050 none r.val 0

/-- The flat iterations of the segment in hand (R134, R137): the segment is the outermost level's index. -/
def segIters (l : Latched) : List Nat :=
  let ls := levels l.w
  let inner := if l.nseg = 0 then 0 else nestCount ls / l.nseg
  (List.range inner).map fun j => l.seg * inner + j

/-- R137: coordinates of handle k at a flat iteration. -/
def iterCoords (l : Latched) (k t : Nat) : List Nat :=
  coords (dOp l.w) (dW7 l.w) k (levels l.w) (nestIdx (levels l.w) t)

end Sys2Proof.Machine
end

