-- ==== Sys2Proof/Machine/Lantern.lean ====
section
/-! DEFINITION. Lantern descriptors (R47 to R71): MATMUL, MATMUL_CHAIN and ACC_DRAIN over the exact accumulator set, with the
Tally lane's check (R62 to R68), spill and merge (R60, R61). -/

namespace Sys2Proof.Machine

/-- The accumulator set of the Lantern behind an engine. -/
def setOf (s : State) (g : Eng) : Option AccSet := (lanPhys s g.st g.e).bind fun p => (lanOf s g.st p).set

/-- Replace that set. -/
def putSet (g : Eng) (a : Option AccSet) (s : State) : State :=
  match lanPhys s g.st g.e with
  | some p => putLan g.st p { lanOf s g.st p with set := a } s
  | none => s

/-- R504: M and N of handle C. -/
def shapeN (h : Handle) : Nat := h.extent 0
def shapeM (h : Handle) : Nat := h.extent 1

/-- R504: the K dimension of A and of B, and A's M dimension and B's N dimension. A one-dimensional A is K, with M = 1. -/
def dimKA (a : Handle) (w7 : Nat) : Nat := if a.ndim = 1 then 0 else if bitAt w7 10 then 1 else 0
def dimMA (a : Handle) (w7 : Nat) : Nat := if a.ndim = 1 then 1 else if bitAt w7 10 then 0 else 1
def dimKB (w7 : Nat) : Nat := if bitAt w7 11 then 0 else 1
def dimNB (w7 : Nat) : Nat := if bitAt w7 11 then 1 else 0

/-- Iterations of the reduction levels: the block slots of one output tile (R37). -/
def redCount (l : Latched) : Nat := nestCount ((levels l.w).take (lanKlevels (dW7 l.w)))

/-- Slots that a MATMUL or MATMUL_CHAIN adds to each accumulator (R37). -/
def slotsOf (l : Latched) : Nat := redCount l + b2n (dOp l.w = 0x10 && bitAt (dW7 l.w) 18)

/-! ### Checks at issue -/

/-- R213, R214: the declared GCODE of the Tally area behind handle `idx` of a Station. -/
def declaredG (s : State) (st idx : Nat) : Option Nat :=
  match handleOf s st idx, boundOf s s.run.bank st, (bankOf s s.run.bank).img with
  | some h, some (_, v), some im =>
    if h.tally = 0 then none
    else
      match v.handles[h.tally - 1]? with
      | some (_, rel) => (im.tensors.find? fun t => t.id = bits rel 15 0).map Tensor.tgcode
      | none => none
  | _, _, _ => none

/-- R64: the header of B's Tally area agrees with its declaration. -/
def headerOk (st idx w7 : Nat) : M Bool := do
  let s ← get
  match handleOf s st idx, declaredG s st idx with
  | some h, some gc =>
    match handleOf s st h.tally with
    | some th => do
      let b ← readMem th.space (th.base * 4096) 0x18
      let n := ceilDiv (h.extent (dimNB w7)) (32 * 2 ^ gc)
      pure (field b 0 1 = 1 && field b 1 1 = gc && decide (gc ≤ 5) && field b 8 4 = h.extent (dimKB w7) && field b 12 4 = n)
    | none => pure false
  | _, _ => pure false

/-- Format of handle k, or an impossible code. -/
def fmtAt (s : State) (g : Eng) (l : Latched) (k : Nat) : Nat := ((handleOf s g.st (nth l.h k)).map Handle.fmt).getD 0x1F

/-- R35, R26: the formats that a Lantern descriptor names, in its handles and in W7. -/
def formatsOk (s : State) (g : Eng) (l : Latched) : Bool :=
  let op := dOp l.w
  let w7 := dW7 l.w
  (op = 0x12 || (fmtOperand (fmtAt s g l 0) && fmtOperand (fmtAt s g l 1))) &&
    (!lanRounds op w7 || (fmtOutput (fmtAt s g l 2) && fmtOk (bits w7 4 0) (bitAt w7 5) && fmtOutput (bits w7 4 0))) &&
    (!(op = 0x10 && bitAt w7 18) || fmtBias (fmtAt s g l 3))

/-- R51, R52, R53, R54, R56: what the set and W7 must agree on. The spec names 0x2063 for R51 and R52 only; a pushed descriptor that
breaks R53, R54 or R56 gets it too (DESIGN CHOICE, assumption 36). -/
def chainOk (s : State) (g : Eng) (l : Latched) : Bool :=
  let op := dOp l.w
  let w7 := dW7 l.w
  let c := handleOf s g.st (nth l.h 2)
  lanW7Ok op w7 (levels l.w).length && (op != 0x12 || (levels l.w).isEmpty) &&
    (!lanRounds op w7 || match c with
      | some h => h.fmt = bits w7 4 0 && h.blk16 = bitAt w7 5
      | none => false) &&
    (op = 0x12 || !bitAt w7 9 || nestCount ((levels l.w).drop (lanKlevels w7)) = 1) &&
    match setOf s g with
    | none => op = 0x10
    | some a => op != 0x10 && a.tile = lanTile w7 &&
      (op != 0x11 || match c with
        | some h => a.mUsed = min (lanMt w7) (shapeM h) && a.nUsed = min (lanNt w7) (shapeN h)
        | none => false)

/-- R140: the checks of the Lantern class, in order: formats (0x2061), control (0x2063), the header of B's Tally area
(0x2063, R64), then the slot count (0x2060, R38). -/
def checkLan (g : Eng) (l : Latched) : M Unit := do
  let s ← get
  let op := dOp l.w
  let w7 := dW7 l.w
  if l.pushed && !formatsOk s g l then failM 0x2061 none 0 0
  else if !chainOk s g l then failM 0x2063 none 0 0
  else if op = 0x12 then pure ()
  else do
    let ok ← headerOk g.st (nth l.h 1) w7
    if !ok then failM 0x2063 none 0 0
    else
      let base := if op = 0x11 then ((setOf s g).map AccSet.slots).getD 0 else 0
      if 32768 < base + slotsOf l then failM 0x2060 none 0 0 else pure ()

/-! ### Operands -/

/-- Raw bits of an operand, under the memory's code. -/
def rawBits (o : Opnd) (ba n : Nat) : M Nat := do
  let bs ← readMem o.h.memSpace (ba / 8) (ceilDiv (ba % 8 + n) 8)
  pure (leNat bs / 2 ^ (ba % 8) % 2 ^ n)

/-- R138: the coordinates lie within the bounds. -/
def inBounds (h : Handle) (x : List Nat) : Bool := (List.range 6).all fun d => decide (nth x d < h.extent d)

/-- Coordinates of the scale of an MX element, or of a slice's table entry `i` (R129). -/
def scaleAt (h : Handle) (x : List Nat) : List Nat := x.set h.blockdim (nth x h.blockdim / (if h.blk16 then 16 else 32))
def tableAt (h : Handle) (x : List Nat) (i : Nat) : List Nat := i :: x.set h.blockdim (nth x h.blockdim / 256)

/-- R32, R34, R138: the exact value of an element; one outside the bounds reads zero. -/
def lanElem (o aux : Opnd) (x : List Nat) : M Num := do
  if !inBounds o.h x then pure (.fin 0 0)
  else do
    let v ← rawBits o (o.bitAddr x) (elemBits o.h.fmt)
    if isMx o.h.fmt then do
      let sc ← rawBits aux (aux.bitAddr (scaleAt o.h x)) 8
      pure (scaleNum sc (decodeElem o.h.fmt v))
    else if o.h.fmt = 0x10 then do
      let t ← rawBits aux (aux.bitAddr (tableAt o.h x v)) 8
      pure (decodeElem 3 t)
    else pure (decodeElem o.h.fmt v)

/-- Tiles of an operand that elements at some coordinates touch. -/
def elemTiles (o : Opnd) (xs : List (List Nat)) : List Nat :=
  nub ((xs.filter (inBounds o.h)).map fun x => tilesOf (o.bitAddr x / 8) (ceilDiv (o.bitAddr x % 8 + elemBits o.h.fmt) 8)).flatten

/-- LNT_LEFT and LNT_RIGHT load with the captures (R70, R79). -/
def captureLR (g : Eng) (x y : Nat) (s : State) : State :=
  let b := pageBase (engPage s g)
  if regGet s (b + 0x18) = 0 then regPut64 (b + 0x50) y (regPut64 (b + 0x48) x s) else s

/-- R70: for 0x2003, which has no residues, LNT_LEFT and LNT_RIGHT take the two Tallies that differ, computed and stored (DESIGN
CHOICE, assumption 47). -/
def captureTallies (g : Eng) (o : Opnd) (t : Nat) (s : State) : State :=
  match handleOf s g.st o.h.tally with
  | none => s
  | some th =>
    let mem (sp : Nat) := if sp = 1 then s.dram else s.sram
    captureLR g (blockTally (o.tileOf t).1 (rdN (mem o.h.memSpace) t 4096))
      (bits (leNat (rdN (mem th.space) (tallyAddr th (o.tileOf t).2) 8)) 60 0) s

/-- R50: a whole tile under its code. -/
def touchTile (space t : Nat) : M Unit := if space = 1 then dramCheck 64 t else sramCheck 512 t

/-- R50, R69: fetch one whole tile of an operand and verify it. -/
def fetchTile (g : Eng) (o : Opnd) (t : Nat) : M Unit := do
  touchTile o.h.memSpace t
  tryCatch (verifyTile g.st { o.h with space := o.h.memSpace } t (o.tileOf t).1 (o.tileOf t).2) fun f => do
    if f.code = 0x2003 then modify (captureTallies g o t) else pure ()
    throw f

/-- R50, R69: every tile that those elements touch. -/
def fetchTiles (g : Eng) (o : Opnd) (xs : List (List Nat)) : M Unit := (elemTiles o xs).forM (fetchTile g o)

/-- Verify the element tiles and those of the scales or codebooks. -/
def fetchOperand (g : Eng) (o aux : Opnd) (xs : List (List Nat)) : M Unit := do
  fetchTiles g o xs
  let inb := xs.filter (inBounds o.h)
  if isMx o.h.fmt then fetchTiles g aux (inb.map (scaleAt o.h))
  else if o.h.fmt = 0x10 then fetchTiles g aux ((inb.map fun x => (List.range 16).map (tableAt o.h x)).flatten)
  else pure ()

/-- The operand's AUX, or itself where the format has none. -/
def withAux (g : Eng) (o : Opnd) : M Opnd := do
  if isMx o.h.fmt || o.h.fmt = 0x10 then auxOpnd (← get) g o else pure o

/-- Coordinates shifted by i along dimension d and j along dimension e. -/
def shift2 (x : List Nat) (d i e j : Nat) : List Nat :=
  let y := x.set d (nth x d + i)
  y.set e (nth y e + j)

/-! ### Accumulation -/

/-- R36, R40: one term into an accumulator and its flags. -/
def addTerm (t : Num) (acc : Int × Nat) : Int × Nat :=
  match t with
  | .nan => (acc.1, Nat.lor acc.2 1)
  | .inf false => (acc.1, Nat.lor acc.2 2)
  | .inf true => (acc.1, Nat.lor acc.2 4)
  | .fin m e => (acc.1 + m * pow2 (e + 300), acc.2)

/-- One block's 32 products. -/
def addBlock (a b : List Num) (acc : Int × Nat) : Int × Nat :=
  (a.zip b).foldl (fun r p => addTerm (mulNum p.1 p.2) r) acc

/-- res(α) of an element (R66). -/
def resAlpha (v : Num) : Nat := res (alpha150 v)

/-- Check groups of B that a tile touches: the first, and how many (R65). -/
def groupsOf (a : AccSet) : Nat × Nat :=
  let w := 32 * 2 ^ a.g
  (a.col0 / w, if a.nUsed = 0 then 0 else (a.col0 + a.nUsed - 1) / w - a.col0 / w + 1)

/-- R63: the address of ω(k, q) in a Tally area whose header is given. -/
def weightAddr (th : Handle) (hd : List Byte) (k q : Nat) : Nat := th.base * 4096 + field hd 0x10 8 + 8 * (q * field hd 8 4 + k)

/-- R50: the tiles of the check vector that hold the entries of rows `ks` in groups `qs`, fetched whole. -/
def fetchVector (g : Eng) (b : Opnd) (ks qs : List Nat) : M Unit := do
  match handleOf (← get) g.st b.h.tally with
  | none => pure ()
  | some th => do
    let hd ← readMem th.space (th.base * 4096) 0x18
    (nub ((ks.filter fun k => decide (k < field hd 8 4)).flatMap fun k => qs.map fun q => weightAddr th hd k q / 4096 * 4096)).forM
      (touchTile th.space)

/-- R63: w(k, q) of B, from the check vector; 0 past B's last row. -/
def weightAt (g : Eng) (b : Opnd) (k q : Nat) : M Nat := do
  match handleOf (← get) g.st b.h.tally with
  | none => pure 0
  | some th => do
    let hd ← readMem th.space (th.base * 4096) 0x18
    let rows := field hd 8 4
    if rows ≤ k then pure 0
    else do
      let w ← readMem th.space (weightAddr th hd k q) 8
      pure (bits (leNat w) 60 0)

/-- Integer list addition modulo p. -/
def addMod (xs ys : List Nat) : List Nat := (xs.zip ys).map fun p => (p.1 + p.2) % tallyP

/-- R55, R66: add one block of every dot unit in use, with the right-hand residues. `xa` and `xb` are the operands' origins. -/
def addBlocks (g : Eng) (w7 : Nat) (a aAux b bAux : Opnd) (xa xb : List Nat) (st : AccSet) : M AccSet := do
  let rows ← (List.range st.mUsed).mapM fun r =>
    (List.range 32).mapM fun e => lanElem a aAux (shift2 xa (dimMA a.h w7) r (dimKA a.h w7) e)
  let cols ← (List.range st.nUsed).mapM fun c =>
    (List.range 32).mapM fun e => lanElem b bAux (shift2 xb (dimNB w7) c (dimKB w7) e)
  let gs := groupsOf st
  let ws ← (List.range gs.2).mapM fun q =>
    (List.range 32).mapM fun e => weightAt g b (nth xb (dimKB w7) + e) (gs.1 + q)
  let pairs := (rows.map fun ar => cols.map fun bc => (ar, bc)).flatten
  let acc := ((st.acc.zip st.flags).zip pairs).map fun p => addBlock p.2.1 p.2.2 p.1
  let terms := (rows.map fun ar => ws.map fun wq =>
    (ar.zip wq).foldl (fun t p => (t + resAlpha p.1 * p.2) % tallyP) 0).flatten
  pure { st with slots := st.slots + 1, acc := acc.map Prod.fst, flags := acc.map Prod.snd, right := addMod st.right terms }

/-- R66: bias × 2^300 of a finite value, as an integer. -/
def bias300 : Num → Int
  | .fin m e => m * pow2 (e + 300)
  | _ => 0

/-- R55: the bias, one slot. -/
def addBias (d : Opnd) (xd : List Nat) (st : AccSet) : M AccSet := do
  let bs ← (List.range st.nUsed).mapM fun c => lanElem d d (xd.set 0 (nth xd 0 + c))
  let gs := groupsOf st
  let w := 32 * 2 ^ st.g
  let sums := (List.range gs.2).map fun q =>
    res ((bs.zipIdx.filter fun e => (st.col0 + e.2) / w = gs.1 + q).foldl (fun t e => t + bias300 e.1) 0)
  let row := (List.range st.mUsed).map fun _ => bs
  let acc := ((st.acc.zip st.flags).zip row.flatten).map fun p => addTerm p.2 p.1
  let right := addMod st.right (((List.range st.mUsed).map fun _ => sums).flatten)
  pure { st with slots := st.slots + 1, acc := acc.map Prod.fst, flags := acc.map Prod.snd, right := right }

/-- R51, R55: a fresh set for a tile. -/
def openSet (w7 g col0 m n : Nat) : AccSet :=
  let st : AccSet := ⟨0, lanTile w7, m, n, g, col0, List.replicate (m * n) 0, List.replicate (m * n) 0, []⟩
  { st with right := List.replicate (m * (groupsOf st).2) 0 }

/-- A flipped accumulator bit (two's complement, 640 bits, R36). -/
def flipAcc (st : AccSet) (row col bit : Nat) : AccSet :=
  let i := row * st.nUsed + col
  { st with acc := st.acc.set i (signed 640 (Nat.xor (wrapInt 640 (st.acc.getD i 0)) (2 ^ (bit % 640)))) }

/-- The upsets that strike accumulators. -/
def strikeAcc (us : List Upset) (st : AccSet) : AccSet :=
  us.foldl (fun t u => match u with
    | .accumulator r c b => flipAcc t r c b
    | _ => t) st

/-! ### Round-out -/

/-- R41: the value of an accumulator with its flags. -/
def accNum (acc : Int) (fl : Nat) : Num :=
  if bitAt fl 0 || (bitAt fl 1 && bitAt fl 2) then .nan
  else if bitAt fl 1 then .inf false
  else if bitAt fl 2 then .inf true
  else .fin acc (-300)

/-- Rows of a set: each accumulator with its flags. -/
def accRow (st : AccSet) (r : Nat) : List (Int × Nat) := ((st.acc.zip st.flags).drop (r * st.nUsed)).take st.nUsed

/-- R66: left(r, q): the sum of N over the group's columns in row r. -/
def leftOf (st : AccSet) (r q : Nat) : Nat :=
  let w := 32 * 2 ^ st.g
  res (((accRow st r).zipIdx.filter fun e => (st.col0 + e.2) / w = (groupsOf st).1 + q).foldl (fun t e => t + e.1.1) 0)

/-- R66, R70: compare every group of one row. -/
def checkRow (g : Eng) (tile : Nat) (st : AccSet) (r : Nat) : M Unit :=
  (List.range (groupsOf st).2).forM fun q => do
    modify fun s => regAdd64 (pageBase (engPage s g) + 0x60) 1 s
    let x := leftOf st r q
    let y := nth st.right (r * (groupsOf st).2 + q)
    modify (chk 0 (x != y))
    if x = y then pure ()
    else do
      modify (captureLR g x y)
      failM 0x2001 none ((groupsOf st).1 + q + tile * 2 ^ 16) r

/-- R45: MX blocks of a row: each block's scale and codes. -/
def mxRow (fmt mode bs : Nat) : Nat → List Num → List (Nat × List Nat)
  | 0, _ => []
  | n + 1, vs => if vs.isEmpty then [] else mxBlock fmt mode (vs.take bs) :: mxRow fmt mode bs n (vs.drop bs)

/-- R45 step 1: an element with any side flag spoils its block. -/
def mxNum (e : Int × Nat) : Num := if e.2 = 0 then .fin e.1 (-300) else .nan

/-- Codes packed as one value, first lowest. -/
def packCodes (w : Nat) : List Nat → Nat
  | [] => 0
  | c :: cs => c + 2 ^ w * packCodes w cs

/-- R41 to R45: round one row and write it. The answer is the tiles of C and of its scales. -/
def writeRow (w7 : Nat) (c aux : Opnd) (x : List Nat) (row : List (Int × Nat)) : M (List Nat × List Nat) := do
  let fmt := bits w7 4 0
  let w := elemBits c.h.fmt
  if isMx fmt then do
    let bl := mxRow fmt (bits w7 7 6) (if bitAt w7 5 then 16 else 32) row.length (row.map mxNum)
    let ts ← writeBits c (c.bitAddr x) (w * row.length) (packCodes w (bl.map Prod.snd).flatten)
    let us ← writeBits aux (aux.bitAddr (scaleAt c.h x)) (8 * bl.length) (packCodes 8 (bl.map Prod.fst))
    pure (ts, us)
  else do
    let cs := row.map fun e => encodeNum fmt (bits w7 7 6) (bitAt w7 8) (accNum e.1 e.2)
    let ts ← writeBits c (c.bitAddr x) (w * row.length) (packCodes w cs)
    pure (ts, [])

/-- R68, R70: check, compare the rounding copies, and write one row. 0x2062 has no check group: GROUP, LNT_LEFT and LNT_RIGHT take
those of the row's first group in the tile (DESIGN CHOICE, assumption 47). -/
def outRow (g : Eng) (us : List Upset) (l : Latched) (tile : Nat) (c aux : Opnd) (xc : List Nat) (st : AccSet) (r : Nat) :
    M (List Nat × List Nat) := do
  checkRow g tile st r
  if us.contains (.rounding r) then do
    modify fun s => captureLR g (leftOf st r 0) (nth st.right (r * (groupsOf st).2)) (chkFail 0 s)
    failM 0x2062 none ((groupsOf st).1 + tile * 2 ^ 16) r
  else writeRow (dW7 l.w) c aux (xc.set 1 (nth xc 1 + r)) (accRow st r)

/-- R41 to R45, R66, R69, R70: round a set out to C at an origin, then seal what was written. -/
def roundOut (g : Eng) (us : List Upset) (l : Latched) (tile : Nat) (c : Opnd) (xc : List Nat) (st : AccSet) : M Unit := do
  let aux ← if isMx c.h.fmt then auxOpnd (← get) g c else pure c
  let ts ← (List.range st.mUsed).mapM fun r => outRow g us l tile c aux xc st r
  sealAll g l c (ts.map Prod.fst).flatten
  sealAll g l aux (ts.map Prod.snd).flatten

/-! ### MATMUL and MATMUL_CHAIN -/

/-- A failed operand check names the output tile (LNT_ERR_CAPTURE_C). R77: an accumulator upset of the same command fails the Tally
check in the same clock: 0x2001 is set beside 0x2003. -/
def tagTile {α : Type} (us : List Upset) (tile : Nat) (x : M α) : M α :=
  tryCatch x fun f => throw { f with
    detail := if f.code = 0x2001 || f.code = 0x2062 then f.detail else tile * 2 ^ 16
    also := if f.code = 0x2003 && us.any (fun u => match u with | .accumulator _ _ _ => true | _ => false) then 0x2001 else f.also }

/-- R55: one output tile of a MATMUL or MATMUL_CHAIN. Upsets strike in the tile at which the command starts. -/
def matmulTile (g : Eng) (us : List Upset) (l : Latched) : M Unit := do
  let s ← get
  let w7 := dW7 l.w
  let a ← opnd s g l 0 false
  let b ← opnd s g l 1 false
  let c ← opnd s g l 2 true
  let aAux ← withAux g a
  let bAux ← withAux g b
  let org := l.seg * redCount l
  let outs := (levels l.w).drop (lanKlevels w7)
  let oi := nestIdx outs l.seg
  let zero := ((levels l.w).take (lanKlevels w7)).map fun _ => 0
  let at_ (k : Nat) := coords (dOp l.w) w7 k (levels l.w) (zero ++ oi)
  let xc := at_ 2
  let col0 := nth (at_ 1) (dimNB w7)
  let st0 := match setOf s g with
    | some t => if dOp l.w = 0x11 then t else openSet w7 ((declaredG s g.st (nth l.h 1)).getD 0) col0
        (min (lanMt w7) (shapeM c.h - nth xc 1)) (min (lanNt w7) (shapeN c.h - nth xc 0))
    | none => openSet w7 ((declaredG s g.st (nth l.h 1)).getD 0) col0
        (min (lanMt w7) (shapeM c.h - nth xc 1)) (min (lanNt w7) (shapeN c.h - nth xc 0))
  modify (putSet g (some st0))
  let st1 ← if dOp l.w = 0x10 && bitAt w7 18 then do
      let d ← opnd s g l 3 false
      fetchTiles g d ((List.range st0.nUsed).map fun j => (at_ 3).set 0 (nth (at_ 3) 0 + j))
      addBias d (at_ 3) st0
    else pure st0
  let its := (List.range (redCount l)).map fun j => org + j
  let xs (k : Nat) := its.map fun t => iterCoords l k t
  fetchOperand g a aAux (((xs 0).map fun x => ((List.range st0.mUsed).map fun r =>
    (List.range 32).map fun e => shift2 x (dimMA a.h w7) r (dimKA a.h w7) e).flatten).flatten)
  fetchOperand g b bAux (((xs 1).map fun x => ((List.range st0.nUsed).map fun j =>
    (List.range 32).map fun e => shift2 x (dimNB w7) j (dimKB w7) e).flatten).flatten)
  fetchVector g b ((xs 1).flatMap fun x => (List.range 32).map fun e => nth x (dimKB w7) + e)
    ((List.range (groupsOf st0).2).map fun q => (groupsOf st0).1 + q)
  let st2 ← ((xs 0).zip (xs 1)).foldlM (fun t p => addBlocks g w7 a aAux b bAux p.1 p.2 t) st1
  let st3 := strikeAcc us st2
  modify fun s => regAdd64 (pageBase (engPage s g) + 0x90) (redCount l * st0.mUsed * st0.nUsed) (putSet g (some st3) s)
  if bitAt w7 9 then pure ()
  else do
    roundOut g us l l.seg c xc st3
    modify (putSet g none)

/-- One segment of a MATMUL or MATMUL_CHAIN. -/
def matmulBody (g : Eng) (us : List Upset) (first : Nat) (l : Latched) : M Unit :=
  tagTile (if l.seg = first then us else []) l.seg (do
    galleryGate us
    matmulTile g (if l.seg = first then us else []) l)

/-! ### ACC_DRAIN -/

/-- R60: bytes of a spill record. -/
def spillLen (n : Nat) : Nat := roundUp (320 + 64 * ceilDiv n 64 + 80 * n) 64

/-- R60: the spill record of a set. -/
def spillRecord (st : AccSet) : List Byte :=
  let n := st.mUsed * st.nUsed
  let res := (List.range 32).map fun i => leBytes 8 (nth st.right i)
  let head := leBytes 4 st.slots ++ leBytes 2 st.mUsed ++ leBytes 2 st.nUsed ++ leBytes 1 st.tile ++ leBytes 1 st.g ++
    leBytes 6 0 ++ leBytes 8 st.col0 ++ leBytes 40 0
  let fl := (st.flags.map fun f => leBytes 1 f).flatten ++ leBytes (64 * ceilDiv n 64 - n) 0
  let ac := (st.acc.map fun a => leBytes 80 (wrapInt 640 a)).flatten
  let b := head ++ res.flatten ++ fl ++ ac
  b ++ leBytes (spillLen n - b.length) 0

/-- R61: one record merged into a set; 0x2063 on a different header, 0x2060 past 32,768 slots. -/
def mergeRecord (st : AccSet) (b : List Byte) (tile : Nat) : M AccSet := do
  let n := st.mUsed * st.nUsed
  let ok := field b 4 2 = st.mUsed && field b 6 2 = st.nUsed && field b 8 1 = st.tile && field b 9 1 = st.g &&
    field b 0x10 8 = st.col0
  if !ok then failM 0x2063 none tile 0
  else if 32768 < st.slots + field b 0 4 then failM 0x2060 none tile 0
  else
    let fo := 0x140
    let ao := 0x140 + 64 * ceilDiv n 64
    pure { st with
      slots := st.slots + field b 0 4
      flags := st.flags.zipIdx.map fun e => Nat.lor e.1 (bits (field b (fo + e.2) 1) 2 0)
      acc := st.acc.zipIdx.map fun e => e.1 + signed 640 (field b (ao + 80 * e.2) 80)
      right := st.right.zipIdx.map fun e => (e.1 + bits (field b (0x40 + 8 * e.2) 8) 60 0) % tallyP }

/-- R61: merge MCOUNT records from D. -/
def mergeAll (g : Eng) (l : Latched) (st : AccSet) : M AccSet := do
  let d ← opnd (← get) g l 3 false
  let len := spillLen (st.mUsed * st.nUsed)
  (List.range (bits (dW7 l.w) 24 21)).foldlM (fun t i => do
    let a := d.base + i * (nth d.h.pitch 0 + 1)
    (tilesOf a len).forM (fetchTile g d)
    let b ← readMem d.h.memSpace a len
    mergeRecord t b 0) st

/-- R51, R60, R61: an ACC_DRAIN. -/
def drainBody (g : Eng) (us : List Upset) (first : Nat) (l : Latched) : M Unit :=
  tagTile (if l.seg = first then us else []) 0 (do
    galleryGate us
    let s ← get
    let up := if l.seg = first then us else []
    match setOf s g with
    | none => failM 0x2063 none 0 0
    | some st => do
      let c ← opnd s g l 2 true
      let st1 ← if drainMerges (dW7 l.w) then mergeAll g l st else pure st
      let st2 := strikeAcc up st1
      modify (putSet g (some st2))
      if drainSpills (dW7 l.w) then do
        writeMem c.h.memSpace c.base (spillRecord st2)
        sealAll g l c (tilesOf c.base (spillRecord st2).length)
      else roundOut g up l 0 c [0, 0, 0, 0, 0, 0] st2
      modify (putSet g none))

/-- R51: issue of a MATMUL. -/
def execMatmul (g : Eng) (us : List Upset) (s : State) : Res :=
  .next (issueThen 0x10 true (checkLan g) (runFrom (matmulBody g us 0) g) g (strikes us s))

/-- R51: issue of a MATMUL_CHAIN. -/
def execMatmulChain (g : Eng) (us : List Upset) (s : State) : Res :=
  .next (issueThen 0x11 true (checkLan g) (runFrom (matmulBody g us 0) g) g (strikes us s))

/-- R51: issue of an ACC_DRAIN. -/
def execAccDrain (g : Eng) (us : List Upset) (s : State) : Res :=
  .next (issueThen 0x12 true (checkLan g) (runFrom (drainBody g us 0) g) g (strikes us s))

end Sys2Proof.Machine
end

