-- ==== Sys2Proof/Machine/Sha3.lean ====
section
/-! DEFINITION. SHA3-256, which the spec names for every hash of the S9 (R212, R219, R251, R316, R382): FIPS 202 (PRESUMED,
assumption 3). -/

namespace Sys2Proof.Machine

/-- A lane of the permutation's state, of 25. -/
def lane (a : List W64) (i : Nat) : W64 := a.getD i 0

/-- Column parities mixed into every lane. -/
def mixColumns (a : List W64) : List W64 :=
  let par := fun x => [0, 5, 10, 15, 20].foldl (fun p y => p ^^^ lane a (x % 5 + y)) 0
  (List.range 25).map fun i => lane a i ^^^ par (i + 4) ^^^ (par (i + 1)).rotateLeft 1

/-- Where the move (x, y) ↦ (y, 2x + 3y) takes a lane, as x + 5y. -/
def moveLane (p : Nat) : Nat := p / 5 + 5 * ((2 * (p % 5) + 3 * (p / 5)) % 5)

/-- Lanes moved along the cycle of moveLane, from lane p on: the t-th move rotates by the t-th triangular number. -/
def walkLanes (a : List W64) : Nat → Nat → Nat → List (Nat × W64)
  | 0, _, _ => []
  | n + 1, t, p => (moveLane p, (lane a p).rotateLeft (t * (t + 1) / 2 % 64)) :: walkLanes a n (t + 1) (moveLane p)

/-- The 24 lanes of the cycle moved and rotated; lane 0 stays. -/
def moveLanes (a : List W64) : List W64 :=
  let m := walkLanes a 24 1 1
  (List.range 25).map fun i => (m.lookup i).getD (lane a i)

/-- Every lane mixed with its two neighbours in the row. -/
def mixRows (a : List W64) : List W64 :=
  (List.range 25).map fun i =>
    let right := fun k => lane a (i / 5 * 5 + (i + k) % 5)
    lane a i ^^^ (right 2 &&& ~~~ right 1)

/-- One step of the shift register behind the round constants: times x in GF(2)[x] / (x^8 + x^6 + x^5 + x^4 + 1). -/
def shiftReg (r : Nat) : Nat := if r < 128 then 2 * r else Nat.xor (2 * r) 0x171

/-- Seven steps of the shift register: its j-th output bit stands at bit 2^j - 1 of the round constant. -/
def roundConst : Nat → Nat → Nat → Nat × Nat
  | 0, _, r => (0, r)
  | n + 1, j, r => let x := roundConst n (j + 1) (shiftReg r); (x.1 + r % 2 * 2 ^ (2 ^ j - 1), x.2)

/-- A number of rounds, with the shift register. -/
def keccakRounds : Nat → Nat → List W64 → List W64
  | 0, _, a => a
  | n + 1, r, a =>
    let rc := roundConst 7 0 r
    let b := mixRows (moveLanes (mixColumns a))
    keccakRounds n rc.2 ((lane b 0 ^^^ BitVec.ofNat 64 rc.1) :: b.drop 1)

/-- The permutation: 24 rounds. -/
def keccakF (a : List W64) : List W64 := keccakRounds 24 1 a

/-- A block of 136 bytes absorbed. -/
def keccakAbsorb (a : List W64) (blk : List Byte) : List W64 :=
  keccakF ((List.range 25).map fun i => if i < 17 then lane a i ^^^ BitVec.ofNat 64 (field blk (8 * i) 8) else lane a i)

/-- Blocks of 136 bytes, one after the other. -/
def keccakBlocks : Nat → List W64 → List Byte → List W64
  | 0, a, _ => a
  | n + 1, a, bs => keccakBlocks n (keccakAbsorb a (bs.take 136)) (bs.drop 136)

/-- Padding of a message to whole blocks. -/
def sha3Pad (bs : List Byte) : List Byte :=
  let k := 136 - bs.length % 136
  if k = 1 then bs ++ [0x86] else bs ++ [0x06] ++ List.replicate (k - 2) 0 ++ [0x80]

/-- SHA3-256. -/
def sha3 (bs : List Byte) : List Byte :=
  let a := keccakBlocks (bs.length / 136 + 1) (List.replicate 25 0) (sha3Pad bs)
  ((List.range 4).map fun i => leBytes 8 (lane a i).toNat).flatten

/-- The bytes of an ASCII string. -/
def ascii (t : String) : List Byte := t.toList.map fun c => BitVec.ofNat 8 c.toNat

end Sys2Proof.Machine
end

