-- ==== Sys2Proof/Machine/Frame.lean ====
section
/-! DEFINITION. The 280-byte frame (R298): Reed–Solomon parity (R299), CRC-32 (R300), sealing (R317), the headers (R301, R302,
R304) and the ACK block (R305). -/

namespace Sys2Proof.Machine

/-- R299: multiplication by α in the field of polynomial x^8 + x^4 + x^3 + x^2 + 1. -/
def gfAlpha (b : Byte) : Byte := if b.getLsbD 7 then (b <<< 1) ^^^ 0x1D#8 else b <<< 1

/-- Multiplication by the low `n` bits of a number, from bit 0. -/
def gfMulBits : Nat → Byte → Byte → Byte
  | 0, _, _ => 0
  | n + 1, a, b => (if b.getLsbD 0 then a else 0) ^^^ gfMulBits n (gfAlpha a) (b >>> 1)

/-- Multiplication in the field. -/
def gfMul (a b : Byte) : Byte := gfMulBits 8 a b

/-- The inverse of 1 + α in the field. -/
def gfInv3 : Byte := 0xF4#8

/-- R299: the syndromes of a codeword at the roots α^0 and α^1, its first byte of highest degree (PRESUMED, assumption 5). -/
def rsSyndromes (c : List Byte) : Byte × Byte :=
  (c.foldl (fun a b => a ^^^ b) 0, c.foldl (fun a b => gfAlpha a ^^^ b) 0)

/-- R299: the two parity bytes of 136 bytes. -/
def rsParity (d : List Byte) : List Byte :=
  let s := rsSyndromes (d ++ [0, 0])
  let p1 := gfMul (s.1 ^^^ s.2) gfInv3
  [p1, s.1 ^^^ p1]

/-- Where a single error stands: the degree k with e × α^k equal to the second syndrome. -/
def rsLocate (e s1 : Byte) : Nat → Nat → Option Nat
  | 0, _ => none
  | n + 1, k => if e = s1 then some k else rsLocate (gfAlpha e) s1 n (k + 1)

/-- R299: one bad byte of a codeword is corrected; the answer is whether one was, and the 136 bytes. -/
def rsCorrect (c : List Byte) : Bool × List Byte :=
  let s := rsSyndromes c
  if s.1 = 0 then (false, c.take 136)
  else match rsLocate s.1 s.2 138 0 with
    | none => (false, c.take 136)
    | some k => (true, (c.set (137 - k) (c.getD (137 - k) 0 ^^^ s.1)).take 136)

/-- One byte into a reflected CRC-32. -/
def crc32Step : Nat → BitVec 32 → BitVec 32
  | 0, c => c
  | n + 1, c => crc32Step n (if c.getLsbD 0 then (c >>> 1) ^^^ 0xEDB88320#32 else c >>> 1)

/-- R300: CRC-32. -/
def crc32 (bs : List Byte) : Nat :=
  ((bs.foldl (fun c b => crc32Step 8 (c ^^^ b.setWidth 32)) 0xFFFFFFFF#32) ^^^ 0xFFFFFFFF#32).toNat

/-- R298: the wire bytes of 272 bytes of header and payload and the closing four bytes. -/
def frameWire (body close : List Byte) : List Byte :=
  let a := slice body 0 136
  let b := slice body 136 136
  a ++ rsParity a ++ b ++ rsParity b ++ close

/-- R298, R299: half-flits corrected, the 272 bytes, and the closing four bytes of a frame received. -/
def frameOpen (f : List Byte) : Nat × List Byte × List Byte :=
  let a := rsCorrect (slice f 0 138)
  let b := rsCorrect (slice f 138 138)
  (b2n a.1 + b2n b.1, a.2 ++ b.2, slice f 276 4)

/-- R317: the IV: direction byte, three zero bytes and the frame count. -/
def sealIv (dir count : Nat) : List Byte := BitVec.ofNat 8 dir :: [0, 0, 0] ++ leBytes 8 count

/-- XOR of two byte lists, over the length of the first. -/
def xorBytes (a b : List Byte) : List Byte := a.zipIdx.map fun e => e.1 ^^^ b.getD e.2 0

/-- R317: the body and close of a sealed frame: the payload encrypted, the header additional data, 32 bits of tag. -/
def sealFrame (key : List Byte) (dir count : Nat) (body : List Byte) : List Byte × List Byte :=
  let iv := sealIv dir count
  let ct := xorBytes (slice body 16 256) (Config.gcmStream key iv 256)
  (slice body 0 16 ++ ct, slice (Config.gcmTag key iv (slice body 0 16) ct) 0 4)

/-- R317: the plain body of a sealed frame, when its tag verifies. -/
def unsealFrame (key : List Byte) (dir count : Nat) (body close : List Byte) : Option (List Byte) :=
  let iv := sealIv dir count
  let ct := slice body 16 256
  if slice (Config.gcmTag key iv (slice body 0 16) ct) 0 4 = close then
    some (slice body 0 16 ++ xorBytes ct (Config.gcmStream key iv 256))
  else none

/-- R317: the next key of a direction. -/
def ratchet (k : List Byte) : List Byte := sha3 (k ++ ascii "UHLIVO-RATCHET")

/-! ### Headers -/

/-- R301. -/
def hKind (h : Nat) : Nat := bits h 1 0
def hSeq (h : Nat) : Nat := bits h 13 2

/-- R302: Scheduled fields. -/
def hGen (h : Nat) : Nat := bits h 16 15
def hOrigin (h : Nat) : Nat := bits h 36 17
def hHop (h : Nat) : Nat := bits h 38 37
def hStag (h : Nat) : Nat := bits h 50 39
def hIndex (h : Nat) : Nat := bits h 66 51
def hTally (h : Nat) : Nat := bits h 127 67

/-- R302: a Scheduled header, its SEQ still 0. -/
def schedHeader (gen origin hop stag index tally : Nat) : Nat :=
  gen % 4 * 2 ^ 15 + origin % 2 ^ 20 * 2 ^ 17 + hop % 4 * 2 ^ 37 + stag % 2 ^ 12 * 2 ^ 39 + index % 2 ^ 16 * 2 ^ 51 +
    tally % 2 ^ 61 * 2 ^ 67

/-- R302: Bulk fields. -/
def hBulk (h : Nat) : Bool := bitAt h 14
def hDest (h : Nat) : Nat := bits h 33 15
def hSrc (h : Nat) : Nat := bits h 52 34
def hBchan (h : Nat) : Nat := bits h 60 53
def hMsgid (h : Nat) : Nat := bits h 76 61
def hBIndex (h : Nat) : Nat := bits h 92 77
def hLast (h : Nat) : Bool := bitAt h 93
def hLen (h : Nat) : Nat := bits h 102 94 + 1

/-- R302: a Bulk header, its SEQ still 0. -/
def bulkHeader (dest src bchan msgid index : Nat) (last : Bool) (len : Nat) : Nat :=
  2 ^ 14 + dest % 2 ^ 19 * 2 ^ 15 + src % 2 ^ 19 * 2 ^ 34 + bchan % 2 ^ 8 * 2 ^ 53 + msgid % 2 ^ 16 * 2 ^ 61 + index % 2 ^ 16 * 2 ^ 77 +
    b2n last * 2 ^ 93 + (len - 1) % 2 ^ 9 * 2 ^ 94

/-- R304: CONTROL fields. -/
def hReplay (h : Nat) : Bool := bitAt h 14
def hPid (h : Nat) : Nat := bits h 46 15

/-- R304: a CONTROL header, its SEQ still 0. -/
def ctlHeader (replay : Bool) (pid : Nat) : Nat := 1 + b2n replay * 2 ^ 14 + pid * 2 ^ 15

/-- A header with its SEQ. -/
def withSeq (h seq : Nat) : Nat := setBits h 13 2 seq

/-- The 16 header bytes. -/
def headerBytes (h : Nat) : List Byte := leBytes 16 h

/-- Bytes placed in a list at an offset. -/
def putBytes (bs : List Byte) (o : Nat) (v : List Byte) : List Byte := bs.take o ++ v ++ bs.drop (o + v.length)

/-- A field of `n` bytes placed at an offset. -/
def putField (bs : List Byte) (o n v : Nat) : List Byte := putBytes bs o (leBytes n v)

/-- R306: s is ahead of r. -/
def ahead (s r : Nat) : Bool := let d := (s + 4096 - r % 4096) % 4096; decide (1 ≤ d) && decide (d ≤ 2047)

/-! ### Links by number -/

def domReset : Dom :=
  { seen := [], upstream := none, blk := none, valid := false, offset := 0, syncs := [], eligible := false, held := 0
    yielded := false }

def linkReset : Link :=
  { st := .down, rate := 0, sealed := false, partner := none, claimed := 0, delay := 0, unfit := false, cable := false
    flashAt := 0, trainBegan := 0, retryAt := 0, backoff := 1000000, helloSent := [], helloGot := none, partnerPos := []
    chainKey := none, transcript := [], kemNo := 0, kemKey := [], kemCipher := [], shared := [], msg := [], msgAt := 0, secret := [], nonceSent := [], graceAt := none, keyTx := [], keyRx := []
    sentUnder := 0, gotUnder := 0, tagFails := 0, seq := 0, buf := [], ackAt := 0, timeouts := 0, expect := 0, got := []
    ackValid := false, nak := none, asked := [], offIn := false, offOut := false, rxBulk := [], bulkQ := [], late := [], staged := [], frames := 0
    fec := 0, errAt := [], occ := [] }

def linkOf (s : State) (l : Nat) : Link := tget linkReset s.fab.links l
def putLink (l : Nat) (k : Link) (s : State) : State := { s with fab := { s.fab with links := tput s.fab.links l k } }

def portReset : Port := ⟨[], []⟩
def portOf (s : State) (n : Nat) : Port := tget portReset s.fab.ports n
def putPort (n : Nat) (p : Port) (s : State) : State := { s with fab := { s.fab with ports := tput s.fab.ports n p } }

/-- R305: the ACK block of a link. -/
def ackBlock (k : Link) : Nat :=
  let nak := k.nak.getD (0, 0)
  (k.expect + 4095) % 4096 + b2n k.ackValid * 2 ^ 12 + nak.1 * 2 ^ 13 + nak.2 * 2 ^ 25 + b2n k.offOut * 2 ^ 29

/-- R301, R305: the payload of a LINK frame. -/
def linkPayload (k : Link) : List Byte := putField (List.replicate 256 0) 0x40 8 (ackBlock k)

end Sys2Proof.Machine
end

