-- ==== Sys2Proof/Machine/Sched.lean ====
section
/-! DEFINITION. The SCHEDULE section (R273 to R277), the Flash grids (R266 to R268), the latencies (R270, R272) and what the
Phrase tables say of one link or Station. -/

namespace Sys2Proof.Machine

/-! ### The SCHEDULE section -/

/-- R273: header fields, from the section's bytes. -/
def scRate (b : List Byte) : Nat := field b 0 1
def scChmax (b : List Byte) : Nat := field b 1 1
def scShape (b : List Byte) : List Nat := (List.range 4).map fun i => field b (4 + i) 1
def scNchar (b : List Byte) : Nat := field b 8 2
def scNclass (b : List Byte) : Nat := field b 10 2
def scStepmap (b : List Byte) : Nat := field b 0x10 8
def scSegstep (b : List Byte) : Nat := field b 0x18 8
def scClassmap (b : List Byte) : Nat := field b 0x20 8
def scChars (b : List Byte) : Nat := field b 0x28 8

/-- R273: the Character of a step record. -/
def scCharOf (b : List Byte) (rec_ : Nat) : Option Nat :=
  let c := field b (scStepmap b + 2 * rec_) 2
  if c = 0xFFFF then none else some c

/-- R274: the step record at which a fork segment begins. -/
def scSegRec (b : List Byte) (g : Nat) : Nat := field b (scSegstep b + 2 * g) 2

/-- R273: the Phrase class of a logical rank. -/
def scClassOf (b : List Byte) (r : Nat) : Nat := field b (scClassmap b + 2 * r) 2

/-- R275: where a Character record stands, its length in Flashes, and the list of a class. -/
def scCharAt (b : List Byte) (c : Nat) : Nat := scChars b + c * (8 + 16 * scNclass b)
def scClen (b : List Byte) (c : Nat) : Nat := field b (scCharAt b c) 4
def scListAt (b : List Byte) (c cls : Nat) : Nat := field b (scCharAt b c + 8 + 16 * cls) 8

/-- R275: a Phrase list: OWNER and Phrase of each entry. -/
def phraseList (b : List Byte) (off : Nat) : List (Nat × Nat) :=
  (List.range (field b (off + 4) 4)).map fun i => (field b (off + 8 + 16 * i) 2, field b (off + 16 + 16 * i) 8)

/-- R276: the fields of a Phrase. -/
def phStart (p : Nat) : Nat := bits p 19 0
def phCount (p : Nat) : Nat := bits p 29 20
def phHop (p : Nat) : Nat := bits p 31 30
def phStride (p : Nat) : Nat := bits p 43 32
def phStag (p : Nat) : Nat := bits p 55 44
def phAction (p : Nat) : Nat := bits p 63 56
def phForwards (p : Nat) : Bool := bitAt p 63
def phLink (p : Nat) : Nat := bits p 62 56
def phStation (p : Nat) : Nat := bits p 59 56

/-- R277: origin Flash of flit i of a run. -/
def phOrigin (p i : Nat) : Nat := phStart p + i * phStride p

/-- R277: the flit of a run that has an origin Flash. -/
def phFlit (p origin : Nat) : Option Nat :=
  if origin < phStart p || phStride p = 0 then none
  else
    let d := origin - phStart p
    if d % phStride p = 0 && d / phStride p < phCount p then some (d / phStride p) else none

/-! ### What runs now -/

/-- The SCHEDULE section of the current bank. -/
def schedOf (s : State) : Option (List Byte) := ((bankOf s s.run.bank).img.map Image.schedule).getD none

/-- R262: a detour record's fields. -/
def dtDim (r : List Byte) : Nat := field r 0 1
def dtA (r : List Byte) : Nat := field r 1 1
def dtB (r : List Byte) : Nat := field r 2 1
def dtM (r : List Byte) : Nat := field r 3 1
def dtLine (r : List Byte) : Nat := field r 4 4
def dtOffA (r : List Byte) : Nat := field r 8 8
def dtOffM (r : List Byte) : Nat := field r 16 8
def dtOffB (r : List Byte) : Nat := field r 24 8

/-- Extent of logical dimension k of the partition. -/
def extent (s : State) (k : Nat) : Nat := s.fab.part.shape.getD k 1

/-- Logical coordinates of a rank (R256). -/
def coordsOf (shape : List Nat) (r : Nat) : List Nat :=
  let n0 := nth shape 0
  let n1 := nth shape 1
  let n2 := nth shape 2
  [r % n0, r / n0 % n1, r / n0 / n1 % n2, r / n0 / n1 / n2]

/-- Logical rank of logical coordinates (R256). -/
def rankOf (shape c : List Nat) : Nat :=
  nth c 0 + nth shape 0 * (nth c 1 + nth shape 1 * (nth c 2 + nth shape 2 * nth c 3))

/-- R262: logical rank of the member with index 0 on this chip's line in dimension k. -/
def lineRank (s : State) (k : Nat) : Nat := rankOf s.fab.part.shape (s.fab.part.self.set k 0)

/-- R262: the Phrase lists that an active detour gives this chip. -/
def detourLists (s : State) (r : List Byte) : Option Nat :=
  let me := nth s.fab.part.self (dtDim r)
  if dtLine r != 0xFFFFFFFF && dtLine r != lineRank s (dtDim r) then none
  else if me = dtA r then some (dtOffA r) else if me = dtM r then some (dtOffM r) else if me = dtB r then some (dtOffB r)
  else none

/-- R275: the list of a Character in a run of Phrase lists, which ends with CHAR 0xFFFF. -/
def listInRun (b : List Byte) (c : Nat) : Nat → Nat → Option (List (Nat × Nat))
  | 0, _ => none
  | n + 1, off =>
    if field b off 2 = 0xFFFF then none
    else if field b off 2 = c then some (phraseList b off)
    else listInRun b c n (off + 8 + 16 * field b (off + 4) 4)

/-- R275, R262: the Phrases of a Character at this chip, detours applied. -/
def phrasesOf (s : State) (c : Nat) : List (Nat × Nat) :=
  match schedOf s, (bankOf s s.run.bank).img with
  | some b, some im =>
    let own := phraseList b (scListAt b c (scClassOf b s.fab.part.rank))
    (s.fab.part.detours.findSome? fun r =>
      (detourLists s r).bind fun off => listInRun im.detours c 64 off).getD own
  | _, _ => []

/-- R274: the Phrases of the step that runs. -/
def phrasesNow (s : State) : List (Nat × Nat) :=
  match (schedOf s).bind fun b => scCharOf b s.run.rec_ with
  | some c => phrasesOf s c
  | none => []

/-- R275: the departure table of a logical Station, and the receive table of a logical link. -/
def depTable (s : State) (st : Nat) : List Nat :=
  ((phrasesNow s).filter fun e => e.1 = 0x8000 + st).map Prod.snd
def recvTable (s : State) (ll : Nat) : List Nat := ((phrasesNow s).filter fun e => e.1 = ll).map Prod.snd

/-- R257: the link of logical dimension k to logical index q, from the Sector table. -/
def sectorLink (s : State) (k q : Nat) : Nat := field s.fab.part.sector (0x20 + 32 * k + q) 1

/-- R275, R257: the physical link of a logical link. -/
def physLink (s : State) (ll : Nat) : Nat :=
  let k := ll / 24
  let j := ll % 24
  sectorLink s k (if j < nth s.fab.part.self k then j else j + 1)

/-- R275: the logical link of a physical link, when it joins two members. -/
def logLink (s : State) (l : Nat) : Option Nat :=
  findNat (fun ll =>
    let k := ll / 24
    let j := ll % 24
    let q := if j < nth s.fab.part.self k then j else j + 1
    decide (q < extent s k) && sectorLink s k q = l) 96 0

/-- Both ends of a link are members of the chip's partition. -/
def isMember (s : State) (l : Nat) : Bool := s.fab.part.st = .formed && (logLink s l).isSome

/-- Physical member links, by number. -/
def memberLinks (s : State) : List Nat := (List.range 96).filter (isMember s)

/-! ### Grids and latencies -/

/-- R266: Flash time of a rate code. -/
def flashTicks (rate : Nat) : Nat := 10 * 2 ^ rate

/-- R270: N and H of a rate and channel budget. -/
def latN (rate c : Nat) : Nat := (if rate = 0 then 34 else if rate = 1 then 48 else 76) + c
def latH (rate c : Nat) : Nat := (if rate = 0 then 20 else if rate = 1 then 24 else 32) + c

/-- R270, R334: TX plus RX of a rate. -/
def txRx (rate : Nat) : Nat := if rate = 0 then 11 else if rate = 1 then 13 else 17

/-- R334: path delay of a link. -/
def pathDelay (k : Link) : Nat := txRx k.rate + k.delay

/-- RATE and CHMAX of the running image; 224 Gb/s and 5 with no schedule. -/
def rateNow (s : State) : Nat := ((schedOf s).map scRate).getD 0
def chmaxNow (s : State) : Nat := ((schedOf s).map scChmax).getD 5

/-- R267: a link uses the partition grid from L until the job ends. -/
def onPartitionGrid (s : State) (l : Nat) : Bool := isMember s l && (s.life = .running || s.life = .held)

/-- R267: start of Flash f of the partition grid whose origin is O. -/
def gridStart (s : State) (f : Nat) : Nat := s.run.grid + ceilDiv (f * flashTicks (rateNow s) * s.run.fq) 1024

/-- S(k + 1), in 1/1,024 tick (R169). -/
def nextStart1024 (s : State) : Nat :=
  s.run.start + (((bankOf s s.run.bank).img.bind fun im => im.steps[s.run.rec_]?).map StepRec.period).getD 0 * s.run.fq

/-- R267: the next origin that both ends know: the replay origin, or O of the next step. -/
def nextOrigin (s : State) : Option Nat :=
  match s.recov.origin with
  | some o => some o
  | none => if s.life = .running then some (ceilDiv (nextStart1024 s) 1024) else none

/-- A Flash on a link. -/
structure FlashAt where
  num : Nat
  start : Nat
  ticks : Nat
  part : Bool
  /-- R267: it would not end by the next origin. -/
  cut : Bool
  deriving DecidableEq, Repr

/-- R267: the first Flash of a link that starts at or after a Watch count; none when an origin comes first. -/
def flashFrom (s : State) (l from_ : Nat) : Option FlashAt :=
  if onPartitionGrid s l then
    let t := flashTicks (rateNow s)
    let f := if from_ ≤ s.run.grid then 0 else (from_ - s.run.grid - 1) * 1024 / (t * s.run.fq) + 1
    let a := gridStart s f
    match nextOrigin s with
    | some o => if o ≤ a then none else some ⟨f, a, t, true, decide (o < a + t)⟩
    | none => some ⟨f, a, t, true, false⟩
  else
    let t := flashTicks (linkOf s l).rate
    let n := ceilDiv from_ t
    some ⟨n, n * t, t, false, false⟩

/-- R267: the Flash of a link that holds a Watch count. -/
def flashHolding (s : State) (l w : Nat) : Option (Nat × Bool) :=
  if onPartitionGrid s l then
    if w < s.run.grid then none
    else
      let t := flashTicks (rateNow s)
      let f := (w - s.run.grid) * 1024 / (t * s.run.fq)
      if w < gridStart s f + t then some (f, true) else none
  else some (w / flashTicks (linkOf s l).rate, false)

/-- R268: kinds of Flash number. -/
def isControlFlash (f : Nat) : Bool := f % 100 = 0
def isRetryFlash (f : Nat) : Bool := f % 100 != 0 && f % 32 = 0
def isReserved (f : Nat) : Bool := isControlFlash f || isRetryFlash f

/-- R272: when a flit of an origin Flash starts on the link it crosses after `hop` hops. -/
def occStart (s : State) (origin hop : Nat) : Nat := gridStart s origin + hop * latH (rateNow s) (chmaxNow s)

/-- Two occupancies of T_F ticks overlap. -/
def occOverlap (t a b : Nat) : Bool := decide (a < b + t) && decide (b < a + t)

/-- R272, R277: the planned transit occupancies of a logical output link in the step. -/
def plannedTransit (s : State) (ll : Nat) : List Nat :=
  ((phrasesNow s).filter fun e => decide (e.1 < 0x8000) && phForwards e.2 && phLink e.2 = ll).flatMap fun e =>
    (List.range (phCount e.2)).map fun i => occStart s (phOrigin e.2 i) (phHop e.2 + 1)

/-- R277: a departure Phrase of some Station sends on a logical link in a Flash. -/
def plannedDeparture (s : State) (ll f : Nat) : Bool :=
  (phrasesNow s).any fun e => decide (0x8000 ≤ e.1) && phLink e.2 = ll && (phFlit e.2 f).isSome

/-- R288: a Scheduled occupancy overlaps a Flash of a link. -/
def flashTaken (s : State) (l : Nat) (f : FlashAt) : Bool :=
  (linkOf s l).occ.any (occOverlap f.ticks f.start) ||
    (f.part && match logLink s l with
      | some ll => plannedDeparture s ll f.num || (plannedTransit s ll).any (occOverlap f.ticks f.start)
      | none => false)

end Sys2Proof.Machine
end

