-- ==== Sys2Proof/Machine/Tender.lean ====
section
/-! DEFINITION. Tender descriptors (R196 to R201) and TALLY_VERIFY and TAP (R123). -/

namespace Sys2Proof.Machine

/-- R205: bytes written by a Tender channel. -/
def tndCount (g : Eng) (n : Nat) : M Unit :=
  modify fun s => if engClass g.e = 2 then regAdd64 (pageBase (pgTnd g.st) + 0x40 + 8 * (g.e.val - 12)) n s else s

/-- R192: the tiles that earlier runs of the segment wrote, where an operand shares C's memory and Tally area. -/
def freshFor (o c : Opnd) (ts : List Nat) : List Nat := if o.h.memSpace = c.h.memSpace && o.h.tally = c.h.tally then ts else []

/-- R197: move one run of `n` bits; the answer is the destination tiles so far. -/
def moveRun (g : Eng) (a c : Opnd) (ts : List Nat) (xa xc : List Nat) (n : Nat) : M (List Nat) := do
  let v ← readBits g.st a (freshFor a c ts) (a.bitAddr xa) n
  let us ← writeBits c (c.bitAddr xc) n v
  tndCount g (ceilDiv n 8)
  pure (ts ++ us.filter fun t => !ts.contains t)

/-- Bits of one run of a handle's format. -/
def runBits (l : Latched) (h : Handle) : Nat := tndRun (dOp l.w) (dW7 l.w) * elemBits h.fmt

/-- R197: one segment of a COPY (or of a TAP, whose run is one element). -/
def copyBody (g : Eng) (us : List Upset) (l : Latched) : M Unit := do
  galleryGate us
  let s ← get
  let a ← opnd s g l 0 false
  let c ← opnd s g l 2 true
  let ts ← (segIters l).foldlM (fun ts t => moveRun g a c ts (iterCoords l 0 t) (iterCoords l 2 t) (runBits l a.h)) []
  sealAll g l c ts

/-- R197, R199: the index of one iteration, read from B. -/
def readIndex (g : Eng) (l : Latched) (b : Opnd) (fresh : List Nat) (t : Nat) : M Nat :=
  readBits g.st b fresh (b.bitAddr (iterCoords l 1 t)) (if bitAt (dW7 l.w) 19 then 32 else 16)

/-- R199: the coordinates with the index added along GDIM, or 0x2092. The run must stay within dimension 0 (R138). -/
def indexed (l : Latched) (h : Handle) (x : List Nat) (v : Nat) : M (List Nat) := do
  let d := bits (dW7 l.w) 18 16
  let y := x.set d (nth x d + v)
  let run := tndRun (dOp l.w) (dW7 l.w)
  if h.ndim ≤ d || h.extent d ≤ nth y d || h.extent 0 < nth y 0 + run then failM 0x2092 none v 0 else pure y

/-- R199: one segment of a GATHER or SCATTER; writes take effect in iteration order (R200). -/
def indexBody (g : Eng) (us : List Upset) (l : Latched) : M Unit := do
  galleryGate us
  let s ← get
  let a ← opnd s g l 0 false
  let b ← opnd s g l 1 false
  let c ← opnd s g l 2 true
  let gather := dOp l.w = 0x21
  let ts ← (segIters l).foldlM (fun ts t => do
    let v ← readIndex g l b (freshFor b c ts) t
    let xa ← if gather then indexed l a.h (iterCoords l 0 t) v else pure (iterCoords l 0 t)
    let xc ← if gather then pure (iterCoords l 2 t) else indexed l c.h (iterCoords l 2 t) v
    moveRun g a c ts xa xc (runBits l a.h)) []
  sealAll g l c ts

/-- A value repeated n times in fields of w bits. -/
def repeatBits (w v : Nat) : Nat → Nat
  | 0 => 0
  | n + 1 => v % 2 ^ w + 2 ^ w * repeatBits w v n

/-- R199: one segment of a FILL. -/
def fillBody (g : Eng) (us : List Upset) (l : Latched) : M Unit := do
  galleryGate us
  let s ← get
  let c ← opnd s g l 2 true
  let w7 := dW7 l.w
  let v := if bitAt w7 20 then (tget 0 l.p (bits w7 26 21)).toNat else 0
  let w := elemBits c.h.fmt
  let n := tndRun (dOp l.w) w7
  let ts ← (segIters l).mapM fun t => do
    let r ← writeBits c (c.bitAddr (iterCoords l 2 t)) (n * w) (repeatBits w v n)
    tndCount g (ceilDiv (n * w) 8)
    pure r
  sealAll g l c ts.flatten

/-- R123: one segment of a TALLY_VERIFY: every tile that holds a visited element, in visiting order. -/
def verifyBody (g : Eng) (us : List Upset) (l : Latched) : M Unit := do
  galleryGate us
  let s ← get
  let a ← opnd s g l 0 false
  (List.range (nestCount (levels l.w))).forM fun t => do
    let ba := a.bitAddr (iterCoords l 0 t)
    verifyRange g.st a [] (ba / 8) (ceilDiv (ba % 8 + elemBits a.h.fmt) 8)

/-- R197: issue of a COPY. -/
def execCopy (g : Eng) (us : List Upset) (s : State) : Res :=
  .next (issueThen 0x20 true noCheck (runFrom (copyBody g us) g) g (strikes us s))

/-- R199: issue of a GATHER. -/
def execGather (g : Eng) (us : List Upset) (s : State) : Res :=
  .next (issueThen 0x21 true noCheck (runFrom (indexBody g us) g) g (strikes us s))

/-- R199: issue of a SCATTER. -/
def execScatter (g : Eng) (us : List Upset) (s : State) : Res :=
  .next (issueThen 0x22 true noCheck (runFrom (indexBody g us) g) g (strikes us s))

/-- R199: issue of a FILL. -/
def execFill (g : Eng) (us : List Upset) (s : State) : Res :=
  .next (issueThen 0x23 true noCheck (runFrom (fillBody g us) g) g (strikes us s))

/-- R123: issue of a TALLY_VERIFY. -/
def execTallyVerify (g : Eng) (us : List Upset) (s : State) : Res :=
  .next (issueThen 0x60 true noCheck (runFrom (verifyBody g us) g) g (strikes us s))

end Sys2Proof.Machine
end

