-- ==== Sys2Proof/Machine/Port.lean ====
section
/-! DEFINITION. The Port engine (R280 to R285): SEND and RECV, the departure buffer and its deadline, the landing buffer, and the
transfer Tally. -/

namespace Sys2Proof.Machine

/-- Logical number of a physical Station in the current placement. -/
def logStn (s : State) (st : Nat) : Nat :=
  (((bankOf s s.run.bank).placement.bind fun p => p.stations.findIdx? fun r => r.phys = st)).getD st

/-- Physical number of a logical Station. -/
def physStn (s : State) (n : Nat) : Nat :=
  (((bankOf s s.run.bank).placement.bind fun p => p.stations[n]?).map PlacedSt.phys).getD n

/-- The Port engine of a Station. -/
def portEng (st : Fin 16) : Eng := ⟨st, 16⟩

/-! ### SEND -/

/-- A flit slot: origin Flash and Phrase. -/
abbrev Slot := Nat × Nat

/-- Insert by origin Flash, after slots of equal origin (R280). -/
def slotInsert (x : Slot) : List Slot → List Slot
  | [] => [x]
  | y :: r => if x.1 < y.1 then x :: y :: r else y :: slotInsert x r

/-- R280: the flit slots of a SEND, by origin Flash and then by Phrase index. -/
def sendSlots (s : State) (st w7 : Nat) : List Slot :=
  let ps := ((depTable s (logStn s st)).drop (bits w7 11 0)).take (bits w7 19 12)
  (ps.flatMap fun p => (List.range (phCount p)).map fun i => (phOrigin p i, p)).foldl (fun a x => slotInsert x a) []

/-- The SEND in progress of a Port engine. -/
def sendOf (s : State) (st : Fin 16) : Option Latched :=
  match (engOf s (portEng st)).cur with
  | some l => if dOp l.w = 0x40 && !l.done && !(engOf s (portEng st)).stopped && s.life = .running then some l else none
  | none => none

/-- R284: the Tally of a transfer before its first word. -/
def transferInit (stag : Nat) : Nat := (stag + 1) * 2 ^ 32

/-- R284: the Tally after flit number i: its 32 words are numbers 32 i to 32 i + 31. -/
def transferAdd (t i : Nat) (payload : List Byte) : Nat :=
  (List.range 32).foldl (fun a k => a + (32 * i + k + 1) * (field payload (8 * k) 8 % tallyP)) t

/-- R280: a SEND that has issued. -/
def runSend (g : Eng) (l : Latched) (s : State) : State :=
  let tag := ((sendSlots s g.st (dW7 l.w)).head?.map fun x => phStag x.2).getD 0
  setCur g { l with tally := transferInit tag } s

/-- R280: issue of a SEND. -/
def execSend (g : Eng) (us : List Upset) (s : State) : Res :=
  .next (issueThen 0x40 false noCheck (runSend g) g (strikes us s))

/-- A number joined from fields of w bits, first lowest. -/
def joinFields (w : Nat) : List Nat → Nat
  | [] => 0
  | c :: cs => c + 2 ^ w * joinFields w cs

/-- R27, R280: the 256 payload bytes of flit i of the transfer of operand A, zero past its last element. -/
def sendPayload (g : Eng) (l : Latched) (a : Opnd) (i : Nat) : M (List Byte) := do
  let w := elemBits a.h.fmt
  let e0 := 2048 * i / w
  let e1 := min (nestCount (levels l.w)) (ceilDiv (2048 * (i + 1)) w)
  let vs ← (List.range (e1 - e0)).mapM fun k => readBits g.st a [] (a.bitAddr (iterCoords l 0 (e0 + k))) w
  pure (leBytes 256 (joinFields w vs / 2 ^ (2048 * i - e0 * w)))

/-- R282: the next slot of a SEND whose payload is not in the departure buffer, with its departure Watch. -/
def nextSlot (s : State) (st : Fin 16) (l : Latched) : Option (Slot × Nat) :=
  ((sendSlots s st (dW7 l.w))[l.flits]?).map fun x => (x, gridStart s x.1)

/-- R282: the Port engine may fetch a flit: room in the buffer, the deadline not yet passed, an entry present in a FIFO. -/
def canDepFetch (s : State) (st : Fin 16) : Bool :=
  match sendOf s st with
  | none => false
  | some l =>
    decide ((portOf s st).dep.length < 256) &&
      (!streamAt s (portEng st) l 0 || decide (0 < fifoFill s st (nth l.h 0))) &&
      match nextSlot s st l with
      | some x => decide (s.watch + 4 ≤ x.2)
      | none => false

/-- R282, R296: PRT_SLACK_MIN keeps the smallest margin. -/
def noteSlack (st slack : Nat) (s : State) : State :=
  let a := pageBase (pgPrt st) + 0x54
  if slack < bits (regGet s a) 15 0 then regPut a slack s else s

/-- R282, R284: one flit enters the departure buffer. -/
def depFetch (st : Fin 16) (us : List Upset) (s : State) : State :=
  let g := portEng st
  match sendOf s st with
  | none => s
  | some l =>
    match nextSlot s st l with
    | none => s
    | some (x, due) =>
      let run : M (List Byte) := do
        galleryGate us
        let a ← opnd (← get) g l 0 false
        sendPayload g l a l.flits
      match run.go s with
      | (.error f, s1) =>
        runBad g l { f with row := l.flits, detail := phStag x.2 + x.1 * 2 ^ 12 } s1
      | (.ok bs, s1) =>
        let t := transferAdd l.tally l.flits bs
        let last := l.flits + 1 = (sendSlots s st (dW7 l.w)).length
        let d : DepFlit := ⟨physLink s (phLink x.2), x.1, due, phStag x.2, l.flits, if last then t % tallyP else 0, bs⟩
        noteSlack st (due - 4 - s.watch)
          (putPort st { portOf s1 st with dep := (portOf s1 st).dep ++ [d] }
            (setCur g { l with flits := l.flits + 1, tally := t } s1))

/-- R282: the Port engine fetches a SEND's flit into free departure-buffer space. -/
def execDepartureBufferFetch (st : Fin 16) (us : List Upset) (s : State) : Res :=
  .next (if canDepFetch s st then depFetch st us (strikes us s) else s)

/-- R282: a flit missed its departure deadline: the SEND stops, and none of its later flits leave; the earlier ones, which stand in the
departure buffer, do. -/
def missDeadline (st : Fin 16) (l : Latched) (x : Slot) (s : State) : State :=
  runBad (portEng st) l { code := 0x2010, tile := none, detail := phStag x.2 + x.1 * 2 ^ 12, row := l.flits } s

/-- R282: the Watch reaches W − 4 of the next slot whose payload is missing. -/
def execDepartureDeadline (st : Fin 16) (s : State) : Res :=
  .next (match sendOf s st with
    | none => s
    | some l =>
      match nextSlot s st l with
      | none => s
      | some (x, due) => missDeadline st l x (watchTo (due - 4) s))

/-- R280: a SEND's flit has left; with the last one the SEND is done, and an entry of a FIFO is freed. -/
def flitLeft (st : Fin 16) (d : DepFlit) (s : State) : State :=
  let g := portEng st
  let s1 := regAdd64 (pageBase (pgPrt st) + 0x40) 1
    (putPort st { portOf s st with dep := (portOf s st).dep.filter (· != d) } s)
  match sendOf s1 st with
  | none => s1
  | some l =>
    let l1 := { l with seg := l.seg + 1 }
    if l1.seg = (sendSlots s st (dW7 l.w)).length then
      finish g l1 (if streamAt s1 g l 0 then fifoPopped st (nth l.h 0) s1 else s1)
    else setCur g l1 s1

/-! ### The landing buffer -/

/-- Strict Timing is in force (R378). -/
def strictOn (s : State) : Bool := bitAt (regGet s (pageBase pgLdg + 0x10)) 0

/-- R283, R285: a flit is delivered to a Port engine, with its landing Watch: 0x2011 when 512 flits wait; else it becomes free when it
lands, or in Strict Timing at its release Watch `rel`, a later landing being a late release. -/
def deliver (st : Nat) (f : LandFlit) (rel : Nat) (s : State) : State :=
  let p := portOf s st
  let base := pageBase (pgPrt st)
  if 512 ≤ p.land.length then
    detect 0x2011 (.chip) none
      (raise 0x2011 (pgPrt st) 1 0x2011 (f.index % 4096 * 2 ^ 20) (f.stag + f.origin * 2 ^ 12) s)
  else
    let late := strictOn s && decide (rel < f.release)
    let at_ := if strictOn s then max rel f.release else f.release
    let f1 := { f with release := at_, free := decide (at_ ≤ s.watch) }
    let s1 := regAdd64 (base + 0x48) 1 (putPort st { p with land := p.land ++ [f1] } s)
    let s2 := if bits (regGet s1 (base + 0x58)) 9 0 < p.land.length + 1 then regPut (base + 0x58) (p.land.length + 1) s1 else s1
    if late then { regCount (base + 0x50) s2 with led := { s2.led with late := s2.led.late + 1 } } else s2

/-- The held flit whose release Watch comes first. -/
def nextRelease : List LandFlit → Option LandFlit
  | [] => none
  | f :: r =>
    match nextRelease r with
    | none => if f.free then none else some f
    | some x => if !f.free && f.release ≤ x.release then some f else some x

/-- R285: a flit becomes available to its RECV. -/
def releaseFlit (st : Nat) (f : LandFlit) (s : State) : State :=
  let p := portOf s st
  putPort st { p with land := p.land.map fun x => if x = f then { x with free := true } else x } s

/-- R272, R285: a flit lands, or in Strict Timing a held flit reaches its release Watch. -/
def execFlitRelease (st : Fin 16) (s : State) : Res :=
  .next (match nextRelease (portOf s st).land with
    | none => s
    | some f => releaseFlit st f (watchTo f.release s))

/-! ### RECV -/

/-- R283: fields of a RECV's W7. -/
def rvStag (w7 : Nat) : Nat := bits w7 11 0
def rvFlits (w7 : Nat) : Nat := bits w7 27 12
def rvPerFlit (w7 : Nat) : Bool := bitAt w7 28

/-- R283: a RECV that has issued waits for its flits. -/
def runRecv (g : Eng) (l : Latched) (s : State) : State :=
  setCur g { l with tally := transferInit (rvStag (dW7 l.w)) } s

/-- R283: issue of a RECV. -/
def execRecv (g : Eng) (us : List Upset) (s : State) : Res :=
  .next (issueThen 0x41 false noCheck (runRecv g) g (strikes us s))

/-- The RECV in progress. -/
def recvOf (s : State) (st : Fin 16) : Option Latched :=
  match (engOf s (portEng st)).cur with
  | some l => if dOp l.w = 0x41 && !l.done && !(engOf s (portEng st)).stopped && s.life = .running then some l else none
  | none => none

/-- The flit that a RECV takes next: released, of its tag, the next in transfer order. -/
def flitFor (s : State) (st : Nat) (l : Latched) : Option LandFlit :=
  (portOf s st).land.find? fun f => (f.free || decide (f.release ≤ s.watch)) && f.stag = rvStag (dW7 l.w) && f.index = l.flits

/-- R133: there is room in a stream handle C for the entry that the RECV writes. -/
def recvRoom (s : State) (st : Fin 16) (l : Latched) : Bool :=
  !streamAt s (portEng st) l 2 || l.nseg = 0 ||
    match handleOf s st (nth l.h 2) with
    | some h => decide (fifoFill s st (nth l.h 2) < h.depth)
    | none => true

/-- R283: the bits of flit i that fall in element e of C, written. The answer is the tiles. -/
def recvElem (l : Latched) (c : Opnd) (w i v e : Nat) : M (List Nat) := do
  let lo := max (e * w) (2048 * i)
  let hi := min ((e + 1) * w) (2048 * (i + 1))
  writeBits c (c.bitAddr (iterCoords l 2 e) + (lo - e * w)) (hi - lo) (v / 2 ^ (lo - 2048 * i) % 2 ^ (hi - lo))

/-- R27, R283: one flit's bytes into the elements that the loop visits, the padding discarded. -/
def recvWrite (l : Latched) (c : Opnd) (i : Nat) (payload : List Byte) : M Unit := do
  let w := elemBits c.h.fmt
  let e0 := 2048 * i / w
  let e1 := min (nestCount (levels l.w)) (ceilDiv (2048 * (i + 1)) w)
  (List.range (e1 - e0)).forM fun k => do
    let _ ← recvElem l c w i (leNat payload) (e0 + k)

/-- Tiles of C that the whole transfer touches. -/
def recvTiles (l : Latched) (c : Opnd) : List Nat :=
  (List.range (nestCount (levels l.w))).flatMap fun e =>
    let ba := c.bitAddr (iterCoords l 2 e)
    tilesOf (ba / 8) (ceilDiv (ba % 8 + elemBits c.h.fmt) 8)

/-- R139, R283: what a RECV does with one flit: elements of C, or one entry of the stream; nothing where its nest runs no iteration. -/
def recvBody (g : Eng) (us : List Upset) (l : Latched) (payload : List Byte) : M Unit := do
  galleryGate us
  let c ← opnd (← get) g l 2 true
  if l.nseg = 0 then pure ()
  else if rvPerFlit (dW7 l.w) then do
    let ts ← writeBits c (8 * c.base) 2048 (leNat payload)
    sealAll g l c ts
    modify (fifoPushed g.st (nth l.h 2))
  else recvWrite l c l.flits payload

/-- R283, R284: after the last flit: the Tally, then the seal of C's tiles and the push of a stream entry. -/
def recvLast (g : Eng) (l : Latched) (f : LandFlit) (t : Nat) : M Unit := do
  modify (chk 2 (t % tallyP != f.tally))
  if t % tallyP != f.tally then failM 0x2012 none f.stag f.index
  else if rvPerFlit (dW7 l.w) then pure ()
  else do
    let s ← get
    let c ← opnd s g l 2 true
    sealAll g l c (recvTiles l c)
    if streamAt s g l 2 && l.nseg != 0 then modify (fifoPushed g.st (nth l.h 2)) else pure ()

/-- R283: a RECV takes one flit. -/
def recvTake (st : Fin 16) (us : List Upset) (l : Latched) (f : LandFlit) (s : State) : State :=
  let g := portEng st
  let s0 := putPort st { portOf s st with land := (portOf s st).land.filter (· != f) } s
  let t := transferAdd l.tally l.flits f.payload
  let last := l.flits + 1 = rvFlits (dW7 l.w)
  let run : M Unit := do
    recvBody g us l f.payload
    if last then recvLast g l f t else pure ()
  match run.go s0 with
  | (.error e, s1) => runBad g l { e with row := l.flits, detail := f.stag + f.origin * 2 ^ 12 } s1
  | (.ok _, s1) =>
    let l1 := { l with flits := l.flits + 1, tally := t }
    if last then finish g l1 s1 else setCur g l1 s1

/-- R283: a waiting RECV takes an arrived flit of its tag. -/
def execRecvFlit (st : Fin 16) (us : List Upset) (s : State) : Res :=
  .next (match recvOf s st with
    | none => s
    | some l =>
      match flitFor s st l with
      | none => s
      | some f => if recvRoom s st l then recvTake st us l f (strikes us s) else s)

end Sys2Proof.Machine
end

