-- ==== Sys2Proof/Machine/SoftFp.lean ====
section
/-! DEFINITION. IEEE 754 arithmetic under a rounding mode with exception flags, which the Wick cores' floating point follows
(R80, R83). The detail comes from the RISC-V standard, which the spec names (PRESUMED, assumption 48). Rounding modes: 0 nearest
even, 1 toward zero, 2 down, 3 up, 4 nearest with ties away, 8 to odd. Flags: 1 NX, 2 UF, 4 OF, 8 DZ, 16 NV. -/

namespace Sys2Proof.Machine

/-- An unpacked operand: NaN, an infinity, or m × 2^e under a sign. -/
inductive Fv where
  | nan
  | inf (neg : Bool)
  | fin (neg : Bool) (m : Nat) (e : Int)
  deriving DecidableEq, Repr

/-- The four formats of the cores, by element width in bits; BF16 has its own name. -/
def fpH : FpFmt := ⟨5, 10, 15, .ieee⟩
def fpB : FpFmt := ⟨8, 7, 127, .ieee⟩
def fpS : FpFmt := ⟨8, 23, 127, .ieee⟩
def fpD : FpFmt := ⟨11, 52, 1023, .ieee⟩

/-- Width of a format. -/
def FpFmt.width (f : FpFmt) : Nat := 1 + f.ex + f.ma

/-- The canonical NaN of a format. -/
def fNan (f : FpFmt) : Nat := (2 ^ f.ex - 1) * 2 ^ f.ma + 2 ^ (f.ma - 1)

/-- An infinity. -/
def fInf (f : FpFmt) (neg : Bool) : Nat := signBit f neg + (2 ^ f.ex - 1) * 2 ^ f.ma

/-- Sign of an encoding. -/
def fSign (f : FpFmt) (c : Nat) : Bool := bitAt c (f.ex + f.ma)

/-- An encoding unpacked. -/
def fOpen (f : FpFmt) (c : Nat) : Fv :=
  let e := bits c (f.ex + f.ma - 1) f.ma
  let m := c % 2 ^ f.ma
  if e = 2 ^ f.ex - 1 then (if m = 0 then .inf (fSign f c) else .nan)
  else if e = 0 then .fin (fSign f c) m (1 - (f.bias : Int) - f.ma)
  else .fin (fSign f c) (m + 2 ^ f.ma) ((e : Int) - f.bias - f.ma)

/-- A signalling NaN. -/
def fSnan (f : FpFmt) (c : Nat) : Bool := fOpen f c = .nan && !bitAt c (f.ma - 1)

/-- NV when any encoding is a signalling NaN. -/
def fSig (f : FpFmt) (cs : List Nat) : Nat := if cs.any (fSnan f) then 16 else 0

/-- m × 2^e as a multiple of 2^q in a mode, and whether that is inexact. -/
def fQuot (rm : Nat) (neg : Bool) (m : Nat) (e q : Int) : Nat × Bool :=
  if q ≤ e then (m * 2 ^ (e - q).toNat, false)
  else
    let d := 2 ^ (q - e).toNat
    let n := m / d
    let r := m % d
    let up :=
      if rm = 0 then d < 2 * r || (2 * r = d && n % 2 = 1)
      else if rm = 4 then d ≤ 2 * r
      else if rm = 2 then neg && r != 0
      else if rm = 3 then !neg && r != 0
      else if rm = 8 then r != 0 && n % 2 = 0
      else false
    (if up then n + 1 else n, r != 0)

/-- The result of an overflow. -/
def fOver (f : FpFmt) (rm : Nat) (neg : Bool) : Nat :=
  if rm = 0 || rm = 4 || (rm = 2 && neg) || (rm = 3 && !neg) then fInf f neg
  else signBit f neg + (2 ^ f.ex - 1) * 2 ^ f.ma - 1

/-- m × 2^e rounded once into a format, with its flags; tininess is detected after rounding. -/
def fRound (f : FpFmt) (rm : Nat) (neg : Bool) (m : Nat) (e : Int) : Nat × Nat :=
  if m = 0 then (signBit f neg, 0)
  else
    let top : Int := (log2 m : Int) + e
    let emin : Int := 1 - (f.bias : Int)
    let r := fQuot rm neg m e ((if top < emin then emin else top) - f.ma)
    let nx := if r.2 then 1 else 0
    if r.1 < 2 ^ f.ma then (signBit f neg + r.1, if r.2 then 3 else 0)
    else
      let carry := r.1 = 2 ^ (f.ma + 1)
      let ef := ((if top < emin then emin else top) + f.bias + (if carry then 1 else 0)).toNat
      let mf := if carry then 0 else r.1 - 2 ^ f.ma
      if 2 ^ f.ex - 1 ≤ ef then (fOver f rm neg, 5)
      else
        let tiny := decide (top < emin) && (fQuot rm neg m e (top - f.ma)).1 != 2 ^ (f.ma + 1)
        (signBit f neg + ef * 2 ^ f.ma + mf, if tiny && r.2 then 3 else nx)

/-- A value in a format. -/
def fPack (f : FpFmt) (rm : Nat) : Fv → Nat × Nat
  | .nan => (fNan f, 0)
  | .inf neg => (fInf f neg, 0)
  | .fin neg m e => fRound f rm neg m e

/-- Exact product; an infinity times zero is invalid. -/
def fvMul (x y : Fv) : Fv × Nat :=
  match x, y with
  | .nan, _ => (.nan, 0)
  | _, .nan => (.nan, 0)
  | .inf a, .inf b => (.inf (a != b), 0)
  | .inf a, .fin b m _ => if m = 0 then (.nan, 16) else (.inf (a != b), 0)
  | .fin a m _, .inf b => if m = 0 then (.nan, 16) else (.inf (a != b), 0)
  | .fin a m e, .fin b n g => (.fin (a != b) (m * n) (e + g), 0)

/-- A sum rounded once. -/
def fvAdd (f : FpFmt) (rm : Nat) (x y : Fv) : Nat × Nat :=
  match x, y with
  | .nan, _ => (fNan f, 0)
  | _, .nan => (fNan f, 0)
  | .inf a, .inf b => if a = b then (fInf f a, 0) else (fNan f, 16)
  | .inf a, _ => (fInf f a, 0)
  | _, .inf b => (fInf f b, 0)
  | .fin a m e, .fin b n g =>
    let q := if e < g then e else g
    let v : Int := (if a then -1 else 1) * ((m * 2 ^ (e - q).toNat : Nat) : Int) +
      (if b then -1 else 1) * ((n * 2 ^ (g - q).toNat : Nat) : Int)
    if v = 0 then (signBit f (if a = b then a else rm = 2), 0) else fRound f rm (decide (v < 0)) v.natAbs q

/-- A value with its sign turned. -/
def Fv.flip : Fv → Fv
  | .nan => .nan
  | .inf a => .inf (!a)
  | .fin a m e => .fin (!a) m e

/-- Join flags. -/
def orFlags (a b : Nat) : Nat := Nat.lor a b

/-- x × y + z rounded once, with flags of the operands. -/
def fvFma (f : FpFmt) (rm sig : Nat) (x y z : Fv) : Nat × Nat :=
  let p := fvMul x y
  let r := fvAdd f rm p.1 z
  (r.1, orFlags sig (orFlags p.2 (if p.1 = .nan then 0 else r.2)))

/-- Sum of two encodings of a format. -/
def fAdd (f : FpFmt) (rm a b : Nat) : Nat × Nat :=
  let r := fvAdd f rm (fOpen f a) (fOpen f b)
  (r.1, orFlags (fSig f [a, b]) r.2)

/-- Difference. -/
def fSub (f : FpFmt) (rm a b : Nat) : Nat × Nat :=
  let r := fvAdd f rm (fOpen f a) (fOpen f b).flip
  (r.1, orFlags (fSig f [a, b]) r.2)

/-- Product of two values, rounded. -/
def fvMulRound (f : FpFmt) (rm sig : Nat) (x y : Fv) : Nat × Nat :=
  let p := fvMul x y
  let r := fPack f rm p.1
  (r.1, orFlags sig (orFlags p.2 r.2))

/-- Product. -/
def fMul (f : FpFmt) (rm a b : Nat) : Nat × Nat := fvMulRound f rm (fSig f [a, b]) (fOpen f a) (fOpen f b)

/-- Quotient. -/
def fDiv (f : FpFmt) (rm a b : Nat) : Nat × Nat :=
  let sig := fSig f [a, b]
  match fOpen f a, fOpen f b with
  | .nan, _ => (fNan f, sig)
  | _, .nan => (fNan f, sig)
  | .inf _, .inf _ => (fNan f, 16)
  | .inf x, .fin y _ _ => (fInf f (x != y), 0)
  | .fin x _ _, .inf y => (signBit f (x != y), 0)
  | .fin x m e, .fin y n g =>
    if n = 0 then (if m = 0 then (fNan f, 16) else (fInf f (x != y), 8))
    else
      let k := f.ma + 4 + log2 n
      let q := m * 2 ^ k / n
      fRound f rm (x != y) (2 * q + if m * 2 ^ k % n = 0 then 0 else 1) (e - g - k - 1)

/-- Integer square root, one bit at a time from bit n − 1. -/
def isqrt (v : Nat) : Nat → Nat → Nat
  | 0, r => r
  | n + 1, r => isqrt v n (if (r + 2 ^ n) * (r + 2 ^ n) ≤ v then r + 2 ^ n else r)

/-- Square root. -/
def fSqrt (f : FpFmt) (rm a : Nat) : Nat × Nat :=
  match fOpen f a with
  | .nan => (fNan f, fSig f [a])
  | .inf neg => if neg then (fNan f, 16) else (a, 0)
  | .fin neg m e =>
    if m = 0 then (a, 0)
    else if neg then (fNan f, 16)
    else
      let t := 2 * (f.ma + 3) + (e % 2).toNat
      let v := m * 2 ^ t
      let r := isqrt v (log2 v / 2 + 1) 0
      fRound f rm false (2 * r + if r * r = v then 0 else 1) ((e - t) / 2 - 1)

/-- Conversion between formats. -/
def fCvt (from_ to_ : FpFmt) (rm a : Nat) : Nat × Nat :=
  let r := fPack to_ rm (fOpen from_ a)
  (r.1, orFlags (fSig from_ [a]) r.2)

/-- An integer in a format. -/
def fOfInt (f : FpFmt) (rm : Nat) (v : Int) : Nat × Nat := fRound f rm (decide (v < 0)) v.natAbs 0

/-- Least and greatest integer of w bits. -/
def intLo (w : Nat) (sg : Bool) : Int := if sg then -(2 ^ (w - 1)) else 0
def intHi (w : Nat) (sg : Bool) : Int := if sg then 2 ^ (w - 1) - 1 else 2 ^ w - 1

/-- Conversion to an integer of w bits: out of range gives the nearest bound, and NaN the greatest, with NV. -/
def fToInt (rm w : Nat) (sg : Bool) (v : Fv) : Nat × Nat :=
  match v with
  | .nan => (wrapInt w (intHi w sg), 16)
  | .inf neg => (wrapInt w (if neg then intLo w sg else intHi w sg), 16)
  | .fin neg m e =>
    let r := fQuot rm neg m e 0
    let i : Int := if neg then -(r.1 : Int) else r.1
    if i < intLo w sg then (wrapInt w (intLo w sg), 16)
    else if intHi w sg < i then (wrapInt w (intHi w sg), 16)
    else (wrapInt w i, if r.2 then 1 else 0)

/-- Order key of an encoding that is not NaN; the zeros are equal. -/
def fKey (f : FpFmt) (c : Nat) : Int :=
  let m : Int := (c % 2 ^ (f.ex + f.ma) : Nat)
  if fSign f c then -m else m

/-- Comparison: 0 equal, quiet; 1 less, 2 less or equal, both signalling. -/
def fCmp (f : FpFmt) (op a b : Nat) : Bool × Nat :=
  if fOpen f a = .nan || fOpen f b = .nan then (false, if op = 0 then fSig f [a, b] else 16)
  else (if op = 0 then fKey f a = fKey f b else if op = 1 then decide (fKey f a < fKey f b) else decide (fKey f a ≤ fKey f b), 0)

/-- Minimum or maximum; −0 lies below +0, and one NaN yields the other operand. -/
def fMinMax (f : FpFmt) (max : Bool) (a b : Nat) : Nat × Nat :=
  let lt (x y : Nat) : Bool := decide (fKey f x < fKey f y) || (decide (fKey f x = fKey f y) && fSign f x && !fSign f y)
  (if fOpen f a = .nan then (if fOpen f b = .nan then fNan f else b)
    else if fOpen f b = .nan then a
    else if lt a b = max then b else a, fSig f [a, b])

/-- Sign injection: 0 copy, 1 negate, 2 exclusive or. -/
def fSgnj (f : FpFmt) (op a b : Nat) : Nat :=
  let s := if op = 0 then fSign f b else if op = 1 then !fSign f b else fSign f a != fSign f b
  a % 2 ^ (f.ex + f.ma) + signBit f s

/-- The ten classes of an encoding, one bit each. -/
def fClass (f : FpFmt) (c : Nat) : Nat :=
  let n := fSign f c
  match fOpen f c with
  | .nan => if fSnan f c then 2 ^ 8 else 2 ^ 9
  | .inf _ => if n then 1 else 2 ^ 7
  | .fin _ m _ =>
    if m = 0 then (if n then 2 ^ 3 else 2 ^ 4)
    else if m < 2 ^ f.ma then (if n then 2 ^ 2 else 2 ^ 5)
    else if n then 2 else 2 ^ 6

/-- Exponent and mantissa field with a subnormal's leading bit shifted out: n is its leading zeros in the field. -/
def fNorm (f : FpFmt) (c : Nat) : Int × Nat :=
  let e := bits c (f.ex + f.ma - 1) f.ma
  let m := c % 2 ^ f.ma
  if e = 0 then
    let z := f.ma - 1 - log2 m
    (-(z : Int), m * 2 ^ (z + 1) % 2 ^ f.ma)
  else (e, m)

/-- The 7-bit reciprocal estimate's table: the nearest to the reciprocal at the middle of the interval. -/
def recTable (i : Nat) : Nat := (2 * 65536 + (257 + 2 * i)) / (2 * (257 + 2 * i)) - 128

/-- The 7-bit reciprocal square root estimate's table, by exponent parity and six fraction bits. -/
def rsqTable (i : Nat) : Nat := (isqrt (2 ^ 25 / ((2 * (i % 64) + 129) * if i < 64 then 2 else 1)) 10 0 - 255) / 2

/-- vfrec7. -/
def fRec7 (f : FpFmt) (rm c : Nat) : Nat × Nat :=
  match fOpen f c with
  | .nan => (fNan f, fSig f [c])
  | .inf neg => (signBit f neg, 0)
  | .fin neg m _ =>
    if m = 0 then (fInf f neg, 8)
    else
      let p := fNorm f c
      if p.1 < -1 then (fOver f rm neg, 5)
      else
        let sig := recTable (p.2 / 2 ^ (f.ma - 7)) * 2 ^ (f.ma - 7)
        let e : Int := 2 * (f.bias : Int) - 1 - p.1
        if e = 0 then (signBit f neg + (sig + 2 ^ f.ma) / 2, 0)
        else if e < 0 then (signBit f neg + (sig + 2 ^ f.ma) / 4, 0)
        else (signBit f neg + e.toNat * 2 ^ f.ma + sig, 0)

/-- vfrsqrt7. -/
def fRsq7 (f : FpFmt) (c : Nat) : Nat × Nat :=
  match fOpen f c with
  | .nan => (fNan f, fSig f [c])
  | .inf neg => if neg then (fNan f, 16) else (0, 0)
  | .fin neg m _ =>
    if m = 0 then (fInf f neg, 8)
    else if neg then (fNan f, 16)
    else
      let p := fNorm f c
      let sig := rsqTable ((p.1 % 2).toNat * 64 + p.2 / 2 ^ (f.ma - 6)) * 2 ^ (f.ma - 7)
      ((((3 * (f.bias : Int) - 1 - p.1) / 2).toNat) * 2 ^ f.ma + sig, 0)

/-- R84, R99: the tree of red.sum over a list of 2^d elements, in a format and mode. -/
def fTree (f : FpFmt) (rm : Nat) : Nat → List Nat → Nat × Nat
  | 0, xs => (xs.headD 0, 0)
  | d + 1, xs =>
    let a := fTree f rm d (xs.take (2 ^ d))
    let b := fTree f rm d (xs.drop (2 ^ d))
    let r := fAdd f rm a.1 b.1
    (r.1, orFlags r.2 (orFlags a.2 b.2))

/-- R84: a start value and elements in the tree of red.sum, padded with −0; the start value joins at the root. -/
def fTreeSum (f : FpFmt) (rm start : Nat) (xs : List Nat) : Nat × Nat :=
  let d := treeDepth xs.length
  let t := fTree f rm d (xs ++ List.replicate (2 ^ d - xs.length) (signBit f true))
  let r := fAdd f rm start t.1
  (r.1, orFlags r.2 t.2)

/-- R84: a start value and elements, one after the other. -/
def fChainSum (f : FpFmt) (rm start : Nat) (xs : List Nat) : Nat × Nat :=
  xs.foldl (fun t x => let r := fAdd f rm t.1 x; (r.1, orFlags t.2 r.2)) (start, 0)

end Sys2Proof.Machine
end

