-- ==== Sys2Proof/Machine/RvScalar.lean ====
section
/-! DEFINITION. The scalar instructions of a Wick core (R80): RV64IMAFDC with Zicsr and Zifencei, Zba, Zbb, and the scalar
conversions that Zvfh and Zvfbfwma bring. The detail comes from the RISC-V standard, which the spec names (PRESUMED,
assumption 48). -/

namespace Sys2Proof.Machine

/-- The registers of a core that an instruction reads and writes. -/
structure Rv where
  x : Tbl W64
  f : Tbl W64
  v : Tbl W512
  pc : Nat
  vl : Nat
  vtype : W64
  vstart : Nat
  /-- fflags in bits [4:0] and frm in bits [7:5]. -/
  fcsr : W64
  vxrm : Nat
  vxsat : Bool
  /-- The reservation of a load-reserved: address and length. -/
  resv : Option (Nat × Nat)
  deriving DecidableEq, Repr

/-- What an instruction does once its loads are answered. -/
inductive RvOut where
  /-- A trap of a cause. -/
  | trap (cause : Nat)
  /-- The registers after it, and its stores; whether they are those of one vector store. -/
  | done (r : Rv) (stores : List (Nat × List Byte)) (vector : Bool)
  deriving DecidableEq, Repr

/-- An instruction under its registers: the loads it makes, by address and length, and what it does with their values. -/
structure RvPlan where
  loads : List (Nat × Nat)
  act : List Nat → RvOut

/-- Integer register; x0 reads 0. -/
def rx (r : Rv) (i : Nat) : Nat := if i = 0 then 0 else (tget 0 r.x i).toNat

/-- Write an integer register; x0 discards. -/
def setX (i v : Nat) (r : Rv) : Rv := if i = 0 then r else { r with x := tput r.x i (BitVec.ofNat 64 v) }

/-- Write an integer register with a sign-extended 32-bit result. -/
def setW (i : Nat) (v : Int) (r : Rv) : Rv := setX i (wrapInt 64 (signed 32 (wrapInt 32 v))) r

/-- Raw floating-point register. -/
def rf (r : Rv) (i : Nat) : Nat := (tget 0 r.f i).toNat

/-- A floating-point register read in a format: the canonical NaN where it is not boxed. -/
def rfIn (f : FpFmt) (r : Rv) (i : Nat) : Nat :=
  let v := rf r i
  if f.width = 64 then v
  else if v / 2 ^ f.width = 2 ^ (64 - f.width) - 1 then v % 2 ^ f.width else fNan f

/-- Write a floating-point register, boxed. -/
def setF (w i v : Nat) (r : Rv) : Rv :=
  { r with f := tput r.f i (BitVec.ofNat 64 (v % 2 ^ w + (2 ^ 64 - 2 ^ w))) }

/-- Accrue exception flags. -/
def accrue (fl : Nat) (r : Rv) : Rv := { r with fcsr := r.fcsr ||| BitVec.ofNat 64 (fl % 32) }

/-- frm. -/
def frmOf (r : Rv) : Nat := bits r.fcsr.toNat 7 5

/-- The rounding mode of an instruction's field; none where it is not valid. -/
def rmOf (r : Rv) (rm : Nat) : Option Nat :=
  let m := if rm = 7 then frmOf r else rm
  if m ≤ 4 then some m else none

/-- An instruction that makes no load and no store. -/
def rvPure (r : Rv) : RvPlan := ⟨[], fun _ => .done r [] false⟩

/-- Sum of an address and a signed offset. -/
def addOff (a : Nat) (o : Int) : Nat := wrapInt 64 ((a : Int) + o)

/-! ### Integer arithmetic -/

/-- Leading zeros of a word of w bits. -/
def clz (w v : Nat) : Nat := if v = 0 then w else w - 1 - log2 v

/-- Number of ones. -/
def cpop : Nat → Nat → Nat
  | 0, _ => 0
  | n + 1, v => v % 2 + cpop n (v / 2)

/-- Trailing zeros of a word of w bits. -/
def ctz (v : Nat) : Nat → Nat
  | 0 => 0
  | n + 1 => if v % 2 = 1 then 0 else 1 + ctz (v / 2) n

/-- Rotation right of a word of w bits. -/
def ror (w v n : Nat) : Nat := v / 2 ^ (n % w) + v % 2 ^ (n % w) * 2 ^ (w - n % w)

/-- Arithmetic shift right. -/
def sra (w v n : Nat) : Nat := wrapInt w (signed w v / 2 ^ n)

/-- Each byte all ones where it is not zero. -/
def orcB (v : Nat) : Nat := leNat ((leBytes 8 v).map fun b => if b = 0 then 0 else 0xFF)

/-- Division of two signed or unsigned words, toward zero; by zero all ones; the one overflow gives the dividend. -/
def divW (w : Nat) (sg : Bool) (a b : Nat) : Nat :=
  if b = 0 then 2 ^ w - 1
  else if sg then wrapInt w (Int.tdiv (signed w a) (signed w b)) else a / b

/-- The remainder that goes with `divW`. -/
def remW (w : Nat) (sg : Bool) (a b : Nat) : Nat :=
  if b = 0 then a
  else if sg then wrapInt w (Int.tmod (signed w a) (signed w b)) else a % b

/-- Upper half of a product, by the signedness of each side. -/
def mulHigh (w : Nat) (sa sb : Bool) (a b : Nat) : Nat :=
  wrapInt w ((if sa then signed w a else a) * (if sb then signed w b else b) / 2 ^ w)

/-- Signed or unsigned order. -/
def ltW (w : Nat) (sg : Bool) (a b : Nat) : Bool := if sg then decide (signed w a < signed w b) else decide (a < b)

/-- OP: 64-bit register arithmetic of I, M, Zba and Zbb. -/
def opReg (f7 f3 a b : Nat) : Option Nat :=
  let sh := b % 64
  match f7, f3 with
  | 0x00, 0 => some (a + b)
  | 0x00, 1 => some (a * 2 ^ sh)
  | 0x00, 2 => some (if ltW 64 true a b then 1 else 0)
  | 0x00, 3 => some (if a < b then 1 else 0)
  | 0x00, 4 => some (Nat.xor a b)
  | 0x00, 5 => some (a / 2 ^ sh)
  | 0x00, 6 => some (Nat.lor a b)
  | 0x00, 7 => some (Nat.land a b)
  | 0x20, 0 => some (a + 2 ^ 64 - b)
  | 0x20, 4 => some (2 ^ 64 - 1 - Nat.xor a b)
  | 0x20, 5 => some (sra 64 a sh)
  | 0x20, 6 => some (Nat.lor a (2 ^ 64 - 1 - b))
  | 0x20, 7 => some (Nat.land a (2 ^ 64 - 1 - b))
  | 0x01, 0 => some (a * b)
  | 0x01, 1 => some (mulHigh 64 true true a b)
  | 0x01, 2 => some (mulHigh 64 true false a b)
  | 0x01, 3 => some (mulHigh 64 false false a b)
  | 0x01, 4 => some (divW 64 true a b)
  | 0x01, 5 => some (divW 64 false a b)
  | 0x01, 6 => some (remW 64 true a b)
  | 0x01, 7 => some (remW 64 false a b)
  | 0x05, 4 => some (if ltW 64 true b a then b else a)
  | 0x05, 5 => some (min a b)
  | 0x05, 6 => some (if ltW 64 true a b then b else a)
  | 0x05, 7 => some (max a b)
  | 0x30, 1 => some (ror 64 a (64 - sh))
  | 0x30, 5 => some (ror 64 a sh)
  | 0x10, 2 => some (2 * a + b)
  | 0x10, 4 => some (4 * a + b)
  | 0x10, 6 => some (8 * a + b)
  | _, _ => none

/-- OP-32: the forms whose result is a sign-extended word, on the low words of the operands. -/
def opRegW (f7 f3 a b : Nat) : Option Int :=
  let sh := b % 32
  match f7, f3 with
  | 0x00, 0 => some ((a : Int) + b)
  | 0x00, 1 => some ((a * 2 ^ sh : Nat) : Int)
  | 0x00, 5 => some ((a / 2 ^ sh : Nat) : Int)
  | 0x20, 0 => some ((a : Int) - b)
  | 0x20, 5 => some ((sra 32 a sh : Nat) : Int)
  | 0x01, 0 => some ((a * b : Nat) : Int)
  | 0x01, 4 => some ((divW 32 true a b : Nat) : Int)
  | 0x01, 5 => some ((divW 32 false a b : Nat) : Int)
  | 0x01, 6 => some ((remW 32 true a b : Nat) : Int)
  | 0x01, 7 => some ((remW 32 false a b : Nat) : Int)
  | 0x30, 1 => some ((ror 32 a (32 - sh) : Nat) : Int)
  | 0x30, 5 => some ((ror 32 a sh : Nat) : Int)
  | _, _ => none

/-- OP-32: the forms of Zba and Zbb whose result is 64 bits: add.uw, sh1add.uw to sh3add.uw and zext.h. -/
def opRegUw (f7 f3 rs2 a b : Nat) : Option Nat :=
  match f7, f3 with
  | 0x04, 0 => some (a % 2 ^ 32 + b)
  | 0x04, 4 => if rs2 = 0 then some (a % 2 ^ 16) else none
  | 0x10, 2 => some (2 * (a % 2 ^ 32) + b)
  | 0x10, 4 => some (4 * (a % 2 ^ 32) + b)
  | 0x10, 6 => some (8 * (a % 2 ^ 32) + b)
  | _, _ => none

/-- OP-IMM: a is rs1, i the 12-bit immediate field. -/
def opImm (f3 i a : Nat) : Option Nat :=
  let im : Nat := wrapInt 64 (signed 12 i)
  let sh := i % 64
  match f3 with
  | 0 => some (a + im)
  | 2 => some (if ltW 64 true a im then 1 else 0)
  | 3 => some (if a < im then 1 else 0)
  | 4 => some (Nat.xor a im)
  | 6 => some (Nat.lor a im)
  | 7 => some (Nat.land a im)
  | 1 =>
    if i / 64 = 0 then some (a * 2 ^ sh)
    else if i = 0x600 then some (clz 64 a)
    else if i = 0x601 then some (ctz a 64)
    else if i = 0x602 then some (cpop 64 a)
    else if i = 0x604 then some (wrapInt 64 (signed 8 (a % 2 ^ 8)))
    else if i = 0x605 then some (wrapInt 64 (signed 16 (a % 2 ^ 16)))
    else none
  | _ =>
    if i / 64 = 0 then some (a / 2 ^ sh)
    else if i / 64 = 0x10 then some (sra 64 a sh)
    else if i / 64 = 0x18 then some (ror 64 a sh)
    else if i = 0x287 then some (orcB a)
    else if i = 0x6B8 then some (leNat (leBytes 8 a).reverse)
    else none

/-- OP-IMM-32: a result of 32 bits, sign-extended; slli.uw apart. -/
def opImmW (f3 i a : Nat) : Option Int :=
  let sh := i % 32
  if f3 = 0 then some ((a : Int) + signed 12 i)
  else if f3 = 1 then
    (if i / 32 = 0 then some ((a * 2 ^ sh : Nat) : Int)
    else if i = 0x600 then some (clz 32 a)
    else if i = 0x601 then some (ctz a 32)
    else if i = 0x602 then some (cpop 32 a)
    else none)
  else if f3 = 5 then
    (if i / 32 = 0 then some ((a / 2 ^ sh : Nat) : Int)
    else if i / 32 = 0x20 then some ((sra 32 a sh : Nat) : Int)
    else if i / 32 = 0x30 then some ((ror 32 a sh : Nat) : Int)
    else none)
  else none

/-- BRANCH: whether it is taken. -/
def rvBranch (f3 a b : Nat) : Option Bool :=
  match f3 with
  | 0 => some (a = b)
  | 1 => some (a != b)
  | 4 => some (ltW 64 true a b)
  | 5 => some (!ltW 64 true a b)
  | 6 => some (decide (a < b))
  | 7 => some (!decide (a < b))
  | _ => none

/-! ### Immediates of a 32-bit word -/

def immI (n : Nat) : Int := signed 12 (bits n 31 20)
def immS (n : Nat) : Int := signed 12 (bits n 31 25 * 32 + bits n 11 7)
def immB (n : Nat) : Int :=
  signed 13 (bits n 31 31 * 4096 + bits n 7 7 * 2048 + bits n 30 25 * 32 + bits n 11 8 * 2)
def immU (n : Nat) : Int := signed 32 (bits n 31 12 * 4096)
def immJ (n : Nat) : Int :=
  signed 21 (bits n 31 31 * 2 ^ 20 + bits n 19 12 * 4096 + bits n 20 20 * 2048 + bits n 30 21 * 2)

/-! ### Compressed instructions -/

def encI (op f3 rd rs1 : Nat) (im : Int) : Nat := wrapInt 12 im * 2 ^ 20 + rs1 * 2 ^ 15 + f3 * 2 ^ 12 + rd * 2 ^ 7 + op
def encR (op f3 f7 rd rs1 rs2 : Nat) : Nat := f7 * 2 ^ 25 + rs2 * 2 ^ 20 + rs1 * 2 ^ 15 + f3 * 2 ^ 12 + rd * 2 ^ 7 + op
def encS (op f3 rs1 rs2 im : Nat) : Nat :=
  im / 32 * 2 ^ 25 + rs2 * 2 ^ 20 + rs1 * 2 ^ 15 + f3 * 2 ^ 12 + im % 32 * 2 ^ 7 + op
def encB (f3 rs1 : Nat) (im : Int) : Nat :=
  let i := wrapInt 13 im
  bits i 12 12 * 2 ^ 31 + bits i 10 5 * 2 ^ 25 + rs1 * 2 ^ 15 + f3 * 2 ^ 12 + bits i 4 1 * 2 ^ 8 + bits i 11 11 * 2 ^ 7 + 0x63
def encJ (rd : Nat) (im : Int) : Nat :=
  let i := wrapInt 21 im
  bits i 20 20 * 2 ^ 31 + bits i 10 1 * 2 ^ 21 + bits i 11 11 * 2 ^ 20 + bits i 19 12 * 2 ^ 12 + rd * 2 ^ 7 + 0x6F

/-- Offset of the doubleword forms with a base register, and of the word forms. -/
def cOffD (h : Nat) : Nat := bits h 12 10 * 8 + bits h 6 5 * 64
def cOffW (h : Nat) : Nat := bits h 12 10 * 8 + bits h 6 6 * 4 + bits h 5 5 * 64
/-- The 6-bit signed immediate, and its shift-amount reading. -/
def cImm6 (h : Nat) : Int := signed 6 (bits h 12 12 * 32 + bits h 6 2)
def cSham (h : Nat) : Nat := bits h 12 12 * 32 + bits h 6 2
/-- Offsets of c.j, and of c.beqz and c.bnez. -/
def cOffJ (h : Nat) : Int :=
  signed 12 (bits h 12 12 * 2048 + bits h 8 8 * 1024 + bits h 10 9 * 256 + bits h 6 6 * 128 + bits h 7 7 * 64 +
    bits h 2 2 * 32 + bits h 11 11 * 16 + bits h 5 3 * 2)
def cOffB (h : Nat) : Int :=
  signed 9 (bits h 12 12 * 256 + bits h 6 5 * 64 + bits h 2 2 * 32 + bits h 11 10 * 8 + bits h 4 3 * 2)

/-- Quadrant 0. -/
def expand0 (h : Nat) : Option Nat :=
  let rd := 8 + bits h 4 2
  let rs := 8 + bits h 9 7
  match bits h 15 13 with
  | 0 =>
    let im := bits h 10 7 * 64 + bits h 12 11 * 16 + bits h 5 5 * 8 + bits h 6 6 * 4
    if im = 0 then none else some (encI 0x13 0 rd 2 im)
  | 1 => some (encI 0x07 3 rd rs (cOffD h))
  | 2 => some (encI 0x03 2 rd rs (cOffW h))
  | 3 => some (encI 0x03 3 rd rs (cOffD h))
  | 5 => some (encS 0x27 3 rs rd (cOffD h))
  | 6 => some (encS 0x23 2 rs rd (cOffW h))
  | 7 => some (encS 0x23 3 rs rd (cOffD h))
  | _ => none

/-- Quadrant 1, the arithmetic group. -/
def expandArith (h : Nat) : Option Nat :=
  let rd := 8 + bits h 9 7
  let rs := 8 + bits h 4 2
  match bits h 11 10 with
  | 0 => some (encI 0x13 5 rd rd (cSham h))
  | 1 => some (encI 0x13 5 rd rd ((cSham h + 0x400 : Nat) : Int))
  | 2 => some (encI 0x13 7 rd rd (cImm6 h))
  | _ =>
    match bits h 12 12, bits h 6 5 with
    | 0, 0 => some (encR 0x33 0 0x20 rd rd rs)
    | 0, 1 => some (encR 0x33 4 0 rd rd rs)
    | 0, 2 => some (encR 0x33 6 0 rd rd rs)
    | 0, 3 => some (encR 0x33 7 0 rd rd rs)
    | 1, 0 => some (encR 0x3B 0 0x20 rd rd rs)
    | 1, 1 => some (encR 0x3B 0 0 rd rd rs)
    | _, _ => none

/-- Quadrant 1. -/
def expand1 (h : Nat) : Option Nat :=
  let rd := bits h 11 7
  match bits h 15 13 with
  | 0 => some (encI 0x13 0 rd rd (cImm6 h))
  | 1 => if rd = 0 then none else some (encI 0x1B 0 rd rd (cImm6 h))
  | 2 => some (encI 0x13 0 rd 0 (cImm6 h))
  | 3 =>
    if cImm6 h = 0 then none
    else if rd = 2 then
      some (encI 0x13 0 2 2 (signed 10 (bits h 12 12 * 512 + bits h 4 3 * 128 + bits h 5 5 * 64 + bits h 2 2 * 32 +
        bits h 6 6 * 16)))
    else some (wrapInt 20 (cImm6 h) * 4096 + rd * 128 + 0x37)
  | 4 => expandArith h
  | 5 => some (encJ 0 (cOffJ h))
  | 6 => some (encB 0 (8 + bits h 9 7) (cOffB h))
  | _ => some (encB 1 (8 + bits h 9 7) (cOffB h))

/-- Quadrant 2. -/
def expand2 (h : Nat) : Option Nat :=
  let rd := bits h 11 7
  let rs := bits h 6 2
  let offD := bits h 4 2 * 64 + bits h 12 12 * 32 + bits h 6 5 * 8
  let offW := bits h 3 2 * 64 + bits h 12 12 * 32 + bits h 6 4 * 4
  match bits h 15 13 with
  | 0 => some (encI 0x13 1 rd rd (cSham h))
  | 1 => some (encI 0x07 3 rd 2 offD)
  | 2 => if rd = 0 then none else some (encI 0x03 2 rd 2 offW)
  | 3 => if rd = 0 then none else some (encI 0x03 3 rd 2 offD)
  | 4 =>
    if bits h 12 12 = 0 then
      (if rs = 0 then (if rd = 0 then none else some (encI 0x67 0 0 rd 0)) else some (encR 0x33 0 0 rd 0 rs))
    else if rs = 0 then (if rd = 0 then some 0x00100073 else some (encI 0x67 0 1 rd 0))
    else some (encR 0x33 0 0 rd rd rs)
  | 5 => some (encS 0x27 3 2 rs (bits h 9 7 * 64 + bits h 12 10 * 8))
  | 6 => some (encS 0x23 2 2 rs (bits h 8 7 * 64 + bits h 12 9 * 4))
  | _ => some (encS 0x23 3 2 rs (bits h 9 7 * 64 + bits h 12 10 * 8))

/-- The 32-bit instruction that a compressed one stands for. -/
def rvExpand (h : Nat) : Option Nat :=
  if h % 4 = 0 then expand0 h else if h % 4 = 1 then expand1 h else if h % 4 = 2 then expand2 h else none

/-! ### Floating point -/

/-- The format of a two-bit field, where its arithmetic is present: S and D. -/
def fpArith (n : Nat) : Option FpFmt := if n = 0 then some fpS else if n = 1 then some fpD else none

/-- OP-FP arithmetic on encodings a and b. -/
def fpOp (f : FpFmt) (f5 rm a b : Nat) : Option (Nat × Nat) :=
  match f5 with
  | 0x00 => some (fAdd f rm a b)
  | 0x01 => some (fSub f rm a b)
  | 0x02 => some (fMul f rm a b)
  | 0x03 => some (fDiv f rm a b)
  | 0x0B => some (fSqrt f rm a)
  | _ => none

/-- Conversions between floating-point formats: destination and source of fmt and rs2; H and BF16 only to and from S and D. -/
def cvtFmts (fmt rs2 : Nat) : Option (FpFmt × FpFmt) :=
  match fmt, rs2 with
  | 0, 1 => some (fpS, fpD)
  | 1, 0 => some (fpD, fpS)
  | 0, 2 => some (fpS, fpH)
  | 2, 0 => some (fpH, fpS)
  | 1, 2 => some (fpD, fpH)
  | 2, 1 => some (fpH, fpD)
  | 0, 6 => some (fpS, fpB)
  | 2, 8 => some (fpB, fpS)
  | _, _ => none

/-- Write a floating-point result with its flags. -/
def fpDone (f : FpFmt) (rd : Nat) (v : Nat × Nat) (r : Rv) : Rv := accrue v.2 (setF f.width rd v.1 r)

/-- An integer result of w bits, sign-extended. -/
def setInt (w rd v : Nat) (r : Rv) : Rv := setX rd (wrapInt 64 (signed w (v % 2 ^ w))) r

/-- OP-FP. -/
def rvFp (n : Nat) (r : Rv) : Option Rv := do
  let rd := bits n 11 7
  let a := bits n 19 15
  let b := bits n 24 20
  let f5 := bits n 31 27
  let fm := bits n 26 25
  let rm3 := bits n 14 12
  if f5 = 0x08 then do
    let p ← cvtFmts fm b
    let rm ← rmOf r rm3
    return fpDone p.1 rd (fCvt p.2 p.1 rm (rfIn p.2 r a)) r
  else if f5 = 0x1C && rm3 = 0 && b = 0 && fm != 3 then
    let w := nth [32, 64, 16] fm
    return setInt w rd (rf r a) r
  else if f5 = 0x1E && rm3 = 0 && b = 0 && fm != 3 then return setF (nth [32, 64, 16] fm) rd (rx r a) r
  else do
    let f ← fpArith fm
    let x := rfIn f r a
    let y := rfIn f r b
    if f5 = 0x04 then if rm3 ≤ 2 then return setF f.width rd (fSgnj f rm3 x y) r else none
    else if f5 = 0x05 then if rm3 ≤ 1 then return fpDone f rd (fMinMax f (rm3 = 1) x y) r else none
    else if f5 = 0x14 then
      if rm3 ≤ 2 then
        let c := fCmp f (if rm3 = 2 then 0 else if rm3 = 1 then 1 else 2) x y
        return accrue c.2 (setX rd (if c.1 then 1 else 0) r)
      else none
    else if f5 = 0x1C then if rm3 = 1 && b = 0 then return setX rd (fClass f x) r else none
    else if f5 = 0x18 then
      if b ≤ 3 then do
        let rm ← rmOf r rm3
        let w := if b ≤ 1 then 32 else 64
        let c := fToInt rm w (b % 2 = 0) (fOpen f x)
        return accrue c.2 (setInt w rd c.1 r)
      else none
    else if f5 = 0x1A then
      if b ≤ 3 then do
        let rm ← rmOf r rm3
        let w := if b ≤ 1 then 32 else 64
        let v := rx r a % 2 ^ w
        return fpDone f rd (fOfInt f rm (if b % 2 = 0 then signed w v else v)) r
      else none
    else if f5 = 0x0B && b != 0 then none
    else do
      let rm ← rmOf r rm3
      let v ← fpOp f f5 rm x y
      return fpDone f rd v r

/-- Fused multiply-add: op 0 a × b + c, 1 a × b − c, 2 −(a × b) + c, 3 −(a × b) − c. -/
def fmaOp (f : FpFmt) (op rm a b c : Nat) : Nat × Nat :=
  let z := if op = 0 || op = 2 then fOpen f c else (fOpen f c).flip
  fvFma f rm (fSig f [a, b, c]) (if op < 2 then fOpen f a else (fOpen f a).flip) (fOpen f b) z

/-- MADD, MSUB, NMSUB and NMADD. -/
def rvFma (n : Nat) (r : Rv) : Option Rv := do
  let f ← fpArith (bits n 26 25)
  let rm ← rmOf r (bits n 14 12)
  return fpDone f (bits n 11 7) (fmaOp f (bits n 3 2) rm (rfIn f r (bits n 19 15)) (rfIn f r (bits n 24 20))
    (rfIn f r (bits n 31 27))) r

/-! ### Loads, stores and atomics -/

/-- A load's destination value by its funct3. -/
def loadVal (f3 v : Nat) : Nat :=
  if f3 < 4 then wrapInt 64 (signed (8 * 2 ^ f3) v) else v

/-- AMO arithmetic on words of w bits: memory value m, register value b. -/
def amoVal (f5 w m b : Nat) : Option Nat :=
  match f5 with
  | 0x00 => some ((m + b) % 2 ^ w)
  | 0x01 => some b
  | 0x04 => some (Nat.xor m b)
  | 0x08 => some (Nat.lor m b)
  | 0x0C => some (Nat.land m b)
  | 0x10 => some (if ltW w true b m then b else m)
  | 0x14 => some (if ltW w true m b then b else m)
  | 0x18 => some (min m b)
  | 0x1C => some (max m b)
  | _ => none

/-- LR, SC and AMO. Only these trap on a misaligned address (R92 frees loads and stores alone). -/
def rvAmo (n : Nat) (r : Rv) : Option RvPlan :=
  let f3 := bits n 14 12
  let f5 := bits n 31 27
  let rd := bits n 11 7
  let a := rx r (bits n 19 15)
  let len := 2 ^ f3
  let b := rx r (bits n 24 20) % 2 ^ (8 * len)
  if f3 != 2 && f3 != 3 then none
  else if f5 = 0x02 then
    if bits n 24 20 != 0 then none
    else if a % len != 0 then some ⟨[], fun _ => .trap 4⟩
    else some ⟨[(a, len)], fun vs => .done (setX rd (loadVal f3 (vs.headD 0)) { r with resv := some (a, len) }) [] false⟩
  else if f5 = 0x03 then
    if a % len != 0 then some ⟨[], fun _ => .trap 6⟩
    else
      let ok := r.resv = some (a, len)
      some ⟨[], fun _ => .done (setX rd (if ok then 0 else 1) { r with resv := none })
        (if ok then [(a, leBytes len b)] else []) false⟩
  else match amoVal f5 (8 * len) 0 0 with
    | none => none
    | some _ =>
      if a % len != 0 then some ⟨[], fun _ => .trap 6⟩
      else some ⟨[(a, len)], fun vs =>
        .done (setX rd (loadVal f3 (vs.headD 0)) r)
          [(a, leBytes len ((amoVal f5 (8 * len) (vs.headD 0) b).getD 0))] false⟩

/-- LOAD. -/
def rvLoad (n : Nat) (r : Rv) : Option RvPlan :=
  let f3 := bits n 14 12
  if f3 = 7 then none
  else some ⟨[(addOff (rx r (bits n 19 15)) (immI n), 2 ^ (f3 % 4))], fun vs =>
    .done (setX (bits n 11 7) (loadVal f3 (vs.headD 0)) r) [] false⟩

/-- STORE. -/
def rvStore (n : Nat) (r : Rv) : Option RvPlan :=
  let f3 := bits n 14 12
  if 3 < f3 then none
  else some ⟨[], fun _ => .done r [(addOff (rx r (bits n 19 15)) (immS n), leBytes (2 ^ f3) (rx r (bits n 24 20)))] false⟩

/-- LOAD-FP of a scalar: H, S and D. -/
def rvLoadF (n : Nat) (r : Rv) : Option RvPlan :=
  let f3 := bits n 14 12
  if f3 = 0 || 3 < f3 then none
  else some ⟨[(addOff (rx r (bits n 19 15)) (immI n), 2 ^ f3)], fun vs =>
    .done (setF (8 * 2 ^ f3) (bits n 11 7) (vs.headD 0) r) [] false⟩

/-- STORE-FP of a scalar. -/
def rvStoreF (n : Nat) (r : Rv) : Option RvPlan :=
  let f3 := bits n 14 12
  if f3 = 0 || 3 < f3 then none
  else some ⟨[], fun _ => .done r [(addOff (rx r (bits n 19 15)) (immS n), leBytes (2 ^ f3) (rf r (bits n 24 20)))] false⟩

/-! ### The scalar opcodes -/

/-- An instruction under registers whose pc already stands at the next instruction; `pc` is its own address. -/
def rvScalar (n pc : Nat) (r : Rv) : Option RvPlan :=
  let rd := bits n 11 7
  let f3 := bits n 14 12
  let a := rx r (bits n 19 15)
  let b := rx r (bits n 24 20)
  match bits n 6 0 with
  | 0x37 => some (rvPure (setX rd (wrapInt 64 (immU n)) r))
  | 0x17 => some (rvPure (setX rd (addOff pc (immU n)) r))
  | 0x6F => some (rvPure (setX rd r.pc { r with pc := addOff pc (immJ n) }))
  | 0x67 =>
    if f3 != 0 then none
    else some (rvPure (setX rd r.pc { r with pc := addOff a (immI n) / 2 * 2 }))
  | 0x63 => (rvBranch f3 a b).map fun t => rvPure (if t then { r with pc := addOff pc (immB n) } else r)
  | 0x13 => (opImm f3 (bits n 31 20) a).map fun v => rvPure (setX rd v r)
  | 0x1B =>
    if f3 = 1 && bits n 31 26 = 2 then some (rvPure (setX rd (a % 2 ^ 32 * 2 ^ bits n 25 20) r))
    else (opImmW f3 (bits n 31 20) (a % 2 ^ 32)).map fun v => rvPure (setW rd v r)
  | 0x33 => (opReg (bits n 31 25) f3 a b).map fun v => rvPure (setX rd v r)
  | 0x3B =>
    match opRegUw (bits n 31 25) f3 (bits n 24 20) a b with
    | some v => some (rvPure (setX rd v r))
    | none => (opRegW (bits n 31 25) f3 (a % 2 ^ 32) (b % 2 ^ 32)).map fun v => rvPure (setW rd v r)
  | 0x03 => rvLoad n r
  | 0x23 => rvStore n r
  | 0x07 => rvLoadF n r
  | 0x27 => rvStoreF n r
  | 0x2F => rvAmo n r
  | 0x0F => if f3 ≤ 1 then some (rvPure r) else none
  | 0x53 => (rvFp n r).map rvPure
  | 0x43 => (rvFma n r).map rvPure
  | 0x47 => (rvFma n r).map rvPure
  | 0x4B => (rvFma n r).map rvPure
  | 0x4F => (rvFma n r).map rvPure
  | 0x73 =>
    if n = 0x00100073 then some ⟨[], fun _ => .trap 3⟩
    else if n = 0x10500073 then some (rvPure r)
    else none
  | _ => none

end Sys2Proof.Machine
end

