-- ==== Sys2Proof/Machine/RvVector.lean ====
section
/-! DEFINITION. The vector instructions of a Wick core (R80, R83, R84): the RISC-V Vector extension 1.0 with VLEN 512 and ELEN
64, Zvfh, Zvfbfmin and Zvfbfwma. The detail comes from the RISC-V standard, which the spec names (PRESUMED, assumption 48). -/

namespace Sys2Proof.Machine

/-! ### Configuration and registers -/

/-- SEW in bits of a vtype. -/
def sewOf (r : Rv) : Nat := 8 * 2 ^ bits r.vtype.toNat 5 3

/-- log2 of LMUL of a vlmul code. -/
def lmulOf (code : Nat) : Int := if code < 4 then code else (code : Int) - 8

/-- log2 of LMUL. -/
def lmul (r : Rv) : Int := lmulOf (bits r.vtype.toNat 2 0)

/-- Elements of a group: VLMAX for a width and log2 of a multiplier. -/
def vlmaxOf (sew : Nat) (lm : Int) : Nat := if 0 ≤ lm then 512 * 2 ^ lm.toNat / sew else 512 / (sew * 2 ^ (-lm).toNat)

/-- VLMAX. -/
def vlmax (r : Rv) : Nat := vlmaxOf (sewOf r) (lmul r)

/-- A vtype that the cores support: SEW to 64, and a fraction of LMUL that still holds an element of ELEN / LMUL. -/
def vtypeOk (t : Nat) : Bool :=
  let lm := lmulOf (bits t 2 0)
  decide (t < 256) && decide (bits t 5 3 ≤ 3) && bits t 2 0 != 4 &&
    (decide (0 ≤ lm) || decide (8 * 2 ^ bits t 5 3 * 2 ^ (-lm).toNat ≤ 64))

/-- vset: a new vtype and vl for an application vector length, or the largest, or as it is. -/
def vsetTo (rd : Nat) (t : Nat) (avl : Option Nat) (r : Rv) : Rv :=
  if vtypeOk t then
    let r1 := { r with vtype := BitVec.ofNat 64 t }
    let n := min (avl.getD r.vl) (vlmax r1)
    setX rd n { r1 with vl := n, vstart := 0 }
  else setX rd 0 { r with vtype := 0x8000000000000000, vl := 0, vstart := 0 }

/-- vsetvli, vsetivli and vsetvl. -/
def rvVset (n : Nat) (r : Rv) : Option Rv :=
  let rd := bits n 11 7
  let rs := bits n 19 15
  let avl : Option Nat := if rs != 0 then some (rx r rs) else if rd != 0 then some (2 ^ 64) else none
  let keep (t : Nat) : Rv :=
    if avl.isNone && vtypeOk t && vlmax { r with vtype := BitVec.ofNat 64 t } != vlmax r then vsetTo rd (2 ^ 63) avl r
    else vsetTo rd t avl r
  if !bitAt n 31 then some (keep (bits n 30 20))
  else if bitAt n 30 then some (vsetTo rd (bits n 29 20) (some rs) r)
  else if bits n 30 25 = 0 then some (keep (rx r (bits n 24 20)))
  else none

/-- n registers from b as one number; past v31 nothing. -/
def vgrp (r : Rv) (b : Nat) : Nat → Nat
  | 0 => 0
  | n + 1 => (tget 0 r.v b).toNat + 2 ^ 512 * vgrp r (b + 1) n

/-- Write n registers from b. -/
def vgrpPut (b : Nat) : Nat → Nat → Rv → Rv
  | 0, _, r => r
  | n + 1, g, r => vgrpPut (b + 1) n (g / 2 ^ 512) { r with v := tput r.v b (BitVec.ofNat 512 g) }

/-- Element j of width w of a group. -/
def elAt (g w j : Nat) : Nat := g / 2 ^ (w * j) % 2 ^ w

/-- A group of n elements of width w, from element j on. -/
def elBuild (w : Nat) (f : Nat → Nat) : Nat → Nat → Nat
  | 0, _ => 0
  | n + 1, j => f j % 2 ^ w + 2 ^ w * elBuild w f n (j + 1)

/-- log2 of the multiplier of an operand of width ew. -/
def emul (r : Rv) (ew : Nat) : Int := lmul r + (log2 ew : Int) - (log2 (sewOf r) : Int)

/-- Registers of an operand of width ew. -/
def nregs (r : Rv) (ew : Nat) : Nat := 2 ^ (emul r ew).toNat

/-- An operand register that the group of a width may start at. -/
def regOk (r : Rv) (ew b : Nat) : Bool :=
  decide (8 ≤ ew) && decide (ew ≤ 64) && decide (-3 ≤ emul r ew) && decide (emul r ew ≤ 3) && b % nregs r ew = 0

/-- The whole group of an operand. -/
def vread (r : Rv) (ew b : Nat) : Nat := vgrp r b (nregs r ew)

/-- Whether element j is active. -/
def active (r : Rv) (vm : Bool) (j : Nat) : Bool := vm || bitAt (tget 0 r.v 0).toNat j

/-- vta and vma. -/
def vta (r : Rv) : Bool := bitAt r.vtype.toNat 6
def vma (r : Rv) : Bool := bitAt r.vtype.toNat 7

/-- An agnostic element keeps its value or reads all ones; the standard leaves which, and it is a free choice here. -/
def agnostic (fr j w old : Nat) : Nat := if (Config.freeValue (fr + j)).getLsbD 0 then 2 ^ w - 1 else old

/-- Two operand groups that do not overlap in a way the standard reserves. -/
def overlapOk (r : Rv) (ewd vd ews vs : Nat) : Bool :=
  let nd := nregs r ewd
  let ns := nregs r ews
  decide (vd + nd ≤ vs) || decide (vs + ns ≤ vd) ||
    (if ewd = ews then vd = vs
     else if ewd < ews then vd = vs
     else decide (0 ≤ emul r ews) && vd + nd = vs + ns)

/-- Two groups of one width that do not overlap at all. -/
def vapart (r : Rv) (ewd vd ews vs : Nat) : Bool :=
  decide (vd + nregs r ewd ≤ vs) || decide (vs + nregs r ews ≤ vd)

/-- A mask result may share a register with a source of width ew only at its lowest one. -/
def maskDestOk (r : Rv) (vd ew vs : Nat) : Bool := decide (vd + 1 ≤ vs) || decide (vs + nregs r ew ≤ vd) || vd = vs

/-- The flags of the active body elements joined: bits 4 to 0 fflags, bit 5 vxsat. -/
def flagsIn (r : Rv) (vm : Bool) (f : Nat → Nat × Nat) : Nat :=
  (List.range r.vl).foldl (fun t j => if r.vstart ≤ j && active r vm j then orFlags t (f j).2 else t) 0

/-- Accrue fflags and vxsat. -/
def accrueV (fl : Nat) (r : Rv) : Rv := { accrue fl r with vxsat := r.vxsat || bitAt fl 5 }

/-- Write elements of width ew to vd: prestart and inactive ones as they were or agnostic, the tail too. -/
def velWrite (fr : Nat) (vm : Bool) (ew vd : Nat) (f : Nat → Nat × Nat) (r : Rv) : Rv :=
  if r.vl ≤ r.vstart then { r with vstart := 0 }
  else
    let n := nregs r ew
    let old := vgrp r vd n
    let g := elBuild ew (fun j =>
      let o := elAt old ew j
      if j < r.vstart then o
      else if j < r.vl then (if active r vm j then (f j).1 else if vma r then agnostic fr j ew o else o)
      else if vta r then agnostic fr j ew o else o) (512 * n / ew) 0
    { accrueV (flagsIn r vm f) (vgrpPut vd n g r) with vstart := 0 }

/-- Write a mask register: bit j; the tail is agnostic. -/
def vmaskWrite (fr : Nat) (vm : Bool) (vd : Nat) (f : Nat → Bool × Nat) (r : Rv) : Rv :=
  if r.vl ≤ r.vstart then { r with vstart := 0 }
  else
    let old := (tget 0 r.v vd).toNat
    let g := elBuild 1 (fun j =>
      let o := elAt old 1 j
      if j < r.vstart then o
      else if j < r.vl then (if active r vm j then (if (f j).1 then 1 else 0) else if vma r then agnostic fr j 1 o else o)
      else agnostic fr j 1 o) 512 0
    { accrueV (flagsIn r vm fun j => (0, (f j).2)) (vgrpPut vd 1 g r) with vstart := 0 }

/-- Write element 0 of vd; the rest is tail. -/
def velScalar (fr ew vd v : Nat) (r : Rv) : Rv :=
  if r.vl ≤ r.vstart then { r with vstart := 0 }
  else
    let old := vgrp r vd 1
    let g := elBuild ew (fun j =>
      let o := elAt old ew j
      if j = 0 then v else if vta r then agnostic fr j ew o else o) (512 / ew) 0
    { vgrpPut vd 1 g r with vstart := 0 }

/-! ### Integer elements -/

/-- A shifted value under the fixed-point rounding mode: the increment of vxrm. -/
def roundShift (xrm : Nat) (v : Int) (d : Nat) : Int :=
  if d = 0 then v
  else
    let q := v / 2 ^ d
    let lo := v % 2 ^ d
    let half : Int := 2 ^ (d - 1)
    let up : Bool :=
      if xrm = 0 then decide (half ≤ lo)
      else if xrm = 1 then decide (half < lo) || (decide (lo = half) && decide (q % 2 = 1))
      else if xrm = 2 then false
      else decide (lo ≠ 0) && decide (q % 2 = 0)
    if up then q + 1 else q

/-- A value limited to w bits, with vxsat in bit 5. -/
def satW (w : Nat) (sg : Bool) (v : Int) : Nat × Nat :=
  if v < intLo w sg then (wrapInt w (intLo w sg), 32)
  else if intHi w sg < v then (wrapInt w (intHi w sg), 32)
  else (wrapInt w v, 0)

/-- An integer of w bits by signedness. -/
def asInt (w : Nat) (sg : Bool) (v : Nat) : Int := if sg then signed w v else v

/-- Single-width integer arithmetic by funct6: a of vs2, b of vs1, rs1 or the immediate. -/
def viOp (f6 w xrm a b : Nat) : Option (Nat × Nat) :=
  let sh := b % w
  let plain (v : Nat) : Option (Nat × Nat) := some (v % 2 ^ w, 0)
  match f6 with
  | 0x00 => plain (a + b)
  | 0x02 => plain (a + 2 ^ w - b)
  | 0x03 => plain (b + 2 ^ w - a)
  | 0x04 => plain (min a b)
  | 0x05 => plain (if ltW w true b a then b else a)
  | 0x06 => plain (max a b)
  | 0x07 => plain (if ltW w true a b then b else a)
  | 0x09 => plain (Nat.land a b)
  | 0x0A => plain (Nat.lor a b)
  | 0x0B => plain (Nat.xor a b)
  | 0x20 => some (satW w false ((a : Int) + b))
  | 0x21 => some (satW w true (signed w a + signed w b))
  | 0x22 => some (satW w false ((a : Int) - b))
  | 0x23 => some (satW w true (signed w a - signed w b))
  | 0x25 => plain (a * 2 ^ sh)
  | 0x27 => some (satW w true (roundShift xrm (signed w a * signed w b) (w - 1)))
  | 0x28 => plain (a / 2 ^ sh)
  | 0x29 => plain (sra w a sh)
  | 0x2A => plain (wrapInt w (roundShift xrm a sh))
  | 0x2B => plain (wrapInt w (roundShift xrm (signed w a) sh))
  | _ => none

/-- Integer comparisons into a mask. -/
def viCmp (f6 w a b : Nat) : Option Bool :=
  match f6 with
  | 0x18 => some (a = b)
  | 0x19 => some (a != b)
  | 0x1A => some (decide (a < b))
  | 0x1B => some (ltW w true a b)
  | 0x1C => some (decide (a ≤ b))
  | 0x1D => some (!ltW w true b a)
  | 0x1E => some (decide (b < a))
  | 0x1F => some (ltW w true b a)
  | _ => none

/-- Multiply, divide, averaging and multiply-add elements (OPM): d is the old element of vd. -/
def vmOp (f6 w xrm d a b : Nat) : Option (Nat × Nat) :=
  let plain (v : Nat) : Option (Nat × Nat) := some (v % 2 ^ w, 0)
  match f6 with
  | 0x08 => plain (wrapInt w (roundShift xrm ((a : Int) + b) 1))
  | 0x09 => plain (wrapInt w (roundShift xrm (signed w a + signed w b) 1))
  | 0x0A => plain (wrapInt w (roundShift xrm ((a : Int) - b) 1))
  | 0x0B => plain (wrapInt w (roundShift xrm (signed w a - signed w b) 1))
  | 0x20 => plain (divW w false a b)
  | 0x21 => plain (divW w true a b)
  | 0x22 => plain (remW w false a b)
  | 0x23 => plain (remW w true a b)
  | 0x24 => plain (mulHigh w false false a b)
  | 0x25 => plain (a * b)
  | 0x26 => plain (mulHigh w true false a b)
  | 0x27 => plain (mulHigh w true true a b)
  | 0x29 => plain (b * d + a)
  | 0x2B => plain (wrapInt w ((a : Int) - (b * d : Nat)))
  | 0x2D => plain (b * a + d)
  | 0x2F => plain (wrapInt w ((d : Int) - (b * a : Nat)))
  | _ => none

/-- Widening arithmetic: a of vs2 and b at width w, except that a is already wide in the .w forms; d the old wide element. -/
def vwOp (f6 w d a b : Nat) : Option Nat :=
  let W := 2 * w
  let r (v : Int) : Option Nat := some (wrapInt W v)
  match f6 with
  | 0x30 => r ((a : Int) + b)
  | 0x31 => r (signed w a + signed w b)
  | 0x32 => r ((a : Int) - b)
  | 0x33 => r (signed w a - signed w b)
  | 0x34 => r ((a : Int) + b)
  | 0x35 => r ((a : Int) + signed w b)
  | 0x36 => r ((a : Int) - b)
  | 0x37 => r ((a : Int) - signed w b)
  | 0x38 => r (a * b : Nat)
  | 0x3A => r (signed w a * b)
  | 0x3B => r (signed w a * signed w b)
  | 0x3C => r ((a * b + d : Nat) : Int)
  | 0x3D => r (signed w a * signed w b + d)
  | 0x3E => r (signed w a * b + d)
  | 0x3F => r (a * signed w b + d)
  | _ => none

/-- Reductions of integers: acc with an element. -/
def vredOp (f6 w t x : Nat) : Nat :=
  match f6 with
  | 0 => (t + x) % 2 ^ w
  | 1 => Nat.land t x
  | 2 => Nat.lor t x
  | 3 => Nat.xor t x
  | 4 => min t x
  | 5 => if ltW w true x t then x else t
  | 6 => max t x
  | _ => if ltW w true t x then x else t

/-- The elements that take part in a reduction. -/
def activeEls (r : Rv) (vm : Bool) (ew vs : Nat) : List Nat :=
  let g := vread r ew vs
  ((List.range r.vl).filter (active r vm)).map (elAt g ew)

/-- The second operand of an arithmetic form at width w, element by element: vs1, rs1 or the immediate. -/
inductive Vop where
  | vec (g : Nat)
  | sca (v : Nat)

/-- Element j of a second operand. -/
def Vop.at_ (o : Vop) (w j : Nat) : Nat :=
  match o with
  | .vec g => elAt g w j
  | .sca v => v % 2 ^ w

/-- The second operand of OPI and OPM: 0 and 2 vector, 3 immediate, 4 and 6 scalar. -/
def vopOf (f3 w n : Nat) (r : Rv) : Vop :=
  let s := bits n 19 15
  if f3 = 0 || f3 = 2 then .vec (vread r w s)
  else if f3 = 3 then .sca (wrapInt 64 (signed 5 s))
  else .sca (rx r s)

/-- A vector second operand's register is in order. -/
def vopOk (f3 w n : Nat) (r : Rv) : Bool := !(f3 = 0 || f3 = 1 || f3 = 2) || regOk r w (bits n 19 15)

/-- vd is not the mask of a masked instruction. -/
def notV0 (vm : Bool) (vd : Nat) : Bool := vm || vd != 0

/-- Gather, slides and register moves of OPI. -/
def rvPerm (fr n : Nat) (vm : Bool) (r : Rv) : Option Rv :=
  let w := sewOf r
  let f3 := bits n 14 12
  let f6 := bits n 31 26
  let vd := bits n 11 7
  let vs2 := bits n 24 20
  let s := bits n 19 15
  let g2 := vread r w vs2
  let mx := vlmax r
  let off := if f3 = 3 then s else rx r s
  let gather (i : Nat) : Nat × Nat := (if i < mx then elAt g2 w i else 0, 0)
  if !(regOk r w vd && regOk r w vs2 && notV0 vm vd) then none
  else if f6 = 0x0C then
    if !vapart r w vd w vs2 then none
    else if f3 = 0 then
      if regOk r w s && vapart r w vd w s then some (velWrite fr vm w vd (fun j => gather (elAt (vread r w s) w j)) r) else none
    else some (velWrite fr vm w vd (fun _ => gather off) r)
  else if f6 = 0x0E then
    if !vapart r w vd w vs2 then none
    else if f3 = 0 then
      if regOk r 16 s && vapart r w vd 16 s then some (velWrite fr vm w vd (fun j => gather (elAt (vread r 16 s) 16 j)) r)
      else none
    else
      let r1 := { r with vstart := max r.vstart (min off r.vl) }
      some (velWrite fr vm w vd (fun j => (elAt g2 w (j - off), 0)) r1)
  else if f6 = 0x0F && f3 != 0 then some (velWrite fr vm w vd (fun j => gather (j + off)) r)
  else none

/-- Carry and borrow forms, merge and move. -/
def rvCarry (fr n : Nat) (vm : Bool) (r : Rv) : Option Rv :=
  let w := sewOf r
  let f3 := bits n 14 12
  let f6 := bits n 31 26
  let vd := bits n 11 7
  let vs2 := bits n 24 20
  let a := vread r w vs2
  let b := vopOf f3 w n r
  let c (j : Nat) : Nat := if bitAt (tget 0 r.v 0).toNat j then 1 else 0
  if !(regOk r w vs2 && vopOk f3 w n r) then none
  else if f6 = 0x17 then
    if !regOk r w vd then none
    else if vm then if vs2 = 0 then some (velWrite fr true w vd (fun j => (b.at_ w j, 0)) r) else none
    else if vd = 0 then none
    else some (velWrite fr true w vd (fun j => (if c j = 1 then b.at_ w j else elAt a w j, 0)) r)
  else if f6 = 0x10 || (f6 = 0x12 && f3 != 3) then
    if vm || vd = 0 || !regOk r w vd then none
    else some (velWrite fr true w vd (fun j =>
      (if f6 = 0x10 then elAt a w j + b.at_ w j + c j else elAt a w j + 2 ^ w + 2 ^ w - b.at_ w j - c j, 0)) r)
  else if f6 = 0x11 || (f6 = 0x13 && f3 != 3) then
    let k (j : Nat) : Nat := if vm then 0 else c j
    if !maskDestOk r vd w vs2 || (f3 = 0 && !maskDestOk r vd w (bits n 19 15)) then none
    else some (vmaskWrite fr true vd (fun j =>
      (if f6 = 0x11 then decide (2 ^ w ≤ elAt a w j + b.at_ w j + k j) else decide (elAt a w j < b.at_ w j + k j), 0)) r)
  else none

/-- Narrowing shifts and clips: vs2 is wide. -/
def rvNarrow (fr n : Nat) (vm : Bool) (r : Rv) : Option Rv :=
  let w := sewOf r
  let f3 := bits n 14 12
  let f6 := bits n 31 26
  let vd := bits n 11 7
  let vs2 := bits n 24 20
  let W := 2 * w
  if !(regOk r w vd && regOk r W vs2 && vopOk f3 w n r && overlapOk r w vd W vs2 && notV0 vm vd) then none
  else
    let a := vread r W vs2
    let b := vopOf f3 w n r
    let sh (j : Nat) : Nat := (if f3 = 3 then bits n 19 15 else b.at_ w j) % W
    some (velWrite fr vm w vd (fun j =>
      let x := elAt a W j
      if f6 = 0x2C then (x / 2 ^ sh j % 2 ^ w, 0)
      else if f6 = 0x2D then (sra W x (sh j) % 2 ^ w, 0)
      else satW w (f6 = 0x2F) (roundShift r.vxrm (asInt W (f6 = 0x2F) x) (sh j))) r)

/-- vmv<nr>r.v. -/
def rvWholeMove (n : Nat) (r : Rv) : Option Rv :=
  let k := bits n 19 15 + 1
  let vd := bits n 11 7
  let vs2 := bits n 24 20
  if !([1, 2, 4, 8].contains k && vd % k = 0 && vs2 % k = 0) then none
  else
    let lo := sewOf r * r.vstart
    let old := vgrp r vd k
    let new := vgrp r vs2 k
    if 512 * k ≤ lo then some { r with vstart := 0 }
    else some { vgrpPut vd k (new / 2 ^ lo * 2 ^ lo + old % 2 ^ lo) r with vstart := 0 }

/-- OPIVV, OPIVX and OPIVI. -/
def rvOpi (fr n : Nat) (r : Rv) : Option Rv :=
  let w := sewOf r
  let vm := bitAt n 25
  let f3 := bits n 14 12
  let f6 := bits n 31 26
  let vd := bits n 11 7
  let vs2 := bits n 24 20
  if f6 = 0x27 && f3 = 3 then (if vm then rvWholeMove n r else none)
  else if f6 = 0x0C || f6 = 0x0E || f6 = 0x0F then rvPerm fr n vm r
  else if (0x10 ≤ f6 && f6 ≤ 0x13) || f6 = 0x17 then rvCarry fr n vm r
  else if 0x2C ≤ f6 && f6 ≤ 0x2F then rvNarrow fr n vm r
  else if f6 = 0x30 || f6 = 0x31 then
    -- vwredsumu and vwredsum
    if f3 != 0 || r.vstart != 0 || !regOk r w vs2 || 32 < w then none
    else
      let g := elAt (vgrp r (bits n 19 15) 1) (2 * w) 0
      let s := (activeEls r vm w vs2).foldl (fun t x => wrapInt (2 * w) ((t : Int) + asInt w (f6 = 0x31) x)) g
      some (velScalar fr (2 * w) vd s r)
  else if !(regOk r w vs2 && vopOk f3 w n r) then none
  else
    let a := vread r w vs2
    let b0 := vopOf f3 w n r
    -- shifts by an immediate read it as unsigned
    let b := if f3 = 3 && (f6 = 0x25 || 0x28 ≤ f6) then Vop.sca (bits n 19 15) else b0
    if 0x18 ≤ f6 && f6 ≤ 0x1F then
      if (f3 = 0 && 0x1E ≤ f6) || (f3 = 3 && (f6 = 0x1A || f6 = 0x1B)) ||
          !maskDestOk r vd w vs2 || (f3 = 0 && !maskDestOk r vd w (bits n 19 15)) then none
      else some (vmaskWrite fr vm vd (fun j => ((viCmp f6 w (elAt a w j) (b.at_ w j)).getD false, 0)) r)
    else if !(regOk r w vd && notV0 vm vd) then none
    else if (f3 = 0 && f6 = 0x03) || (f3 = 3 && [0x02, 0x04, 0x05, 0x06, 0x07, 0x22, 0x23].contains f6) then none
    else match viOp f6 w r.vxrm 0 0 with
      | none => none
      | some _ => some (velWrite fr vm w vd (fun j => (viOp f6 w r.vxrm (elAt a w j) (b.at_ w j)).getD (0, 0)) r)

/-! ### OPM: multiplies, masks, permutations -/

/-- Position of the first active set bit below vl. -/
def firstSet (r : Rv) (vm : Bool) (m : Nat) : Option Nat :=
  (List.range r.vl).find? fun j => active r vm j && bitAt m j

/-- Mask-register logic. -/
def maskLogic (f6 : Nat) (a b : Bool) : Bool :=
  match f6 with
  | 0x18 => a && !b
  | 0x19 => a && b
  | 0x1A => a || b
  | 0x1B => a != b
  | 0x1C => a || !b
  | 0x1D => !(a && b)
  | 0x1E => !(a || b)
  | _ => a == b

/-- VMUNARY0: vmsbf, vmsof, vmsif, viota, vid. -/
def rvMaskUnary (fr n : Nat) (vm : Bool) (r : Rv) : Option Rv :=
  let op := bits n 19 15
  let vd := bits n 11 7
  let vs2 := bits n 24 20
  let w := sewOf r
  let m := (tget 0 r.v vs2).toNat
  if op = 17 then
    if vs2 = 0 && regOk r w vd && notV0 vm vd then some (velWrite fr vm w vd (fun j => (j, 0)) r) else none
  else if r.vstart != 0 then none
  else if op = 16 then
    if !(regOk r w vd && notV0 vm vd) || (decide (vd ≤ vs2) && decide (vs2 < vd + nregs r w)) then none
    else some (velWrite fr vm w vd (fun j => (((List.range j).filter fun i => active r vm i && bitAt m i).length, 0)) r)
  else if (op = 1 || op = 2 || op = 3) && notV0 vm vd && vd != vs2 then
    let p := firstSet r vm m
    some (vmaskWrite fr vm vd (fun j => (match p with
      | some i => if op = 1 then decide (j < i) else if op = 2 then j = i else decide (j ≤ i)
      | none => op != 2, 0)) r)
  else none

/-- VWXUNARY0 and vmv.s.x: moves between a scalar and element 0, vcpop and vfirst. -/
def rvMoveX (fr n : Nat) (vm : Bool) (r : Rv) : Option Rv :=
  let op := bits n 19 15
  let vs2 := bits n 24 20
  let rd := bits n 11 7
  let w := sewOf r
  let m := (tget 0 r.v vs2).toNat
  if bits n 14 12 = 6 then
    if vm && vs2 = 0 then some (velScalar fr w rd (rx r op) r) else none
  else if op = 0 then
    if vm then some { setX rd (wrapInt 64 (signed w (elAt m w 0))) r with vstart := 0 } else none
  else if r.vstart != 0 then none
  else if op = 16 then some (setX rd ((List.range r.vl).filter fun j => active r vm j && bitAt m j).length r)
  else if op = 17 then some (setX rd ((firstSet r vm m).getD (2 ^ 64 - 1)) r)
  else none

/-- VXUNARY0: zero and sign extension from a fraction of SEW. -/
def rvExtend (fr n : Nat) (vm : Bool) (r : Rv) : Option Rv :=
  let op := bits n 19 15
  let vd := bits n 11 7
  let vs2 := bits n 24 20
  let w := sewOf r
  let e := w / nth [0, 0, 8, 8, 4, 4, 2, 2] op
  if op < 2 || 7 < op || e < 8 || !(regOk r w vd && regOk r e vs2 && overlapOk r w vd e vs2 && notV0 vm vd) then none
  else
    let a := vread r e vs2
    some (velWrite fr vm w vd (fun j => (wrapInt w (asInt e (op % 2 = 1) (elAt a e j)), 0)) r)

/-- vcompress. -/
def rvCompress (fr n : Nat) (r : Rv) : Option Rv :=
  let w := sewOf r
  let vd := bits n 11 7
  let vs2 := bits n 24 20
  let vs1 := bits n 19 15
  let apart1 := decide (vs1 + 1 ≤ vd) || decide (vd + nregs r w ≤ vs1)
  if r.vstart != 0 || !(regOk r w vd && regOk r w vs2 && vapart r w vd w vs2 && apart1) then none
  else
    let m := (tget 0 r.v vs1).toNat
    let a := vread r w vs2
    let xs := ((List.range r.vl).filter (bitAt m)).map (elAt a w)
    let r1 := velWrite fr true w vd (fun j => (xs.getD j 0, 0)) { r with vl := xs.length }
    some { (if r.vl = 0 then r else if xs.isEmpty then
      velWrite fr true w vd (fun j => (let o := elAt (vread r w vd) w j; if vta r then agnostic fr j w o else o, 0)) r
      else r1) with vl := r.vl }

/-- OPMVV and OPMVX. -/
def rvOpm (fr n : Nat) (r : Rv) : Option Rv :=
  let w := sewOf r
  let vm := bitAt n 25
  let f3 := bits n 14 12
  let f6 := bits n 31 26
  let vd := bits n 11 7
  let vs2 := bits n 24 20
  let s := bits n 19 15
  let b := vopOf f3 w n r
  if f6 < 8 then
    if f3 != 2 || r.vstart != 0 || !regOk r w vs2 then none
    else some (velScalar fr w vd ((activeEls r vm w vs2).foldl (vredOp f6 w) (elAt (vgrp r s 1) w 0)) r)
  else if f6 = 0x10 then rvMoveX fr n vm r
  else if f6 = 0x12 then (if f3 = 2 then rvExtend fr n vm r else none)
  else if f6 = 0x14 then (if f3 = 2 then rvMaskUnary fr n vm r else none)
  else if f6 = 0x17 then (if f3 = 2 && vm then rvCompress fr n r else none)
  else if 0x18 ≤ f6 && f6 ≤ 0x1F then
    if f3 != 2 || !vm then none
    else
      let x := (tget 0 r.v vs2).toNat
      let y := (tget 0 r.v s).toNat
      some (vmaskWrite fr true vd (fun j => (maskLogic f6 (bitAt x j) (bitAt y j), 0)) r)
  else if f6 = 0x0E || f6 = 0x0F then
    if f3 != 6 || !(regOk r w vd && regOk r w vs2 && notV0 vm vd) || (f6 = 0x0E && !vapart r w vd w vs2) then none
    else
      let a := vread r w vs2
      some (velWrite fr vm w vd (fun j =>
        (if f6 = 0x0E then (if j = 0 then rx r s else elAt a w (j - 1))
         else if j + 1 = r.vl then rx r s else elAt a w (j + 1), 0)) r)
  else if 0x30 ≤ f6 then
    let wide := 0x34 ≤ f6 && f6 ≤ 0x37
    let ea := if wide then 2 * w else w
    if 32 < w || (f6 = 0x3E && f3 = 2) || (vwOp f6 w 0 0 0).isNone ||
        !(regOk r (2 * w) vd && regOk r ea vs2 && vopOk f3 w n r && overlapOk r (2 * w) vd ea vs2 && notV0 vm vd &&
          (f3 != 2 || overlapOk r (2 * w) vd w s)) then none
    else
      let a := vread r ea vs2
      let d := vread r (2 * w) vd
      -- vwmaccsu reads its scalar or vs1 as signed, vwmaccus its scalar as unsigned
      some (velWrite fr vm (2 * w) vd (fun j => ((vwOp f6 w (elAt d (2 * w) j) (elAt a ea j) (b.at_ w j)).getD 0, 0)) r)
  else if !(regOk r w vd && regOk r w vs2 && vopOk f3 w n r && notV0 vm vd) || (vmOp f6 w 0 0 0 0).isNone then none
  else
    let a := vread r w vs2
    let d := vread r w vd
    some (velWrite fr vm w vd (fun j => (vmOp f6 w r.vxrm (elAt d w j) (elAt a w j) (b.at_ w j)).getD (0, 0)) r)

/-! ### OPF: floating point -/

/-- The format of a vector element width. -/
def vfFmt (w : Nat) : Option FpFmt := if w = 16 then some fpH else if w = 32 then some fpS else if w = 64 then some fpD else none

/-- Single-width floating-point elements by funct6: d of vd, a of vs2, b of vs1 or rs1. -/
def vfOp (f : FpFmt) (f6 rm d a b : Nat) : Option (Nat × Nat) :=
  match f6 with
  | 0x00 => some (fAdd f rm a b)
  | 0x02 => some (fSub f rm a b)
  | 0x04 => some (fMinMax f false a b)
  | 0x06 => some (fMinMax f true a b)
  | 0x08 => some (fSgnj f 0 a b, 0)
  | 0x09 => some (fSgnj f 1 a b, 0)
  | 0x0A => some (fSgnj f 2 a b, 0)
  | 0x20 => some (fDiv f rm a b)
  | 0x21 => some (fDiv f rm b a)
  | 0x24 => some (fMul f rm a b)
  | 0x27 => some (fSub f rm b a)
  | 0x28 => some (fmaOp f 0 rm b d a)
  | 0x29 => some (fmaOp f 3 rm b d a)
  | 0x2A => some (fmaOp f 1 rm b d a)
  | 0x2B => some (fmaOp f 2 rm b d a)
  | 0x2C => some (fmaOp f 0 rm b a d)
  | 0x2D => some (fmaOp f 3 rm b a d)
  | 0x2E => some (fmaOp f 1 rm b a d)
  | 0x2F => some (fmaOp f 2 rm b a d)
  | _ => none

/-- Comparisons into a mask. -/
def vfCmp (f : FpFmt) (f6 a b : Nat) : Option (Bool × Nat) :=
  match f6 with
  | 0x18 => some (fCmp f 0 a b)
  | 0x19 => some (fCmp f 2 a b)
  | 0x1B => some (fCmp f 1 a b)
  | 0x1C => some (let c := fCmp f 0 a b; (!c.1, c.2))
  | 0x1D => some (fCmp f 1 b a)
  | 0x1F => some (fCmp f 2 b a)
  | _ => none

/-- Widening elements: f narrow, g wide; a and b narrow but for a of the .w forms; d of vd, wide. -/
def vfwOp (f g : FpFmt) (f6 rm d a b : Nat) : Option (Nat × Nat) :=
  let x := fOpen f a
  let y := fOpen f b
  let z := fOpen g d
  let sig := fSig f [a, b]
  let sig3 := orFlags sig (fSig g [d])
  let add (p q : Fv) (s : Nat) : Option (Nat × Nat) := let r := fvAdd g rm p q; some (r.1, orFlags s r.2)
  match f6 with
  | 0x30 => add x y sig
  | 0x32 => add x y.flip sig
  | 0x34 => add (fOpen g a) y (orFlags (fSig g [a]) (fSig f [b]))
  | 0x36 => add (fOpen g a) y.flip (orFlags (fSig g [a]) (fSig f [b]))
  | 0x38 => some (fvMulRound g rm sig x y)
  | 0x3B => some (fvFma g rm sig3 x y z)
  | 0x3C => some (fvFma g rm sig3 x y z)
  | 0x3D => some (fvFma g rm sig3 x.flip y z.flip)
  | 0x3E => some (fvFma g rm sig3 x y z.flip)
  | 0x3F => some (fvFma g rm sig3 x.flip y z)
  | _ => none

/-- VFUNARY0 without a change of width. -/
def vfCvtOp (f : FpFmt) (w op rm a : Nat) : Option (Nat × Nat) :=
  match op with
  | 0 => some (fToInt rm w false (fOpen f a))
  | 1 => some (fToInt rm w true (fOpen f a))
  | 2 => some (fOfInt f rm a)
  | 3 => some (fOfInt f rm (signed w a))
  | 6 => some (fToInt 1 w false (fOpen f a))
  | 7 => some (fToInt 1 w true (fOpen f a))
  | _ => none

/-- VFUNARY0, conversions: element by element from width e to width d, where the formats exist. -/
def rvFcvt (fr n rm : Nat) (vm : Bool) (r : Rv) : Option Rv :=
  let w := sewOf r
  let op := bits n 19 15
  let vd := bits n 11 7
  let vs2 := bits n 24 20
  let run (ed es : Nat) (f : Option (Nat → Nat × Nat)) : Option Rv :=
    if !(regOk r ed vd && regOk r es vs2 && overlapOk r ed vd es vs2 && notV0 vm vd) then none
    else f.map fun h => let a := vread r es vs2; velWrite fr vm ed vd (fun j => h (elAt a es j)) r
  let i := op % 8
  if op < 8 then
    run w w (match vfFmt w with
      | some f => if (vfCvtOp f w op rm 0).isSome then some fun a => (vfCvtOp f w op rm a).getD (0, 0) else none
      | none => none)
  else if op < 16 then
    let W := 2 * w
    run W w (if i = 2 then (vfFmt W).map fun g a => fOfInt g rm a
      else if i = 3 then (vfFmt W).map fun g a => fOfInt g rm (signed w a)
      else if i = 4 then match vfFmt w, vfFmt W with
        | some f, some g => some (fCvt f g rm)
        | _, _ => none
      else if i = 5 then (if w = 16 then some (fCvt fpB fpS rm) else none)
      else match vfFmt w with
        | some f => if W ≤ 64 then some fun a => fToInt (if 6 ≤ i then 1 else rm) W (i % 2 = 1) (fOpen f a) else none
        | none => none)
  else if op < 24 || op = 29 then
    let W := 2 * w
    run w W (if op = 29 then (if w = 16 then some (fCvt fpS fpB rm) else none)
      else if i = 2 then (vfFmt w).map fun f a => fOfInt f rm a
      else if i = 3 then (vfFmt w).map fun f a => fOfInt f rm (signed W a)
      else if i = 4 || i = 5 then match vfFmt w, vfFmt W with
        | some f, some g => some (fCvt g f (if i = 5 then 8 else rm))
        | _, _ => none
      else match vfFmt W with
        | some g => some fun a => fToInt (if 6 ≤ i then 1 else rm) w (i % 2 = 1) (fOpen g a)
        | none => none)
  else none

/-- VFUNARY1: square root, the two estimates and the class. -/
def vfUnary (f : FpFmt) (op rm a : Nat) : Option (Nat × Nat) :=
  match op with
  | 0 => some (fSqrt f rm a)
  | 4 => some (fRsq7 f a)
  | 5 => some (fRec7 f rm a)
  | 16 => some (fClass f a, 0)
  | _ => none

/-- R84: floating-point reductions: the unordered sum in the tree of red.sum, its inactive elements −0 in their places; the
ordered one in element order; minimum and maximum. -/
def rvFred (fr n rm : Nat) (vm : Bool) (f g : FpFmt) (r : Rv) : Rv :=
  let w := f.width
  let f6 := bits n 31 26
  let vs2 := bits n 24 20
  let vd := bits n 11 7
  let start := elAt (vgrp r (bits n 19 15) 1) g.width 0
  let a := vread r w vs2
  let wide (c : Nat) : Nat × Nat := if f.width = g.width then (c, 0) else fCvt f g rm c
  let at_ (j : Nat) : Nat × Nat := if active r vm j then wide (elAt a w j) else (signBit g true, 0)
  let idx := List.range r.vl
  let sum (xs : List Nat) : Nat × Nat :=
    if xs.isEmpty then (start, 0)
    else if f6 = 0x01 || f6 = 0x31 then fTreeSum g rm start xs
    else if f6 = 0x03 || f6 = 0x33 then fChainSum g rm start xs
    else xs.foldl (fun t x => let m := fMinMax g (f6 = 0x07) t.1 x; (m.1, orFlags t.2 m.2)) (start, 0)
  let t := sum (if f6 = 0x01 || f6 = 0x31 then (if idx.any (active r vm) then idx.map fun j => (at_ j).1 else [])
    else (idx.filter (active r vm)).map fun j => (at_ j).1)
  let fl := idx.foldl (fun z j => orFlags z (at_ j).2) t.2
  if r.vl = 0 then r else accrue fl (velScalar fr g.width vd t.1 r)

/-- OPFVV and OPFVF. -/
def rvOpf (fr n : Nat) (r : Rv) : Option Rv :=
  let w := sewOf r
  let vm := bitAt n 25
  let vf := bits n 14 12 = 5
  let f6 := bits n 31 26
  let vd := bits n 11 7
  let vs2 := bits n 24 20
  let s := bits n 19 15
  let rm := frmOf r
  if 4 < rm then none
  else if f6 = 0x12 then (if vf then none else rvFcvt fr n rm vm r)
  else match vfFmt w with
    | none => none
    | some f =>
      let b : Vop := if vf then .sca (rfIn f r s) else .vec (vread r w s)
      let bOk := vf || regOk r w s
      if f6 = 0x01 || f6 = 0x03 || f6 = 0x05 || f6 = 0x07 then
        (if vf || r.vstart != 0 || !regOk r w vs2 then none else some (rvFred fr n rm vm f f r))
      else if f6 = 0x31 || f6 = 0x33 then
        match vfFmt (2 * w) with
        | some g => if vf || r.vstart != 0 || !regOk r w vs2 then none else some (rvFred fr n rm vm f g r)
        | none => none
      else if f6 = 0x10 then
        if vf then (if vm && vs2 = 0 then some (velScalar fr w vd (rfIn f r s) r) else none)
        else if vm && s = 0 then some { setF w vd (elAt (vgrp r vs2 1) w 0) r with vstart := 0 } else none
      else if f6 = 0x13 then
        if vf || !(regOk r w vd && regOk r w vs2 && notV0 vm vd) || (vfUnary f s rm 0).isNone then none
        else some (velWrite fr vm w vd (fun j => (vfUnary f s rm (elAt (vread r w vs2) w j)).getD (0, 0)) r)
      else if f6 = 0x0E || f6 = 0x0F then
        if !vf || !(regOk r w vd && regOk r w vs2 && notV0 vm vd) || (f6 = 0x0E && !vapart r w vd w vs2) then none
        else
          let a := vread r w vs2
          some (velWrite fr vm w vd (fun j =>
            (if f6 = 0x0E then (if j = 0 then b.at_ w j else elAt a w (j - 1))
             else if j + 1 = r.vl then b.at_ w j else elAt a w (j + 1), 0)) r)
      else if f6 = 0x17 then
        if !vf || !(regOk r w vd && regOk r w vs2) || (vm && vs2 != 0) || (!vm && vd = 0) then none
        else some (velWrite fr true w vd (fun j =>
          (if vm || bitAt (tget 0 r.v 0).toNat j then b.at_ w j else elAt (vread r w vs2) w j, 0)) r)
      else if 0x18 ≤ f6 && f6 ≤ 0x1F then
        if (!vf && 0x1D ≤ f6) || (vfCmp f f6 0 0).isNone || !(regOk r w vs2 && bOk) || !maskDestOk r vd w vs2 ||
            (!vf && !maskDestOk r vd w s) then none
        else
          let a := vread r w vs2
          some (vmaskWrite fr vm vd (fun j => (vfCmp f f6 (elAt a w j) (b.at_ w j)).getD (false, 0)) r)
      else if 0x30 ≤ f6 then
        -- vfwmaccbf16 reads BF16
        let fn := if f6 = 0x3B then fpB else f
        let wide := f6 = 0x34 || f6 = 0x36
        let ea := if wide then 2 * w else w
        match vfFmt (2 * w) with
        | none => none
        | some g =>
          if (f6 = 0x3B && w != 16) || (vfwOp fn g f6 rm 0 0 0).isNone ||
              !(regOk r (2 * w) vd && regOk r ea vs2 && bOk && overlapOk r (2 * w) vd ea vs2 && notV0 vm vd &&
                (vf || overlapOk r (2 * w) vd w s)) then none
          else
            let a := vread r ea vs2
            let d := vread r (2 * w) vd
            let c : Vop := if vf then .sca (rfIn fn r s) else b
            some (velWrite fr vm (2 * w) vd (fun j =>
              (vfwOp fn g f6 rm (elAt d (2 * w) j) (elAt a ea j) (c.at_ w j)).getD (0, 0)) r)
      else if (!vf && (f6 = 0x21 || f6 = 0x27)) || (vfOp f f6 rm 0 0 0).isNone ||
          !(regOk r w vd && regOk r w vs2 && bOk && notV0 vm vd) then none
      else
        let a := vread r w vs2
        let d := vread r w vd
        some (velWrite fr vm w vd (fun j => (vfOp f f6 rm (elAt d w j) (elAt a w j) (b.at_ w j)).getD (0, 0)) r)

/-! ### Loads and stores -/

/-- Element width of a memory instruction's width field. -/
def memWidth (f3 : Nat) : Option Nat :=
  if f3 = 0 then some 8 else if f3 = 5 then some 16 else if f3 = 6 then some 32 else if f3 = 7 then some 64 else none

/-- The elements and fields that a memory instruction touches, in order: element, field and address. -/
def memSlots (r : Rv) (vm : Bool) (nf : Nat) (addr : Nat → Nat → Nat) (lim : Nat) : List (Nat × Nat × Nat) :=
  ((List.range lim).filter fun j => r.vstart ≤ j && active r vm j).flatMap fun j =>
    (List.range nf).map fun k => (j, k, addr j k % 2 ^ 64)

/-- Write the fields of a load: field k goes to the group at vd + k × its registers. -/
def loadFields (fr : Nat) (vm : Bool) (ew vd nf : Nat) (got : List ((Nat × Nat × Nat) × Nat)) (r : Rv) : Rv :=
  (List.range nf).foldl (fun t k =>
    let mine := got.filterMap fun e => if e.1.2.1 = k then some (e.1.1, e.2) else none
    { velWrite fr vm ew (vd + k * nregs r ew) (fun j => ((tget? mine j).getD 0, 0)) t with vstart := r.vstart }) r

/-- A run of whole bytes from a register group: from bit lo up to n bytes. -/
def groupBytes (g lo n : Nat) : List Byte := leBytes n (g / 2 ^ lo)

/-- Whole-register and mask loads and stores: bytes from element vstart on, in one access. -/
def rvWholeMem (fr n : Nat) (store : Bool) (ew base regs len : Nat) (mask : Bool) (r : Rv) : RvPlan :=
  let vd := bits n 11 7
  let from_ := min (r.vstart * ew / 8) len
  let r0 := { r with vstart := 0 }
  if from_ = len then rvPure r0
  else if store then
    ⟨[], fun _ => .done r0 [((base + from_) % 2 ^ 64, groupBytes (vgrp r vd regs) (8 * from_) (len - from_))] true⟩
  else
    ⟨[((base + from_) % 2 ^ 64, len - from_)], fun vs =>
      let old := vgrp r vd regs
      let top := if mask then elBuild 8 (fun j => agnostic fr j 8 (elAt old 8 (len + j))) (64 * regs - len) 0
        else old / 2 ^ (8 * len)
      .done (vgrpPut vd regs (old % 2 ^ (8 * from_) + (vs.headD 0) * 2 ^ (8 * from_) + top * 2 ^ (8 * len)) r0) [] false⟩

/-- A vector load or store of elements; `fault` says that an address lies outside every region, where a fault-only-first load
stops. -/
def rvMem (fr : Nat) (fault : Nat → Bool) (n : Nat) (r : Rv) : Option RvPlan :=
  match memWidth (bits n 14 12) with
  | none => none
  | some mw =>
    let store := bits n 6 0 = 0x27
    let vm := bitAt n 25
    let mop := bits n 27 26
    let um := bits n 24 20
    let nf := bits n 31 29 + 1
    let vd := bits n 11 7
    let base := rx r (bits n 19 15)
    if bitAt n 28 then none
    else if mop = 0 && um = 8 then
      if !vm || !([1, 2, 4, 8].contains nf) || vd % nf != 0 || (store && mw != 8) then none
      else some (rvWholeMem fr n store mw base nf (64 * nf) false r)
    else if r.vtype.getLsbD 63 then none
    else if mop = 0 && um = 11 then
      if !vm || nf != 1 || mw != 8 then none
      else some (rvWholeMem fr n store 8 base 1 (ceilDiv r.vl 8) true r)
    else if mop = 0 && um != 0 && (um != 16 || store) then none
    else
      let indexed := mop % 2 = 1
      let ew := if indexed then sewOf r else mw
      let idx := vread r mw um
      let stride : Nat := if mop = 2 then rx r um else nf * ew / 8
      let addr (j k : Nat) : Nat :=
        (if indexed then base + elAt idx mw j else base + stride * j) + k * ew / 8
      let groups := nf * nregs r ew
      if !(regOk r ew vd && decide (groups ≤ 8) && decide (vd + groups ≤ 32)) || (!store && !notV0 vm vd) ||
          (indexed && (!regOk r mw um || (!store && nf != 1 && !vapart r ew vd mw um) ||
            (!store && nf = 1 && !overlapOk r ew vd mw um))) then none
      else
        let slots0 := memSlots r vm nf addr r.vl
        -- fault-only-first: the body ends before the first later element outside every region
        let lim := if mop = 0 && um = 16 then
            (match slots0.find? fun e => e.1 != 0 && fault e.2.2 with
              | some e => e.1
              | none => r.vl) else r.vl
        let slots := slots0.filter fun e => e.1 < lim
        let whole := mop = 0 && slots.length = nf * r.vl && lim = r.vl
        let len := ew / 8
        let r0 := { r with vstart := 0 }
        if store then
          let data (e : Nat × Nat × Nat) : List Byte :=
            leBytes len (elAt (vgrp r (vd + e.2.1 * nregs r ew) (nregs r ew)) ew e.1)
          some ⟨[], fun _ => .done r0
            (if slots.isEmpty then [] else if whole then [(base, (slots.map data).flatten)]
             else slots.map fun e => (e.2.2, data e)) true⟩
        else
          some ⟨slots.map fun e => (e.2.2, len), fun vs =>
            .done { loadFields fr vm ew vd nf (slots.zip vs) { r with vl := lim } with vstart := 0 } [] false⟩

/-! ### The vector opcodes -/

/-- The instruction that a 32-bit word is, over registers whose pc stands at the next one; none where it is illegal. -/
def rvPlan (fr : Nat) (fault : Nat → Bool) (n pc : Nat) (r : Rv) : Option RvPlan :=
  let f3 := bits n 14 12
  if bits n 6 0 = 0x57 then
    if f3 = 7 then (rvVset n r).map rvPure
    else if r.vtype.getLsbD 63 then none
    else if f3 = 0 || f3 = 3 || f3 = 4 then (rvOpi fr n r).map rvPure
    else if f3 = 2 || f3 = 6 then (rvOpm fr n r).map rvPure
    else (rvOpf fr n r).map rvPure
  else if (bits n 6 0 = 0x07 || bits n 6 0 = 0x27) && (memWidth f3).isSome then rvMem fr fault n r
  else rvScalar n pc r

end Sys2Proof.Machine
end

