-- ==== Sys2Proof/Machine/WickMem.lean ====
section
/-! DEFINITION. What a Wick pair sees of memory (R85, R91), the verified and dirty sets with their seal (R93), and the run of a
kernel's invocations (R87 to R90). -/

namespace Sys2Proof.Machine

def wOf (s : State) (w : WickRef) : Wick := wickOf s w.st w.p
def putW (w : WickRef) (k : Wick) (s : State) : State := putWick w.st w.p k s

/-- Engine of a physical pair, when it is bound (R17). -/
def wickEng (s : State) (w : WickRef) : Option Eng :=
  match (wOf s w).unit.logical with
  | some i => if h : i < 8 then some ⟨w.st, ⟨i + 4, by omega⟩⟩ else none
  | none => none

/-- Physical pair behind a Wick engine. -/
def wickRef (s : State) (g : Eng) : Option WickRef :=
  match wickPhys s g.st (g.e - 4) with
  | some p => if h : p < 9 then some ⟨g.st, ⟨p, h⟩⟩ else none
  | none => none

/-- Integer register; x0 reads 0. -/
def xr (k : Wick) (i : Fin 32) : W64 := if i.val = 0 then 0 else tget 0 k.x i.val

/-- Write an integer register; x0 discards. -/
def xw (i : Fin 32) (v : W64) (k : Wick) : Wick := if i.val = 0 then k else { k with x := tput k.x i.val v }

/-! ### Addresses -/

/-- A region of R85. -/
inductive Region where
  | code | scratch | runtime | mailbox
  /-- SRAM address. -/
  | sram (a : Nat)
  | push (off : Nat)
  | none
  deriving DecidableEq, Repr

/-- R85: the region of a Wick address. -/
def regionOf (st a : Nat) : Region :=
  if a < 0xC000 then .code
  else if a < 0x1E000 then .scratch
  else if a < 0x1F000 then .runtime
  else if a < 0x20000 then .mailbox
  else if 0x40000000 ≤ a && a < 0x44000000 then .sram (st * 0x4000000 + (a - 0x40000000))
  else if 0x60000000 ≤ a && a < 0x60030000 then .push (a - 0x60000000)
  else if 0x800000000 ≤ a && a < 0x840000000 then .sram (a - 0x800000000)
  else .none

/-- Operand k of the running descriptor, when it is used. -/
def kOpnd (s : State) (g : Eng) (l : Latched) (k : Nat) : Option Opnd :=
  if nth l.h k = 0 then none
  else match handleOf s g.st (nth l.h k) with
    | some h =>
      let f := fifoOf s g.st (nth l.h k)
      some ⟨nth l.h k, h, if k = 2 then f.tail else f.head, l.off.getD k 0⟩
    | none => none

/-- R85: some byte of a range lies outside every region. -/
def outside (st a n : Nat) : Bool :=
  regionOf st a = .none || regionOf st (a + n - 1) = .none ||
    (decide (a < 0x20000) && decide (0x20000 < a + n)) || (decide (a < 0x44000000) && decide (0x44000000 < a + n))

/-- R91: first byte and length of operand k's extents as the loop nest bounds them: a dimension that some level walks ends at its
largest index, any other at its BOUND, and nothing lies past the allocation (DEDUCED, assumption 49). -/
def extentBytes (l : Latched) (k : Nat) (o : Opnd) : Nat × Nat :=
  let ls := levels l.w
  let top := maxCoords 0x30 (dW7 l.w) k ls
  let x := (List.range 6).map fun d =>
    if ls.any fun v => lvlDim k v = d then min (nth top d) (o.h.extent d - 1) else o.h.extent d - 1
  let n := ceilDiv (o.h.bitOff x + elemBits o.h.fmt) 8
  (o.base, min n (o.h.base * 4096 + (if o.h.isStream then (entryTile o.h o.entry + o.h.tiles) * 4096 else o.h.tiles * 4096) - o.base))

/-- R91: a byte range lies within the extents of one of some operands. -/
def inExtents (s : State) (g : Eng) (l : Latched) (ks : List Nat) (a n : Nat) : Bool :=
  ks.any fun k => match kOpnd s g l k with
    | some o => let r := extentBytes l k o; decide (r.1 ≤ a) && decide (a + n ≤ r.1 + r.2)
    | none => false

/-- R91: the operands a kernel may write. -/
def writable (l : Latched) : List Nat := if bitAt (dW7 l.w) 20 then [2, 3] else [2]

/-- R87: bytes of scratch of the running descriptor. -/
def scratchTop (l : Latched) : Nat := 0xC000 + 4096 * bits (dW7 l.w) 19 15

/-! ### Verified and dirty tiles -/

/-- The operand, among some, whose allocation holds an SRAM tile and carries a Tally link. -/
def tileOpnd (s : State) (g : Eng) (l : Latched) (ks : List Nat) (a : Nat) : Option Opnd :=
  ks.findSome? fun k => match kOpnd s g l k with
    | some o =>
      let r := allocRange o.h
      if o.h.tally != 0 && decide (r.2.1 ≤ a) && decide (a < r.2.1 + r.2.2) then some o else none
    | none => none

/-- R93: before a read, verify a tile that the invocation neither wrote nor has in its verified set. -/
def readTile (w : WickRef) (g : Eng) (l : Latched) (t : Nat) : M Unit := do
  let s ← get
  let k := wOf s w
  if k.dirty.contains (t / 4096) || k.verified.contains (t / 4096) then pure ()
  else match tileOpnd s g l [0, 1, 2, 3] t with
    | none => pure ()
    | some o => do
      verifyTile g.st { o.h with space := o.h.memSpace } t (o.tileOf t).1 (o.tileOf t).2
      modify fun s => let k := wOf s w; putW w { k with verified := (t / 4096 :: k.verified).take 64 } s

/-- R93: seal one dirty tile. -/
def sealDirty (g : Eng) (l : Latched) (n : Nat) : M Unit := do
  match tileOpnd (← get) g l (writable l) (n * 4096) with
  | none => pure ()
  | some o => sealOne g l o (n * 4096)

/-- R93: the seal: every dirty tile, in tile order; the set is then empty. -/
def sealSet (w : WickRef) (g : Eng) (l : Latched) : M Unit := do
  (wOf (← get) w).dirty.forM (sealDirty g l)
  modify fun s => let k := wOf s w; putW w { k with dirty := [], verified := k.verified.filter fun t => !k.dirty.contains t } s

/-- A number put into a rising list, once. -/
def insertNat (n : Nat) : List Nat → List Nat
  | [] => [n]
  | x :: xs => if n < x then n :: x :: xs else if n = x then x :: xs else x :: insertNat n xs

/-- R93: a store dirties a tile; a 257th seals the set first. -/
def dirtyTile (w : WickRef) (g : Eng) (l : Latched) (t : Nat) : M Unit := do
  let k := wOf (← get) w
  if k.dirty.contains (t / 4096) then pure ()
  else do
    if 256 ≤ k.dirty.length then sealSet w g l else pure ()
    modify fun s => let k := wOf s w; putW w { k with dirty := insertNat (t / 4096) k.dirty } s

/-! ### Kernel loads and stores -/

/-- A user-mode access outside the handles (R91): 0x2070 with the address. -/
def accessFault (a : Nat) : M Unit := failM 0x2070 none 0 a

/-- A trap of a cause (R92). -/
def trapM (cause a : Nat) : M Unit := failM 0x2071 none cause a

/-- R93, R109: verify the tiles of a load; a mismatch at the clock of a breach of R91 raises both codes. -/
def loadTiles (w : WickRef) (g : Eng) (l : Latched) (a : Nat) (breach : Bool) (ts : List Nat) : M Unit :=
  tryCatch (ts.forM (readTile w g l)) fun f =>
    throw { f with row := a, also := if breach && f.code = 0x2003 then 0x2070 else f.also }

/-- R85, R91, R93: bytes that a kernel loads. A region that R85 lists without read access gives 0x2070 as a breach of R91; the access
fault of R85 is for an address in no region (DESIGN CHOICE, assumption 49). -/
def kLoad (w : WickRef) (g : Eng) (l : Latched) (a n : Nat) : M (List Byte) := do
  let s ← get
  if n = 0 then pure []
  else if outside w.st a n then do
    trapM 5 a
    pure []
  else match regionOf w.st a with
  | .scratch =>
    if scratchTop l < a + n then accessFault a
    pure (rdN (wOf s w).lmem a n)
  | .mailbox => pure (rdN (wOf s w).lmem a n)
  | .sram m =>
    let breach := !inExtents s g l [0, 1, 2, 3] m n
    loadTiles w g l a breach (tilesOf m n)
    if breach then accessFault a
    readMem 0 m n
  | _ => do
    accessFault a
    pure []

/-- R85, R91, R93: bytes that a kernel stores. -/
def kStore (w : WickRef) (g : Eng) (l : Latched) (a : Nat) (bs : List Byte) : M Unit := do
  let s ← get
  if bs.isEmpty then pure ()
  else if outside w.st a bs.length then trapM 7 a
  else match regionOf w.st a with
  | .scratch =>
    if scratchTop l < a + bs.length then accessFault a
    modify fun s => let k := wOf s w; putW w { k with lmem := wrN k.lmem a bs } s
  | .sram m =>
    if !inExtents s g l (writable l) m bs.length then accessFault a
    (tilesOf m bs.length).forM (dirtyTile w g l)
    writeMem 0 m bs
  | _ => accessFault a

/-! ### Invocations -/

/-- R88: the shape of a code handle. -/
def codeShapeOk (h : Handle) : Bool :=
  h.space = 0 && h.fmt = 8 && h.ndim = 1 && decide (32 ≤ h.extent 0) && decide (h.extent 0 ≤ 49152) && h.extent 0 % 4 = 0

/-- R88: an entry offset lies beyond the table and inside the region. -/
def entryOk (h : Handle) (e : Nat) : Bool := e % 2 = 0 && decide (32 ≤ e) && decide (e < h.extent 0)

/-- Code handle of a KERNEL. -/
def codeOpnd (s : State) (g : Eng) (l : Latched) : Option Opnd :=
  (handleOf s g.st (bits (dW7 l.w) 11 0)).map fun h => ⟨bits (dW7 l.w) 11 0, h, 0, 0⟩

/-- R88, R105: the checks of a KERNEL at issue. -/
def checkKernel (g : Eng) (l : Latched) : M Unit := do
  let s ← get
  let code := if l.pushed then 0x2074 else 0x2081
  match codeOpnd s g l with
  | none => failM code none 7 0
  | some o =>
    if l.pushed && !kernelW7Ok (dW7 l.w) then failM 0x2074 none 6 0
    else if !codeShapeOk o.h then failM code none 7 0
    else do
      verifyRange g.st o [] o.base 32
      let t ← readMem 0 o.base 32
      if entryOk o.h (field t (4 * bits (dW7 l.w) 14 12) 4) then pure () else failM code none 7 0

/-- Where a kernel of some length fits among the resident ones. -/
def codeGap (rs : List Resident) (len : Nat) : Option Nat :=
  let fits (a : Nat) := decide (a + len ≤ 0xC000) && rs.all fun r => decide (a + len ≤ r.at_) || decide (r.at_ + r.len ≤ a)
  (0 :: rs.map fun r => r.at_ + r.len).foldl (fun b a =>
    if fits a then match b with
      | some c => some (min a c)
      | none => some a
    else b) none

/-- R89: room for a kernel, least recently used kernels evicted first. -/
def makeRoom (len : Nat) : Nat → List Resident → List Resident × Nat
  | 0, rs => (rs, 0)
  | n + 1, rs => match codeGap rs len with
    | some a => (rs, a)
    | none => makeRoom len n rs.dropLast

/-- R89: the kernel is resident; where not, it is copied from SRAM with its block Tallies verified. -/
def makeResident (w : WickRef) (g : Eng) (o : Opnd) : M Unit := do
  let k := wOf (← get) w
  let len := o.h.extent 0
  match k.resident.find? (fun r => r.addr = o.base && r.len = len) with
  | some r =>
    modify fun s => let k := wOf s w; putW w { k with resident := r :: k.resident.filter (fun q => q != r) } s
  | none => do
    verifyRange g.st o [] o.base len
    let bs ← readMem 0 o.base len
    modify fun s =>
      let k := wOf s w
      let m := makeRoom len (k.resident.length + 1) k.resident
      putW w { k with resident := ⟨o.base, len, m.2⟩ :: m.1, lmem := wrN k.lmem m.2 bs } s

/-- Wick address of an SRAM address: its own Station's in the local window, as R90 leaves the choice (assumption 6). -/
def wickAddr (st a : Nat) : Nat :=
  if a / 0x4000000 = st then 0x40000000 + a % 0x4000000 else 0x800000000 + a

/-- R90: a0 to a3 of an invocation. -/
def argAddr (s : State) (g : Eng) (l : Latched) (k : Nat) : Nat :=
  match kOpnd s g l k with
  | some o => wickAddr g.st (o.bitAddr (if o.h.isStream then [] else iterCoords l k l.seg) / 8)
  | none => 0

/-- R90: physical index byte of logical numbers, 0xFF where unbound. -/
def mapByte (o : Option Nat) : Byte := BitVec.ofNat 8 (o.getD 0xFF)

/-- R90: the mailbox. -/
def mailbox (s : State) (g : Eng) (l : Latched) : List Byte :=
  let hs := ((List.range 4).map fun k => match kOpnd s g l k with
    | some o => handleBytes o.h
    | none => leBytes 32 0).flatten
  let idx := nestIdx (levels l.w) l.seg
  let a := hs ++ ((List.range 6).map fun i => leBytes 8 (nth idx i)).flatten ++
    ((List.range 4).map fun k => leBytes 8 (argAddr s g l k)).flatten ++ leBytes 8 l.seg ++ leBytes 8 s.run.step ++
    leBytes 32 0 ++ ((List.range 64).map fun i => leBytes 8 (tget 0 l.p i).toNat).flatten
  let phys := ((List.range 5).map fun i => mapByte (lanPhys s g.st i)) ++
    ((List.range 9).map fun i => mapByte (wickPhys s g.st i)) ++ leBytes 2 0
  a ++ phys ++ leBytes 3312 0

/-- R80, R110: the runtime's machine-mode instructions around an invocation are retired too. How many the spec does not say: a free value
(DESIGN CHOICE, assumption 49). -/
def runtimeRun (w : WickRef) (s : State) : State :=
  bumpFree (regAdd64 (pageBase (pgWck w.st w.p) + 0x80) (Config.freeValue s.free).toNat s)

/-- R89, R90: the pair enters an invocation: scratch zeroed, the mailbox filled, the entry state set. -/
def enter (w : WickRef) (g : Eng) (l : Latched) (s : State) : State :=
  let k := wOf s w
  let w7 := dW7 l.w
  let code := match codeOpnd s g l with
    | some o => match k.resident.find? (fun r => r.addr = o.base && r.len = o.h.extent 0) with
      | some r => r.at_
      | none => 0
    | none => 0
  let ent := field (rdN k.lmem (code + 4 * bits w7 14 12) 4) 0 4
  let lm := wrN (wrN k.lmem 0xC000 (List.replicate (scratchTop l - 0xC000) 0)) 0x1F000 (mailbox s g l)
  let xs : Tbl W64 := [(2, BitVec.ofNat 64 (scratchTop l)), (10, BitVec.ofNat 64 (argAddr s g l 0)),
    (11, BitVec.ofNat 64 (argAddr s g l 1)), (12, BitVec.ofNat 64 (argAddr s g l 2)),
    (13, BitVec.ofNat 64 (argAddr s g l 3)), (14, 0x1F000), (15, BitVec.ofNat 64 l.seg)]
  runtimeRun w (putW w { k with
    x := xs, f := [], v := [], pc := BitVec.ofNat 64 (code + ent), vl := 0, vtype := 0x8000000000000000, vstart := 0, fcsr := 0
    vxrm := 0, vxsat := false, resv := none, xsseed := 0, lmem := lm, inKernel := true, inv := l.seg, verified := [], dirty := [] } s)

/-- R89: start the next invocation, wait for its FIFO entries, or finish the descriptor. -/
def nextInvocation (w : WickRef) (g : Eng) (l : Latched) (s : State) : State :=
  if l.nseg ≤ l.seg then finish g l (putW w { wOf s w with inKernel := false } s)
  else
    let b := segBlock s g l
    if b != 0 then
      setWaiting g 1 (nth l.h (if b = 2 then 2 else (pops s g l).headD 0))
        (setCur g { l with blocked := b } (putW w { wOf s w with inKernel := false } s))
    else enter w g l (setCur g { l with blocked := 0 } s)

/-- A failure of a pair: FAULT_PC and FAULT_ADDR load with the captures, and the invocation is named (R110). -/
def wickFail (w : WickRef) (g : Eng) (l : Latched) (f : Fail) (s : State) : State :=
  let b := pageBase (pgWck w.st w.p)
  let k := wOf s w
  let d := if [0x2071, 0x2072, 0x2074, 0x2030].contains f.code then f.detail % 2 ^ 16 else 0
  let s1 := runBad g l { f with detail := d + k.inv % 2 ^ 16 * 2 ^ 16, row := 0 } (putW w { k with inKernel := false } s)
  if regGet s (b + 0x18) = 0 && (engBit 1 f.code).isSome then regPut64 (b + 0x48) f.row (regPut64 (b + 0x40) k.pc.toNat s1) else s1

/-- R108: an uncorrectable word of the pair's own memory. -/
def localGate (us : List Upset) : M Unit :=
  if us.contains .localMemory then do
    modify (chkEcc true)
    failM 0x2073 none 0 0
  else pure ()

/-- R89: a KERNEL that has issued: its code becomes resident, also for a count of 0, then its first invocation starts. -/
def runKernel (g : Eng) (us : List Upset) (l : Latched) (s : State) : State :=
  match wickRef s g, codeOpnd s g l with
  | some w, some o =>
    match (do galleryGate us; localGate us; makeResident w g o : M Unit).go s with
    | (.error f, s1) => runBad g l { f with detail := 0, row := 0 } s1
    | (.ok _, s1) => nextInvocation w g l s1
  | _, _ => finish g l s

/-- R89: issue of a KERNEL. -/
def execKernel (g : Eng) (us : List Upset) (s : State) : Res :=
  .next (issueThen 0x30 true (checkKernel g) (runKernel g us) g (strikes us s))

/-! ### REDUCE_SCALAR -/

/-- The elements that handle A's nest visits, in visiting order. -/
def reduceElems (g : Eng) (l : Latched) (o : Opnd) : M (List Nat) :=
  (List.range (nestCount (levels l.w))).mapM fun t =>
    readBits g.st o [] (o.bitAddr (iterCoords l 0 t)) (elemBits o.h.fmt)

/-- R101: the reduction of integers. -/
def reduceInt (op : Nat) (xs : List Int) : Option (Nat × Int) :=
  match xs with
  | [] => none
  | x :: r =>
    if op = 4 then some (0, xs.foldl (· + ·) 0)
    else
      let better (a b : Int) : Bool := if op = 0 || op = 2 then decide (b < a) else decide (a < b)
      some (r.zipIdx.foldl (fun (acc : Nat × Int) e => if better e.1 acc.2 then (e.2 + 1, e.1) else acc) (0, x))

/-- R46, R101: an element converted exactly to FP32; by R44 a zero of either sign gives +0. -/
def exactFp32 (fmt c : Nat) : Nat := if fmt = 0 then c else encodeNum 0 0 false (decodeElem fmt c)

/-- R99, R101: result and paired value of a reduction. -/
def reduceVal (op fmt : Nat) (codes : List Nat) : W64 × W64 :=
  let empty : W64 := if op = 0 || op = 2 then 0xFF800000 else 0x7F800000
  if codes.isEmpty then
    (if op = 4 then 0 else if op = 2 || op = 3 then BitVec.allOnes 64 else empty, empty)
  else if fmt = 8 then
    match reduceInt op (codes.map (signed 8)) with
    | some (i, v) => (if op = 2 || op = 3 then BitVec.ofNat 64 i else BitVec.ofInt 64 v, BitVec.ofInt 64 v)
    | none => (0, 0)
  else
    let fs := codes.map (exactFp32 fmt)
    if op = 4 then (BitVec.ofNat 64 (redSumOf fs), 0)
    else match redExt (op = 0 || op = 2) fs with
      | some (i, v) => (BitVec.ofNat 64 (if op = 2 || op = 3 then i else v), BitVec.ofNat 64 v)
      | none => (0, 0)

/-- R81, R82, R108: the result is a register write that the pair compares at its commit. -/
def commitGate (us : List Upset) : M Unit := do
  modify (chk 3 (us.contains .compare))
  if us.contains .compare then failM 0x2002 none 0 0
  else localGate us

/-- R101: the one segment of a REDUCE_SCALAR; its results are written when the descriptor completes. -/
def reduceBody (g : Eng) (us : List Upset) (l : Latched) : M Unit := do
  galleryGate us
  let o ← opnd (← get) g l 0 false
  let cs ← reduceElems g l o
  commitGate us
  let w7 := dW7 l.w
  let r := reduceVal (bits w7 2 0) o.h.fmt cs
  let d := bits w7 11 8
  modify (setCur g { l with res := if bitAt w7 12 then [(d, r.1), (d + 1, r.2)] else [(d, r.1)] })

/-- R101: a nest that visits nothing still gives the result of R99. -/
def runReduce (g : Eng) (us : List Upset) (l : Latched) (s : State) : State :=
  if l.nseg = 0 then
    let w7 := dW7 l.w
    let r := reduceVal (bits w7 2 0) (bits w7 7 3) []
    let d := bits w7 11 8
    match (commitGate us).go s with
    | (.error f, s1) => runBad g l f s1
    | (.ok _, s1) => finish g { l with res := if bitAt w7 12 then [(d, r.1), (d + 1, r.2)] else [(d, r.1)] } s1
  else runFrom (reduceBody g us) g l s

/-- R101, R105: W7 of a pushed REDUCE_SCALAR: a breach is 0x2074 with reason 6 (DESIGN CHOICE, assumption 35). -/
def checkReduce (g : Eng) (l : Latched) : M Unit := do
  let s ← get
  let f := ((handleOf s g.st (nth l.h 0)).map Handle.fmt).getD 0x1F
  if l.pushed && !(reduceW7Ok (dW7 l.w) && bits (dW7 l.w) 7 3 = f) then failM 0x2074 none 6 0 else pure ()

/-- R101: issue of a REDUCE_SCALAR. -/
def execReduceScalar (g : Eng) (us : List Upset) (s : State) : Res :=
  .next (issueThen 0x31 true (checkReduce g) (runReduce g us) g (strikes us s))

end Sys2Proof.Machine
end

