-- ==== Sys2Proof/Machine/Wick.lean ====
section
/-! DEFINITION. What a Wick pair does while a kernel runs: the Xseltar instructions (R94 to R100), ecall (R92), push stores
(R102 to R105), and a fetched instruction of any kind (R80 to R86). -/

namespace Sys2Proof.Machine

/-- The running kernel of a pair: its engine and descriptor. -/
def inKernel (s : State) (w : WickRef) : Option (Eng × Latched) :=
  match wickEng s w with
  | some g =>
    match (engOf s g).cur with
    | some l =>
      let k := wOf s w
      if k.inKernel && k.stalled.isNone && !(engOf s g).stopped && !l.done && dOp l.w = 0x30 && s.life = .running
        then some (g, l) else none
    | none => none
  | none => none

/-- An instruction has committed: WCK_RETIRED counts. -/
def wickRetire (w : WickRef) (s : State) : State := regAdd64 (pageBase (pgWck w.st w.p) + 0x80) 1 s

/-- R81, R82, R108: the compare of a commit and the pair's own memory: the code they raise, if any, is counted (R385). -/
def commitChecks (w : WickRef) (g : Eng) (l : Latched) (us : List Upset) (s : State) : Except State State :=
  if us.contains .compare then .error (wickFail w g l { code := 0x2002, tile := none, detail := 0, row := 0 } (chk 3 true s))
  else if us.contains .localMemory then
    .error (wickFail w g l { code := 0x2073, tile := none, detail := 0, row := 0 } (chkEcc true (chk 3 false s)))
  else .ok (chk 3 false s)

/-- Run one instruction of a kernel: on success it retires, on a failure the pair stops at it. -/
def wickRun (w : WickRef) (us : List Upset) (x : Eng → Latched → M Unit) (s : State) : State :=
  match inKernel s w with
  | none => s
  | some (g, l) =>
    match commitChecks w g l us (strikes us s) with
    | .error t => t
    | .ok s0 =>
      match (do galleryGate us; x g l : M Unit).go s0 with
      | (.error f, s1) => wickFail w g l f s1
      | (.ok _, s1) => wickRetire w s1

/-- Change the pair's registers. -/
def wickMod (w : WickRef) (f : Wick → Wick) : M Unit := modify fun s => putW w (f (wOf s w)) s

/-- The pc moves past an instruction. -/
def advance (n : Nat) (k : Wick) : Wick := { k with pc := k.pc + BitVec.ofNat 64 n }

/-- An instruction of 32 bits that is followed by the next. -/
def wickNext (w : WickRef) (us : List Upset) (x : Eng → Latched → M Unit) (s : State) : State :=
  wickRun w us (fun g l => do x g l; wickMod w (advance 4)) s

/-! ### Vector registers -/

/-- SEW code of vtype; 2 is 32 bits. -/
def vsew (k : Wick) : Nat := bits k.vtype.toNat 5 3
def vill (k : Wick) : Bool := k.vtype.getLsbD 63

/-- Bit field of a vector register group, from register r. A group that runs past v31 goes on at v0: the spec gives such a group no
meaning (DESIGN CHOICE, assumption 34). -/
def vbits (k : Wick) (r lo n : Nat) : Nat :=
  let reg := (r + lo / 512) % 32
  (tget 0 k.v reg).toNat / 2 ^ (lo % 512) % 2 ^ n

/-- FP32 or integer element j of a group at SEW = 32. -/
def velem (k : Wick) (r j : Nat) : Nat := vbits k r (32 * j) 32

/-- A packed element of n bits; one that crosses a register takes its upper bits from the next. -/
def vpacked (k : Wick) (r j n : Nat) : Nat :=
  let lo := n * j
  let a := min n (512 - lo % 512)
  vbits k r lo a + 2 ^ a * (if a = n then 0 else vbits k r (lo + a) (n - a))

/-- Replace bits of a group, within one register. -/
def vputBits (r lo n v : Nat) (k : Wick) : Wick :=
  let reg := (r + lo / 512) % 32
  { k with v := tput k.v reg (BitVec.ofNat 512 (setBits (tget 0 k.v reg).toNat (lo % 512 + n - 1) (lo % 512) v)) }

/-- Write element j of n bits of a group. -/
def vputElem (r n j v : Nat) (k : Wick) : Wick :=
  let lo := n * j
  let a := min n (512 - lo % 512)
  let k1 := vputBits r lo a (v % 2 ^ a) k
  if a = n then k1 else vputBits r (lo + a) (n - a) (v / 2 ^ a) k1

/-- The vl elements of a group. -/
def velems (k : Wick) (r : Nat) : List Nat := (List.range k.vl).map (velem k r)

/-- Write elements 0 upward. -/
def vputAll (r n : Nat) (vs : List Nat) (k : Wick) : Wick := vs.zipIdx.foldl (fun t e => vputElem r n e.2 e.1 t) k

/-- R94: an illegal-instruction trap. -/
def illegal : M Unit := trapM 2 0

/-- R94: vector forms need SEW 32 and vill clear. -/
def vecOk (k : Wick) : Bool := vsew k = 2 && !vill k

/-- A vector form of Xseltar over the pair's registers. -/
def vecRun (w : WickRef) (us : List Upset) (f : State → Wick → Wick) (s : State) : State :=
  wickNext w us (fun _ _ => do
    let s ← get
    if vecOk (wOf s w) then wickMod w (f s) else illegal) s

/-! ### Push stores -/

/-- R104: the target of a window: its engine where the stream's unit is bound, and whether the unit may be addressed. -/
inductive Target where
  | missing
  | dark
  | eng (g : Eng)
  deriving DecidableEq, Repr

/-- R104, R105: the unit behind a push window. R105 names DARK and SPARE; a unit in test, or enabled but bound to no stream, takes a
descriptor as little and gives the same code (DESIGN CHOICE, assumption 34). -/
def pushTarget (s : State) (st : Fin 16) (off : Nat) : Target :=
  let cls := off / 0x10000
  let i := off / 0x1000 % 16
  let unit (u : UnitSt) (base lim : Nat) : Target :=
    if u.role = .dark || u.role = .spare then .dark
    else match u.logical with
      | some n => if n < lim then (if h : base + n < 17 then .eng ⟨st, ⟨base + n, h⟩⟩ else .dark) else .dark
      | none => .dark
  if cls = 0 then (if i < 5 then unit (lanOf s st i).unit 0 4 else .missing)
  else if cls = 1 then (if i < 9 then unit (wickOf s st i).unit 4 8 else .missing)
  else if cls = 2 then (if h : i < 4 then .eng ⟨st, ⟨12 + i, by omega⟩⟩ else .missing)
  else .missing

/-- R103: a descriptor enters a push queue. -/
def enqueue (t : Eng) (d : List Byte) (s : State) : State :=
  let e := engOf s t
  putEng t { e with queue := e.queue ++ [d] } s

/-- R103 to R105: a store to a push window. -/
def pushRun (w : WickRef) (off : Nat) (data : List Byte) (vector : Bool) : M Unit := do
  let s ← get
  match pushTarget s w.st off with
  | .missing => failM 0x2074 none 9 0
  | .dark => failM 0x2030 none 0 0
  | .eng t =>
    if !vector || data.length != 64 || off % 0x1000 != 0 then failM 0x2074 none 1 0
    else if !(engOf s t).pushed then failM 0x2074 none 8 0
    else if 8 ≤ (engOf s t).queue.length then wickMod w fun k => { k with stalled := some (t, data) }
    else modify (enqueue t data)

/-- R104: a Wick vector store writes a descriptor to a push window; an address outside them is no push store. -/
def execPushStore (o : WickOp) (addr : Nat) (data : List Byte) (vector : Bool) (s : State) : Res :=
  .next (match regionOf o.w.st addr with
    | .push off => wickNext o.w o.us (fun _ _ => pushRun o.w off data vector) s
    | _ => s)

/-- A pair whose push store waits, when its queue has room. -/
def stalledPush (s : State) (w : WickRef) : Option (Eng × List Byte) :=
  match (wOf s w).stalled with
  | some (t, d) => if (engOf s t).queue.length < 8 && s.life = .running then some (t, d) else none
  | none => none

/-- R103: an entry frees, and the stalled store enters the queue. -/
def execPushQueueRoom (w : WickRef) (s : State) : Res :=
  .next (match stalledPush s w with
    | some (t, d) => enqueue t d (putW w { wOf s w with stalled := none } s)
    | none => s)

/-- One store of an instruction; whether it is a vector store. -/
def runStore (w : WickRef) (g : Eng) (l : Latched) (vector : Bool) (e : Nat × List Byte) : M Unit :=
  match regionOf w.st e.1 with
  | .push off => pushRun w off e.2 vector
  | _ => kStore w g l e.1 e.2

/-! ### ecall -/

/-- R92, R93: an invocation completes: the seal, then its FIFO entries move and the next one starts. -/
def endInvocation (w : WickRef) (g : Eng) (l : Latched) (s : State) : State :=
  match (sealSet w g l).go s with
  | (.error f, s1) => wickFail w g l f s1
  | (.ok _, s1) =>
    let l2 := { l with seg := l.seg + 1 }
    nextInvocation w g l2 (moveEntries g l (wickRetire w s1))

/-- R92: ecall by a7. -/
def ecallRun (w : WickRef) (g : Eng) (l : Latched) (s : State) : State :=
  let a7 := xr (wOf s w) 17
  if a7 = 0 then endInvocation w g l s
  else if a7 = 1 then wickFail w g l { code := 0x2072, tile := none, detail := (xr (wOf s w) 10).toNat % 2 ^ 16, row := 0 } s
  else wickFail w g l { code := 0x2071, tile := none, detail := 8, row := 0 } s

/-- R92: a kernel executes ecall; the seal of its tiles may cross the Gallery. -/
def ecallStep (w : WickRef) (us : List Upset) (s : State) : State :=
  match inKernel s w with
  | none => s
  | some (g, l) =>
    match commitChecks w g l us (strikes us s) with
    | .error t => t
    | .ok s0 =>
      match (galleryGate us).go s0 with
      | (.error f, s1) => wickFail w g l f s1
      | (.ok _, s1) => ecallRun w g l s1

/-- R92: ECALL. -/
def execEcall (w : WickRef) (us : List Upset) (s : State) : Res := .next (ecallStep w us s)

/-! ### Xseltar: Tally instructions -/

/-- A scalar Xseltar form: rd takes a value of the pair's registers. -/
def scalarRun (w : WickRef) (us : List Upset) (rd : Fin 32) (f : Wick → W64) (s : State) : State :=
  wickNext w us (fun _ _ => wickMod w fun k => xw rd (f k) k) s

/-- res(x) of a register read as signed (R94). -/
def resReg (v : W64) : Nat := res v.toInt

/-- R94: tly.red. -/
def execTlyRed (o : WickOp) (rd rs1 : Fin 32) (s : State) : Res :=
  .next (scalarRun o.w o.us rd (fun k => BitVec.ofNat 64 (resReg (xr k rs1))) s)

/-- R94: tly.add. -/
def execTlyAdd (o : WickOp) (rd rs1 rs2 : Fin 32) (s : State) : Res :=
  .next (scalarRun o.w o.us rd (fun k => BitVec.ofNat 64 ((resReg (xr k rs1) + resReg (xr k rs2)) % tallyP)) s)

/-- R94: tly.mul. -/
def execTlyMul (o : WickOp) (rd rs1 rs2 : Fin 32) (s : State) : Res :=
  .next (scalarRun o.w o.us rd (fun k => BitVec.ofNat 64 (resReg (xr k rs1) * resReg (xr k rs2) % tallyP)) s)

/-- R94: tly.sh: rs2 mod 61 is taken of the register read as unsigned. -/
def execTlySh (o : WickOp) (rd rs1 rs2 : Fin 32) (s : State) : Res :=
  .next (scalarRun o.w o.us rd (fun k => BitVec.ofNat 64 (resReg (xr k rs1) * 2 ^ ((xr k rs2).toNat % 61) % tallyP)) s)

/-- The operand whose allocation holds a tile, linked or not: its tile index enters the Tally. -/
def holderOf (s : State) (g : Eng) (l : Latched) (a : Nat) : Option Opnd :=
  [0, 1, 2, 3].findSome? fun k => match kOpnd s g l k with
    | some o =>
      let r := allocRange o.h
      if decide (r.2.1 ≤ a) && decide (a < r.2.1 + r.2.2) then some o else none
    | none => none

/-- R94: the tile at an address, read as a kernel reads: its SRAM address, tile index and block Tally. -/
def tileTally (w : WickRef) (g : Eng) (l : Latched) (a : Nat) : M Nat := do
  let t := a / 4096 * 4096
  match regionOf w.st t with
  | .sram m => do
    let s ← get
    match holderOf s g l m with
    | none => do
      accessFault a
      pure 0
    | some o => do
      readTile w g l m
      let bs ← readMem 0 m 4096
      pure (blockTally (o.tileOf m).1 bs)
  | .none => do
    trapM 5 a
    pure 0
  | _ => do
    accessFault a
    pure 0

/-- R94: tly.tile. -/
def execTlyTile (w : WickRef) (rd rs1 : Fin 32) (us : List Upset) (s : State) : Res :=
  .next (wickNext w us (fun g l => do
    let v ← tileTally w g l (xr (wOf (← get) w) rs1).toNat
    wickMod w (xw rd (BitVec.ofNat 64 v))) s)

/-- R94, R109: tly.chk: a dirty tile is sealed first, then the tile is checked; rd must be x0. -/
def chkRun (w : WickRef) (rd rs1 : Fin 32) (g : Eng) (l : Latched) : M Unit := do
  if rd.val != 0 then illegal
  else do
    let s ← get
    let k := wOf s w
    let a := (xr k rs1).toNat
    match regionOf w.st (a / 4096 * 4096) with
    | .sram m => do
      if (holderOf s g l m).isNone then accessFault a
      if k.dirty.contains (m / 4096) then do
        sealDirty g l (m / 4096)
        wickMod w fun k => { k with dirty := k.dirty.filter (· != m / 4096) }
      wickMod w fun k => { k with verified := k.verified.filter (· != m / 4096) }
      readTile w g l m
    | .none => trapM 5 a
    | _ => accessFault a

/-- R94: tly.chk. -/
def execTlyChk (w : WickRef) (rd rs1 : Fin 32) (us : List Upset) (s : State) : Res :=
  .next (wickNext w us (chkRun w rd rs1) s)

/-- R95: element i of a packed row with its block scale applied. -/
def betaElem (fmt : Nat) (blk16 : Bool) (bs scales : List Byte) (i : Nat) : Num :=
  let n := elemBits fmt
  let c := field bs (n * i / 8) 5 / 2 ^ (n * i % 8) % 2 ^ n
  if isMx fmt then scaleNum (field scales (i / (if blk16 then 16 else 32)) 1) (decodeElem fmt c) else decodeElem fmt c

/-- R95: tly.beta. A count or format outside the stated range gives a free value (assumption 2). -/
def betaRun (w : WickRef) (rd rs1 rs2 rs3 : Fin 32) (g : Eng) (l : Latched) : M Unit := do
  let s ← get
  let k := wOf s w
  let c := (xr k rs2).toNat
  let n := bits c 15 0
  let fmt := bits c 20 16
  let blk := bitAt c 21
  if n = 0 || 1024 < n || fmt = 0 || 15 < fmt || (blk && !isMx fmt) then do
    wickMod w (xw rd (Config.freeValue s.free))
    modify bumpFree
  else do
    let bs ← kLoad w g l (xr k rs1).toNat (ceilDiv (n * elemBits fmt) 8)
    let sc ← if isMx fmt then kLoad w g l (xr k rs3).toNat (ceilDiv n (if blk then 16 else 32)) else pure []
    let v := (List.range n).foldl (fun t i => (t + res (alpha150 (betaElem fmt blk bs sc i))) % tallyP) 0
    wickMod w (xw rd (BitVec.ofNat 64 v))

/-- R95: tly.beta. -/
def execTlyBeta (w : WickRef) (rd rs1 rs2 rs3 : Fin 32) (us : List Upset) (s : State) : Res :=
  .next (wickNext w us (betaRun w rd rs1 rs2 rs3) s)

/-! ### Xseltar: curves -/

/-- An FP32 number as the code of an integer. -/
def fpOfInt (n : Int) : Nat := roundFp ⟨8, 23, 127, .ieee⟩ 0 false n 0

/-- Floor of an FP32 code between 0 and 256. -/
def fpFloor (c : Nat) : Nat :=
  match fp32 c with
  | .fin m e => if 0 ≤ e then (m * pow2 e).toNat else (m / pow2 (-e)).toNat
  | _ => 0

/-- R97: a segment's cubic. -/
def curveCubic (t : List Byte) (i f : Nat) : Nat :=
  let c (j : Nat) := field t (16 + 16 * i + 4 * j) 4
  fpFma (fpFma (fpFma (c 3) f (c 2)) f (c 1)) f (c 0)

/-- R97: crv.ev of one element under a table image. -/
def curveEval (t : List Byte) (x : Nat) : Nat :=
  let x0 := field t 0 4
  let lo := field t 4 4
  let hi := field t 8 4
  let modes := field t 13 1
  if fpIsNan x then fpNan
  else if x = 0x7F800000 then hi
  else if x = 0xFF800000 then lo
  else
    let sv := fpScale (fpSub x x0) (-(fieldInt t 12 1))
    if fpNeg sv && sv != 0x80000000 then
      (if bitAt modes 0 then curveCubic t 0 sv else lo)
    else if !fpLt sv (fpOfInt 256) then
      (if bitAt modes 1 then curveCubic t 255 (fpSub sv (fpOfInt 255)) else hi)
    else
      let i := fpFloor sv
      curveCubic t i (fpSub sv (fpOfInt i))

/-- R96, R97: crv.ev; a table that the bank did not declare gives 0. -/
def execCrvEv (o : WickOp) (vd vs2 rs1 : Fin 32) (s : State) : Res :=
  .next (vecRun o.w o.us (fun _ k =>
    let t := tget? k.curves ((xr k rs1).toNat % 16)
    vputAll vd.val 32 ((velems k vs2.val).map fun x => match t with
      | some b => curveEval b x
      | none => 0) k) s)

/-! ### Xseltar: random numbers -/

/-- R98: one round of Philox-4x32 on (c0, c1, c2, c3) with key (k0, k1). -/
def philoxRound (c : Nat × Nat × Nat × Nat) (k0 k1 : Nat) : Nat × Nat × Nat × Nat :=
  let p0 := 0xD2511F53 * c.1
  let p1 := 0xCD9E8D57 * c.2.2.1
  (Nat.xor (Nat.xor (p1 / 2 ^ 32) c.2.1) k0, p1 % 2 ^ 32, Nat.xor (Nat.xor (p0 / 2 ^ 32) c.2.2.2) k1, p0 % 2 ^ 32)

/-- R98: the rounds, the key bumped after each. -/
def philox : Nat → Nat × Nat × Nat × Nat → Nat → Nat → Nat × Nat × Nat × Nat
  | 0, c, _, _ => c
  | n + 1, c, k0, k1 => philox n (philoxRound c k0 k1) ((k0 + 0x9E3779B9) % 2 ^ 32) ((k1 + 0xBB67AE85) % 2 ^ 32)

/-- R98: the random word of an element index, tensor id and step under a seed. -/
def rngWord (seed e : W64) (tensor step : Nat) : Nat :=
  (philox 10 (e.toNat % 2 ^ 32, e.toNat / 2 ^ 32, tensor % 2 ^ 32, step % 2 ^ 32) (seed.toNat % 2 ^ 32)
    (seed.toNat / 2 ^ 32)).1

/-- R98: the words of elements 0 to vl − 1. -/
def rngWords (s : State) (k : Wick) (rs1 rs2 : Fin 32) : List Nat :=
  (List.range k.vl).map fun j => rngWord k.xsseed (xr k rs2 + BitVec.ofNat 64 j) (xr k rs1).toNat s.run.step

/-- R98: rng.u32. -/
def execRngU32 (o : WickOp) (vd rs1 rs2 : Fin 32) (s : State) : Res :=
  .next (vecRun o.w o.us (fun t k => vputAll vd.val 32 (rngWords t k rs1 rs2) k) s)

/-- R98: rng.f32 of a word. -/
def rngFloat (r : Nat) : Nat := roundFp ⟨8, 23, 127, .ieee⟩ 0 false (r / 256 : Nat) (-24)

/-- R98: rng.f32. -/
def execRngF32 (o : WickOp) (vd rs1 rs2 : Fin 32) (s : State) : Res :=
  .next (vecRun o.w o.us (fun t k => vputAll vd.val 32 ((rngWords t k rs1 rs2).map rngFloat) k) s)

/-! ### Xseltar: reductions -/

/-- A reduction of the vl elements of vs2 into rd. -/
def redRun (w : WickRef) (us : List Upset) (rd vs2 : Fin 32) (f : Wick → List Nat → W64) (s : State) : State :=
  vecRun w us (fun _ k => xw rd (f k (velems k vs2.val)) k) s

/-- R99: red.max. -/
def execRedMax (o : WickOp) (rd vs2 : Fin 32) (s : State) : Res :=
  .next (redRun o.w o.us rd vs2 (fun _ xs => BitVec.ofNat 64 (((redExt true xs).map Prod.snd).getD 0xFF800000)) s)

/-- R99: red.min. -/
def execRedMin (o : WickOp) (rd vs2 : Fin 32) (s : State) : Res :=
  .next (redRun o.w o.us rd vs2 (fun _ xs => BitVec.ofNat 64 (((redExt false xs).map Prod.snd).getD 0x7F800000)) s)

/-- R99: red.amax. -/
def execRedAmax (o : WickOp) (rd vs2 rs1 : Fin 32) (s : State) : Res :=
  .next (redRun o.w o.us rd vs2 (fun k xs => match redExt true xs with
    | some (i, _) => xr k rs1 + BitVec.ofNat 64 i
    | none => BitVec.allOnes 64) s)

/-- R99: red.amin. -/
def execRedAmin (o : WickOp) (rd vs2 rs1 : Fin 32) (s : State) : Res :=
  .next (redRun o.w o.us rd vs2 (fun k xs => match redExt false xs with
    | some (i, _) => xr k rs1 + BitVec.ofNat 64 i
    | none => BitVec.allOnes 64) s)

/-- R99: red.sum. -/
def execRedSum (o : WickOp) (rd vs2 : Fin 32) (s : State) : Res :=
  .next (redRun o.w o.us rd vs2 (fun _ xs => BitVec.ofNat 64 (redSumOf xs)) s)

/-! ### Xseltar: conversions -/

/-- R100: bits of rs1 that must be zero. -/
def cvtOk (c : Nat) : Bool := bits c 15 9 = 0 && bits c 63 24 = 0

/-- R100: a format code in the stated range, with BLK16 only where R26 allows it. -/
def cvtFmtOk (c : Nat) : Bool := decide (1 ≤ bits c 4 0) && decide (bits c 4 0 ≤ 15) && (!bitAt c 8 || isMx (bits c 4 0))

/-- R100: cvt.in of one element. -/
def cvtInElem (c v : Nat) : Nat :=
  let fmt := bits c 4 0
  encodeNum 0 (bits c 6 5) (bitAt c 7)
    (if isMx fmt then scaleNum (bits c 23 16) (decodeElem fmt v) else decodeElem fmt v)

/-- R100: cvt.out of one element. Under the NaN scale every code is 0, as R45 writes it. -/
def cvtOutElem (c x : Nat) : Nat :=
  let fmt := bits c 4 0
  if isMx fmt then (if bits c 23 16 = 0xFF then 0 else encodeMx fmt (bits c 6 5) (bits c 23 16) (fp32 x))
  else encodeNum fmt (bits c 6 5) (bitAt c 7) (fp32 x)

/-- A conversion: illegal on a non-zero other bit; the register change otherwise. -/
def cvtRun (w : WickRef) (us : List Upset) (rs1 : Fin 32) (f : Nat → State → Wick → Wick) (s : State) : State :=
  wickNext w us (fun _ _ => do
    let s ← get
    let k := wOf s w
    let c := (xr k rs1).toNat
    if !vecOk k || !cvtOk c then illegal
    else do
      wickMod w (f c s)
      modify fun s => { s with free := s.free + 128 }) s

/-- Free 32-bit elements where the format code is outside the stated range (assumption 2). -/
def freeElems (s : State) (k : Wick) : List Nat :=
  (List.range k.vl).map fun j => (Config.freeValue (s.free + j)).toNat % 2 ^ 32

/-- R100: cvt.in. -/
def execCvtIn (o : WickOp) (vd vs2 rs1 : Fin 32) (s : State) : Res :=
  .next (cvtRun o.w o.us rs1 (fun c t k =>
    if cvtFmtOk c then
      vputAll vd.val 32 ((List.range k.vl).map fun j => cvtInElem c (vpacked k vs2.val j (elemBits (bits c 4 0)))) k
    else vputAll vd.val 32 (freeElems t k) k) s)

/-- R100: cvt.out. Bits of vd above the packed results keep their values: R100 names no other bits (DESIGN CHOICE, assumption 34). -/
def execCvtOut (o : WickOp) (vd vs2 rs1 : Fin 32) (s : State) : Res :=
  .next (cvtRun o.w o.us rs1 (fun c t k =>
    if cvtFmtOk c then vputAll vd.val (elemBits (bits c 4 0)) ((velems k vs2.val).map (cvtOutElem c)) k
    else vputAll vd.val 32 (freeElems t k) k) s)

/-- R100: cvt.mxs; more elements than a block holds, or a format that has no scale, gives a free value (assumption 2). -/
def execCvtMxs (o : WickOp) (rd vs2 rs1 : Fin 32) (s : State) : Res :=
  .next (cvtRun o.w o.us rs1 (fun c t k =>
    if cvtFmtOk c && isMx (bits c 4 0) && decide (k.vl ≤ (if bitAt c 8 then 16 else 32))
      then xw rd (BitVec.ofNat 64 (mxScale (bits c 4 0) ((velems k vs2.val).map fp32))) k
    else xw rd (Config.freeValue t.free) k) s)

/-! ### Fetched instructions -/

/-- The registers that the standard instructions read and write. -/
def toRv (k : Wick) : Rv :=
  ⟨k.x, k.f, k.v, k.pc.toNat, k.vl, k.vtype, k.vstart, k.fcsr, k.vxrm, k.vxsat, k.resv⟩

/-- The pair with them. -/
def withRv (r : Rv) (k : Wick) : Wick :=
  { k with x := r.x, f := r.f, v := r.v, pc := BitVec.ofNat 64 r.pc, vl := r.vl, vtype := r.vtype, vstart := r.vstart
           fcsr := r.fcsr, vxrm := r.vxrm, vxsat := r.vxsat, resv := r.resv }

/-- R80, R85: the instruction at the pc and its length. User mode executes from the code region only. -/
def fetched (k : Wick) : Option (Nat × Nat) :=
  let a := k.pc.toNat
  if 0xC000 < a + 2 then none
  else
    let h := field (rdN k.lmem a 2) 0 2
    if h % 4 != 3 then some (h, 2)
    else if 0xC000 < a + 4 then none
    else some (field (rdN k.lmem a 4) 0 4, 4)

/-- A Zicsr word: funct3 other than 0 and 4 under SYSTEM. -/
def isCsr (n : Nat) : Bool := bits n 6 0 = 0x73 && bits n 14 12 % 4 != 0

/-- R80, R86, R94: the CSRs of user mode: the standard ones of F and V, the counters, which read 0, and those of Xseltar. -/
def csrRead (s : State) (g : Eng) (k : Wick) (c : Nat) : Option Nat :=
  if 0x800 ≤ c && c ≤ 0x80F then some (tget 0 (engOf s g).s (c - 0x800)).toNat
  else if c = 0x810 then some k.xsseed.toNat
  else if c = 0xCC0 then some (s.run.step % 2 ^ 64)
  else if c = 0xCC1 then some (k.inv % 2 ^ 64)
  else if [0xC00, 0xC01, 0xC02, 0xC80, 0xC81, 0xC82].contains c then some 0
  else if c = 1 then some (bits k.fcsr.toNat 4 0)
  else if c = 2 then some (bits k.fcsr.toNat 7 5)
  else if c = 3 then some (bits k.fcsr.toNat 7 0)
  else if c = 8 then some k.vstart
  else if c = 9 then some (b2n k.vxsat)
  else if c = 0xA then some k.vxrm
  else if c = 0xF then some (2 * k.vxrm + b2n k.vxsat)
  else if c = 0xC20 then some k.vl
  else if c = 0xC21 then some k.vtype.toNat
  else if c = 0xC22 then some 64
  else none

/-- A write to a CSR of the pair's own registers. -/
def csrPut (c v : Nat) (k : Wick) : Wick :=
  if c = 0x810 then { k with xsseed := BitVec.ofNat 64 v }
  else if c = 1 then { k with fcsr := BitVec.ofNat 64 (setBits k.fcsr.toNat 4 0 v) }
  else if c = 2 then { k with fcsr := BitVec.ofNat 64 (setBits k.fcsr.toNat 7 5 v) }
  else if c = 3 then { k with fcsr := BitVec.ofNat 64 (v % 256) }
  else if c = 8 then { k with vstart := v % 512 }
  else if c = 9 then { k with vxsat := bitAt v 0 }
  else if c = 0xA then { k with vxrm := v % 4 }
  else if c = 0xF then { k with vxrm := bits v 2 1, vxsat := bitAt v 0 }
  else k

/-- A CSR write: xss0 to xss15 are the engine's scalar registers (R94). -/
def csrWrite (w : WickRef) (g : Eng) (c v : Nat) (s : State) : State :=
  if 0x800 ≤ c && c ≤ 0x80F then let e := engOf s g; putEng g { e with s := tput e.s (c - 0x800) (BitVec.ofNat 64 v) } s
  else putW w (csrPut c v (wOf s w)) s

/-- R86, R94: a Zicsr instruction. A CSR that user mode does not have, and a write to a read-only one, are illegal. -/
def csrRun (w : WickRef) (g : Eng) (n : Nat) : M Unit := do
  let s ← get
  let k := wOf s w
  let c := bits n 31 20
  let f3 := bits n 14 12
  let rs := bits n 19 15
  let src := if 4 ≤ f3 then rs else rx (toRv k) rs
  let writes := f3 % 4 = 1 || rs != 0
  match csrRead s g k c with
  | none => illegal
  | some old =>
    let v := if f3 % 4 = 1 then src else if f3 % 4 = 2 then Nat.lor old src else Nat.land old (2 ^ 64 - 1 - src)
    if writes && 0xC00 ≤ c then illegal
    else do
      if writes then modify (csrWrite w g c v)
      wickMod w fun k => advance 4 (withRv (setX (bits n 11 7) old (toRv k)) k)

/-- R80, R83 to R85: a standard instruction: its loads, what it computes, and its stores. -/
def planRun (w : WickRef) (g : Eng) (l : Latched) (p : RvPlan) : M Unit := do
  let vs ← p.loads.mapM fun e => do
    let bs ← kLoad w g l e.1 e.2
    pure (leNat bs)
  match p.act vs with
  | .trap cause => trapM cause 0
  | .done r st vector => do
    st.forM (runStore w g l vector)
    wickMod w (withRv r)

/-- R80: a word of the standard sets, of some length in bytes. -/
def stdRun (w : WickRef) (n len : Nat) (g : Eng) (l : Latched) : M Unit := do
  let s ← get
  let k := wOf s w
  let pc := k.pc.toNat
  match (if len = 2 then rvExpand n else some n) with
  | none => illegal
  | some word =>
    if isCsr word then csrRun w g word
    else match rvPlan s.free (fun a => regionOf w.st a = .none) word pc { toRv k with pc := (pc + len) % 2 ^ 64 } with
      | none => illegal
      | some p => do
        planRun w g l p
        -- free values of agnostic elements
        if bits word 6 0 = 0x57 || bits word 6 0 = 0x07 then modify fun s => { s with free := s.free + 4096 }

/-- R94: the meaning of a fetched Xseltar instruction. -/
def xseltarRun (i : Instr) (s : State) : Res :=
  match i with
  | .tlyRed o rd rs1 => execTlyRed o rd rs1 s
  | .tlyAdd o rd rs1 rs2 => execTlyAdd o rd rs1 rs2 s
  | .tlyMul o rd rs1 rs2 => execTlyMul o rd rs1 rs2 s
  | .tlySh o rd rs1 rs2 => execTlySh o rd rs1 rs2 s
  | .tlyTile w rd rs1 us => execTlyTile w rd rs1 us s
  | .tlyChk w rd rs1 us => execTlyChk w rd rs1 us s
  | .tlyBeta w rd rs1 rs2 rs3 us => execTlyBeta w rd rs1 rs2 rs3 us s
  | .crvEv o vd vs2 rs1 => execCrvEv o vd vs2 rs1 s
  | .rngU32 o vd rs1 rs2 => execRngU32 o vd rs1 rs2 s
  | .rngF32 o vd rs1 rs2 => execRngF32 o vd rs1 rs2 s
  | .redMax o rd vs2 => execRedMax o rd vs2 s
  | .redMin o rd vs2 => execRedMin o rd vs2 s
  | .redAmax o rd vs2 rs1 => execRedAmax o rd vs2 rs1 s
  | .redAmin o rd vs2 rs1 => execRedAmin o rd vs2 rs1 s
  | .redSum o rd vs2 => execRedSum o rd vs2 s
  | .cvtIn o vd vs2 rs1 => execCvtIn o vd vs2 rs1 s
  | .cvtOut o vd vs2 rs1 => execCvtOut o vd vs2 rs1 s
  | .cvtMxs o rd vs2 rs1 => execCvtMxs o rd vs2 rs1 s
  | _ => .next s

/-- R81: what strikes an instruction: its fetch, its run, and a core whose commit it changes. -/
def wickStruck (fetch : List Upset) (core0 core1 : Bool) (us : List Upset) : List Upset :=
  fetch ++ us ++ if core0 || core1 then [.compare] else []

/-- R80, R81, R85, R94: the pair runs the instruction at its pc: ecall, an Xseltar form, or one of the standard sets. The second core
commits what the first does, unless a disturbance makes them differ. A pc outside the code region is an access fault. -/
def wickAt (w : WickRef) (us : List Upset) (s : State) : Res :=
  match fetched (wOf s w) with
  | none => .next (wickRun w us (fun _ _ => trapM 1 0) s)
  | some (n, len) =>
    if len = 4 && n = 0x73 then .next (ecallStep w us s)
    else match (if len = 4 then decodeXseltar w n us else none) with
      | some i => xseltarRun i s
      | none => .next (wickRun w us (stdRun w n len) s)

/-- R80: WICK_INSTRUCTION. -/
def execWickInstruction (w : WickRef) (fetch : List Upset) (core0 core1 : Bool) (us : List Upset) (s : State) : Res :=
  wickAt w (wickStruck fetch core0 core1 us) s

end Sys2Proof.Machine
end

