-- ==== Sys2Proof/Machine/Complete.lean ====
section
/-! DEFINITION. Completion of a descriptor (R101, R152, R154, R160), the TAP with its Ledger entry (R123, R384), and the stream
FIFOs on which a descriptor in progress waits (R133). -/

namespace Sys2Proof.Machine

/-! ### Completion -/

/-- The descriptor whose completion is due. -/
def dueDesc (s : State) (g : Eng) : Option Latched :=
  match (engOf s g).cur with
  | some l => if l.done && !(engOf s g).stopped && s.life = .running then some l else none
  | none => none

/-- R101: scalar results are written when the descriptor completes. -/
def writeScalars (g : Eng) (res : List (Nat × W64)) (s : State) : State :=
  let e := engOf s g
  putEng g { e with s := res.foldl (fun t r => tput t r.1 r.2) e.s } s

/-- R154: a SIGNAL past 65,535 is not applied; the engine stops with 0x2021. -/
def signalOverflow (g : Eng) (l : Latched) (w : Nat) (s : State) : State :=
  let s1 := raise 0x2021 (pgSync g.st) 1 (0x2021 + dTop l.w * 2 ^ 16) (l.pos + g.e.val * 2 ^ 20)
    (waitIdx w + waitScope w * 2 ^ 12) s
  detect 0x2021 (.eng g) none (putEng g { engOf s1 g with stopped := true } s1)

/-- R76, R461: how a unit that becomes idle is gated: IDLE_POLICY 0b00 clock-gates it, 0b01 leaves it to PWR_GATE_DELAY (in
Strict Timing it acts as 0b00), 0b10 keeps it clocked. -/
def idleUnit (s : State) (page : Nat) (u : UnitSt) : UnitSt :=
  let p := bits (regGet s (pageBase page + 0x10)) 3 2
  { u with idleSince := s.watch, gate := if p = 0 || (p = 1 && strictOn s) then .clockGated else u.gate }

/-- R461: the unit behind an engine becomes idle. -/
def nowIdle (g : Eng) (s : State) : State :=
  if engClass g.e = 0 then
    match lanPhys s g.st g.e with
    | some p => let u := lanOf s g.st p; putLan g.st p { u with unit := idleUnit s (pgLnt g.st p) u.unit } s
    | none => s
  else if engClass g.e = 1 then
    match wickPhys s g.st (g.e - 4) with
    | some p => let u := wickOf s g.st p; putWick g.st p { u with unit := idleUnit s (pgWck g.st p) u.unit } s
    | none => s
  else s

/-- R152, R160: the completed descriptor deregisters, turns advance, and the engine is free; HALT halts it (R121). -/
def retire (g : Eng) (l : Latched) (s : State) : State :=
  let s1 := l.sb.foldl (fun t r => sbDone r t) s
  let e := engOf s1 g
  nowIdle g (putEng g { e with cur := none, halted := e.halted || dOp l.w = 0x7F, lastAct := s1.watch, wdFrom := s1.watch } s1)

/-- Tiles of C that a TAP wrote, by index, with the Tally slot of each. -/
def tapTiles (s : State) (g : Eng) (l : Latched) : List Nat :=
  match handleOf s g.st (nth l.h 2) with
  | none => []
  | some h =>
    let o : Opnd := ⟨nth l.h 2, h, (fifoOf s g.st (nth l.h 2)).tail - l.nseg, l.off.getD 2 0⟩
    let ts := nub ((List.range (nestCount (levels l.w))).flatMap fun t =>
      let e := { o with entry := if h.isStream then o.entry + t * l.nseg / nestCount (levels l.w) else o.entry }
      let ba := e.bitAddr (iterCoords l 2 t)
      (tilesOf (ba / 8) (ceilDiv (ba % 8 + elemBits h.fmt) 8)).map fun a => (e.tileOf a).2)
    (List.range (h.tiles * (if h.isStream then h.depth else 1))).filter ts.contains

/-- R384: a TAP entry of 48 bytes; its DIGEST covers the stored Tallies of the tiles of C in tile order. -/
def tapEntry (s : State) (g : Eng) (l : Latched) : List Byte :=
  let ts := tapTiles s g l
  let tallies : List Byte := match (handleOf s g.st (nth l.h 2)).bind fun h => handleOf s g.st h.tally with
    | some th => ts.flatMap fun j => leBytes 8 (bits (leNat (rdN (if th.space = 1 then s.dram else s.sram) (tallyAddr th j) 8)) 60 0)
    | none => []
  leBytes 2 (bits (dW7 l.w) 15 0) ++ leBytes 1 (logStn s g.st) ++ leBytes 1 g.e.val ++ leBytes 4 s.run.step ++
    leBytes 4 (nget (engOf s g).issues l.pos - 1) ++ leBytes 4 ts.length ++ sha3 tallies

/-- R393: JOB_ID of the job in force, low 32 bits. -/
def jobLow (s : State) : Nat := (s.jobs.active.map fun a => field a.job.record 8 4).getD 0

/-- R384: a TAP that visits an element appends its entry; past the 4,096th it is lost, with notice 0x0090. -/
def tapDone (g : Eng) (l : Latched) (s : State) : State :=
  if dOp l.w != 0x61 || nestCount (levels l.w) = 0 then s
  else if s.led.taps.length < 4096 then { s with led := { s.led with taps := s.led.taps ++ [tapEntry s g l] } }
  else raise 0x0090 pgLdg 0 0x0090 (jobLow s) 0 { s with led := { s.led with tapsLost := min 0xFFFF (s.led.tapsLost + 1) } }

/-- R101, R152, R154: results, then both SIGNALs, then retirement. Where one SIGNAL of a pushed descriptor would overflow, the engine stops
there: SIGNAL1 is not applied after SIGNAL0 has failed, and SIGNAL0's increment stands when SIGNAL1 fails (DESIGN CHOICE,
assumption 50). -/
def complete (g : Eng) (l : Latched) (s : State) : State :=
  let s1 := tapDone g l (writeScalars g l.res s)
  let a := signalOne g.st (nth l.w 3) s1
  if a.1 then signalOverflow g l (nth l.w 3) a.2
  else
    let b := signalOne g.st (nth l.w 4) a.2
    if b.1 then signalOverflow g l (nth l.w 4) b.2 else retire g l b.2

/-! ### TAP -/

/-- R123: issue of a TAP. -/
def execTap (g : Eng) (us : List Upset) (s : State) : Res :=
  .next (issueThen 0x61 true noCheck (runFrom (copyBody g us) g) g (strikes us s))

/-! ### FIFOs -/

/-- A descriptor in progress goes on from its next segment. -/
def resumeDesc (g : Eng) (us : List Upset) (l : Latched) (s : State) : State :=
  let op := dOp l.w
  if op = 0x10 || op = 0x11 then runFrom (matmulBody g us l.seg) g l s
  else if op = 0x12 then runFrom (drainBody g us l.seg) g l s
  else if op = 0x20 || op = 0x61 then runFrom (copyBody g us) g l s
  else if op = 0x21 || op = 0x22 then runFrom (indexBody g us) g l s
  else if op = 0x23 then runFrom (fillBody g us) g l s
  else if op = 0x31 then runFrom (reduceBody g us) g l s
  else if op = 0x60 then runFrom (verifyBody g us) g l s
  else if op = 0x30 then
    match wickRef s g with
    | some w => nextInvocation w g l s
    | none => s
  else s

/-- The descriptor that waits on a FIFO (1 empty, 2 full), when the wait is over. -/
def fifoReady (s : State) (g : Eng) (k : Nat) : Option Latched :=
  match (engOf s g).cur with
  | some l =>
    if l.blocked = k && !l.done && !(engOf s g).stopped && s.life = .running && segBlock s g l != k then some l else none
  | none => none

/-- R133: the descriptor that waited on a FIFO proceeds. -/
def fifoGo (g : Eng) (us : List Upset) (l : Latched) (s : State) : State :=
  resumeDesc g us l (putEng g { engOf s g with waiting := none } s)

/-- R133: room has come in a full FIFO, and the entry is pushed. -/
def execFifoPush (g : Eng) (us : List Upset) (s : State) : Res :=
  .next (match fifoReady s g 2 with
    | some l => fifoGo g us l (strikes us s)
    | none => s)

/-- R133: an entry has come in an empty FIFO, and it is popped. -/
def execFifoPop (g : Eng) (us : List Upset) (s : State) : Res :=
  .next (match fifoReady s g 1 with
    | some l => fifoGo g us l (strikes us s)
    | none => s)

end Sys2Proof.Machine
end

