-- ==== Sys2Proof/Machine/Units.lean ====
section
/-! DEFINITION. Lanterns and Wick pairs as units: known-answer tests (R71, R73, R74, R107), spare swaps (R75, R362), waking and
power gating (R76, R461, R462), and what a change of the Dark map does to the banks (R236, R242). -/

namespace Sys2Proof.Machine

def uKey : UnitRef → Nat
  | .lantern st p => st.val * 5 + p.val
  | .wick st p => st.val * 9 + p.val

/-- Physical Station of a unit, its physical index and its kind (0 Lantern, 1 Wick pair). -/
def uStn : UnitRef → Nat
  | .lantern st _ => st.val
  | .wick st _ => st.val
def uIdx : UnitRef → Nat
  | .lantern _ p => p.val
  | .wick _ p => p.val
def uKind : UnitRef → Nat
  | .lantern _ _ => 0
  | .wick _ _ => 1

def unitOf (s : State) : UnitRef → UnitSt
  | .lantern st p => (lanOf s st p).unit
  | .wick st p => (wickOf s st p).unit

def putUnit (u : UnitRef) (v : UnitSt) (s : State) : State :=
  match u with
  | .lantern st p => putLan st p { lanOf s st p with unit := v } s
  | .wick st p => putWick st p { wickOf s st p with unit := v } s

def unitPage : UnitRef → Nat
  | .lantern st p => pgLnt st p
  | .wick st p => pgWck st p

/-- R74, R107: the code of a failed test, with its EVENT bit. -/
def katCode : UnitRef → Nat × Nat
  | .lantern _ _ => (0x2064, 6)
  | .wick _ _ => (0x2075, 7)

/-- The engine bound to a unit, by its logical number. -/
def unitEng (s : State) (u : UnitRef) : Option Eng :=
  match u, (unitOf s u).logical with
  | .lantern st _, some i => if h : i < 4 then some ⟨st, ⟨i, by omega⟩⟩ else none
  | .wick st _, some i => if h : i < 8 then some ⟨st, ⟨i + 4, by omega⟩⟩ else none
  | _, none => none

/-! ### The Dark map -/

/-- R236, R242: LOADED banks become STALE; a bank whose placement is in progress becomes STALE when it completes. -/
def staleBanks (s : State) : State :=
  { s with banks := tmap (fun _ k =>
      if k.st = .loaded then { k with st := .stale } else if k.st = .loading then { k with staleOnLoad := true } else k) s.banks }

/-- R439: the register of the Dark map that holds a Station. -/
def darkReg (n : Nat) : Nat := pageBase pgFus + 0x100 + 4 * n

/-- The Dark map word of a Station. -/
def darkWord (s : State) (n : Nat) : Nat := regGet s (darkReg n)

/-- R439: the Station is dark as a whole; a physical Lantern is dark; a physical Wick pair is dark. -/
def stnDark (s : State) (n : Nat) : Bool := bitAt (darkWord s n) 14 || bitAt (darkWord s n) 30
def lanDark (s : State) (n p : Nat) : Bool := bitAt (darkWord s n) p || bitAt (darkWord s n) (16 + p)
def wickDark (s : State) (n p : Nat) : Bool := bitAt (darkWord s n) (5 + p) || bitAt (darkWord s n) (21 + p)

/-- R3: the grade's counts for a Station. -/
def gradeLan (s : State) (n : Nat) : Nat := if bitAt (darkWord s n) 15 then 4 else 3
def gradeWick (s : State) : Nat := if s.kpr.fuses.grade = 0 then 8 else if s.kpr.fuses.grade = 1 then 7 else 6

/-- R3, R230: the units that are not dark, ascending; of a Station that is dark as a whole, none. -/
def lanAlive (s : State) (n : Nat) : List Nat := (List.range 5).filter fun p => !stnDark s n && !lanDark s n p
def wickAlive (s : State) (n : Nat) : List Nat := (List.range 9).filter fun p => !stnDark s n && !wickDark s n p

/-- R230: the units enabled. -/
def lanEnabled (s : State) (n : Nat) : List Nat := (lanAlive s n).take (gradeLan s n)
def wickEnabled (s : State) (n : Nat) : List Nat := (wickAlive s n).take (gradeWick s)

/-- R230: role of a unit before placement. -/
def roleIn (alive enabled : List Nat) (p : Nat) : Role :=
  if !alive.contains p then .dark else if enabled.contains p then .enabled else .spare

/-- R235, R439: the 64 bytes of the Dark map. -/
def darkBytes (s : State) : List Byte := (List.range 16).flatMap fun n => leBytes 4 (regGet s (darkReg n))

/-- R362, R439: a unit's fault bit. -/
def darkBit : UnitRef → Nat
  | .lantern _ p => 16 + p.val
  | .wick _ p => 21 + p.val

/-- R362, R363: a fault bit of the Dark map is set. -/
def markDark (n bit : Nat) (s : State) : State := regPut (darkReg n) (orBit (regGet s (darkReg n)) bit) s

/-- R71, R74, R236: a unit goes dark. -/
def darken (u : UnitRef) (s : State) : State :=
  staleBanks (markDark (uStn u) (darkBit u)
    (putUnit u { unitOf s u with role := .dark, katRunning := false, logical := none } s))

/-! ### Known-answer tests -/

/-- R73: a spare is powered in LOADED, ARMED, RUNNING and HELD. -/
def sparePowered (s : State) : Bool := s.life = .loaded || s.life = .armed || s.life = .running || s.life = .held

/-- R74: a test starts: the role reads TEST, and the next interval runs from here. -/
def katBegin (u : UnitRef) (s : State) : State :=
  putUnit u { unitOf s u with role := .test, katRunning := true, katAt := s.watch } s

/-- R74, R79, R110: INTERVAL of KAT_CONTROL, in ticks. -/
def katInterval (s : State) (u : UnitRef) : Nat := bits (regGet s (pageBase (unitPage u) + 0x70)) 25 16 * 1000000

/-- R74: the test interval of a powered spare expires, counted from the start of the last test or from power-up (DESIGN CHOICE,
assumption 47). -/
def execSpareKatTimer (u : UnitRef) (s : State) : Res :=
  .next (if (unitOf s u).role = .spare && sparePowered s then katBegin u (watchTo ((unitOf s u).katAt + katInterval s u) s) else s)

/-- R74: a write of START to the KAT_CONTROL register; ignored in any role but SPARE. -/
def execKatStart (u : UnitRef) (s : State) : Res :=
  .next (hostWrite (unitPage u) (pageBase (unitPage u) + 0x70) (fun t => if (unitOf t u).role = .spare then katBegin u t else t) s)

/-- R79, R110, R231: ENABLE of a unit's page, set when the Keeper binds the unit. -/
def enableUnit (page : Nat) (s : State) : State :=
  regPut (pageBase page + 0x10) (setBits (regGet s (pageBase page + 0x10)) 0 0 1) s

/-- A test has completed: COUNT wraps at 16 bits. -/
def katDone (pass : Bool) (v : UnitSt) : UnitSt :=
  { v with katRunning := false, katPassed := pass, katCount := (v.katCount + 1) % 2 ^ 16 }

/-- R74, R107: a spare's test finishes; a failure marks the unit dark. -/
def spareKatEnd (u : UnitRef) (pass : Bool) (s : State) : State :=
  let s1 := putUnit u { katDone pass (unitOf s u) with role := .spare } s
  if pass then s1 else darken u (raise (katCode u).1 (unitPage u) (katCode u).2 (katCode u).1 0 0 s1)

/-- R74: a spare's known-answer test finishes. -/
def execSpareKatComplete (u : UnitRef) (pass : Bool) (s : State) : Res :=
  .next (if (unitOf s u).role = .test && (unitOf s u).katRunning then spareKatEnd u pass s else s)

/-! ### Waking and gating -/

/-- The NOP that waits for its engine to wake (R462). -/
def wakingNop (s : State) (g : Eng) : Option Latched :=
  match (engOf s g).cur with
  | some l => if dOp l.w = 0x00 && !l.done && !(engOf s g).stopped then some l else none
  | none => none

/-- R76, R462: a unit is awake; a NOP in progress completes, and the idle count restarts. -/
def wakeUnit (u : UnitRef) (s : State) : State :=
  let s1 := putUnit u { unitOf s u with gate := .awake, waking := false, idleSince := s.watch } s
  match unitEng s1 u with
  | none => s1
  | some g =>
    match wakingNop s1 g with
    | some l => finish g l s1
    | none => s1

/-- R76: a gated unit finishes waking. -/
def execEngineWakeDone (u : UnitRef) (s : State) : Res :=
  .next (if (unitOf s u).waking then wakeUnit u s else s)

/-- R461: PWR_GATE_DELAY, in ticks. -/
def gateDelay (s : State) : Nat := bits (regGet s (pageBase pgPwr + 0x50)) 13 0 * 1000

/-- R461: a unit under IDLE_POLICY 0b01 that is idle and not yet power-gated. In Strict Timing the policy acts as 0b00. -/
def mayGate (s : State) (u : UnitRef) : Bool :=
  let v := unitOf s u
  v.role = .enabled && v.gate != .powerGated && !v.waking && bits (regGet s (pageBase (unitPage u) + 0x10)) 3 2 = 1 && !strictOn s &&
    match unitEng s u with
    | some g => (engOf s g).cur.isNone
    | none => true

/-- R461: an idle engine reaches PWR_GATE_DELAY and power-gates. -/
def powerGate (u : UnitRef) (s : State) : State :=
  let s1 := watchTo ((unitOf s u).idleSince + gateDelay s) s
  putUnit u { unitOf s1 u with gate := .powerGated } s1

/-- R461: an idle engine power-gates. -/
def execPowerGateDelayExpiry (u : UnitRef) (s : State) : Res :=
  .next (if mayGate s u then powerGate u s else s)

/-! ### Spare swaps -/

/-- Every unit of a Station of one kind. -/
def stationUnits (u : UnitRef) : List UnitRef :=
  match u with
  | .lantern st _ => (List.finRange 5).map (.lantern st)
  | .wick st _ => (List.finRange 9).map (.wick st)

/-- R75: the Station's spare of the unit's kind that has passed a test since it powered up; a running test is aborted. -/
def testedSpare (s : State) (u : UnitRef) : Option UnitRef :=
  (stationUnits u).find? fun v => ((unitOf s v).role = .spare || (unitOf s v).role = .test) && (unitOf s v).katPassed

/-- R362: the placement record in force names the new unit. -/
def remapPlacement (u v : UnitRef) (i : Nat) (s : State) : State :=
  let b := bankOf s s.run.bank
  match b.placement with
  | none => s
  | some p =>
    let sts := p.stations.map fun r =>
      if r.phys != uStn u then r
      else if uKind u = 0 then { r with lantMap := r.lantMap.set i (uIdx v) } else { r with wickMap := r.wickMap.set i (uIdx v) }
    putBank s.run.bank { b with placement := some { p with stations := sts } } s

/-- R383: an event entry of the Ledger; past the 1,024th it is lost, with notice 0x0090. -/
def ledEvent (type code step rank watch : Nat) (detail : List Byte) (s : State) : State :=
  if s.led.events.length < 1024 then
    let e := leBytes 1 type ++ [0] ++ leBytes 2 code ++ leBytes 4 step ++ leBytes 4 rank ++ leBytes 8 watch ++ slice detail 0 12
    { s with led := { s.led with events := s.led.events ++ [e] } }
  else raise 0x0090 pgLdg 0 0x0090 (jobLow s) 0 { s with led := { s.led with eventsLost := min 0xFFFF (s.led.eventsLost + 1) } }

/-- R107: the curve tables move with a Wick pair's number; the spare's code region is empty. -/
def carryCurves (u v : UnitRef) (s : State) : State :=
  match u, v with
  | .wick st p, .wick _ q => putWick st q { wickOf s st q with curves := (wickOf s st p).curves, resident := [] } s
  | _, _ => s

/-- R75, R362: the spare takes over the logical number, the stream and the Stream Position, which belong to the engine index. -/
def swapIn (u v : UnitRef) (s : State) : State :=
  let i := ((unitOf s u).logical).getD 0
  let idle := (unitOf s u).idleSince
  let s1 := carryCurves u v (remapPlacement u v i s)
  let s2 := enableUnit (unitPage v)
    (putUnit v { unitOf s1 v with role := .enabled, logical := some i, katRunning := false, idleSince := idle } s1)
  let s3 := darken u (putUnit u { unitOf s2 u with suspect := false } s2)
  let s4 := emit (.notice 0x0081 [uStn u, uKind u, uIdx u, uIdx v]) <| regCount (pageBase pgRcv + 0x4C) (raise 0x0081 pgRcv 1 0x0081 s.run.step s.fab.part.rank s3)
  ledEvent 2 0x0081 s.run.step s.fab.part.rank s.watch
    ([BitVec.ofNat 8 (uStn u), BitVec.ofNat 8 (uKind u), BitVec.ofNat 8 (uIdx u), BitVec.ofNat 8 (uIdx v)])
    { s4 with recov := { s4.recov with swapped := u :: v :: s4.recov.swapped } }

end Sys2Proof.Machine
end

