-- ==== Sys2Proof/Machine/JobEnd.lean ====
section
/-! DEFINITION. What ends a job and what is owed after it: completions (R404, R414), the placement record (R235), the Ledger record
and its store (R381 to R390), DRAINING (R408, R415) and the FAULTED end (R364). -/

namespace Sys2Proof.Machine

/-! ### Queues and completions -/

def queueReset : Queue := ⟨false, false, 0, 0, 0, 0, 0, true, []⟩
def queueOf (s : State) (q : Nat) : Queue := tget queueReset s.jobs.queues q
def putQueue (q : Nat) (k : Queue) (s : State) : State := { s with jobs := { s.jobs with queues := tput s.jobs.queues q k } }

/-- R402: entries of a ring. -/
def ringSize (s : State) (q : Nat) : Nat := 2 ^ bits (regGet s (pageBase pgPci + 0x110 + q * 0x20)) 7 4

/-- R414: a completion record of 64 bytes, PHASE and SQ_HEAD still to set. -/
def compRecord (status flags slot sqIndex tag launch endOff steps cause replays rank : Nat) : List Byte :=
  leBytes 2 status ++ leBytes 1 flags ++ leBytes 1 slot ++ leBytes 2 0 ++ leBytes 2 sqIndex ++ leBytes 8 tag ++
    leBytes 8 launch ++ leBytes 8 endOff ++ leBytes 4 steps ++ leBytes 2 cause ++ leBytes 2 replays ++ leBytes 4 rank ++
    leBytes 20 0

/-- R404: a completion waits for its ring. A halted Keeper posts none (R414). -/
def postComp (q : Nat) (rec_ : List Byte) (s : State) : State :=
  if s.jobs.halted then s
  else let k := queueOf s q; putQueue q { k with comps := k.comps ++ [rec_] } s

/-- R410: a 256-byte result block. -/
def resultBlock (bs : List Byte) : List Byte := slice bs 0 256

/-- R410, R412: a command completes: its result block and its completion record, on the admin queue or over MCTP. -/
def cmdDone (c : CmdFrom) (status : Nat) (result : List Byte) (s : State) : State :=
  let rec_ := compRecord status 0 0 c.sqIndex c.tag 0 0 0 0 0 0
  if c.mctp then emit (.reply "mctp" (rec_ ++ (if result.isEmpty then [] else resultBlock result))) s
  else
    let s1 := if status = 0 && !result.isEmpty && c.resultPtr != 0
      then emit (.hostWrite c.resultPtr (resultBlock result)) s else s
    postComp 64 rec_ s1

/-- R417: a command refused in the present state completes with 0x2040, which is recorded. -/
def cmdConflict (c : CmdFrom) (s : State) : State :=
  cmdDone c 0x2040 [] (conflict (if c.mctp then 0x7F else 64) 0 s)

/-! ### Job records -/

def jVersion (r : List Byte) : Nat := field r 0 2
def jBank (r : List Byte) : Nat := field r 2 1
def jMooring (r : List Byte) : Nat := field r 3 1
def jFlags (r : List Byte) : Nat := field r 4 4
def jId (r : List Byte) : Nat := field r 8 8
def jSeed (r : List Byte) (i : Nat) : Nat := field r (0x10 + 8 * i) 8
def jPid (r : List Byte) : Nat := field r 0x30 4
def jNpatch (r : List Byte) : Nat := field r 0x34 1
def jNbuf (r : List Byte) : Nat := field r 0x35 1
def jNoReplay (r : List Byte) : Bool := bitAt (jFlags r) 0
def jLeading (r : List Byte) : Bool := bitAt (jFlags r) 1

/-- R414: the completion of a job refused before launch. -/
def refuseJob (j : Job) (own : Bool) (status : Nat) (s : State) : State :=
  if own then postComp j.queue (compRecord status 0 0 j.sqIndex (jId j.record) 0 0 0 0 0 0) s else s

/-- R407: where a buffer of this member stands: space and byte address. -/
def bufAddr (s : State) (b : Nat) (e : BufEnt) : Option (Nat × Nat) :=
  match (bankOf s b).img, (bankOf s b).placement with
  | some im, some pl => (tensorAddr im pl e.tensor).map fun a => (a.1, a.2 + e.off)
  | _, _ => none

/-- R382: the buffers that lie in this member's memory, by KIND bit, in job-record order. -/
def ownBufs (s : State) (j : Job) (bit : Nat) : List BufEnt :=
  j.bufs.filter fun e => bitAt e.kind bit && e.rank = s.fab.part.rank

/-- R382: a hash over buffers: each contributes its length and its bytes, which are read under their code (R183, R185). -/
def bufHash (j : Job) (bit : Nat) : M (List Byte) := do
  let s ← get
  let bs ← (ownBufs s j bit).mapM fun e =>
    match bufAddr s (jBank j.record) e with
    | some (sp, a) => do pure (leBytes 8 e.len ++ (← readMem sp a e.len))
    | none => pure (leBytes 8 e.len)
  pure (sha3 bs.flatten)

/-- R382: PATCH_HASH. -/
def patchHash (j : Job) : List Byte := sha3 (j.patches.flatMap fun p => leBytes 1 p.1 ++ leBytes 8 p.2)

/-! ### The placement record -/

/-- R235: one Station's record. -/
def placedBytes (im : Image) (r : PlacedSt) : List Byte :=
  let v := im.variants[r.variant]?
  let pushed := (v.map fun v => v.streams.zipIdx.foldl (fun a e => if e.1.pushed then a + 2 ^ e.2 else a) 0).getD 0
  let pad (l : List Nat) (n : Nat) : List Byte := (List.range n).map fun i => BitVec.ofNat 8 (l.getD i 0xFF)
  let lay := (r.tensors.foldl (fun (a : List Placed) t =>
    a.filter (fun u => u.id < t.id || (u.id = t.id && u.copy < t.copy)) ++ [t] ++
      a.filter (fun u => t.id < u.id || (u.id = t.id && t.copy < u.copy))) []).flatMap fun t =>
        leBytes 2 t.id ++ leBytes 1 t.copy ++ leBytes 1 t.space ++ leBytes 4 0 ++ leBytes 8 t.addr
  leBytes 1 r.phys ++ leBytes 1 r.variant ++ leBytes 1 r.lanterns ++ leBytes 1 r.wicks ++ pad r.lantMap 5 ++ pad r.wickMap 9 ++
    leBytes 3 pushed ++ leBytes 11 0 ++ sha3 lay

/-- R235: the 1,152 bytes of a bank's placement record. -/
def placementBytes (b : Nat) (k : Bank) : List Byte :=
  match k.img, k.placement with
  | some im, some p =>
    leBytes 4 0x43524C50 ++ leBytes 2 1 ++ leBytes 1 b ++ leBytes 1 p.stepping ++ slice k.hash 0 32 ++ slice p.darkHash 0 32 ++
      slice p.sectorHash 0 32 ++ leBytes 4 k.fq ++ leBytes 4 p.fwSet ++ leBytes 8 p.jobArea ++ leBytes 8 p.moorBase ++
      slice (p.stations.flatMap (placedBytes im)) 0 1024
  | _, _ => List.replicate 1152 0

/-- The placement record hash of a bank. -/
def placementHash (s : State) (b : Nat) : List Byte := sha3 (placementBytes b (bankOf s b))

/-! ### The Ledger store -/

/-- R390: BAR2 offset of slot 0: the Keeper's reserved DRAM of Station 15 (DESIGN CHOICE, assumption 7). -/
def storeBase : Nat := 0x1FFC000000

/-- R390: where a slot stands. -/
def slotAddr (i : Nat) : Nat := storeBase + i * 0x40000

/-- R390: STATE of a slot: 0 EMPTY, 1 PENDING, 2 SIGNED, 3 INCOMPLETE. -/
def slotState (s : State) (i : Nat) : Nat := (rd s.dram (slotAddr i)).toNat

def putSlotState (i v : Nat) (s : State) : State := pokeMem 1 (slotAddr i) (leBytes 1 v) s

/-- R387: records PENDING. -/
def pendingSlots (s : State) : Nat := ((List.range 256).filter fun i => slotState s i = 1).length

/-- R390: the slot that the next record takes: the next in ring order that is not PENDING. -/
def nextFree (s : State) : Nat :=
  let n := bits (regGet s (pageBase pgLdg + 0x48)) 7 0
  (findNat (fun k => slotState s ((n + k) % 256) != 1) 256 0).map (fun k => (n + k) % 256) |>.getD n

/-- R387, R390: a record is written into the next slot, which becomes PENDING; the answer is the slot. -/
def storeRecord (jobId : Nat) (rec_ : List Byte) (s : State) : Nat × State :=
  let i := nextFree s
  let s1 := if slotState s i = 2 || slotState s i = 3 then raise 0x0091 pgLdg 1 0x0091 (jobId % 2 ^ 32) 0 s else s
  let head := leBytes 1 1 ++ leBytes 3 0 ++ leBytes 4 rec_.length ++ leBytes 8 jobId ++ leBytes 48 0
  (i, regPut (pageBase pgLdg + 0x48) ((i + 1) % 256) (pokeMem 1 (slotAddr i) (head ++ rec_) s1))

/-- R381: the Ledger record of the job in force. -/
def ledgerRecord (s : State) (a : Active) : List Byte :=
  let j := a.job
  let b := jBank j.record
  let k := bankOf s b
  let root := (k.img.map Image.root).getD []
  let fwd := s.kpr.forwarded
  let flags := b2n (strictOn s) + b2n fwd * 2 + b2n (s.run.replay && bitAt (regGet s (pageBase pgRcv + 0x10)) 0) * 4 + b2n (jLeading j.record) * 8 + b2n s.led.hostFed * 16
  leBytes 4 0x524C4A46 ++ leBytes 2 1 ++ leBytes 2 flags ++ leBytes 8 (jId j.record) ++ leBytes 4 s.fab.part.pid ++
    leBytes 4 s.fab.part.rank ++ leBytes 4 s.fab.part.chips ++ leBytes 1 b ++ leBytes 1 (jMooring j.record) ++
    leBytes 2 a.endCode ++ slice k.hash 0 32 ++ slice root 0 32 ++ slice a.inputHash 0 32 ++ slice a.outputHash 0 32 ++
    patchHash j ++ ((List.range 4).flatMap fun i => leBytes 8 (jSeed j.record i)) ++
    leBytes 4 ((k.placement.map Placement.fwSet).getD 0) ++ leBytes 4 a.steps ++ leBytes 8 (a.launch.getD 0) ++
    leBytes 8 a.endOffset ++ leBytes 8 0 ++ slice a.darkHash 0 32 ++ slice a.placeHash 0 32 ++
    ((List.range 12).flatMap fun i => leBytes 8 (nget s.led.checks i)) ++ leBytes 4 s.led.events.length ++
    leBytes 4 s.led.taps.length ++ leBytes 4 s.led.late ++ leBytes 2 s.led.eventsLost ++ leBytes 2 s.led.tapsLost ++
    placementHash s b ++ leBytes 48 0 ++ s.led.events.flatten ++ s.led.taps.flatten

/-- R414: the completion of a job that ran, its FLAGS and SLOT still to set. -/
def jobComp (a : Active) : List Byte :=
  compRecord a.endCode 0 0 a.job.sqIndex (jId a.job.record) (a.launch.getD 0) a.endOffset a.steps
    (if a.cause = 0 then 0 else a.cause) (min 0xFFFF a.replays) a.causeRank

/-- R385, R414: what is owed after the job. -/
def endedOf (s : State) (a : Active) (rec_ : List Byte) : Ended :=
  { slot := 0, jobId := jId a.job.record, pid := s.fab.part.pid, rank := s.fab.part.rank, chips := s.fab.part.chips, recLen := rec_.length
    recHash := sha3 rec_, signed := false, parted := false, begun := false, certs := [], endedAt := s.watch
    queue := if a.own then some a.job.queue else none, comp := jobComp a }

/-- R403, R414: FLAGS and SLOT of a job's completion: SLOT_VALID always, PARTITION_CERT as given. -/
def finalComp (e : Ended) (cert : Bool) : List Byte :=
  putField (putField e.comp 2 1 (4 + b2n cert * 2)) 3 1 e.slot

/-- Post an ended job's completion. -/
def postJob (e : Ended) (cert : Bool) (s : State) : State :=
  match e.queue with
  | some q => postComp q (finalComp e cert) s
  | none => s

/-- R437: a signature meets a scope that withholds the Daymark: 0x5031. -/
def noteWithheld (s : State) : State := if s.kpr.fuses.kill then s else raise 0x5031 pgSec 4 0x5031 0 0 s

/-- R387, R390, R437: put a record in the store; withheld, its slot stays INCOMPLETE and the completion is posted at once. -/
def bookRecord (e : Ended) (rec_ : List Byte) (s : State) : State :=
  let r := storeRecord e.jobId rec_ s
  let e1 := { e with slot := r.1 }
  if daymarkOff s then postJob e1 false (putSlotState r.1 3 (noteWithheld r.2))
  else { r.2 with jobs := { r.2.jobs with ended := r.2.jobs.ended ++ [e1] } }

/-- R387: write the record, or hold it in private SRAM while STRICT_ACTIVE is 1 and a job is RUNNING. -/
def writeLedger (a : Active) (s : State) : State :=
  let rec_ := ledgerRecord s a
  let e := endedOf s a rec_
  if strictOn s && s.life = .running then { s with jobs := { s.jobs with deferred := s.jobs.deferred ++ [(e, rec_)] } }
  else bookRecord e rec_ s

/-- END_JOB commands that waited for the job complete (R410, R411). -/
def answerEnds (jobId : Nat) (s : State) : State :=
  let mine := s.jobs.endCmds.filter fun e => e.1 = jobId
  mine.foldl (fun t e => cmdDone e.2 0 [] t)
    { s with jobs := { s.jobs with endCmds := s.jobs.endCmds.filter fun e => e.1 != jobId } }

/-! ### Stopping the engines -/

/-- R357 step 1: an engine stops; its descriptor is abandoned. -/
def stopEng (e : Engine) : Engine :=
  { e with cur := none, waiting := none, atBreak := none, resumed := false }

/-- R357 step 1, R109: every engine stops; stores not yet compared, dirty sets and scratch go with their descriptors. -/
def stopAll (s : State) : State :=
  { s with
    engs := tmap (fun _ e => stopEng e) s.engs
    wicks := tmap (fun _ k => { k with inKernel := false, stalled := none, verified := [], dirty := [] }) s.wicks }

/-! ### The ends of a job -/

/-- R408: the DMA copies of OUTPUT buffers with HOSTADDR. -/
def outDmas (s : State) (j : Job) : List Dma :=
  (ownBufs s j 1).filterMap fun e =>
    if e.host = 0 then none
    else (bufAddr s (jBank j.record) e).map fun a => ⟨true, a.1, a.2, e.len, e.host, s.watch⟩

/-- R381: the Watch count at which the last activity of the engines ended. -/
def lastActive (s : State) : Nat := s.engs.foldl (fun m e => max m e.2.lastAct) 0

/-- R381: END_OFFSET: the last step has ended locally with its last descriptor. -/
def endOffset (s : State) (a : Active) : Nat := lastActive s - a.launch.getD 0

/-- R415: output copied and the record written: DRAINING to LOADED, or to READY when no bank is left. -/
def finishDrain (a : Active) (s : State) : State :=
  let s1 := writeLedger { a with endCode := if a.dmaFailed then 0x20B1 else a.endCode } s
  answerEnds (jId a.job.record)
    { s1 with
      life := .loaded
      jobs := { s1.jobs with active := none }
      run := { s1.run with endStep := none }
      fab := { s1.fab with go := none, part := { s1.fab.part with detours := [] } } }

/-- R355, R356: a hold goes out in the next reserved Flash of every member link. -/
def sendHold (h : Hold) (s : State) : State :=
  { s with recov := { s.recov with sends := s.recov.sends ++ [(h, memberLinks s)] } }

/-- R364, R371: a terminal cause: a hold with that cause, engines stop without rollback, FAULTED, FOG_N, and the Ledger record is
written. -/
def faulted (code step rank : Nat) (s : State) : State :=
  let s1 := ledEvent 5 code step rank s.watch [] (stopAll (sendHold ⟨step, code, rank⟩ s))
  let s2 := assertFog code { s1 with life := .faulted, recov := { s1.recov with terminal := some (code, rank), origin := none } }
  match s2.jobs.active with
  | none => s2
  | some a =>
    let a1 := { a with
      endOffset := if s.life = .armed then 0 else if a.endCode = 0 && s.life != .draining then endOffset s a else a.endOffset
      endCode := code, causeRank := rank
      steps := if s.life = .draining then a.steps else s.recov.committed }
    answerEnds (jId a.job.record)
      (writeLedger a1 { s2 with jobs := { s2.jobs with active := none }, fab := { s2.fab with go := none } })

/-- R188: data outside a step that no source restores: 0x2091 in the page of the memory, and the job stops in FAULTED. -/
def dataLost (f : Fail) (s : State) : State :=
  faulted 0x2091 s.run.step s.fab.part.rank (match f.tile with
    | some (space, a) => noSource space a s
    | none => report 0x2091 pgKpr s)

/-- R415: the job leaves RUNNING or HELD for DRAINING: outputs are hashed, then copied to the host. -/
def startDrain (code cause rank steps : Nat) (s : State) : State :=
  match s.jobs.active with
  | none => s
  | some a =>
    let a1 := { a with
      endOffset := endOffset s a, endCode := code, cause := cause, causeRank := rank, steps := steps, dma := outDmas s a.job }
    let s1 := { stopAll s with life := .draining, jobs := { s.jobs with active := some a1 } }
    match (bufHash a.job 1).go s1 with
    | (.ok h, s2) => { s2 with jobs := { s2.jobs with active := some { a1 with outputHash := h } } }
    | (.error f, s2) => dataLost f s2

/-- Every loaded stream has halted and every pushed queue is empty: the job has no further step (R121, R169). -/
def allHalted (s : State) : Bool :=
  s.engs.all fun e => !e.2.present || (e.2.cur.isNone && (if e.2.pushed then e.2.queue.isEmpty else e.2.halted))

/-- R415: when the last step ends locally the job drains. -/
def checkLast (s : State) : State :=
  if s.life = .running && s.engs.any (fun e => e.2.present && !e.2.pushed) && allHalted s && s.recov.faults.isEmpty
    then startDrain 0 0 0 (s.run.step + 1) s else s

/-- R152: a descriptor completes; with the last one of the job the module drains (R415). -/
def execDescriptorComplete (g : Eng) (s : State) : Res :=
  .next (match dueDesc s g with
    | some l => checkLast (complete g l s)
    | none => s)

end Sys2Proof.Machine
end

