-- ==== Sys2Proof/Machine/Time.lean ====
section
/-! DEFINITION. Fabric time (R329 to R343): time of day, Wenson time frames, the two domains, the servo, and the PPS and TOD
signals. The model keeps one Watch for the master and its replicas (assumption 8). -/

namespace Sys2Proof.Machine

def timeOf (s : State) : TimeSt := s.fab.time
def putTime (t : TimeSt) (s : State) : State := { s with fab := { s.fab with time := t } }

/-- R243: this chip's number. -/
def chipNo (s : State) : Nat :=
  nth s.fab.pos 0 + 25 * nth s.fab.pos 1 + 625 * nth s.fab.pos 2 + 15625 * nth s.fab.pos 3

/-- R347: TIM_CONTROL. -/
def timCtl (s : State) : Nat := regGet s (pageBase pgTim + 0x10)
def gmDomain (s : State) : Nat := bits (timCtl s) 1 0

/-- The domain that the chip is configured grandmaster of: B or A. -/
def gmOf (s : State) (domB : Bool) : Bool := gmDomain s = (if domB then 2 else 1)

def domOf (s : State) (domB : Bool) : Dom := if domB then s.fab.time.domB else s.fab.time.domA
def putDom (domB : Bool) (d : Dom) (s : State) : State :=
  putTime (if domB then { s.fab.time with domB := d } else { s.fab.time with domA := d }) s

/-- An event of the TIM page: OFFSET and RANK captured (R347). -/
def timEvent (code bit : Nat) (off : Int) (rank : Nat) (s : State) : State := raise code pgTim bit code (wrapInt 32 off) rank s

/-- The last offset to the active domain, which an event without a sync of its own captures (R347). -/
def offNow (s : State) : Int := (domOf s s.fab.time.actB).offset

/-! ### Locked fields -/

/-- R480: a page's RWL fields are frozen. -/
def pageLocked (s : State) (p : Nat) : Bool := bitAt (regGet s (pageBase p + 0x30)) 0

/-- Hardware adds 1 to a saturating 16-bit counter. -/
def regCount16 (a : Nat) (s : State) : State := regPut a (min 0xFFFF (regGet s a + 1)) s

/-- R480: a host write that met a lock counts in LOCKED_WRITES. -/
def countLocked (p : Nat) (s : State) : State := regCount16 (pageBase p + 0x38) s

/-! ### Time of day -/

/-- 2^32 units of a second. -/
def secUnits : Int := 1000000000 * 2 ^ 32

/-- R332: ToD in 2^-32 ns at a Watch count, from an anchor and INC. -/
def todAtWatch (sec ns frac wa inc : Nat) (w : Int) : Int :=
  sec * secUnits + ns * 2 ^ 32 + frac + (w - wa) * inc

/-- R335: the extended ORIGIN of an accepted block. -/
def extOrigin (b : TimeBlk) : Nat :=
  let x : Int := b.at_ - b.corr / 65536
  (x - (x - b.origin) % 2 ^ 32).toNat

/-- R347: TIM_TOD_INC. -/
def todInc (s : State) : Nat := regGet s (pageBase pgTim + 0x58) + 2 ^ 32 * regGet s (pageBase pgTim + 0x5C)

/-- R337: the chip is grandmaster of a domain and has not yielded it. -/
def gmLive (s : State) (domB : Bool) : Bool := gmOf s domB && !(domOf s domB).yielded

/-- R332: the time of day that this chip counts itself, at a Watch count. -/
def ownTod (s : State) (w : Nat) : Int :=
  let t := s.fab.time
  todAtWatch t.anchorSec t.anchorNs t.anchorFrac t.anchorW (todInc s) w

/-- R332, R338: ToD of this chip at a Watch count, in 2^-32 ns: the grandmaster's own, else the active domain's with W − D. -/
def todUnits (s : State) (w : Nat) : Int :=
  let t := s.fab.time
  if gmLive s t.actB then ownTod s w
  else match (domOf s t.actB).blk with
    | some b => todAtWatch b.anchorSec b.anchorNs b.anchorFrac (extOrigin b / 2 ^ 32 * 2 ^ 32) b.inc ((w : Int) - t.target)
    | none => ownTod s w

/-- Seconds, nanoseconds and fraction of a time of day. -/
def secOf (u : Int) : Nat := (u / secUnits).toNat % 2 ^ 48
def nsOf (u : Int) : Nat := (u % secUnits / 2 ^ 32).toNat
def fracOf (u : Int) : Nat := (u % 2 ^ 32).toNat

def todSec (s : State) (w : Nat) : Nat := secOf (todUnits s w)
def todNs (s : State) (w : Nat) : Nat := nsOf (todUnits s w)

/-- INC in force: the grandmaster's, else the active domain's. -/
def incNow (s : State) : Nat :=
  if gmLive s s.fab.time.actB then todInc s else ((domOf s s.fab.time.actB).blk.map TimeBlk.inc).getD (todInc s)

/-- R332: this chip's own count goes on from its present value at the present Watch count. -/
def reanchor (s : State) : State :=
  let u := ownTod s s.watch
  putTime { s.fab.time with anchorW := s.watch, anchorSec := secOf u, anchorNs := nsOf u, anchorFrac := fracOf u } s

/-- R332, R347: INC is written on a grandmaster only; with a PPS input it stays 1.0. What has been counted stays as it is. -/
def setTodInc (value : Nat) (s : State) : State :=
  if pageLocked s pgTim then countLocked pgTim s
  else if gmDomain s = 0 || s.fab.time.ppsValid then s
  else regPut64 (pageBase pgTim + 0x58) value (reanchor s)

/-! ### Time frames -/

/-- R333: the 44 bytes of a domain block. -/
def blkBytes (b : TimeBlk) : List Byte :=
  leBytes 4 b.gmid ++ leBytes 1 b.steps ++ leBytes 1 b.gmclass ++ leBytes 1 b.leap ++ leBytes 1 0 ++ leBytes 4 b.origin ++
    leBytes 8 (wrapInt 64 b.corr) ++ leBytes 6 b.anchorSec ++ leBytes 2 (wrapInt 16 b.utc) ++ leBytes 4 b.anchorNs ++
    leBytes 4 b.anchorFrac ++ leBytes 8 b.inc

/-- R333: a domain block of a time frame, as it arrived. -/
def blkOf (f : List Byte) (o at_ path : Nat) : TimeBlk :=
  { gmid := field f o 4, steps := field f (o + 4) 1, gmclass := field f (o + 5) 1, leap := field f (o + 6) 1 % 4
    origin := field f (o + 8) 4, corr := fieldInt f (o + 0xC) 8, anchorSec := field f (o + 0x14) 6
    utc := fieldInt f (o + 0x1A) 2, anchorNs := field f (o + 0x1C) 4, anchorFrac := field f (o + 0x20) 4
    inc := field f (o + 0x24) 8, at_ := at_, path := path }

/-- R335, R339, R342: a block that this chip originates at a departure Watch; a grandmaster without a TOD input sends UTC_OFFSET 0 and
LEAP 0. -/
def ownBlk (s : State) (cls w : Nat) : TimeBlk :=
  let wa := w / 2 ^ 32 * 2 ^ 32
  let u := if cls = 2 then todUnits s wa else ownTod s wa
  let mute := cls != 2 && s.fab.time.todAt.isNone
  { gmid := chipNo s, steps := 0, gmclass := cls, leap := if mute then 0 else s.fab.time.leap, origin := w % 2 ^ 32, corr := 0
    anchorSec := secOf u, utc := if mute then 0 else s.fab.time.utc, anchorNs := nsOf u, anchorFrac := fracOf u
    inc := if cls = 2 then incNow s else todInc s, at_ := w, path := 0 }

/-- R335: a forwarded block: STEPS one more, CORRECTION longer by the path delay and the residence. -/
def forwardBlk (b : TimeBlk) (w : Nat) : TimeBlk :=
  { b with steps := b.steps + 1, corr := b.corr + ((b.path : Int) + w - b.at_) * 65536 }

/-- R335, R337, R339: the block of a domain that the chip sends, if any. -/
def sendBlk (s : State) (domB : Bool) (w : Nat) : Option TimeBlk :=
  let d := domOf s domB
  if gmLive s domB then some (ownBlk s (if s.fab.time.ppsValid then 0 else 1) w)
  else if d.valid then d.blk.map fun b => forwardBlk b w
  else if !domB && s.fab.time.servo = .holdover then some (ownBlk s 2 w)
  else none

/-- R333: the 128 bytes of the time frame that leaves at a Watch count; the GO block only on member links (R344). -/
def timeFrame (s : State) (member : Bool) (w : Nat) : List Byte :=
  let a := sendBlk s false w
  let b := sendBlk s true w
  let go := if member then s.fab.go else none
  let blk (x : Option TimeBlk) : List Byte := (x.map blkBytes).getD (List.replicate 44 0)
  leBytes 1 1 ++ leBytes 1 (b2n a.isSome + 2 * b2n b.isSome + 4 * b2n go.isSome) ++ leBytes 2 0 ++ leBytes 4 (chipNo s) ++
    blk a ++ blk b ++ (match go with
      | some g => leBytes 4 g.pid ++ leBytes 1 g.bank ++ leBytes 3 0 ++ leBytes 8 g.watch ++ leBytes 8 g.job ++ leBytes 8 0
      | none => List.replicate 32 0)

/-! ### The servo -/

/-- R331: the Watch may step, in ACQUIRE and outside ARMED, RUNNING, HELD and DRAINING. -/
def mayStep (s : State) : Bool := s.fab.time.servo = .acquire && !(s.life = .armed || s.life = .running || s.life = .held || s.life = .draining)

/-- The servo trims the reference: the spec gives no law for the trim, so its value is free. -/
def slew (s : State) : State := bumpFree (putTime { s.fab.time with trim := s.free } s)

/-- R336: entering LOCKED, with notice 0x0072. -/
def toLocked (off : Int) (s : State) : State :=
  timEvent 0x0072 2 off 0 (putTime { s.fab.time with servo := .locked, good := 0, bad := 0 } s)

/-- R336: LOCKED or HOLDOVER to ACQUIRE: 0x3021, a detected fault while RUNNING. -/
def lockLost (off : Int) (s : State) : State :=
  let s1 := timEvent 0x3021 4 off 0 (putTime { s.fab.time with servo := .acquire, good := 0, bad := 0 } s)
  if s.life = .running then detect 0x3021 .chip none s1 else s1

/-- R336: ACQUIRE steps when R331 allows and the offset is beyond 100 ticks, else slews; 64 good syncs lock. -/
def acquireSync (e off : Int) (s : State) : State :=
  if 100 < e.natAbs && mayStep s then putTime { s.fab.time with stepBy := some (-off), good := 0 } s
  else
    let s1 := slew s
    let n := if e.natAbs ≤ 2 then s1.fab.time.good + 1 else 0
    if n = 64 then toLocked off s1 else putTime { s1.fab.time with good := n } s1

/-- R336: one sync of the active domain, by the servo's state. -/
def servoSync (off : Int) (s : State) : State :=
  let t := s.fab.time
  let e := off - t.target
  match t.servo with
  | .free => putTime { t with servo := .acquire, good := 0, bad := 0 } s
  | .acquire => acquireSync e off s
  | .locked =>
    let n := if 4 < e.natAbs then t.bad + 1 else 0
    if n = 4 then lockLost off s else slew (putTime { t with bad := n } s)
  | .holdover => if e.natAbs ≤ 2 then toLocked off s else if 4 < e.natAbs then lockLost off s else slew s

/-! ### Domains -/

/-- R337: ranking of two blocks: GMCLASS, then GMID, then STEPS, then link. -/
def blkBetter (a b : Nat × TimeBlk) : Bool :=
  if a.2.gmclass != b.2.gmclass then decide (a.2.gmclass < b.2.gmclass)
  else if a.2.gmid != b.2.gmid then decide (a.2.gmid < b.2.gmid)
  else if a.2.steps != b.2.steps then decide (a.2.steps < b.2.steps) else decide (a.1 < b.1)

/-- The best of a list of blocks by link. -/
def bestBlk : List (Nat × TimeBlk) → Option (Nat × TimeBlk)
  | [] => none
  | x :: r => match bestBlk r with
    | none => some x
    | some y => if blkBetter y x then some y else some x

/-- R268, R337: 8 control periods of a link. -/
def eightPeriods (s : State) (l : Nat) : Nat := 8 * 100 * flashTicks (linkOf s l).rate

/-- R337: blocks that UP links have carried within 8 control periods. -/
def liveBlks (s : State) (d : Dom) : List (Nat × TimeBlk) :=
  d.seen.filter fun e => (linkOf s e.1).st = .up && decide (s.watch ≤ e.2.at_ + eightPeriods s e.1)

/-- R338: the mean of a domain's 64 offsets, rounded down (DESIGN CHOICE, assumption 9). -/
def meanOff (d : Dom) : Int := d.syncs.foldl (· + ·) 0 / 64

/-- R338: switch to the other domain with its held offset, and notice 0x0070. -/
def switchDomain (domB : Bool) (s : State) : State :=
  let d := domOf s domB
  let h := if d.eligible then meanOff d else d.held
  let s1 := putDom domB { d with held := h } s
  timEvent 0x0070 0 d.offset 0 (regPut (pageBase pgTim + 0x64) (wrapInt 32 h)
    (putTime { s1.fab.time with actB := domB, target := h, good := 0, bad := 0, interim := false } s1))

/-- R337: a grandmaster whose own block ranks below a received one stops originating, with notice 0x0071. -/
def yieldTo (domB : Bool) (b : TimeBlk) (s : State) : State :=
  let d := domOf s domB
  let own := ownBlk s (if s.fab.time.ppsValid then 0 else 1) s.watch
  if gmOf s domB && !d.yielded && blkBetter (0, { b with steps := 0 }) (1, own) && b.gmid != own.gmid then
    timEvent 0x0071 1 d.offset 0 (putDom domB { d with yielded := true } s)
  else s

/-- TIM_OFFSET: a domain's last offset, saturated to 16 bits. -/
def putOffset (domB : Bool) (off : Int) (s : State) : State :=
  let v := wrapInt 16 (max (-32768) (min 32767 off))
  let a := pageBase pgTim + 0x60
  regPut a (if domB then setBits (regGet s a) 31 16 v else setBits (regGet s a) 15 0 v) s

/-- R339: a chip in HOLDOVER, or one that follows another interim grandmaster, adopts an interim grandmaster: the held offset is that of
its first valid sync. -/
def adoptInterim (off : Int) (s : State) : State :=
  let d := domOf s false
  let s1 := putDom false { d with held := off } s
  let s2 := regPut (pageBase pgTim + 0x64) (wrapInt 32 off)
    (putTime { s1.fab.time with actB := false, target := off, interim := true } s1)
  if s.fab.time.servo = .holdover then toLocked off s2 else s2

/-- R342: a follower takes UTC_OFFSET and LEAP from the blocks of its active domain. -/
def takeUtc (domB : Bool) (b : TimeBlk) (s : State) : State :=
  if s.fab.time.actB = domB && gmDomain s = 0 then putTime { s.fab.time with utc := b.utc, leap := b.leap } s else s

/-- R338: the chip leaves its active domain for an eligible one: the active domain is invalid, or an interim grandmaster was followed. -/
def leavesFor (domB : Bool) (d : Dom) (s : State) : Bool :=
  let t := s.fab.time
  d.eligible && (t.interim || (t.actB != domB && !(domOf s t.actB).valid && !gmLive s t.actB))

/-- R336, R338, R339: one sync of a domain steers the servo. -/
def syncServo (domB fresh : Bool) (b : TimeBlk) (d : Dom) (s : State) : State :=
  let t := s.fab.time
  if b.gmclass = 2 then
    if !domB && (t.servo = .holdover || (t.interim && fresh)) then adoptInterim d.offset s
    else if !domB && t.interim then servoSync d.offset s else s
  else if leavesFor domB d s then
    let s1 := switchDomain domB s
    if t.servo = .holdover then servoSync d.offset s1 else s1
  else if t.interim then s
  else if t.actB = domB then servoSync d.offset s
  else if t.servo = .free then putTime { t with servo := .acquire } s
  else s

/-- R335, R336: the sync that an accepted block of the upstream gives. -/
def domSync (domB : Bool) (b : TimeBlk) (s : State) : State :=
  let d := domOf s domB
  let off : Int := (b.at_ : Int) - (extOrigin b + b.corr / 65536 + b.path)
  let fresh := d.blk.map TimeBlk.gmid != some b.gmid
  let syncs := (off :: (if fresh then [] else d.syncs)).take 64
  let d1 := { d with blk := some b, valid := true, offset := off, syncs := syncs, eligible := decide (syncs.length = 64) }
  takeUtc domB b (syncServo domB fresh b d1 (putOffset domB off (putDom domB d1 s)))

/-- R337, R339: a block of this chip's own that comes back, or one of an interim grandmaster whose number is above that of a chip which
originates interim blocks itself: it ranks below what the chip sends. -/
def ranksBelow (domB : Bool) (b : TimeBlk) (s : State) : Bool :=
  b.gmid = chipNo s || (!domB && b.gmclass = 2 && s.fab.time.servo = .holdover && !(domOf s domB).valid && decide (chipNo s < b.gmid))

/-- R335, R337: a domain block received with its VALID flag. -/
def acceptBlk (l : Nat) (domB : Bool) (b : TimeBlk) (s : State) : State :=
  if ranksBelow domB b s then s else
  let d := domOf s domB
  let s1 := yieldTo domB b (putDom domB { d with seen := tput d.seen l b } s)
  match bestBlk (liveBlks s1 (domOf s1 domB)) with
  | none => s1
  | some (u, _) =>
    let s2 := putDom domB { domOf s1 domB with upstream := some u } s1
    if u = l && !gmLive s2 domB then domSync domB b s2 else s2

/-- R337: a link whose time frame leaves a domain's VALID flag clear carries no block of it any more. -/
def dropBlk (l : Nat) (domB : Bool) (s : State) : State :=
  let d := domOf s domB
  putDom domB { d with seen := terase d.seen l } s

/-- R312, R335: a time frame taken from a CONTROL frame of a control Flash. -/
def acceptTime (l : Nat) (f : List Byte) (s : State) : State :=
  let flags := field f 1 1
  let p := pathDelay (linkOf s l)
  let s1 := if bitAt flags 0 then acceptBlk l false (blkOf f 0x08 s.watch p) s else dropBlk l false s
  if bitAt flags 1 then acceptBlk l true (blkOf f 0x34 s.watch p) s1 else dropBlk l true s1

/-- R338, R339: a domain has been invalid for 8 control periods. -/
def domainLost (domB : Bool) (s : State) : State :=
  let d := domOf s domB
  let s1 := putDom domB { d with valid := false, syncs := [], eligible := false, upstream := none } s
  let t := s1.fab.time
  let o := domOf s1 (!domB)
  if t.actB = domB && o.eligible then switchDomain (!domB) s1
  else if o.valid then s1
  else
    let off := d.offset
    let s2 := putTime { t with servo := if t.servo = .free then .free else .holdover, interim := false } s1
    if t.servo = .locked then timEvent 0x0073 6 off 0 s2 else s2

/-- R338: a domain stays without an accepted block for 8 control periods. -/
def execDomainTimeout (domB : Bool) (s : State) : Res :=
  .next (let d := domOf s domB
    if d.valid then
      domainLost domB (watchTo ((d.blk.map TimeBlk.at_).getD 0 + eightPeriods s (d.upstream.getD 0)) s)
    else s)

/-- R338: a write of REVERT returns to the preferred domain when it is eligible. -/
def timeRevert (s : State) : State :=
  let p := bitAt (timCtl s) 2
  if p != s.fab.time.actB && (domOf s p).eligible then switchDomain p s else s

/-- R338: a write of REVERT to TIM_CONTROL. -/
def execTimeRevert (s : State) : Res := .next (hostWrite pgTim (pageBase pgTim + 0x10) timeRevert s)

/-! ### The Watch -/

/-- R330: one tick of the Watch, with no command waiting (DESIGN CHOICE, assumption 1). -/
def tick (s : State) : State := watchTo (s.watch + 1) s

/-- R331: a waiting step is applied, when the lifecycle state still allows it; D ends with it (R338). The 60 s of a nonce and
the trial timer count real time (R430, R450), so they move with the Watch. -/
def applyStep (s : State) : State :=
  match s.fab.time.stepBy with
  | none => s
  | some n =>
    let s1 := putTime { s.fab.time with stepBy := none } s
    if mayStep s then
      let w := ((s.watch : Int) + n).toNat % 2 ^ 64
      let sec := s1.kpr.sec
      { putTime { s1.fab.time with target := 0 } s1 with
        watch := w
        kpr := { s1.kpr with
          sec := { sec with nonce := sec.nonce.map fun x => (x.1, ((x.2 : Int) + w - s.watch).toNat) }
          upd := { s1.kpr.upd with trialAt := s1.kpr.upd.trialAt.map fun x => ((x : Int) + w - s.watch).toNat } } }
    else s1

/-- R330: the master's reference pulse at the next multiple of 1,000 ticks. -/
def execWatchReferencePulse (s : State) : Res := .next (applyStep { s with watch := roundUp s.watch 1000 })

/-! ### PPS and TOD -/

/-- R332, R340: ToD set at a Watch count to a whole second. -/
def anchorAt (w sec : Nat) (s : State) : State :=
  putTime { s.fab.time with anchorW := w, anchorSec := sec % 2 ^ 48, anchorNs := 0, anchorFrac := 0 } s

/-- The second nearest to a time of day. -/
def nearestSec (u : Int) : Nat := ((u + secUnits / 2) / secUnits).toNat

/-- R340: an edge of PPS_IN: stamped; three edges at the right spacing make it valid, until none arrives in time; a grandmaster's seconds
begin at it, and its INC is 1.0 (R332). -/
def ppsEdge (s : State) : State :=
  let t := s.fab.time
  let good := match t.ppsAt with
    | some p => decide (1000000000 - 100000 ≤ s.watch - p) && decide (s.watch - p ≤ 1000000000 + 100000)
    | none => false
  let run := if good then t.ppsRun + 1 else 1
  let valid := t.ppsValid || decide (3 ≤ run)
  let s1 := regPut64 (pageBase pgTim + 0x68) s.watch (putTime { t with ppsAt := some s.watch, ppsRun := run, ppsValid := valid } s)
  if valid && gmDomain s != 0 then
    slew (regPut64 (pageBase pgTim + 0x58) (2 ^ 32) (anchorAt s.watch (nearestSec (ownTod s s.watch)) s1))
  else s1

/-- R340: a rising edge of PPS_IN. -/
def execPpsInEdge (s : State) : Res := .next (ppsEdge s)

/-- R340: PPS_IN becomes invalid: a grandmaster raises 0x3020. -/
def ppsLost (s : State) : State :=
  let s1 := putTime { s.fab.time with ppsValid := false, ppsRun := 0, ppsAt := none } s
  if gmDomain s != 0 then timEvent 0x3020 3 (offNow s) 0 s1 else s1

/-- R340: no PPS edge within 1.1 × 10^9 ticks. -/
def execPpsTimeout (s : State) : Res :=
  .next (match s.fab.time.ppsAt with
    | some p => if s.fab.time.ppsValid then ppsLost (watchTo (p + 1100000000) s) else s
    | none => s)

/-- R341: a well-formed TOD message. -/
def todOk (m : List Byte) : Bool :=
  m.length = 16 && field m 0 1 = 0x57 && field m 1 1 = 0x54 && field m 2 1 = 1 && bitAt (field m 3 1) 0 &&
    (m.take 15).foldl (fun a b => a ^^^ b) 0 = m.getD 15 0

/-- R341: a message ends between 10 ms and 900 ms after the edge that it names. -/
def todInTime (s : State) : Bool :=
  match s.fab.time.ppsAt with
  | some p => decide (p + 10000000 ≤ s.watch) && decide (s.watch ≤ p + 900000000)
  | none => false

/-- R341, R342: a good message sets the seconds at its edge, the leap flags and UTC_OFFSET. -/
def todTake (m : List Byte) (s : State) : State :=
  let w := s.fab.time.ppsAt.getD s.watch
  let s1 := anchorAt w (field m 4 6) s
  putTime { s1.fab.time with todAt := some s.watch, todLost := false, leap := bits (field m 3 1) 2 1, utc := fieldInt m 0xA 2 } s1

/-- R341: a 16-byte message on TOD_RX. -/
def execTodMessageRx (msg : List Byte) (s : State) : Res :=
  .next (if gmDomain s = 0 then s
    else if todOk msg && todInTime s then todTake msg s
    else putTime { s.fab.time with todBad := satInc s.fab.time.todBad } s)

/-- R341: three seconds without a good message. -/
def execTodTimeout (s : State) : Res :=
  .next (let t := s.fab.time
    if gmDomain s = 0 || t.todLost then s
    else
      let s1 := watchTo ((t.todAt.map (· + 3000000000)).getD 0) s
      timEvent 0x3020 3 (offNow s) 0 (putTime { s1.fab.time with todLost := true } s1))

/-- R343: the next Watch count at which ToD nanoseconds wrap to 0. -/
def nextSecond (s : State) : Nat :=
  let left := secUnits - todUnits s s.watch % secUnits
  s.watch + ceilDiv left.toNat (max 1 (incNow s))

/-- R332: a waiting write of TIM_TOD_SEC takes effect at the second boundary. -/
def applySec (s : State) : State :=
  match s.fab.time.secWrite with
  | none => s
  | some v => let s1 := anchorAt s.watch v s; putTime { s1.fab.time with secWrite := none } s1

/-- R343: ToD nanoseconds wrap: PPS_OUT goes high, and the second's TOD_TX message is due 10 ms later. -/
def ppsOut (s : State) : State :=
  let s1 := applySec { s with watch := nextSecond s }
  let t := s1.fab.time
  let s2 := putTime { t with ppsHigh := some s1.watch, todDue := some s1.watch } s1
  if bitAt (timCtl s) 4 then emit (.pin "PPS_OUT" 1) s2 else s2

/-- R343: a second begins. -/
def execPpsOutPulse (s : State) : Res := .next (if s.fab.time.ppsHigh.isNone && s.fab.time.todDue.isNone then ppsOut s else s)

/-- R343: 100 ms after the edge PPS_OUT returns low. -/
def execPpsOutEnd (s : State) : Res :=
  .next (match s.fab.time.ppsHigh with
    | none => s
    | some w =>
      let s1 := watchTo (w + 100000000) s
      let s2 := putTime { s1.fab.time with ppsHigh := none } s1
      if bitAt (timCtl s) 4 then emit (.pin "PPS_OUT" 0) s2 else s2)

/-- R341, R343: the message for the second that began at a Watch count. VALID says that the chip is LOCKED or a grandmaster
(DESIGN CHOICE, assumption 9). -/
def todMessage (s : State) (w : Nat) : List Byte :=
  let valid := s.fab.time.servo = .locked || gmDomain s != 0
  let m := leBytes 1 0x57 ++ leBytes 1 0x54 ++ leBytes 1 1 ++ leBytes 1 (b2n valid + s.fab.time.leap * 2) ++
    leBytes 6 (nearestSec (todUnits s w)) ++ leBytes 2 (wrapInt 16 s.fab.time.utc) ++ leBytes 3 0
  m ++ [m.foldl (fun a b => a ^^^ b) 0]

/-- R343: 10 ms after the edge the TOD_TX message of the second is sent. -/
def execTodTxSend (s : State) : Res :=
  .next (match s.fab.time.todDue with
    | none => s
    | some w =>
      let s1 := watchTo (w + 10000000) s
      let s2 := putTime { s1.fab.time with todDue := none } s1
      if bitAt (timCtl s) 5 then emit (.reply "TOD_TX" (todMessage s w)) s2 else s2)

/-- R332, R347: a write to TIM_TOD_SEC on a grandmaster without TOD input. -/
def todSecWrite (value : Nat) (s : State) : State :=
  if pageLocked s pgTim then countLocked pgTim s
  else if gmDomain s != 0 && (s.fab.time.todAt.isNone || s.fab.time.todLost) then
    putTime { s.fab.time with secWrite := some (value % 2 ^ 48) } s
  else s

/-- R332, R347: TOD_SEC_WRITE. -/
def execTodSecWrite (value : Nat) (s : State) : Res :=
  .next (hostWrite pgTim (pageBase pgTim + 0x50) (todSecWrite value) s)

end Sys2Proof.Machine
end

