-- ==== Sys2Proof/Machine/Regs.lean ====
section
/-! DEFINITION. Reading and writing BAR0 (R470 to R475, R479 to R484): what the read-only fields show of the state, the latch and the
staging of 64-bit registers, and writes by access code. -/

namespace Sys2Proof.Machine

/-! ### What read-only fields show -/

def lifeCode : Life → Nat
  | .off => 0 | .keep => 1 | .ready => 2 | .loaded => 3 | .armed => 4 | .running => 5 | .held => 6 | .draining => 7
  | .updating => 8 | .faulted => 9

def roleCode : Role → Nat
  | .dark => 0 | .enabled => 1 | .spare => 2 | .test => 3

def linkCode : LinkSt → Nat
  | .down => 0 | .detect => 1 | .equalise => 2 | .auth => 3 | .position => 4 | .delay => 5 | .up => 6 | .resume => 7
  | .fenced => 8

def servoCode : Servo → Nat
  | .free => 0 | .acquire => 1 | .locked => 2 | .holdover => 3

def recCode : UpRec → Nat
  | .idle => 0 | .copying => 1 | .writing => 2 | .written => 3 | .trial => 4 | .confirming => 5 | .reverting => 6

/-- The engine bound to a Lantern or Wick pair by its logical number. -/
def boundEng (s : State) (n : Nat) (first : Nat) (u : UnitSt) : Engine :=
  match u.logical with
  | some i => engOf s (engAt n (first + i))
  | none => engReset

def isStopped (e : Engine) : Bool := e.stopped || e.atBreak.isSome

/-- R71, R79, R110: the bits that the STATUS registers of Lanterns and Wick pairs share. -/
def unitStatus (u : UnitSt) (e : Engine) : Nat :=
  roleCode u.role + b2n e.cur.isSome * 8 + b2n (isStopped e) * 16 + b2n (u.gate = .powerGated) * 32 +
    (u.logical.getD 0xF) * 256

/-- R74: KAT_STATUS. -/
def katStatus (u : UnitSt) : Nat := b2n u.katRunning + b2n u.katPassed * 2 + u.katCount * 65536

def viewLnt (s : State) (n p off : Nat) (raw : Nat) : Nat :=
  let l := lanOf s n p
  let e := boundEng s n 0 l.unit
  if off = 0x10 then (if l.unit.role = .dark then setBits raw 0 0 0 else raw)
  else if off = 0x14 then unitStatus l.unit e + b2n l.set.isSome * 4
  else if off = 0x40 then
    match l.set with
    | none => 0
    | some a => a.slots + a.flags.foldl Nat.lor 0 * 65536
  else if off = 0x74 then katStatus l.unit
  else raw

def viewWck (s : State) (n p off : Nat) (raw : Nat) : Nat :=
  let w := wickOf s n p
  let e := boundEng s n 4 w.unit
  if off = 0x10 then (if w.unit.role = .dark then setBits raw 0 0 0 else raw)
  else if off = 0x14 then unitStatus w.unit e + b2n w.inKernel * 4 + b2n e.pushed * 64 + e.queue.length * 4096
  else if off = 0x74 then katStatus w.unit
  else raw

/-- R175: the watchdog of a Station is suspended. -/
def wdSuspended (s : State) (n : Nat) : Bool :=
  s.life = .held || stnPaused s n

/-- R177: STN_ENG_STATE_e. -/
def engState (e : Engine) : Nat :=
  e.pos + b2n e.atBreak.isSome * 2 ^ 20 + b2n e.waiting.isSome * 2 ^ 21 + ((e.waiting.map Prod.fst).getD 0) * 2 ^ 22 +
    (e.atBreak.getD 0) * 2 ^ 24

def viewSync (s : State) (n off i : Nat) (raw : Nat) : Nat :=
  if off = 0x14 then b2n (isFrozen s n) + b2n (wdSuspended s n) * 2
  else if off = 0x400 then nget (stnOf s n).flags i
  else if off = 0x800 then nget s.chipFlags i + b2n (bitAt s.hostMask i) * 65536
  else if off = 0xA04 then engState (engOf s (engAt n i))
  else raw

/-- A bit per Tender channel. -/
def tndBits (s : State) (n : Nat) (f : Engine → Bool) : Nat :=
  (List.range 4).foldl (fun a c => a + b2n (f (engOf s (engAt n (12 + c)))) * 2 ^ c) 0

def viewTnd (s : State) (n off : Nat) (raw : Nat) : Nat :=
  if off = 0x14 then tndBits s n (fun e => e.cur.isSome) + tndBits s n isStopped * 16 + tndBits s n Engine.pushed * 256
  else raw

def viewPrt (s : State) (n off : Nat) (raw : Nat) : Nat :=
  let e := engOf s (engAt n 16)
  if off = 0x14 then
    b2n e.cur.isSome + b2n (isStopped e) * 2 + (portOf s n).dep.length * 4 + (portOf s n).land.length * 2 ^ 11 +
      b2n ((List.range 96).any (onPartitionGrid s)) * 2 ^ 21
  else raw

def clkReset : Clk := ⟨false, 0, false, 0⟩
def clkOf (s : State) (n : Nat) : Clk := tget clkReset s.kpr.clk n

def viewClk (s : State) (n off : Nat) (raw : Nat) : Nat :=
  if off = 0x14 then
    b2n (clkOf s n).locked + b2n s.kpr.forwarded * 2 + (clkOf s n).k * 4 + b2n (strictOn s) * 32
  else raw

/-- R483: the register that STN_PARAM_SELECT selects. -/
def paramData (s : State) (n : Nat) : Nat :=
  let sel := regGet s (pageBase (pgParam n) + 0x40)
  let e := engOf s (engAt n (bits sel 4 0))
  let i := bits sel 11 6
  if !e.present then 0
  else if bitAt sel 5 then (if i < 16 then (tget 0 e.s i).toNat else 0)
  else (tget 0 e.p i).toNat

def viewLnk (s : State) (l off : Nat) (raw : Nat) : Nat :=
  let k := linkOf s l
  if off = 0x14 then
    linkCode k.st + k.rate * 16 + b2n k.sealed * 64 + b2n (isMember s l) * 128 + b2n k.offIn * 256 + b2n k.offOut * 512 +
      k.buf.length * 1024
  else if off = 0x48 then k.partner.getD 0 + b2n k.partner.isSome * 2 ^ 19 + min k.delay 255 * 2 ^ 20
  else raw

def viewXch (s : State) (off : Nat) (raw : Nat) : Nat :=
  if off = 0x14 then b2n ((schedOf s).isSome && (bankOf s s.run.bank).st = .loaded) + s.run.gen % 4 * 2 else raw


def viewDrm (s : State) (n off : Nat) (raw : Nat) : Nat :=
  let d := dramOf s n
  if off = 0x14 then b2n (strictOn s) + b2n (decide (85 < d.temp)) * 2 + b2n d.selfRefresh * 4 + d.temp * 256 else raw

def viewPci (s : State) (off i : Nat) (raw : Nat) : Nat :=
  if off = 0x14 then lifeCode s.life + s.kpr.pins.pciRate * 16 + s.kpr.pins.pciWidth * 128
  else if off = 0x114 then
    let q := queueOf s i
    q.sqHead + q.cqTail * 4096 + b2n q.error * 2 ^ 24
  else raw

/-- Watts of the last 10 µs reading. -/
def lastWatts (s : State) : Nat := (s.kpr.pwr.readings.head?.map Prod.snd).getD 0

/-- Readings of the last n ticks. -/
def recentWatts (s : State) (n : Nat) : List Nat :=
  (s.kpr.pwr.readings.filter fun r => decide (s.watch ≤ r.1 + n)).map Prod.snd

def meanNat (l : List Nat) : Nat := l.foldl (· + ·) 0 / max 1 l.length

/-- R454: a feed is within 44 V to 60 V. -/
def inRange (mv : Nat) : Bool := decide (44000 ≤ mv) && decide (mv ≤ 60000)

/-- R469: current of a feed in 0.1 A. -/
def feedDa (s : State) (b : Bool) (mv : Nat) : Nat := if s.kpr.pwr.onB = b then lastWatts s * 10000 / max 1 mv else 0

def viewPwr (s : State) (off : Nat) (raw : Nat) : Nat :=
  let p := s.kpr.pwr
  if off = 0x14 then
    b2n (inRange p.mvA) + b2n (inRange p.mvB) * 2 + b2n p.onB * 4 + b2n p.single * 8 + p.band * 16 + p.kt * 64 +
      b2n (strictOn s) * 512
  else if off = 0x40 then p.mvA % 65536 + feedDa s false p.mvA % 65536 * 65536
  else if off = 0x44 then p.mvB % 65536 + feedDa s true p.mvB % 65536 * 65536
  else if off = 0x48 then meanNat (recentWatts s 1000000) + (recentWatts s 10000000).foldl max 0 * 65536
  else if off = 0x4C then p.tj % 256 + p.td % 256 * 256 + p.hot % 16 * 65536
  else raw

/-- R347: the present trim, from −100 to +100 ppm: the spec gives no law for it, so its value is free. -/
def trimByte (s : State) : Nat := wrapInt 8 (((Config.freeValue s.fab.time.trim).toNat % 201 : Nat) - 100 : Int)

def viewTim (s : State) (off : Nat) (raw : Nat) : Nat :=
  let t := s.fab.time
  let d := domOf s t.actB
  if off = 0x14 then
    servoCode t.servo + b2n t.actB * 4 + b2n t.domA.valid * 8 + b2n t.domB.valid * 16 + b2n t.interim * 32 +
      b2n t.ppsValid * 64 + b2n (match t.todAt with | some w => decide (s.watch ≤ w + 1000000000) | none => false) * 128 +
      b2n (gmLive s false || gmLive s true || (t.servo = .holdover && !t.domA.valid)) * 256 + ((d.blk.map TimeBlk.leap).getD t.leap) * 512
  else if off = 0x40 then s.watch % 2 ^ 64
  else if off = 0x48 then todNs s s.watch
  else if off = 0x50 then todSec s s.watch
  else if off = 0x58 then incNow s
  else if off = 0x70 then t.domA.upstream.getD 0x7F + t.domB.upstream.getD 0x7F * 256 + trimByte s * 65536
  else raw

/-- R388, R425: the KEYID of a public key. -/
def keyId (key : List Byte) : Nat := leNat ((sha3 key).take 8)

/-- The Daymark public key. -/
def daymark (s : State) : List Byte := Config.modulePublic s.kpr.fuses.seed

/-- R429: the enrolled owner keys; none while UNOWNED. -/
def ownerKeys (s : State) : List OwnerKey := if s.kpr.sec.owned then s.kpr.sec.keys else []

def viewSec (s : State) (off i : Nat) (raw : Nat) : Nat :=
  let c := s.kpr.sec
  if off = 0x14 then
    b2n c.owned + b2n c.lock * 2 + b2n (!daymarkOff s) * 4 + c.debugOpen % 16 * 8 + c.policy % 8 * 128 + (ownerKeys s).length % 8 * 1024
  else if off = 0x40 then (if s.kpr.fuses.kill then 0 else keyId (daymark s))
  else if off = 0x48 then (((ownerKeys s)[i]?).map fun k => keyId k.key).getD 0
  else if off = 0x68 then (ownerKeys s).zipIdx.foldl (fun a k => a + k.1.roles % 16 * 16 ^ k.2) 0 % 65536
  else raw

/-- R439, R479: page number j of summary register i. -/
def viewKpr (s : State) (off i : Nat) (raw : Nat) : Nat :=
  let b := s.kpr.boot
  if off = 0x40 then b.source + b2n b.relightB * 4 + b.svn % 256 * 256 + b.lastCode % 65536 * 65536
  else if off = 0x44 then b.fwSet % 2 ^ 32
  else if off = 0x100 then
    (List.range 32).foldl (fun a j => if 32 * i + j < 442 && summaryOn s (32 * i + j) then a + 2 ^ j else a) 0
  else raw

def viewUpd (s : State) (off : Nat) (raw : Nat) : Nat :=
  let u := s.kpr.upd
  if off = 0x14 then
    recCode u.rec_ + b2n (u.phase != .closed) * 8 + b2n u.trialAt.isSome * 16 +
      (match u.trialAt with | some w => min 30 ((s.watch - w) / 1000000000) | none => 0) * 32
  else if off = 0x40 then u.bytes.length % 2 ^ 25
  else if off = 0x44 then (u.staged.map Bundle.fwSet).getD 0 % 2 ^ 32
  else raw

def viewRcv (s : State) (off : Nat) (raw : Nat) : Nat :=
  if off = 0x14 then
    b2n (s.life = .held) + b2n (!s.recov.replaying.isEmpty) * 2 + b2n s.fab.leading.isSome * 4 + b2n s.fab.comparing * 8
  else if off = 0x50 then (bankOf s s.run.bank).bound % 2 ^ 32
  else raw

def viewLdg (s : State) (off : Nat) (raw : Nat) : Nat :=
  if off = 0x14 then
    b2n (strictOn s) + b2n (!s.jobs.halted && s.jobs.ended.any fun e => !e.signed || e.certs.length = e.chips) * 2 + min 64 (pendingSlots s) * 4 +
      min 16 s.jobs.deferred.length * 512
  else if off = 0x40 then storeBase
  else if off = 0x48 then nextFree s
  else raw

def viewFus (s : State) (off i : Nat) (raw : Nat) : Nat :=
  let f := s.kpr.fuses
  if off = 0x40 then field f.chipId (4 * i) 4
  else if off = 0x50 then
    f.lifecycle % 4 + b2n f.kill * 4 + f.svn % 128 * 8 + f.epoch % 64 * 1024 + f.revoked % 16 * 65536 + f.grade % 4 * 2 ^ 20
  else raw

/-- R474: STEPPING of the pages that report it. -/
def viewVersion (s : State) (k : PageKind) (raw : Nat) : Nat :=
  match k with
  | .lnt | .wck | .tnd | .prt | .stnSync => setBits raw 23 16 s.kpr.stepping
  | _ => raw

/-- IDENT: TYPE with the instance fields of the pages that have them (R79, R110, R177, R204 to R206, R296, R322, R328, R483). -/
def viewIdent (k : PageKind) (n j raw : Nat) : Nat :=
  match k with
  | .lnt | .wck => raw + n * 2 ^ 8 + j * 2 ^ 12
  | .stnSync | .stnSram | .tnd | .prt | .stnClk | .stnParam | .drm => raw + n * 2 ^ 8
  | .lnk => raw + j * 2 ^ 8
  | _ => raw

/-- The value of a register, its read-only fields as the state shows them. -/
def regView (s : State) (k : PageKind) (n j off i : Nat) (raw : Nat) : Nat :=
  if off = 0x00 then viewIdent k n j raw
  else if off = 0x04 then viewVersion s k raw
  else match k with
    | .kpr => viewKpr s off i raw
    | .kprSec => viewSec s off i raw
    | .kprUpd => viewUpd s off raw
    | .kprRcv => viewRcv s off raw
    | .kprLdg => viewLdg s off raw
    | .lnt => viewLnt s n j off raw
    | .wck => viewWck s n j off raw
    | .stnSync => viewSync s n off i raw
    | .stnSram => if off = 0x14 then b2n (decide (0 < (stnOf s n).scrub.left)) else raw
    | .tnd => viewTnd s n off raw
    | .prt => viewPrt s n off raw
    | .stnClk => viewClk s n off raw
    | .stnParam => if off = 0x48 then paramData s n else raw
    | .lnk => viewLnk s j off raw
    | .xch => viewXch s off raw
    | .drm => viewDrm s n off raw
    | .pci => viewPci s off i raw
    | .pwr => viewPwr s off raw
    | .tim => viewTim s off raw
    | .fus => viewFus s off i raw

/-! ### Reads -/

/-- Stored value of a register of one or two words. -/
def regRaw (s : State) (a : Nat) (wide : Bool) : Nat := if wide then regGet s a + 2 ^ 32 * regGet s (a + 4) else regGet s a

/-- R73, R482: with the rails off, the STATUS of a Lantern or Wick pair shows its reset value: the role of the Dark map, power-gated,
no number bound. Other registers show what is stored. -/
def restView (s : State) (k : PageKind) (n j off raw : Nat) : Nat :=
  if off != 0x14 then raw
  else match k with
    | .lnt => roleCode (roleIn (lanAlive s n) (lanEnabled s n) j) + 0xF20
    | .wck => roleCode (roleIn (wickAlive s n) (wickEnabled s n) j) + 0xF20
    | _ => raw

/-- R470, R482: the live word at a 4-byte aligned address. -/
def readWord (s : State) (a : Nat) : Nat :=
  match pageAt a with
  | none => 0
  | some p =>
    let k := pageKind p
    match regFind (regsOf k.1) (a % 0x1000) with
    | none => 0
    | some (d, i, w) =>
      let base := a - 4 * w
      let raw := regRaw s base d.wide
      let v := if railsOff s && !servedOff k.1 && 4 < d.off then restView s k.1 k.2.1 k.2.2 d.off raw else regView s k.1 k.2.1 k.2.2 d.off i raw
      v / 2 ^ (32 * w) % 2 ^ 32

/-- The word of a 64-bit register at an address: 0 low, 1 high; none in a 32-bit register. -/
def wideWord (a : Nat) : Option Nat :=
  match pageAt a with
  | none => none
  | some p =>
    match regFind (regsOf (pageKind p).1) (a % 0x1000) with
    | some (d, _, w) => if d.wide then some w else none
    | none => none

/-- TIM_TOD_NS and TIM_TOD_SEC. -/
def todNsAt : Nat := pageBase pgTim + 0x48
def todSecAt : Nat := pageBase pgTim + 0x50

/-- R472: a read of one word: low words latch their high word, TIM_TOD_NS latches TIM_TOD_SEC. -/
def readLatch (a : Nat) (s : State) : Nat × State :=
  if a = todNsAt then
    (readWord s a, { s with latched := tput (tput s.latched todSecAt (readWord s todSecAt)) (todSecAt + 4) (readWord s (todSecAt + 4)) })
  else if a = todSecAt then ((tget? s.latched a).getD (readWord s a), s)
  else match wideWord a with
    | some 0 => (readWord s a, { s with latched := tput s.latched (a + 4) (readWord s (a + 4)) })
    | some _ => ((tget? s.latched a).getD (readWord s a), s)
    | none => (readWord s a, s)

/-- R471: a BAR0 read. A size or alignment other than a 4- or 8-byte one returns bytes of the word that holds it. -/
def bar0Read (a size : Nat) (s : State) : List Byte × State :=
  if size = 8 && a % 8 = 0 then
    if (wideWord a).isSome then
      let r := readLatch a s
      (leBytes 4 r.1 ++ leBytes 4 (if a = todSecAt then (readLatch (a + 4) s).1 else readWord s (a + 4)), r.2)
    else
      let r := readLatch a s
      let q := readLatch (a + 4) r.2
      (leBytes 4 r.1 ++ leBytes 4 q.1, q.2)
  else
    let r := readLatch (a / 4 * 4) s
    (if size = 4 && a % 4 = 0 then leBytes 4 r.1 else slice (leBytes 4 r.1) (a % 4) (min size (4 - a % 4)), r.2)

/-- R472, R447: a BAR0 read; all ones in the activation pause. -/
def execLowWordRead (addr size : Nat) (s : State) : Res :=
  .next (if paused s then emit (.data (List.replicate size 0xFF)) s
    else let r := bar0Read addr size s; emit (.data r.1) r.2)

/-! ### Writes by access code -/

/-- R475: a field after a write of v, where the page is locked or not; the answer says whether the lock met it. -/
def writeField (locked : Bool) (cur v : Nat) (f : RegField) : Nat × Bool :=
  let x := bits v f.hi f.lo
  let inLim := match f.lim with
    | some (a, b) => decide (a ≤ x) && decide (x ≤ b)
    | none => true
  match f.acc with
  | .rw | .rws => (if inLim then setBits cur f.hi f.lo x else cur, false)
  | .rwl => if locked then (cur, true) else (if inLim then setBits cur f.hi f.lo x else cur, false)
  | .w1c => (setBits cur f.hi f.lo (Nat.land (bits cur f.hi f.lo) (Nat.xor x (2 ^ (f.hi + 1 - f.lo) - 1))), false)
  | .cnt => (if x = 0 then setBits cur f.hi f.lo 0 else cur, false)
  | .anySet => (setBits cur f.hi f.lo f.reset, false)
  | .ro | .w1s | .wo => (cur, false)

/-- Every field of a register after a write. -/
def writeFields (locked : Bool) (v : Nat) : List RegField → Nat → Nat × Bool
  | [], cur => (cur, false)
  | f :: fs, cur =>
    let r := writeField locked cur v f
    let q := writeFields locked v fs r.1
    (q.1, r.2 || q.2)

/-- A write of a whole register by its access codes. -/
def writeReg (p a : Nat) (d : RegDesc) (v : Nat) (s : State) : State :=
  let r := writeFields (pageLocked s p) v d.fields (regRaw s a d.wide)
  let s1 := if d.wide then regPut64 a r.1 s else regPut a r.1 s
  if r.2 then countLocked p s1 else s1

end Sys2Proof.Machine
end

