-- ==== Sys2Proof/Machine/Admin.lean ====
section
/-! DEFINITION. How the admin queue takes a command record (R402, R410, R417, R424). -/

namespace Sys2Proof.Machine

/-- R403: the Keeper reads the record at a queue's submission head: the pair is enabled, not halted, and holds a record. -/
def canTake (s : State) (q : Nat) : Bool :=
  let k := queueOf s q
  k.enabled && !k.error && k.sqHead != k.sqTail && !s.jobs.halted && !paused s

/-- The index of the record that a queue gives next. -/
def headIndex (s : State) (q : Nat) : Nat := (queueOf s q).sqHead

/-- R403: the head moves past the record taken. -/
def advanceHead (q : Nat) (s : State) : State :=
  let k := queueOf s q
  putQueue q { k with sqHead := (k.sqHead + 1) % ringSize s q } s

/-- R410: the origin of an admin command. -/
def cmdOrigin (c : CmdRec) (s : State) : CmdFrom := ⟨false, headIndex s 64, c.tag, c.resultPtr⟩

/-- R410: reserved bytes are 0, and ARGS bytes outside those listed are 0; `listed` counts the bytes from ARGS on, `holes` lists the
reserved ones among them. -/
def argsOk (reserved args : List Byte) (listed : Nat) (holes : List Nat) : Bool :=
  zeroBytes reserved && zeroBytes (args.drop listed) && holes.all fun i => args.getD i 0 = 0

/-- R424: the module is in ROM recovery. -/
def romRecovery (s : State) : Bool := s.kpr.boot.source = 2

/-- What a command does, given where it came from, its ARGS and the state. -/
abbrev CmdBody := CmdFrom → List Byte → State → State

/-- R410, R417, R424: the checks that every command meets before its own meaning. -/
def cmdGate (reserved args : List Byte) (listed : Nat) (holes : List Nat) (legal : Bool) (body : CmdBody) (o : CmdFrom) (s : State) :
    State :=
  if romRecovery s then cmdDone o 0x5003 [] s
  else if !argsOk reserved args listed holes then cmdDone o 0x1090 [] s
  else if !legal then cmdConflict o s
  else body o args s

/-- R402, R410: a command taken from the admin queue. -/
def adminRun (c : CmdRec) (listed : Nat) (holes : List Nat) (legal : State → Bool) (body : CmdBody) (s : State) : State :=
  if canTake s 64 then
    cmdGate c.reserved c.args listed holes (legal s) body (cmdOrigin c s) (advanceHead 64 s)
  else s

/-- R417: lifecycle states in which an action is legal. -/
def inKRL (s : State) : Bool := s.life = .keep || s.life = .ready || s.life = .loaded
def inRL (s : State) : Bool := s.life = .ready || s.life = .loaded
def inBankStates (s : State) : Bool :=
  s.life = .ready || s.life = .loaded || s.life = .armed || s.life = .running || s.life = .held || s.life = .draining
def inLoadStates (s : State) : Bool :=
  s.life = .ready || s.life = .loaded || s.life = .armed || s.life = .running || s.life = .draining
def inJob (s : State) : Bool := s.life = .armed || s.life = .running || s.life = .held || s.life = .draining

/-- R415: LOADED while a bank is LOADED or STALE, else READY. -/
def restLife (s : State) : Life :=
  if s.banks.any fun e => e.2.st = .loaded || e.2.st = .stale then .loaded else .ready

end Sys2Proof.Machine
end

