-- ==== Sys2Proof/Machine/Partition.lean ====
section
/-! DEFINITION. Partitions (R243 to R257): position straps, partition records, formation, Sector tables and dissolution. -/

namespace Sys2Proof.Machine

/-! ### Position -/

/-- R244: the link in dimension d to coordinate q. -/
def linkTo (s : State) (d q : Nat) : Nat := 24 * d + (if q < nth s.fab.pos d then q else q - 1)

/-- R244, R247: the coordinate in dimension l div 24 that link l must lead to. -/
def linkCoord (s : State) (l : Nat) : Nat := let j := l % 24; if j < nth s.fab.pos (l / 24) then j else j + 1

/-- R243: chip number of a position. -/
def chipAt (pos : List Nat) : Nat := nth pos 0 + 25 * nth pos 1 + 625 * nth pos 2 + 15625 * nth pos 3

/-- R247: the position of the partner that link l must reach. -/
def expectPos (s : State) (l : Nat) : List Nat := s.fab.pos.set (l / 24) (linkCoord s l)

/-- Number of ones among the low n bits. -/
def popN (n v : Nat) : Nat := (List.range n).foldl (fun a i => a + b2n (bitAt v i)) 0

/-- R245, R246: the strap coordinates are valid: none above 24, odd parity over the 21 bits. -/
def strapsOk (c : List Nat) (par : Bool) : Bool :=
  c.all (fun v => decide (v ≤ 24)) && (c.foldl (fun a v => a + popN 5 v) (b2n par)) % 2 = 1

/-! ### Partition records -/

def prFlags (r : List Byte) : Nat := field r 6 2
def prExplicit (r : List Byte) : Bool := bitAt (prFlags r) 0
def prPid (r : List Byte) : Nat := field r 8 4
def prDimmap (r : List Byte) (k : Nat) : Nat := bits (field r 0x0C 1) (2 * k + 1) (2 * k)
def prFormMs (r : List Byte) : Nat := let v := field r 0x0E 2; if v = 0 then 100 else v
def prMask (r : List Byte) (d : Nat) : Nat := field r (0x10 + 4 * d) 4
def prPerm (r : List Byte) (k l : Nat) : Nat := field r (0x20 + 25 * k + l) 1

/-- Members of a mask, ascending. -/
def maskList (m : Nat) : List Nat := (List.range 25).filter fun q => bitAt m q

/-- R256: physical coordinates of logical dimension k, by logical index. -/
def prCoords (r : List Byte) (k : Nat) : List Nat :=
  let m := maskList (prMask r (prDimmap r k))
  if prExplicit r then (List.range m.length).map (prPerm r k) else m

/-- R252: PERM is right for EXPLICIT. -/
def permOk (r : List Byte) : Bool :=
  if !prExplicit r then zeroBytes (slice r 0x20 100)
  else (List.range 4).all fun k =>
    let m := maskList (prMask r (prDimmap r k))
    let p := (List.range m.length).map (prPerm r k)
    m.all p.contains && (nub p).length = p.length && (List.range 25).all fun l => decide (l < m.length) || prPerm r k l = 0xFF

/-- R251, R252: a record is valid for this chip. -/
def recordOk (s : State) (r : List Byte) : Bool :=
  field r 0 4 = 0x54525055 && field r 4 2 = 1 && decide (prFlags r ≤ 1) && prPid r != 0 && field r 0x0D 1 = 0 &&
    ((field r 0x0E 2 = 0) || (decide (10 ≤ field r 0x0E 2) && decide (field r 0x0E 2 ≤ 10000))) &&
    zeroBytes (slice r 0x84 12) &&
    ((List.range 4).all fun d => prMask r d != 0 && decide (prMask r d < 2 ^ 25)) &&
    ((List.range 4).all fun d => (List.range 4).any fun k => prDimmap r k = d) && permOk r && s.fab.posOk &&
    (List.range 4).all fun d => bitAt (prMask r d) (nth s.fab.pos d)

/-- Logical coordinates of the chip under a record. -/
def prSelf (s : State) (r : List Byte) : List Nat :=
  (List.range 4).map fun k => (prCoords r k).findIdx (· = nth s.fab.pos (prDimmap r k))

def prShape (r : List Byte) : List Nat := (List.range 4).map fun k => (prCoords r k).length
def prSize (r : List Byte) : Nat := (prShape r).foldl (· * ·) 1

/-- R257: the link of logical dimension k to logical index l: 0xFE for the chip's own, 0xFF beyond the extent. -/
def prLink (s : State) (r : List Byte) (k l : Nat) : Nat :=
  match (prCoords r k)[l]? with
  | none => 0xFF
  | some q => if q = nth s.fab.pos (prDimmap r k) then 0xFE else linkTo s (prDimmap r k) q

/-- R261: the detour intermediate of the link between logical indices a and b of a line of n members. -/
def detourMid (a b n : Nat) : Nat :=
  let m := (max a b + 1) % n
  if m = min a b then (max a b + 2) % n else m

/-- R257: DETOUR of logical dimension k towards l. -/
def prDetour (s : State) (r : List Byte) (k l : Nat) : Nat :=
  let n := nth (prShape r) k
  let me := nth (prSelf s r) k
  if n < 3 || l = me || n ≤ l then 0xFF else detourMid me l n

/-- R257: the 512-byte Sector table. -/
def sectorBytes (s : State) (r : List Byte) : List Byte :=
  let self := prSelf s r
  let sh := prShape r
  let byte (v : Nat) : Byte := BitVec.ofNat 8 v
  leBytes 4 (prPid r) ++ self.map byte ++ sh.map byte ++ leBytes 4 (rankOf sh self) ++ (s.fab.pos.map byte) ++ List.replicate 12 0 ++
    ((List.range 4).flatMap fun k => (List.range 32).map fun l => byte (prLink s r k l)) ++
    ((List.range 4).flatMap fun k => (List.range 32).map fun l => byte (prDetour s r k l)) ++ List.replicate 224 0

/-! ### Messages to other Keepers -/

/-- R243: coordinates of a chip number. -/
def coords25 (n : Nat) : List Nat := [n % 25, n / 25 % 25, n / 625 % 25, n / 15625]

/-- R303: the output link of a Bulk flit: the lowest dimension that differs; none at its destination. -/
def bulkRoute (s : State) (dest : Nat) : Option Nat :=
  (List.range 4).findSome? fun d =>
    let q := nth (coords25 dest) d
    if q != nth s.fab.pos d then some (linkTo s d q) else none

/-- A flit joins the Bulk queue of an output link. -/
def pushBulk (o : Nat) (f : BulkFlit) (s : State) : State :=
  putLink o { linkOf s o with bulkQ := (linkOf s o).bulkQ ++ [f] } s

/-- R303: this Keeper's flits join the queues that have room, in order; the others wait. -/
def drainOut (s : State) : State :=
  s.fab.outbox.foldl (fun t f => match bulkRoute t (hDest f.header) with
    | none => t
    | some o => if (linkOf t o).bulkQ.length < 128 then pushBulk o f t else { t with fab := { t.fab with outbox := t.fab.outbox ++ [f] } })
    { s with fab := { s.fab with outbox := [] } }

/-- R302, R303: the flits of a message of this chip. -/
def messageFlits (s : State) (dest bchan : Nat) (bs : List Byte) : List BulkFlit :=
  let n := max 1 (ceilDiv bs.length 256)
  (List.range n).map fun i =>
    let part := (bs.drop (256 * i)).take 256
    ⟨bulkHeader dest (chipNo s) bchan s.fab.msgid i (decide (i + 1 = n)) (max 1 part.length), slice part 0 256⟩

/-- R303: a message leaves for a chip as Bulk traffic. -/
def sendBytes (dest bchan : Nat) (bs : List Byte) (s : State) : State :=
  drainOut { s with fab := { s.fab with outbox := s.fab.outbox ++ messageFlits s dest bchan bs, msgid := (s.fab.msgid + 1) % 65536 } }

/-- R243, R256: chip number of a member of the partition. -/
def rankChip (s : State) (r : Nat) : Nat :=
  let p := s.fab.part
  let c := coordsOf p.shape r
  chipAt ((List.range 4).map fun d =>
    let k := (List.range 4).findIdx fun k => prDimmap p.record k = d
    nth (prCoords p.record k) (nth c k))

/-- The bytes of a management message: its name's length, its name, its data (DESIGN CHOICE, assumption 29). -/
def messageBytes (name : String) (data : List Byte) : List Byte := leBytes 1 (ascii name).length ++ ascii name ++ data

/-- R303: a management message to a member: BCHAN 0x03 for formation (R253), else 0x00. -/
def sendMsg (bchan r : Nat) (name : String) (data : List Byte) (s : State) : State :=
  sendBytes (rankChip s r) bchan (messageBytes name data) (emit (.msg r name data) s)

/-! ### Formation -/

def putPart (p : Part) (s : State) : State := { s with fab := { s.fab with part := p } }

/-- R255: the coordinates that the single-chip Sector table shows. -/
def physShown (s : State) : List Nat := if s.fab.posOk then s.fab.pos else [0xFF, 0xFF, 0xFF, 0xFF]

/-- R255, R250: no partition; what waited for its member links goes with it. -/
def noPart (s : State) : State :=
  let s1 := putPart { partReset with sector := singleSector (physShown s) } s
  { s1 with recov := { s1.recov with sends := [] }, fab := { s1.fab with fork := none, forkLinks := [] } }

/-- R253 step 2: a link is trained, authenticated, and its partner is where R247 expects it. -/
def linkReady (s : State) (l : Nat) : Bool :=
  (linkOf s l).st = .up && (linkOf s l).partner = some (chipAt (expectPos s l))

/-- R253 step 2: the first link to another member that is not ready. -/
def badLink (s : State) (r : List Byte) : Option Nat :=
  ((List.range 4).flatMap fun k => (List.range (nth (prShape r) k)).map (prLink s r k)).find? fun l =>
    decide (l < 96) && !linkReady s l

/-- The head Keeper's end of a formation: PARTITION_FORM completes. -/
def formDone (status : Nat) (s : State) : State :=
  match s.jobs.formCmd with
  | none => s
  | some o =>
    let res := if status = 0 then s.fab.part.hash ++ leBytes 4 s.fab.part.rank else []
    cmdDone o status res { s with jobs := { s.jobs with formCmd := none } }

/-- R253 step 5: FORMED: the Sector table changed, so LOADED banks become STALE (R255). -/
def enterFormed (s : State) : State := formDone 0 (staleBanks (putPart { s.fab.part with st := .formed } s))

/-- Every other rank of the partition. -/
def otherRanks (p : Part) : List Nat := (List.range p.chips).filter (· != p.rank)

/-- A message to every other member. -/
def toMembersOn (bchan : Nat) (name : String) (data : List Byte) (s : State) : State :=
  (otherRanks s.fab.part).foldl (fun t r => sendMsg bchan r name data t) s
def toMembers (name : String) (data : List Byte) (s : State) : State := toMembersOn 0 name data s

/-- R253 step 5: the head Keeper sends FORMED. -/
def headFormed (s : State) : State := enterFormed (toMembersOn 3 "FORMED" [] s)

/-- R253 step 5: the first rank whose report is missing or differed. -/
def firstMissing (p : Part) : Nat :=
  ((otherRanks p).find? fun r => !p.reports.contains r || p.differed = some r).getD (p.differed.getD p.rank)

/-- R253 step 5: ABORT, 0x3005, and no partition. -/
def headAbort (s : State) : State :=
  let s1 := report 0x3005 pgKpr (emit (.msg (firstMissing s.fab.part) "FORMATION_FAILED" []) (toMembersOn 3 "ABORT" [] s))
  staleBanks (noPart (formDone 0x3005 s1))

/-- R253: at the head Keeper, once every report is in. -/
def headDecide (s : State) : State :=
  if (otherRanks s.fab.part).all s.fab.part.reports.contains then
    (if s.fab.part.differed.isNone then headFormed s else headAbort s)
  else s

/-- R253 step 4: the report of a member that is not the head: PID, record hash and position; a hash of zeros tells of a bad link. -/
def sendReport (good : Bool) (s : State) : State :=
  let p := s.fab.part
  sendMsg 3 0 "FORMATION_REPORT" (leBytes 4 p.pid ++ (if good then p.hash else List.replicate 32 0) ++ s.fab.pos.map fun c => BitVec.ofNat 8 c) s

/-- R253 steps 1 to 4: FORMING, the link check, the Sector table and the report. -/
def startForming (o : CmdFrom) (r : List Byte) (s : State) : State :=
  let self := prSelf s r
  let sh := prShape r
  let bad := badLink s r
  let p : Part :=
    { st := .forming, record := r, hash := sha3 r, pid := prPid r, rank := rankOf sh self, chips := prSize r, self := self
      shape := sh, sector := sectorBytes s r, reports := [], differed := bad.map fun _ => rankOf sh self
      deadline := s.watch + prFormMs r * 1000000, detours := [] }
  let s1 := staleBanks <| putPart p { s with jobs := { s.jobs with formCmd := some o } }
  let s2 := match bad with
    | some l => report 0x3004 pgKpr (emit (.msg 0 "FORMATION_LINK" (leBytes 1 l)) s1)
    | none => s1
  if p.rank = 0 then headDecide s2 else sendReport bad.isNone s2

/-- R265: a link to another member goes down while this chip is in FORMING: 0x3004, and the head Keeper aborts. -/
def formingLost (l : Nat) (s : State) : State :=
  let p := s.fab.part
  let s1 := report 0x3004 pgKpr (emit (.msg 0 "FORMATION_LINK" (leBytes 1 l)) (putPart { p with differed := some (p.differed.getD p.rank) } s))
  if p.rank = 0 then headAbort s1 else sendReport false s1

/-- R253: PARTITION_FORM with the record that its pointer names. -/
def cmdForm (r : List Byte) : CmdBody := fun o _ s =>
  if s.fab.part.st = .formed && sha3 r = s.fab.part.hash then cmdDone o 0 (s.fab.part.hash ++ leBytes 4 s.fab.part.rank) s
  else if s.fab.part.st != .none then cmdConflict o s
  else if r.length != 144 || !recordOk s r then cmdDone o 0x3001 [] (report 0x3001 pgKpr s)
  else startForming o r s

/-- R253: the PARTITION_FORM command delivers a partition record. -/
def execPartitionForm (c : CmdRec) (record : List Byte) (s : State) : Res :=
  .next (adminRun c 8 [] inRL (cmdForm record) s)

/-- The head Keeper of a partition in formation. -/
def headForming (s : State) : Bool := s.fab.part.st = .forming && s.fab.part.rank = 0

/-- R253: a member's report: PID and record hash must be the head Keeper's own. -/
def takeReport (rank pid : Nat) (hash : List Byte) (s : State) : State :=
  let p := s.fab.part
  let ok := pid = p.pid && hash = p.hash
  let d := if ok then p.differed else some (match p.differed with | some x => min x rank | none => rank)
  headDecide (putPart { p with reports := rank :: p.reports, differed := d } s)

/-- R253, R265: the head Keeper receives a member's formation report; a second one counts when it takes the first back. -/
def execFormationReport (rank pid : Nat) (hash : List Byte) (s : State) : Res :=
  .next (if headForming s && decide (rank < s.fab.part.chips) &&
      (!s.fab.part.reports.contains rank || pid != s.fab.part.pid || hash != s.fab.part.hash) then takeReport rank pid hash s
    else s)

/-- R253: FORM_MS expires. -/
def execFormationTimeout (s : State) : Res :=
  .next (if headForming s then headAbort (watchTo s.fab.part.deadline s) else s)

/-- A member, not the head, in formation. -/
def memberForming (s : State) : Bool := s.fab.part.st = .forming && s.fab.part.rank != 0

/-- R253: a member receives FORMED. -/
def execFormedMessage (s : State) : Res := .next (if memberForming s then enterFormed s else s)

/-- R253: a member receives ABORT. -/
def execFormationAbort (s : State) : Res :=
  .next (if memberForming s then staleBanks (noPart (formDone (if s.fab.part.differed.isSome then 0x3004 else 0x3005) s)) else s)

/-- R255: dissolving. -/
def cmdDissolve : CmdBody := fun o _ s =>
  if s.fab.part.st = .none then cmdDone o 0 [] s
  else cmdDone o 0 [] (staleBanks (noPart (formDone 0x3005 s)))

/-- R255: PARTITION_DISSOLVE. -/
def execPartitionDissolve (c : CmdRec) (s : State) : Res := .next (adminRun c 0 [] inRL cmdDissolve s)

end Sys2Proof.Machine
end

