-- ==== Sys2Proof/Machine/Boot.lean ====
section
/-! DEFINITION. What the fuses and the Dark map say of a Station (R3, R73, R230, R439), signed firmware objects and the boot stages
(R422 to R424), and the owner record at start (R429). -/

namespace Sys2Proof.Machine

/-! ### The Dark map -/

/-- Every Lantern and Wick pair at reset, its role from the Dark map (R73, R230). -/
def resetUnits (s : State) : State :=
  let lans := (List.range 80).filterMap fun i =>
    let r := roleIn (lanAlive s (i / 5)) (lanEnabled s (i / 5)) (i % 5)
    if r = (lanReset (i % 5)).unit.role then none else some (i, { lanReset (i % 5) with unit := { unitReset with role := r } })
  let wks := (List.range 144).filterMap fun i =>
    let r := roleIn (wickAlive s (i / 9)) (wickEnabled s (i / 9)) (i % 9)
    if r = (wickReset (i % 9)).unit.role then none else some (i, { wickReset (i % 9) with unit := { unitReset with role := r } })
  let stns := (List.range 16).filterMap fun n => if stnDark s n then some (n, { stationReset with dark := true }) else none
  { s with lanterns := lans, wicks := wks, stations := stns }

/-! ### Signed objects -/

/-- R423: the object's key is an unrevoked vendor key. -/
def vendorKeyOk (f : Fuses) (b : Bundle) : Bool :=
  decide (b.keyslot < 4) && sha3 b.key = f.vendorHash.getD b.keyslot [] && !bitAt f.revoked b.keyslot

/-- R423: signature and digests. -/
def objectSigned (f : Fuses) (b : Bundle) : Bool :=
  b.present && vendorKeyOk f b && Config.dsaVerify b.key b.manifest b.signature && b.components.map sha3 = b.digests

/-- R424: 0x5001 or 0x5002, or none when the object is accepted. -/
def objectCode (f : Fuses) (b : Bundle) : Option Nat :=
  if !objectSigned f b then some 0x5001 else if b.svn < f.svn then some 0x5002 else none

/-- The first acceptable object of a list with its place, and the codes of those before it. -/
def firstOk (f : Fuses) : List (Nat × Bundle) → List Nat × Option (Nat × Bundle)
  | [] => ([], none)
  | b :: r =>
    match objectCode f b.2 with
    | none => ([], some b)
    | some c => let x := firstOk f r; (c :: x.1, x.2)

/-- R445, R450: while STATE is WRITTEN or REVERTING, and at a start in TRIAL, stage 2 treats ACTIVE as having failed. -/
def bundlesFor (s : State) : List (Nat × Bundle) :=
  let r := s.kpr.upd.rec_
  let fb := (1, s.kpr.flash.fallback)
  if r = .written || r = .reverting || r = .trial then [fb] else [(0, s.kpr.flash.active), fb]

/-- The codes of a boot, as they are reported. -/
def reportAll (cs : List Nat) (s : State) : State := cs.foldl (fun t c => report c pgKpr t) s

def putBoot (b : Boot) (s : State) : State := { s with kpr := { s.kpr with boot := b } }

/-- R424: ROM recovery. -/
def romBoot (codes : List Nat) (s : State) : State :=
  putBoot { s.kpr.boot with source := 2, relightB := false, svn := 0, fwSet := 0, lastCode := 0x5003 } (reportAll (codes ++ [0x5003]) s)

/-- R422: stages 1 to 3. -/
def bootStages (s : State) : State :=
  let f := s.kpr.fuses
  let s1 := firstOk f [(0, s.kpr.flash.relightA), (1, s.kpr.flash.relightB)]
  match s1.2 with
  | none => romBoot s1.1 s
  | some (ri, rl) =>
    let s2 := firstOk f (bundlesFor s)
    match s2.2 with
    | none => romBoot (s1.1 ++ s2.1) s
    | some (bi, b) =>
      let codes := s1.1 ++ s2.1 ++ (if s.kpr.flash.identityOk then [] else [0x5004])
      putBoot { source := bi, relightB := ri = 1, svn := b.svn, fwSet := b.fwSet, lastCode := codes.getLastD 0, bundle := b, relight := rl }
        (reportAll (codes ++ (if bi = 1 then [0x00B0] else [])) s)

/-- R429: the owner record at start. The keys of a record that fails are kept for RELEASE alone (assumption 23). -/
def startOwner (s : State) : State :=
  let c := s.kpr.sec
  if c.owned && (!c.tagOk || c.epoch != s.kpr.fuses.epoch) then
    raise 0x5013 pgSec 1 0x5013 0 0
      { s with kpr := { s.kpr with sec := { c with owned := false, recordBad := true, lock := true, policy := 0, ownerCert := none } } }
  else s

/-! ### The update record -/

def putUpd (u : Upd) (s : State) : State := { s with kpr := { s.kpr with upd := u } }
def putFlash (f : Flash) (s : State) : State := { s with kpr := { s.kpr with flash := f } }
def putFuses (f : Fuses) (s : State) : State := { s with kpr := { s.kpr with fuses := f } }

/-- R423: REVOKE and RAISE_SVN of a bundle are burned; never its own keyslot. -/
def burnFuses (b : Bundle) (f : Fuses) : Fuses :=
  { f with
    svn := max f.svn (b.raiseSvn.getD 0)
    revoked := (List.range 4).foldl (fun a i => if bitAt b.revoke i && i != b.keyslot then orBit a i else a) f.revoked }

/-- R449 step 2: the Relight that a bundle carries, as it is written to flash: the bytes are one component, and its signature is the
bundle's own (DESIGN CHOICE, assumption 13). -/
def relightOf (b : Bundle) : Bundle := { b with components := [b.relight], digests := [sha3 b.relight], hasRelight := true }

/-- R449: the steps after CONFIRMING: fuses, Relight copies, FALLBACK when the SVN passed it, old settings, IDLE, notice 0x00C0. -/
def confirmSteps (s : State) : State :=
  let b := s.kpr.flash.active
  let f := burnFuses b s.kpr.fuses
  let fl := s.kpr.flash
  let fl1 := if b.hasRelight then { fl with relightA := relightOf b, relightB := relightOf b } else fl
  let fl2 := if fl1.fallback.svn < f.svn then { fl1 with fallback := b } else fl1
  let s1 := putUpd { updReset with oldFormat := s.kpr.upd.newFormat, newFormat := s.kpr.upd.newFormat } (putFlash fl2 (putFuses f s))
  let a := pageBase pgUpd + 0x48
  raise 0x00C0 pgUpd 5 0x00C0 0 0 (regPut a (setBits (regGet s1 a) 15 0 (min 0xFFFF (bits (regGet s1 a) 15 0 + 1))) s1)

/-- R452: what a start makes of the record that it found. -/
def recAtStart (s : State) : State :=
  let u := s.kpr.upd
  match u.rec_ with
  | .idle | .copying => putUpd { updReset with oldFormat := u.oldFormat, newFormat := u.oldFormat } s
  | .writing | .written | .trial | .reverting =>
    putUpd { u with rec_ := .reverting, phase := .closed, left := .keep, trialAt := none, bytes := [], staged := none, both := false
                    newFormat := u.oldFormat } s
  | .confirming => s

/-- R422, R445, R452: a start of the Keeper. -/
def keeperStart (s : State) : State :=
  let s1 := startOwner (recAtStart (bootStages s))
  if s1.kpr.upd.rec_ = .confirming then confirmSteps s1 else s1

end Sys2Proof.Machine
end

