-- ==== Sys2Proof/Machine/Reset.lean ====
section
/-! DEFINITION. Resets (R416, R451, R481, R496, R497): warm and cold, the reset of one engine, entering RMA, and the pins and JTAG port
that go with them (R436, R493 to R502). -/

namespace Sys2Proof.Machine

/-! ### What a reset keeps -/

/-- R481: a stored word lies in the cold domain. -/
def coldWord (a : Nat) : Bool :=
  match pageAt a with
  | none => false
  | some p =>
    match regFind (regsOf (pageKind p).1) (a % 0x1000) with
    | some (d, _, _) => d.cold
    | none => false

/-- R481: a warm reset returns the registers of the warm domain to their reset values. -/
def warmRegs (t : Tbl Nat) : Tbl Nat := t.filter fun e => coldWord e.1

/-- R482: the pages whose rails go off lose their warm registers. -/
def railRegs (t : Tbl Nat) : Tbl Nat :=
  t.filter fun e => coldWord e.1 || match pageAt e.1 with
    | some p => servedOff (pageKind p).1
    | none => false

/-- R481: a cold reset keeps of the registers only the Dark map. -/
def coldRegs (t : Tbl Nat) : Tbl Nat := t.filter fun e => decide (darkReg 0 ≤ e.1) && decide (e.1 < darkReg 16)

/-- R392: every PENDING slot becomes INCOMPLETE. -/
def dropPending (s : State) : State :=
  (List.range 256).foldl (fun t i => if slotState t i = 1 then putSlotState i 3 t else t) s

/-- R392, R416: the records held back, and the job in force, take slots that are INCOMPLETE. -/
def spoilSlots (s : State) : State :=
  let s1 := s.jobs.deferred.foldl (fun t e => (storeRecord e.1.jobId e.2 t).2) s
  let s2 := match s.jobs.active with
    | some a => if inJob s then (storeRecord (jId a.job.record) [] s1).2 else s1
    | none => s1
  dropPending s2

/-- R416: banks and Moorings after a warm reset. -/
def warmBank (k : Bank) : Bank :=
  if k.st = .loaded || k.st = .stale then { k with st := .stale, installed := false }
  else bankReset

def warmMoor (m : Mooring) : Mooring :=
  if m.st = .filling || m.st = .verifying then moorReset else m

/-- R314, R321: every link goes to DOWN; the cable stays. With bad straps every link stays fenced (R246). -/
def linksDown (posOk : Bool) (t : Tbl Link) : Tbl Link :=
  tmap (fun _ k => { linkReset with cable := k.cable, st := if posOk then .down else .fenced }) t

/-- What both resets make of the Stations, the engines and the fabric; SRAM is lost (R458). -/
def blankChip (s : State) : State :=
  let s1 := resetUnits
    { s with
      sram := [], istore := [], sramEcc := [], istoreBad := [], engs := [], chipFlags := [], hostMask := 0, sb := []
      run := runReset, ck0 := none, ck1 := none, recov := recovReset, led := ledReset }
  noPart { s1 with
    fab := { s1.fab with
      links := linksDown s1.fab.posOk s1.fab.links, outbox := [], msgid := 0, ports := [], time := timeReset, go := none, fork := none, forkLinks := [], bulk := []
      bulkDone := [], leading := none, pairLink := none, comparing := false, leadOwn := [], leadTheirs := [], leadLaunch := none } }

/-- R463, R467: the power controller after a reset: what the feeds and sensors show stays, the trip stays known to POWER_UP. -/
def warmPwr (p : Pwr) : Pwr :=
  { pwrReset with mvA := p.mvA, mvB := p.mvB, onB := p.onB, single := p.single, tj := p.tj, td := p.td, hot := p.hot, trip := p.trip
                  brownout := p.brownout }

/-- R430: the Watch restarts at 0 (TIM_WATCH, warm reset), and the nonce's time is counted on from there. -/
def shiftNonce (w : Nat) (c : Sec) : Sec := { c with nonce := c.nonce.map fun n => (n.1, n.2 - w) }

/-- R416, R451, R481: a warm reset. -/
def warmReset (s : State) : State :=
  let s1 := releaseFog (spoilSlots s)
  let s2 := blankChip { s1 with regs := warmRegs s1.regs, latched := [], staged := [] }
  let s3 := { s2 with
    life := .keep, watch := 0, banks := tmap (fun _ k => warmBank k) s2.banks, moorings := tmap (fun _ m => warmMoor m) s2.moorings
    jobs := jobsReset
    kpr := { s2.kpr with
      sec := shiftNonce s.watch s2.kpr.sec, pwr := warmPwr s2.kpr.pwr, clk := [], dram := [], pauseUntil := 0 } }
  if s.kpr.upd.rec_ != .idle then keeperStart s3
  else putUpd { updReset with oldFormat := s.kpr.upd.oldFormat, newFormat := s.kpr.upd.oldFormat } s3

/-- R416, R418: RESET_WARM; its completion is posted after the reset. -/
def cmdResetWarm : CmdBody := fun o _ s => cmdDone o 0 [] (warmReset s)

/-- R410, R416: the RESET_WARM command. -/
def execResetWarm (c : CmdRec) (s : State) : Res := .next (adminRun c 0 [] (fun _ => true) cmdResetWarm s)

/-- The module has power. -/
def powered (s : State) : Bool := s.life != .off

/-- R395: a Function Level Reset or hot reset. -/
def execFunctionLevelReset (s : State) : Res := .next (if powered s then warmReset s else s)

def putPins (p : Pins) (s : State) : State := { s with kpr := { s.kpr with pins := p } }

/-- R496: PERST_N or WARM_RST_N has been low for 100 µs: a warm reset, in which the module stays while a pin is low. The PCI Express
link leaves its trained state. -/
def pinReset (perst : Bool) (s : State) : State :=
  let s1 := if s.kpr.pins.perst || s.kpr.pins.warm then s else warmReset s
  let p := s1.kpr.pins
  putPins { p with perst := p.perst || perst, warm := p.warm || !perst, pciRate := 0, pciWidth := 0 } s1

/-- R496: WARM_RESET_PIN. -/
def execWarmResetPin (perst : Bool) (s : State) : Res := .next (if powered s then pinReset perst s else s)

/-- R396, R496: a pin returns high; with neither low the PCI Express link retrains at 64 GT/s and x8, and the host's enumeration sizes
BAR2, 1 GiB × 2^bar2 (DESIGN CHOICE, assumption 14). -/
def pinRelease (perst : Bool) (bar2 : Fin 9) (s : State) : State :=
  let p := s.kpr.pins
  let q := { p with perst := p.perst && !perst, warm := p.warm && perst }
  putPins (if q.perst || q.warm then q else { q with pciRate := 4, pciWidth := 8, bar2Log2 := 30 + bar2.val }) s

/-- R496: RESET_RELEASE. -/
def execResetRelease (pin : PinRelease) (s : State) : Res :=
  .next (if if pin.perst then s.kpr.pins.perst else s.kpr.pins.warm then pinRelease pin.perst pin.bar2 s else s)

/-! ### Power applied -/

/-- R439: a DARK_CLEAR scope clears the fault marks at a cold reset. -/
def clearMarks (s : State) : State :=
  if bitAt s.kpr.sec.debugOpen 3 then
    (List.range 16).foldl (fun t n => regPut (darkReg n) (setBits (darkWord t n) 30 16 0) t) s
  else s

/-- R245, R246: the straps are sampled; invalid ones raise 0x3002 and fence every link. -/
def sampleStraps (x : Straps) (s : State) : State :=
  let pos := [x.d0.val, x.d1.val, x.d2.val, x.d3.val]
  let ok := strapsOk pos x.par
  let s1 := noPart { s with fab := { s.fab with pos := pos, posOk := ok } }
  if ok then s1
  else report 0x3002 pgKpr ((List.range 96).foldl (fun t l => putLink l { linkOf t l with st := .fenced } t) s1)

/-- R416, R422, R456, R481: a cold reset: fuses, flash, the owner record and the fault marks of the Dark map stay. -/
def coldReset (x : Straps) (s : State) : State :=
  let s1 := clearMarks s
  let s2 := blankChip { s1 with regs := coldRegs s1.regs, latched := [], staged := [], symCount := [], dramEcc := [], dram := [], banks := [], moorings := [] }
  let s3 := sampleStraps x
    { s2 with
      life := .keep, watch := 0, jobs := jobsReset
      kpr := { s2.kpr with
        sec := { s2.kpr.sec with nonce := none, debugOpen := 0 }
        pwr := { pwrReset with brownout := s2.kpr.pwr.brownout }, clk := [], dram := []
        pins := { s2.kpr.pins with pciRate := 4, pciWidth := 8, bar2Log2 := 38, tap := 0 }, pauseUntil := 0, forwarded := x.clockMode } }
  let s4 := keeperStart s3
  if s4.kpr.pwr.brownout then
    raise 0x7030 pgPwr 6 0x7030 0 0 { s4 with kpr := { s4.kpr with pwr := { s4.kpr.pwr with brownout := false } } }
  else s4

/-- R481: power is applied: OFF to KEEP. -/
def execPowerApplied (straps : Straps) (s : State) : Res := .next (if s.life = .off then coldReset straps s else s)

/-! ### Engine reset -/

/-- R481: the engine's scoreboard registrations go. -/
def dropRegs (l : Latched) (s : State) : State := l.sb.foldl (fun t r => sbDone r t) s

/-- R481: the engine's own state. -/
def clearEng (e : Engine) : Engine :=
  { engReset with present := e.present, pushed := e.pushed, p := e.p, s := e.s }

/-- R481: the accumulator set of a Lantern. -/
def clearLan (st p : Nat) (s : State) : State := putLan st p { lanOf s st p with set := none } s

/-- R481: the kernel state of a Wick pair. -/
def clearWick (st p : Nat) (s : State) : State :=
  putWick st p { wickOf s st p with inKernel := false, stalled := none, verified := [], dirty := [] } s

/-- The accumulator set, kernel state or Port buffers of the unit behind an engine. -/
def clearUnit (g : Eng) (s : State) : State :=
  if engClass g.e = 0 then
    match lanPhys s g.st g.e with
    | some p => clearLan g.st p s
    | none => s
  else if engClass g.e = 1 then
    match wickPhys s g.st (g.e - 4) with
    | some p => clearWick g.st p s
    | none => s
  else if engClass g.e = 3 then putPort g.st portReset s
  else s

/-- R481: ENGINE_RESET of a unit that no stream is bound to. -/
def clearFree (u : UnitRef) (s : State) : State :=
  match u with
  | .lantern st p => clearLan st p s
  | .wick st p => clearWick st p s

/-- R481: ENGINE_RESET of one engine. -/
def resetEng (g : Eng) (s : State) : State :=
  let s1 := match (engOf s g).cur with
    | some l => dropRegs l s
    | none => s
  clearUnit g (putEng g (clearEng (engOf s1 g)) s1)

/-- R417: ENGINE_RESET and parameter writes are legal. -/
def engineWriteOk (s : State) : Bool :=
  s.life = .ready || s.life = .loaded || s.life = .draining || (s.life = .faulted && !s.kpr.pwr.railsOff)

/-- The CONTROL register of an engine's page. -/
def engCtlAddr (s : State) (g : Eng) : Nat := pageBase (engPage s g) + 0x10

/-- R77, R481: a write of ENGINE_RESET. -/
def execEngineReset (g : Eng) (s : State) : Res :=
  .next (hostWrite (engPage s g) (engCtlAddr s g)
    (fun t => if engineWriteOk t then resetEng g t else conflict 0x7F (engCtlAddr s g) t) s)

/-! ### RMA -/

/-- R428: entering RMA blows DAYMARK_KILL, and then sets LIFECYCLE to 0b11. -/
def execRmaEntry (s : State) : Res :=
  .next (if powered s then putFuses { s.kpr.fuses with kill := true, lifecycle := max s.kpr.fuses.lifecycle 3 } s else s)

/-! ### JTAG and SMBus -/

/-- R499, R500: the IDCODE; the manufacturer code is Berwamen's, printed on the label, and free here. -/
def idcode (s : State) : Nat :=
  1 + bits Config.manufacturer 10 0 * 2 + (0x5390 + s.kpr.fuses.grade) * 2 ^ 12 + s.kpr.stepping * 2 ^ 28

def setTap (n : Nat) (s : State) : State := putPins { s.kpr.pins with tap := n } s

/-- R436, R499: a boundary-scan instruction acts only in KEEP with scope BSCAN open; else the port shows BYPASS. -/
def bscan (n : Nat) (s : State) : State :=
  if bitAt s.kpr.sec.debugOpen 0 && s.life = .keep then emit (.reply "TDO" [BitVec.ofNat 8 n]) (setTap n s)
  else emit (.reply "TDO" [0]) (setTap 1 s)

/-- R436: a debug access whose scope is shut acts as BYPASS. -/
def closedScope (s : State) : State := emit (.reply "TDO" [0]) (setTap 1 s)

/-- R436, R499: a JTAG TAP operation. An engine halt stops the engine before its next issue, and a state access shows
STN_ENG_STATE (DESIGN CHOICE, assumption 15). What the Keeper cores' debug module does, the spec does not say: refused by name. -/
def execJtagInstruction (op : JtagOp) (s : State) : Res :=
  match op with
  | .idcode => .next (emit (.reply "TDO" (leBytes 4 (idcode s))) (setTap 0 s))
  | .bypass => .next (emit (.reply "TDO" [0]) (setTap 1 s))
  | .sample => .next (bscan 2 s)
  | .preload => .next (bscan 3 s)
  | .extest => .next (bscan 4 s)
  | .engineHalt g => .next (if bitAt s.kpr.sec.debugOpen 1 then putEng g { engOf s g with stopped := true } s else closedScope s)
  | .engineState g =>
    .next (if bitAt s.kpr.sec.debugOpen 1 then emit (.reply "TDO" (leBytes 4 (engState (engOf s g)))) s else closedScope s)
  | .keeper => if bitAt s.kpr.sec.debugOpen 2 then .refused .jtagKeeperAccess else .next (closedScope s)

/-- R499, R502: TRST_N low resets the TAP; an open scope stays open. -/
def execTapReset (s : State) : Res := .next (setTap 0 s)

/-- R495: SMB_ALERT_N is low while FOG_N is driven low here or an enabled PWR event is set. -/
def smbAlert (s : State) : Bool := bitAt (regGet s (pageBase pgRcv + 0x60)) 0 || summaryOn s pgPwr

/-- R495: an Alert Response Address read. -/
def execSmbusAlertResponse (s : State) : Res := .next (if smbAlert s then emit (.reply "SMBus" [0x4D]) s else s)

end Sys2Proof.Machine
end

