-- ==== Sys2Proof/Machine/Update.lean ====
section
/-! DEFINITION. Firmware update (R440 to R453): PLDM commands, flash writing, activation, trial, confirmation and revert. -/

namespace Sys2Proof.Machine

/-- A PLDM message to the update agent, by its name. -/
def pldm (name : String) (data : List Byte) (s : State) : State := emit (.reply "PLDM" (ascii name ++ data)) s

def updOf (s : State) : Upd := s.kpr.upd

/-- R392, R413, R447: the Keeper, or its ROM, serves PLDM. -/
def pldmUp (s : State) : Bool := powered s && !s.jobs.halted && !paused s

/-- Events of the update page. -/
def updEvent (code bit cause off : Nat) (s : State) : State := raise code pgUpd bit code cause off s

/-! ### How an update ends -/

/-- R415, R442: the module returns to the state it left, and LOADED banks become STALE. -/
def updClose (s : State) : State :=
  let u := updOf s
  let s1 := staleBanks s
  putUpd { updReset with oldFormat := u.oldFormat, newFormat := u.oldFormat }
    (if s1.life = .updating then { s1 with life := u.left } else s1)

/-- R442: the update is abandoned. -/
def abandon (s : State) : State := updClose (updEvent 0x6006 2 0 (updOf s).bytes.length s)

/-- R447, R450, R481: what a restart of the Keeper keeps: DRAM, READY Moorings, the Ledger store and a FORMED partition. -/
def restartChip (s : State) : State :=
  let s1 := staleBanks (blankChip { s with regs := warmRegs s.regs, latched := [], staged := [] })
  { s1 with
    watch := 0
    banks := tmap (fun _ k => if k.st = .loading then bankReset else { k with installed := false }) s1.banks
    moorings := tmap (fun _ m => warmMoor m) s1.moorings
    fab := { s1.fab with part := s.fab.part }
    jobs := { jobsReset with ended := s.jobs.ended }
    kpr := { s1.kpr with pauseUntil := 1200000000, sec := shiftNonce s.watch s1.kpr.sec } }

/-- R450: the revert: REVERTING, and a restart into FALLBACK with notice 0x00B0; the copy into ACTIVE then runs. -/
def startRevert (cause : Nat) (s : State) : State :=
  let s1 := putUpd { updOf s with rec_ := .reverting, phase := .closed, trialAt := none, bytes := [], staged := none, both := false
                                  cause := cause } s
  bootStages (restartChip s1)

/-! ### Starting and transfer -/

/-- R441: a refusal. -/
def refuseUpdate (code : Nat) (s : State) : State := updEvent code 0 0 0 (pldm "UNABLE_TO_INITIATE_UPDATE" [] s)

/-- R441, R454: both inputs lie within their operating range. -/
def feedsOk (s : State) : Bool := inRange s.kpr.pwr.mvA && inRange s.kpr.pwr.mvB

/-- R441: the first failing check. -/
def updateCheck (s : State) : Option Nat :=
  if romRecovery s then (if feedsOk s then none else some 0x6002)
  else if !inKRL s || (updOf s).rec_ != .idle then some 0x6001
  else if s.kpr.sec.lock then some 0x6003
  else if !feedsOk s then some 0x6002 else none

/-- R441: the update opens. -/
def openUpdate (maxTransfer : Nat) (s : State) : State :=
  pldm "RequestUpdate accepted" [] (putUpd { updOf s with
    phase := .requested, left := s.life, maxTransfer := maxTransfer, bytes := [], size := 0, fails := 0, lastAt := s.watch
    staged := none, retried := false, cause := 0 } { s with life := .updating })

/-- R441: RequestUpdate. -/
def execRequestUpdate (maxTransfer : Nat) (s : State) : Res :=
  .next (if !pldmUp s then s
    else if s.life = .updating then updEvent 0x6001 0 0 0 (pldm "ALREADY_IN_UPDATE_MODE" [] s)
    else match updateCheck s with
      | some c => refuseUpdate c s
      | none => openUpdate maxTransfer s)

/-- R442: bytes of the next request. -/
def nextAsk (u : Upd) : Nat := min (min u.maxTransfer 4096) (u.size - u.bytes.length)

/-- R442: RequestFirmwareData. -/
def askData (s : State) : State :=
  pldm "RequestFirmwareData" (leBytes 4 (updOf s).bytes.length ++ leBytes 4 (nextAsk (updOf s))) s

/-- R442: UpdateComponent. -/
def execUpdateComponent (bundleSize : Nat) (s : State) : Res :=
  .next (if pldmUp s && (updOf s).phase = .requested then
      askData (putUpd { updOf s with phase := .transfer, size := bundleSize, lastAt := s.watch } s)
    else s)

/-- R442: a good answer is staged. -/
def stageData (data : List Byte) (s : State) : State :=
  let s1 := putUpd { updOf s with bytes := (updOf s).bytes ++ data, fails := 0, lastAt := s.watch } s
  if (updOf s1).bytes.length < (updOf s1).size then askData s1 else s1

/-- R442: a bad answer is requested again, up to three times. -/
def retryData (s : State) : State :=
  let f := (updOf s).fails + 1
  if 4 ≤ f then abandon s else askData (putUpd { updOf s with fails := f, lastAt := s.watch } s)

/-- R442: a RequestFirmwareData response. -/
def execFirmwareDataResponse (ok : Bool) (data : List Byte) (s : State) : Res :=
  .next (if pldmUp s && (updOf s).phase = .transfer && decide ((updOf s).bytes.length < (updOf s).size) then
      (if ok && data.length = nextAsk (updOf s) then stageData data s else retryData s)
    else s)

/-- R442: the update waits for the agent. -/
def waitsAgent (u : Upd) : Bool := u.phase = .requested || u.phase = .transfer

/-- R442: 120 s without an answer or the agent's next command. -/
def execFirmwareDataTimeout (s : State) : Res :=
  .next (if waitsAgent (updOf s) then abandon (watchTo ((updOf s).lastAt + 120000000000) s) else s)

/-! ### Verification and flash -/

/-- R443: the check of the staged copy: a code and its cause. -/
def stagedCheck (s : State) (b : Bundle) : Option (Nat × Nat) :=
  if decide (24 * 2 ^ 20 < (updOf s).size) || b.deviceId != 0x5390 + s.kpr.fuses.grade ||
      decide ((updOf s).oldFormat < b.settingsFrom) then some (0x6004, 0)
  else (objectCode s.kpr.fuses b).map fun c => (0x6005, c)

/-- R444 step 2: ACTIVE is erased, and the bundle is written. -/
def startActive (s : State) : State :=
  putUpd { updOf s with rec_ := if romRecovery s then .idle else .writing, phase := .writeActive, retried := false }
    (putFlash { s.kpr.flash with active := noBundle } s)

/-- R444 step 1: the bundle that booted goes to FALLBACK, unless FALLBACK already equals it. -/
def startWriting (b : Bundle) (s : State) : State :=
  let u := { updOf s with
    staged := some b, oldDigest := sha3 s.kpr.boot.bundle.manifest, newDigest := sha3 b.manifest, newFormat := b.settingsFormat
    retried := false }
  let s1 := pldm "VerifyComplete success" [] (putUpd u s)
  if romRecovery s || sha3 s.kpr.flash.fallback.manifest = u.oldDigest then startActive s1
  else putUpd { u with rec_ := .copying, phase := .writeFallback } s1

/-- R443: TransferComplete; every byte of the bundle has been staged. -/
def verifyStaged (b : Bundle) (s : State) : State :=
  match stagedCheck s b with
  | some (code, cause) => updClose (updEvent code 1 cause 0 (pldm "VerifyComplete failure" [] s))
  | none => startWriting b s

/-- R443: TRANSFER_COMPLETE. -/
def execTransferComplete (staged : Bundle) (s : State) : Res :=
  .next (if pldmUp s && (updOf s).phase = .transfer && (updOf s).size = (updOf s).bytes.length then verifyStaged staged s else s)

/-- R444 step 3: WRITTEN, and ApplyComplete; in ROM recovery the module restarts into the new bundle. -/
def activeWritten (b : Bundle) (s : State) : State :=
  let s1 := putFlash { s.kpr.flash with active := b } s
  if romRecovery s then keeperStart (updClose s1)
  else pldm "ApplyComplete success" [] (putUpd { updOf s1 with rec_ := .written, phase := .applied, lastAt := s.watch } s1)

/-- R444: a read-back that fails is rewritten once; a second failure raises 0x6007. -/
def flashFailed (s : State) : State :=
  if !(updOf s).retried then putUpd { updOf s with retried := true } s
  else
    let s1 := updEvent 0x6007 3 0 0 s
    if (updOf s).phase = .writeFallback || romRecovery s then updClose s1 else startRevert 0x6007 s1

/-- R444: a flash copy or write step and its read-back finish. -/
def flashStep (ok : Bool) (s : State) : State :=
  let u := updOf s
  match u.phase, u.staged with
  | .writeFallback, some _ =>
    if ok then startActive (putFlash { s.kpr.flash with fallback := s.kpr.boot.bundle } s) else flashFailed s
  | .writeActive, some b => if ok then activeWritten b s else flashFailed s
  | _, _ => s

/-- R444: FLASH_WRITE_STEP_DONE. -/
def execFlashWriteStepDone (readBackOk : Bool) (s : State) : Res := .next (flashStep readBackOk s)

/-! ### Cancelling -/

/-- R442: an update that is open and before ApplyComplete. -/
def beforeApply (u : Upd) : Bool := u.phase != .closed && u.phase != .applied

/-- R442, R446, R453: CancelUpdate. -/
def execCancelUpdate (s : State) : Res :=
  .next (if !pldmUp s then s else if beforeApply (updOf s) then abandon s else if (updOf s).phase = .applied then startRevert 0 s else s)

/-- R442: CancelUpdateComponent. -/
def execCancelUpdateComponent (s : State) : Res := .next (if pldmUp s && beforeApply (updOf s) then abandon s else s)

/-! ### Activation, trial, confirmation and revert -/

/-- R446, R448: TRIAL is written, the trial timer starts, the Keeper restarts into ACTIVE, and settings stand in both formats. -/
def activate (s : State) : State :=
  let u := updOf s
  let s1 := bootStages (putUpd { u with rec_ := .idle } (restartChip (pldm "ActivateFirmware 2 s" [] s)))
  putUpd { u with rec_ := .trial, phase := .closed, trialAt := some 0, both := true } s1

/-- R446: the first reason to refuse activation. -/
def activateCheck (s : State) : Option Nat :=
  if s.kpr.pwr.single then some 0x6002 else if s.kpr.sec.lock then some 0x6003 else none

/-- R446: ActivateFirmware, accepted only with the record at WRITTEN. -/
def execActivateFirmware (s : State) : Res :=
  .next (if pldmUp s && (updOf s).rec_ = .written && (updOf s).phase = .applied then
      match activateCheck s with
      | some c => updEvent c 0 0 0 (pldm "ActivateFirmware refused" [] s)
      | none => activate s
    else s)

/-- R446: no acceptable ActivateFirmware within 120 s of ApplyComplete. -/
def execActivateTimeout (s : State) : Res :=
  .next (if (updOf s).rec_ = .written && (updOf s).phase = .applied then
      startRevert 0 (watchTo ((updOf s).lastAt + 120000000000) s)
    else s)

/-- The trial timer has not yet reached 30 s. -/
def inTrial (s : State) : Bool :=
  (updOf s).rec_ = .trial && match (updOf s).trialAt with
    | some w => decide (s.watch < w + 30000000000)
    | none => false

/-- R449: CONFIRMING and its steps; the module returns to the state it left. -/
def confirm (s : State) : State :=
  let left := (updOf s).left
  let s1 := confirmSteps (putUpd { updOf s with rec_ := .confirming } s)
  if s1.life = .updating then { s1 with life := left } else s1

/-- R449, R450: the trial's health checks end; which check failed has no code in the spec, so CAUSE is free. -/
def execHealthConfirmed (passed : Bool) (s : State) : Res :=
  .next (if inTrial s then
      (if passed then confirm s else startRevert ((Config.freeValue s.free).toNat % 65536) (bumpFree s))
    else s)

/-- R450: the trial timer reaches 30 s. -/
def execTrialTimeout (s : State) : Res :=
  .next (match (updOf s).rec_, (updOf s).trialAt with
    | .trial, some w => startRevert 0 (watchTo (w + 30000000000) s)
    | _, _ => s)

/-- R450 steps 3 to 5: ACTIVE equals FALLBACK again, IDLE, 0x6010, and the state it left. -/
def revertDone (s : State) : State :=
  let a := pageBase pgUpd + 0x48
  let s1 := putFlash { s.kpr.flash with active := s.kpr.flash.fallback } s
  let s2 := regPut a (setBits (regGet s1 a) 31 16 (min 0xFFFF (bits (regGet s1 a) 31 16 + 1))) s1
  updClose (updEvent 0x6010 4 (updOf s).cause 0 s2)

/-- R450: REVERT_COPY_DONE. -/
def execRevertCopyDone (s : State) : Res := .next (if (updOf s).rec_ = .reverting then revertDone s else s)

end Sys2Proof.Machine
end

