-- ==== Sys2Proof/Machine/Power.lean ====
section
/-! DEFINITION. Power (R454 to R468): the two feeds, POWER_UP and POWER_DOWN, operating points, the throttle, trips and the power-fail
sequence; droop (R325) and Strict Timing (R378). -/

namespace Sys2Proof.Machine

def putPwr (p : Pwr) (s : State) : State := { s with kpr := { s.kpr with pwr := p } }
def pwrOf (s : State) : Pwr := s.kpr.pwr

/-! ### Powering up and down -/

/-- R75, R79: a unit loses its power: a test that runs is aborted, and none has passed since power-up. -/
def gateOff (v : UnitSt) : UnitSt :=
  { v with role := if v.role = .test then .spare else v.role, waking := false, katRunning := false, katPassed := false }

/-- R73, R458: spares are powered and clock-gated from LOADED on, and power-gated in READY; enabled units likewise. -/
def gateSpares (s : State) : State :=
  let off := s.life = .ready || s.life = .keep
  let set (v : UnitSt) : UnitSt :=
    if v.role = .dark then v
    else if off then { gateOff v with gate := .powerGated }
    else { v with gate := .clockGated, waking := false, katAt := if v.gate = .powerGated then s.watch else v.katAt }
  (List.range 144).foldl (fun t i =>
    let t1 := if i < 80 then putLan (i / 5) (i % 5) { lanOf t (i / 5) (i % 5) with unit := set (lanOf t (i / 5) (i % 5)).unit } t else t
    putWick (i / 9) (i % 9) { wickOf t1 (i / 9) (i % 9) with unit := set (wickOf t1 (i / 9) (i % 9)).unit } t1) s

/-- R398: a load is in progress, or a Mooring is FILLING or VERIFYING. -/
def memoryFilling (s : State) : Bool :=
  s.banks.any (fun e => e.2.st = .loading) || s.moorings.any fun e => e.2.st = .filling || e.2.st = .verifying

/-- R187, R415, R458, R459: in READY the DRAM is in self-refresh, but for a load or a Mooring fill in progress. In LOADED a
channel stays as it was: POWER_UP with a STALE bank leaves it in self-refresh until a load, a fill or a launch wakes it. -/
def settleDram (s : State) : State :=
  if s.life = .ready then
    { s with kpr := { s.kpr with dram := (List.range 16).map fun n => (n, { dramOf s n with selfRefresh := !memoryFilling s }) } }
  else s

/-- R415: READY or LOADED, by the banks; a change gates or powers the spares. -/
def settleLife (s : State) : State :=
  if s.life = .ready || s.life = .loaded then
    let l := restLife s
    settleDram (if l = s.life then s else gateSpares { s with life := l })
  else s

/-- R187, R459: DRAM leaves self-refresh, at the start of a load, a Mooring fill or a launch. -/
def wakeDram (s : State) : State :=
  { s with kpr := { s.kpr with dram := (List.range 16).map fun n => (n, { dramOf s n with selfRefresh := false }) } }

/-- R314, R246: a link whose training may begin: enabled, cabled, DOWN, with good straps. -/
def mayTrain (s : State) (l : Nat) : Bool :=
  s.fab.posOk && bitAt (regGet s (pageBase (pgLnk l) + 0x10)) 0 && (linkOf s l).cable && (linkOf s l).st = .down

/-- R314: a DOWN link tries to detect a signal. -/
def tryLink (l : Nat) (s : State) : State :=
  putLink l { linkOf s l with st := .detect, flashAt := s.watch, trainBegan := s.watch } s

/-- R415, R459: rails, PLLs and PHYs come up, and the links train. -/
def powerUp (s : State) : State :=
  let s1 := gateSpares { s with
    life := restLife s
    kpr := { s.kpr with
      pwr := { s.kpr.pwr with trip := none, railsOff := false }
      dram := (List.range 16).map fun n => (n, { dramOf s n with selfRefresh := true })
      clk := (List.range 16).map fun n => (n, ⟨!stnDark s n, 0, false, s.watch⟩) } }
  (List.range 96).foldl (fun t l => if mayTrain t l then tryLink l t else t) s1

/-- R467: a trip still bars POWER_UP. -/
def tripBars (s : State) : Option Nat :=
  match (pwrOf s).trip with
  | some c => if 90 ≤ (pwrOf s).tj || 80 ≤ (pwrOf s).td then some c else none
  | none => none

/-- R415, R467: POWER_UP. -/
def cmdPowerUp : CmdBody := fun o _ s =>
  if s.life = .ready then cmdDone o 0 [] s
  else match tripBars s with
    | some c => cmdDone o c [] s
    | none => cmdDone o 0 [] (powerUp s)

/-- R417: the states in which POWER_UP is legal. -/
def upLegal (s : State) : Bool := s.life = .keep || s.life = .ready

/-- R410: the POWER_UP command. -/
def execPowerUp (c : CmdRec) (s : State) : Res := .next (adminRun c 0 [] upLegal cmdPowerUp s)

/-- Commands that a POWER_DOWN cuts off complete with 0x2040. -/
def cutCommands (s : State) : State :=
  let s1 := (s.jobs.bankCmd ++ s.jobs.moorCmd).foldl (fun t e => cmdDone e.2 0x2040 [] t) s
  let s2 := s1.jobs.waiting.foldl (fun t j => refuseJob j true 0x2040 t) s1
  { s2 with jobs := { s2.jobs with bankCmd := [], moorCmd := [], waiting := [] } }

/-- R415, R458: READY or LOADED to KEEP: every bank FREE, every Mooring EMPTY, the partition dissolved, SRAM lost. -/
def powerDown (s : State) : State :=
  let s1 := cutCommands (formDone 0x3005 s)
  let s2 := blankChip { s1 with regs := railRegs s1.regs }
  { s2 with life := .keep, banks := [], moorings := [], kpr := { s2.kpr with clk := [], dram := [] } }

/-- R415: POWER_DOWN. -/
def cmdPowerDown : CmdBody := fun o _ s => cmdDone o 0 [] (if s.life = .keep then s else powerDown s)

/-- R410: the POWER_DOWN command. -/
def execPowerDown (c : CmdRec) (s : State) : Res := .next (adminRun c 0 [] inKRL cmdPowerDown s)

/-! ### Feeds -/

/-- R454: A has fallen below 46 V and B is in range: the load moves to B. -/
def feedADrop (mvA mvB : Nat) (s : State) : State :=
  putPwr { pwrOf s with mvA := mvA, mvB := mvB, onB := (pwrOf s).onB || inRange mvB } s

/-- R454: FEED_A_DROP. -/
def execFeedADrop (mvA mvB : Nat) (s : State) : Res :=
  .next (if powered s && decide (mvA < 46000) then feedADrop mvA mvB s else s)

/-- R454: A has stayed above 47 V for 100 ms. -/
def execFeedAReturn (mvA : Nat) (s : State) : Res :=
  .next (if powered s && (pwrOf s).onB && decide (47000 < mvA) then putPwr { pwrOf s with mvA := mvA, onB := false } s else s)

/-- R455: an input has been out of range for 1 ms: notice 0x00D1. -/
def singleEnter (mvA mvB : Nat) (s : State) : State :=
  raise 0x00D1 pgPwr 1 0x00D1 0 0 (putPwr { pwrOf s with mvA := mvA, mvB := mvB, single := true } s)

/-- R455: SINGLE_FEED_ENTER. -/
def execSingleFeedEnter (mvA mvB : Nat) (s : State) : Res :=
  .next (if powered s && !(pwrOf s).single && (!inRange mvA || !inRange mvB) then singleEnter mvA mvB s else s)

/-- R455: both inputs have been in range for 100 ms. -/
def execSingleFeedExit (mvA mvB : Nat) (s : State) : Res :=
  .next (if powered s && (pwrOf s).single && inRange mvA && inRange mvB then
      putPwr { pwrOf s with mvA := mvA, mvB := mvB, single := false } s
    else s)

/-- R456: FOG_N low, engines stopped, the brown-out flag written, and the rails collapse: OFF. The Ledger store, DRAM and SRAM are
lost, and FOG_N is released with VAON (R497). -/
def powerFail (mvA mvB : Nat) (s : State) : State :=
  let s1 := releaseFog (stopAll (assertFog 0x7030 s))
  let s2 := blankChip { s1 with dram := [], dramEcc := [], banks := [], moorings := [] }
  putPwr { pwrReset with mvA := mvA, mvB := mvB, brownout := true } { s2 with life := .off, jobs := jobsReset }

/-- R456: POWER_FAIL. -/
def execPowerFail (mvA mvB : Nat) (s : State) : Res :=
  .next (if powered s && decide (mvA < 44000) && decide (mvB < 44000) then powerFail mvA mvB s else s)

/-! ### Trips -/

/-- R467: the rails of FAULTED go off after a trip. -/
def tripRails (s : State) : State :=
  { s with
    sram := [], istore := [], sramEcc := [], istoreBad := [], regs := railRegs s.regs
    fab := { s.fab with links := linksDown s.fab.posOk s.fab.links, ports := [] }
    kpr := { s.kpr with pwr := { s.kpr.pwr with railsOff := true }, clk := [], dram := [] } }

/-- R466, R467: a trip: the event, the count, FOG_N, and what it does in each lifecycle state. -/
def trip (code bit value stn : Nat) (s : State) : State :=
  let s1 := regCount (pageBase pgPwr + 0x58) (raise code pgPwr bit code value stn (putPwr { pwrOf s with trip := some code } s))
  let s2 := assertFog code s1
  match s.life with
  | .armed | .running | .held | .draining => tripRails (faulted code s.run.step s.fab.part.rank s2)
  | .keep => s2
  | .ready | .loaded => powerDown s2
  | .updating => startRevert code s2
  | .faulted => tripRails s2
  | .off => s2

/-! ### Throttle -/

/-- R463: the cap of a band, in watts. -/
def capOf (band : Nat) : Nat := 1000 - 50 * band

/-- R463: the band of a pair of temperatures. -/
def bandOf (tj td : Nat) : Nat :=
  max (if tj ≤ 95 then 0 else if tj ≤ 100 then 1 else if tj ≤ 103 then 2 else 3)
    (if td ≤ 85 then 0 else if td ≤ 90 then 1 else if td ≤ 93 then 2 else 3)

/-- R463: both temperatures are 3 K below a band's lower edge. -/
def coolEnough (band tj td : Nat) : Bool :=
  let e := if band = 1 then (95, 85) else if band = 2 then (100, 90) else (103, 93)
  decide (tj + 3 ≤ e.1) && decide (td + 3 ≤ e.2)

/-- R464: k_t after a reading. -/
def throttle (watts : Nat) (s : State) : State :=
  let p := pwrOf s
  let cap := capOf p.band
  if strictOn s then
    (if cap < watts then raise 0x00D0 pgPwr 0 0x00D0 watts 0 (putPwr { p with kt := 0, lowAt := none } s)
     else putPwr { p with kt := 0, lowAt := none } s)
  else if cap < watts then putPwr { p with kt := min 4 (p.kt + 1), lowAt := none } s
  else if watts * 100 < cap * 95 then
    match p.lowAt with
    | none => putPwr { p with lowAt := some s.watch } s
    | some w => if w + 1000000 ≤ s.watch then putPwr { p with kt := p.kt - 1, lowAt := some s.watch } s else s
  else putPwr { p with lowAt := none } s

/-- R466: the average of a full second lies above 1,000 W, or the input has been above 1,150 W for more than 10 ms. -/
def powerTrips (s : State) : Bool :=
  let p := pwrOf s
  let full := match p.readings.getLast? with
    | some r => decide (r.1 + 1000000000 ≤ s.watch + 10000)
    | none => false
  (full && decide (1000 * p.readings.length < (p.readings.map Prod.snd).foldl (· + ·) 0)) ||
    match p.peakAt with
    | some w => decide (w + 10000000 < s.watch)
    | none => false

/-- R464: the next 10 µs reading. -/
def takePower (watts : Nat) (s : State) : State :=
  let w := match (pwrOf s).readings.head? with
    | some r => max s.watch (r.1 + 10000)
    | none => s.watch
  let p := pwrOf s
  let rs := (w, watts) :: p.readings.filter fun r => decide (w < r.1 + 1000000000)
  let peak := if 1150 < watts then some (p.peakAt.getD w) else none
  throttle watts (putPwr { p with readings := rs, peakAt := peak } { s with watch := w })

/-- R464, R466: POWER_SAMPLE. -/
def execPowerSample (watts : Nat) (s : State) : Res :=
  .next (if powered s then
      let s1 := takePower watts s
      if powerTrips s1 && (pwrOf s1).trip.isNone then trip 0x7020 5 watts 0 s1 else s1
    else s)

/-- R463: the band after a reading; a band above 0 that is entered gives notice 0x00D2. -/
def rebandTo (b : Nat) (s : State) : State :=
  let s1 := putPwr { pwrOf s with band := b, coolAt := none } s
  if 0 < b then raise 0x00D2 pgPwr 2 0x00D2 (max (pwrOf s).tj (pwrOf s).td) 0 s1 else s1

def reband (s : State) : State :=
  let p := pwrOf s
  let b := bandOf p.tj p.td
  if p.band < b then rebandTo b s
  else if 0 < p.band && coolEnough p.band p.tj p.td then
    match p.coolAt with
    | none => putPwr { p with coolAt := some s.watch } s
    | some w => if w + 100000000 ≤ s.watch then rebandTo (p.band - 1) s else s
  else putPwr { p with coolAt := none } s

/-- R463: the next 1 ms reading. -/
def takeTemp (tj : Nat) (st : Nat) (td : Nat) (s : State) : State :=
  let w := max s.watch ((pwrOf s).tempAt + 1000000)
  let p := pwrOf s
  reband (putPwr { p with
    tempAt := w, tj := tj, td := td, hot := st
    tjAt := if 105 < tj then some (p.tjAt.getD w) else none
    tdAt := if 95 < td then some (p.tdAt.getD w) else none } { s with watch := w })

/-- A limit has been exceeded for 1 ms. -/
def overFor (s : State) (t : Option Nat) : Bool :=
  match t with
  | some w => decide (w + 1000000 ≤ s.watch)
  | none => false

/-- R466: the thermal trips. -/
def thermalTrip (s : State) : State :=
  let p := pwrOf s
  if p.trip.isSome then s
  else if 110 ≤ p.tj || overFor s p.tjAt then trip 0x7010 3 p.tj p.hot s
  else if overFor s p.tdAt then trip 0x7011 4 p.td 0 s
  else s

/-- R463, R466: TEMPERATURE_SAMPLE. -/
def execTemperatureSample (tj : Nat) (station : Fin 16) (td : Nat) (s : State) : Res :=
  .next (if powered s then thermalTrip (takeTemp tj station td s) else s)

/-! ### Operating points, droop and Strict Timing -/

/-- R460: every program bank is FREE. -/
def banksFree (s : State) : Bool := s.banks.all fun e => e.2.st = .free

/-- R460: OPP as written; reserved values are ignored. -/
def oppWrite (value : Nat) (s : State) : State :=
  let a := pageBase pgPwr + 0x10
  if pageLocked s pgPwr then countLocked pgPwr s
  else if !banksFree s then conflict 0x7F a s
  else if value ≤ 3 then regPut a value s else s

/-- R460: a write to PWR_CONTROL.OPP. -/
def execOppWrite (value : Nat) (s : State) : Res :=
  .next (hostWrite pgPwr (pageBase pgPwr + 0x10) (oppWrite value) s)

def putClk (n : Nat) (c : Clk) (s : State) : State := { s with kpr := { s.kpr with clk := tput s.kpr.clk n c } }

/-- R327: the Stations that a stretch of one Station reaches. -/
def stretchSet (s : State) (st : Nat) : List Nat := if s.kpr.forwarded then List.range 16 else [st]

/-- R348: the clocks of a Station since its k last changed: each lasts 1 + k/16 periods of 940 MHz, and each clock of the return is one
(assumption 40). -/
def stretchedClocks (c : Clk) (watch : Nat) : Nat :=
  if c.k = 0 then 0 else max 1 ((watch - c.since) * 15040 / (1000 * (16 + c.k)))

/-- R325, R348: k of a Station changes; the stretched clocks up to now are counted. -/
def setK (n k : Nat) (s : State) : State :=
  let c := clkOf s n
  if c.k = k then s
  else
    let a := pageBase (pgClk n) + 0x48
    regPut64 a ((regRaw s a true + stretchedClocks c s.watch) % 2 ^ 64) (putClk n { c with k := k, since := s.watch } s)

/-- R325: a droop is counted; outside Strict Timing the region stretches by a quarter. -/
def droop (st : Nat) (s : State) : State :=
  let s1 := regCount (pageBase (pgClk st) + 0x40) s
  if strictOn s then s1
  else (stretchSet s st).foldl (fun t n => setK n 4 t) (putClk st { clkOf s1 st with droops := true } s1)

/-- R325: DROOP_DETECT. -/
def execDroopDetect (st : Fin 16) (s : State) : Res := .next (if railsOff s then s else droop st s)

/-- R325, R327: a supply has been above the threshold for 64 clocks: the clock returns by 1/16 of a period, one clock of the return to each
command, unless in forwarded mode another Station still droops (DESIGN CHOICE, assumption 40). -/
def droopRelease (st : Nat) (s : State) : State :=
  let s1 := putClk st { clkOf s st with droops := false } s
  if (stretchSet s st).any fun n => (clkOf s1 n).droops then s1
  else (stretchSet s st).foldl (fun t n => setK n ((clkOf t n).k - 1) t) s1

/-- R325: DROOP_RELEASE. -/
def execDroopRelease (st : Fin 16) (s : State) : Res := .next (droopRelease st s)

/-- R378, R379: STRICT is set; stretching stops, and k_t stays at 0 (R464). -/
def setStrict (strict : Bool) (s : State) : State :=
  let s1 := regPut (pageBase pgLdg + 0x10) (b2n strict) s
  if strict then
    let s2 := (List.range 16).foldl (fun t n => setK n 0 t) s1
    putPwr { pwrOf s2 with kt := 0, lowAt := none } s2
  else s1

/-- R378: a write to KPR_LDG_CONTROL.STRICT. -/
def execStrictWrite (strict : Bool) (s : State) : Res :=
  .next (hostWrite pgLdg (pageBase pgLdg + 0x10)
    (fun t => if inKRL t then setStrict strict t else conflict 0x7F (pageBase pgLdg + 0x10) t) s)

end Sys2Proof.Machine
end

