-- ==== Sys2Proof/Machine/MemCare.lean ====
section
/-! DEFINITION. Memory upkeep (R184, R186 to R188, R203): the SRAM scrubber, the DRAM patrol, refresh and temperature, and the recovery
sources of a failing tile. -/

namespace Sys2Proof.Machine

/-! ### Recovery sources -/

/-- R188: what a failing tile can be restored from. -/
inductive Source where
  /-- The Mooring copy in DRAM, at this address. -/
  | mooring (a : Nat)
  /-- The image copy of the Keeper (R114). -/
  | image
  /-- The checkpoint, restored by rollback. -/
  | checkpoint
  /-- A replay writes the tile before it reads it. -/
  | rewritten
  | none
  deriving DecidableEq, Repr

/-- R213: the tensors of a class bound in SRAM from the Mooring: MOORED (class 5) stays in DRAM; weights and Tally areas are copied. -/
def moorCopied (cls : Nat) : Bool := cls = 0 || cls = 6

/-- Tensors of the placement in force, with their class. -/
def placedNow (s : State) : List (Placed × Nat × Nat × Nat) :=
  match (bankOf s s.run.bank).placement, (bankOf s s.run.bank).img with
  | some pl, some im => pl.stations.flatMap fun r => r.tensors.map fun t =>
      match im.tensors.find? fun u => u.id = t.id with
      | some u => (t, u.cls, u.moff, r.phys)
      | none => (t, 0xFF, 0, r.phys)
  | _, _ => []

/-- A placement covers a byte address. -/
def covers (t : Placed) (space a : Nat) : Bool :=
  t.space = space && decide (t.addr ≤ a) && decide (a < t.addr + t.size * 4096)

/-- R188: a descriptor that an engine has issued in this step writes a handle over the tile. By R224 a tensor outside the checkpoint
set that a step writes is written there before it is read. -/
def engWrites (s : State) (space a : Nat) (g : Eng) : Bool :=
  (engOf s g).issues.any fun x =>
    let l := latch s g (fetchBytes s g x.1)
    decide (0 < x.2) && (List.range 4).any fun k => writesHandle (dOp l.w) (dW7 l.w) k &&
      match handleOf s g.st (nth l.h k) with
      | some h => overlap (allocRange h) (space, a / 4096 * 4096, 4096)
      | none => false

/-- R188: the step has written the tile before it read it. -/
def stepWrites (s : State) (space a : Nat) : Bool :=
  (List.finRange 16).any fun st => (List.finRange 17).any fun e => engWrites s space a ⟨st, e⟩

/-- R188: the recovery source of the tile that holds a byte address of SRAM (0) or DRAM (1). -/
def sourceOf (s : State) (space a : Nat) : Source :=
  if space = 2 then .image
  else match (placedNow s).find? fun e => covers e.1 space a with
    | none => .none
    | some (t, cls, moff, phys) =>
      if space = 0 && moorCopied cls then
        match s.run.mooring with
        | some m => .mooring (phys * 0x200000000 + (moorOf s m).off + moff * 4096 + (a - t.addr) / 4096 * 4096)
        | none => .none
      else if (ckTensors s).any fun p => p.1.id = t.id || p.2.id = t.id then .checkpoint
      else if stepWrites s space a then .rewritten
      else .none

/-- R185, R188: a tile restored from the Mooring copy, which is read under its code. -/
def restoreTile (a src : Nat) : M Unit := do
  let bs ← readMem 1 src 4096
  modify (pokeMem 0 (a / 4096 * 4096) bs)

/-! ### The SRAM scrubber -/

/-- Lines of a Station's SRAM. -/
def scrubLines : Nat := 0x100000

def putScrub (n : Nat) (c : Scrub) (s : State) : State := putStn n { stnOf s n with scrub := c } s

/-- R184: the scrubber may read a line. -/
def canScrub (s : State) (n : Nat) : Bool :=
  !railsOff s && bitAt (regGet s (pageBase (pgSram n) + 0x10)) 0 && decide (0 < (stnOf s n).scrub.left)

/-- The address of the line that the scrubber reads next. -/
def scrubLine (s : State) (n : Nat) : Nat := n * 0x4000000 + (stnOf s n).scrub.line % scrubLines * 64

/-- R188: the source of a repair outside a read fails itself: with a job in force that is a detected fault, else 0x2091 at once. -/
def sourceLost (f : Fail) (s : State) : State :=
  if s.life = .running || s.life = .held then detect f.code .chip f.tile s else noSource 1 ((f.tile.map Prod.snd).getD 0) s

/-- R188: an uncorrectable line outside a read is repaired at once from a source in DRAM, else it stays recorded. -/
def repairNow (a : Nat) (s : State) : State :=
  match sourceOf s 0 a with
  | .mooring src => match (restoreTile a src).go s with
    | (.ok _, s1) => s1
    | (.error f, s1) => sourceLost f s1
  | _ => s

/-- R184: one word of the line: a correction waits for its write-back. -/
def scrubWord (w : Nat) (s : State) : State :=
  let bad := nget s.sramEcc w
  let n := sramStn w
  if bad = 0 then s
  else if bad = 1 then
    let s1 := sramCorrected true w s
    let c := (stnOf s1 n).scrub
    putScrub n { c with pending := c.pending.filter (· != w / 64 * 64) ++ [w / 64 * 64] } s1
  else repairNow w (sramWord true w s).2

/-- R184: one line. -/
def scrubRead (n : Nat) (s : State) : State :=
  let a := scrubLine s n
  let s1 := (List.range 8).foldl (fun t i => scrubWord (a + 8 * i) t) s
  let c := (stnOf s1 n).scrub
  putScrub n { c with left := c.left - 1, line := (c.line + 1) % scrubLines } s1

/-- R184: SRAM_SCRUB_READ. -/
def execSramScrubRead (st : Fin 16) (us : List Upset) (s : State) : Res :=
  .next (if canScrub s st then scrubRead st (strikes us s) else strikes us s)

/-- R184: a corrected line is written back in an idle clock. -/
def writeBack (n l : Nat) (s : State) : State :=
  let c := (stnOf s n).scrub
  putScrub n { c with pending := c.pending.filter (· != l) }
    { s with sramEcc := s.sramEcc.filter fun e => !(e.2 = 1 && e.1 / 64 * 64 = l) }

/-- R184: SCRUB_WRITEBACK. -/
def execScrubWriteback (st : Fin 16) (s : State) : Res :=
  .next (match (stnOf s st).scrub.pending with
    | l :: _ => writeBack st l s
    | [] => s)

/-- R184: the period ends: an unfinished pass gives notice 0x0030, and the next starts where it stopped. -/
def scrubEnd (n : Nat) (s : State) : State :=
  let c := (stnOf s n).scrub
  let s1 := putScrub n { c with left := scrubLines, perBank := [] } s
  if 0 < c.left then raise 0x0030 (pgSram n) 0 0x0030 0 0 s1 else s1

/-- R184: SCRUB_PERIOD_END. -/
def execScrubPeriodEnd (st : Fin 16) (s : State) : Res := .next (if railsOff s then s else scrubEnd st s)

/-! ### DRAM -/

/-- Lines of a channel. -/
def patrolLines : Nat := 0x800000

/-- R179: DRAM address of line i of a channel. -/
def chanLine (ch i : Nat) : Nat :=
  ch / 16 * 0x200000000 + i * 64 / 4096 * 0x10000 + ch % 16 * 4096 + i * 64 % 4096

/-- R187: the channel stands in a Strict Timing refresh window. -/
def inWindow (s : State) (ch : Nat) : Bool := strictOn s && decide ((s.watch + 3900 - 240 * (ch % 16)) % 3900 < 117)

/-- R186, R203: the patrol may read a line of a channel. -/
def canPatrol (s : State) (ch : Nat) : Bool :=
  !railsOff s && !(dramOf s (ch / 16)).selfRefresh && bitAt (regGet s (pageBase (pgDrm (ch / 16)) + 0x10)) 0 && !inWindow s ch

/-- R186, R184: the corrected lines of a channel are written back in its next idle clock. -/
def patrolBack (ch : Nat) (s : State) : State :=
  let d := dramOf s (ch / 16)
  putDramSt (ch / 16) { d with pending := d.pending.filter fun l => dramChan l != ch }
    { s with dramEcc := s.dramEcc.filter fun e => !(dramChan e.1 = ch && d.pending.contains e.1) }

/-- R186: one line, after the write-backs that wait; at the end of a pass the counts of the channel start again. -/
def patrolRead (ch : Nat) (s0 : State) : State :=
  let n := ch / 16
  let s := patrolBack ch s0
  let i := nget (dramOf s n).patrol (ch % 16)
  let s1 := (dramWord true (chanLine ch i) s).2
  let d := dramOf s1 n
  let s2 := putDramSt n { d with patrol := tput d.patrol (ch % 16) ((i + 1) % patrolLines) } s1
  if i + 1 = patrolLines then { s2 with symCount := s2.symCount.filter fun e => e.1 / 36 != ch } else s2

/-- R186: DRAM_PATROL_READ. -/
def execDramPatrolRead (ch : Fin 256) (us : List Upset) (s : State) : Res :=
  .next (if canPatrol s ch then patrolRead ch (strikes us s) else strikes us s)

/-- R187: the start of the next refresh of a channel: in Strict Timing the next fixed window, else where the controller puts it. -/
def refreshAt (s : State) (ch : Nat) : Nat :=
  if strictOn s then s.watch + (240 * (ch % 16) + 3900 - s.watch % 3900) % 3900 else s.watch

/-- R187: a refresh starts. -/
def refresh (ch : Nat) (s : State) : State :=
  let s1 := watchTo (refreshAt s ch) s
  let d := dramOf s1 (ch / 16)
  putDramSt (ch / 16) { d with refreshed := tput d.refreshed (ch % 16) s1.watch } s1

/-- R187: DRAM_REFRESH. -/
def execDramRefresh (ch : Fin 256) (s : State) : Res :=
  .next (if railsOff s || (dramOf s (ch.val / 16)).selfRefresh then s else refresh ch s)

/-- R187: DRAM_TEMPERATURE_READ; HOT doubles the default refresh rate. -/
def execDramTemperatureRead (group : Fin 16) (celsius : Nat) (s : State) : Res :=
  .next (if railsOff s then s else putDramSt group { dramOf s group with temp := celsius % 256 } s)

end Sys2Proof.Machine
end

