-- ==== Sys2Proof/Machine/Recovery.lean ====
section
/-! DEFINITION. Holds, rollback and replay (R355 to R365), checkpoint copies (R351, R352), the fault's known-answer test and spare
swap (R71, R75, R82, R107), lost Stations (R363), the Keeper compare (R370) and the detour link test (R366). -/

namespace Sys2Proof.Machine

/-! ### Bounds -/

/-- R364: the terminal causes. -/
def terminalCodes : List Nat :=
  [0x2021, 0x2030, 0x2060, 0x2061, 0x2063, 0x2065, 0x2070, 0x2071, 0x2072, 0x2074, 0x2076, 0x2081, 0x2091, 0x2092, 0x20A0, 0x20A2,
    0x20A3, 0x20A4, 0x20A5, 0x20A6, 0x3008, 0x5031, 0x7010, 0x7011, 0x7020]

def isTerminal (code : Nat) : Bool := terminalCodes.contains code

def putRecov (r : Recov) (s : State) : State := { s with recov := r }
def myRank (s : State) : Nat := s.fab.part.rank

/-- R352: HB in 1/1,024 tick. -/
def hb1024 (s : State) : Nat := 4 * (32 * flashTicks (rateNow s) * s.run.fq + 1024 * latN (rateNow s) (chmaxNow s))

/-- R358: ceil(replay_lead). -/
def replayLead (s : State) : Nat :=
  ceilDiv (4 * (100 * flashTicks (rateNow s) * s.run.fq + 1024 * latN (rateNow s) (chmaxNow s)) + 6000 * 1024) 1024

/-- R365: replay is disabled for the job. -/
def replayOff (s : State) : Bool := !s.run.replay || !bitAt (regGet s (pageBase pgRcv + 0x10)) 0

/-! ### Checkpoint copies -/

/-- A handle of the Station of a checkpoint tensor that covers one of its tiles and carries a Tally link. -/
def tallyHandle (s : State) (t : Placed) (a : Nat) : Option Handle :=
  ((stnOf s (sramStn t.addr)).handles.map Prod.snd).find? fun h =>
    h.tally != 0 && overlap (allocRange h) (t.space, a, 4096) && decide (h.base * 4096 ≤ a)

/-- R352, R191: verify the tile at an address of a checkpoint tensor, where it has a Tally link. -/
def verifyCk (t : Placed) (a : Nat) : M Unit := do
  let s ← get
  match tallyHandle s t a with
  | none => pure ()
  | some h =>
    let o : Opnd := ⟨0, h, 0, 0⟩
    verifyTile (sramStn t.addr) { h with space := h.memSpace } a (o.tileOf a).1 (o.tileOf a).2

/-- Copy one tile, read under its code. -/
def copyTile (space src dst : Nat) : M Unit := do
  let bs ← readMem space src 4096
  writeMem space dst bs

/-- R352: the tiles that the copier copies, in order: the tensor, the primary's tile and the second copy's. -/
def copyTiles (ps : List (Placed × Placed)) : List (Placed × Nat × Nat) :=
  ps.flatMap fun p => (List.range p.1.size).map fun i => (p.1, p.1.addr + 4096 * i, p.2.addr + 4096 * i)

/-- R352: one source tile verified, then copied. -/
def copyOne (x : Placed × Nat × Nat) : M Unit := do
  verifyCk x.1 x.2.1
  copyTile x.1.space x.2.1 x.2.2

/-- R352: primaries into second copies. -/
def copyPairs (ps : List (Placed × Placed)) : M Unit := (copyTiles ps).forM copyOne

/-- The Tally area of a tile's handle is itself a checkpoint tensor, so that its Tallies were restored too. -/
def tallyKept (s : State) (t : Placed) (a : Nat) : Bool :=
  match tallyHandle s t a with
  | none => false
  | some h => match handleOf s (sramStn t.addr) h.tally with
    | none => false
    | some th => (ckTensors s).any fun p => overlap (allocRange th) (p.1.space, p.1.addr, p.1.size * 4096)

/-- The Tally of a restored tile whose area was not restored: the copy's own (DESIGN CHOICE, assumption 16). -/
def resealCk (t : Placed) (a : Nat) : M Unit := do
  let s ← get
  match tallyHandle s t a with
  | none => pure ()
  | some h =>
    let o : Opnd := ⟨0, h, 0, 0⟩
    let _ ← sealTile (sramStn t.addr) { h with space := h.memSpace } a (o.tileOf a).1 (o.tileOf a).2

/-- R357 step 4: primaries from their second copies, then each tile's Tally verified. -/
def restorePairs (ps : List (Placed × Placed)) : M Unit := do
  ps.forM fun p => (List.range p.1.size).forM fun i => copyTile p.1.space (p.2.addr + 4096 * i) (p.1.addr + 4096 * i)
  ps.forM fun p => (List.range p.1.size).forM fun i => do
    let a := p.1.addr + 4096 * i
    if tallyKept (← get) p.1 a then verifyCk p.1 a else resealCk p.1 a

/-! ### The register part -/

/-- R351: the register part of the checkpoint set now, for a step that starts at a time in 1/1,024 tick. -/
def ckNow (s : State) (step rec_ start : Nat) : CkSlot :=
  { step := step, rec_ := rec_, start := start
    engs := s.engs.map fun e => (e.1, ⟨e.2.p, e.2.s, e.2.pos, e.2.loops, e.2.halted⟩)
    stations := s.stations.map fun t => (t.1, ⟨t.2.flags, t.2.fifos⟩)
    chipFlags := s.chipFlags, sb := s.sb, hostInc := [] }

/-- R351: slot k mod 2. -/
def slotOf (s : State) (k : Nat) : Option CkSlot := if k % 2 = 0 then s.ck0 else s.ck1
def putSlot (k : Nat) (c : CkSlot) (s : State) : State := if k % 2 = 0 then { s with ck0 := some c } else { s with ck1 := some c }

/-- R357 steps 1 and 2: what an abandoned attempt leaves of an engine. -/
def wipeEng (e : Engine) : Engine :=
  { stopEng e with stopped := false, prefetch := [], queue := [], stepEnded := false, forkId := none, issues := [] }

/-- R351: an engine's registers from a slot. -/
def loadEng (c : CkEng) (e : Engine) : Engine := { e with p := c.p, s := c.s, pos := c.pos, loops := c.loops, halted := c.halted }

/-- R351: chip flags, host flags with the doorbells applied since S(k). -/
def flagsWithInc (c : CkSlot) : Tbl Nat := c.hostInc.foldl (fun t e => tput t e.1 (nget t e.1 + e.2)) c.chipFlags

/-- R357 step 3: the register part from a slot. -/
def loadSlot (c : CkSlot) (s : State) : State :=
  { s with
    engs := tmap (fun k e => match tget? c.engs k with
      | some x => loadEng x e
      | none => e) s.engs
    stations := tmap (fun k t => match tget? c.stations k with
      | some x => { t with flags := x.flags, fifos := x.fifos }
      | none => { t with flags := [], fifos := [] }) s.stations
    chipFlags := flagsWithInc c
    sb := c.sb.map fun e => (e.1, { e.2 with writers := 0, readers := 0 })
    run := { s.run with step := c.step, rec_ := c.rec_, start := c.start, forkId := none, forkValue := none } }

/-! ### Rollback -/

/-- R384: Ledger entries of the abandoned attempt go, TYPE 1 events and the swaps of the hold in force apart. -/
def dropLed (held : Bool) (j : Nat) (l : Led) : Led :=
  { l with
    taps := l.taps.filter fun t => decide (field t 4 4 < j)
    events := l.events.filter fun e => field e 0 1 = 1 || (held && field e 0 1 = 2) || decide (field e 4 4 < j) }

/-- R357 steps 1 and 2: everything that stops or is emptied. -/
def wipeAttempt (j : Nat) (s : State) : State :=
  let s1 := stopAll s
  { s1 with
    engs := tmap (fun _ e => wipeEng e) s1.engs
    lanterns := tmap (fun _ l => { l with set := none }) s1.lanterns
    sb := s1.sb.map fun e => (e.1, { e.2 with writers := 0, readers := 0 })
    stations := tmap (fun _ t => { t with frozen := false }) s1.stations
    fab := { s1.fab with ports := [], fork := none, forkLinks := [] }
    run := { s1.run with leadLog := s1.run.leadLog.filter fun e => decide (field e 0 4 < j) }
    led := dropLed (s.life = .held) j s1.led }

/-- R372: the copier of a commit at or after the target has left the second copies in part. -/
def partialCopy (s : State) (j : Nat) : Bool :=
  match s.recov.copying with
  | some k => decide (j ≤ k)
  | none => false

/-- R357: rollback to step j. -/
def rollback (j : Nat) (s : State) : State :=
  let s1 := wipeAttempt j s
  let ok := match slotOf s j with
    | some c => decide (c.step = j)
    | none => false
  let s2 := match slotOf s j with
    | some c => if c.step = j then loadSlot c s1 else s1
    | none => s1
  let restore := decide (j ≤ s.recov.committed) && s.recov.copying.isNone
  putRecov { s2.recov with target := some j, restoring := restore && ok, rolledBack := ok && !restore && !partialCopy s j }
    { s2 with life := .held }

/-- The chip runs a job or holds it. -/
def runOrHeld (s : State) : Bool := s.life = .running || s.life = .held

/-! ### Detours -/

/-- R262: the records of a bank's DETOURS section. -/
def detourRecs (s : State) (b : Nat) : List (List Byte) :=
  match (bankOf s b).img with
  | some im => (List.range im.ndetours).map fun i => slice im.detours (32 * i) 32
  | none => []

/-- R262: a record's line is this chip's. -/
def onLine (s : State) (r : List Byte) : Bool := dtLine r = 0xFFFFFFFF || dtLine r = lineRank s (dtDim r)

/-- R261, R366: the links of a record's variant at this chip: from A or B to M, and from M to both. -/
def detourLinks (s : State) (r : List Byte) : List Nat :=
  let me := nth s.fab.part.self (dtDim r)
  if !onLine s r then []
  else if me = dtA r || me = dtB r then [sectorLink s (dtDim r) (dtM r)]
  else if me = dtM r then [sectorLink s (dtDim r) (dtA r), sectorLink s (dtDim r) (dtB r)]
  else []

/-- R262: the record that covers a link of a line, a specific LINE first. -/
def detourFor (s : State) (k a b : Nat) : Option (List Byte) :=
  let rs := (detourRecs s s.run.bank).filter fun r => dtDim r = k && dtA r = min a b && dtB r = max a b
  match rs.find? fun r => dtLine r = lineRank s k with
  | some r => some r
  | none => rs.find? fun r => dtLine r = 0xFFFFFFFF

/-- R275: some step's schedule at this chip uses a logical link. -/
def schedUses (s : State) (ll : Nat) : Bool :=
  match schedOf s with
  | none => false
  | some b => (List.range (scNchar b)).any fun c =>
      (phrasesOf s c).any fun e => e.1 = ll || (decide (0x8000 ≤ e.1) && phLink e.2 = ll) ||
        (decide (e.1 < 0x8000) && phForwards e.2 && phLink e.2 = ll)

/-- R264: a detour becomes active at this chip; none when its chip already takes part in one. -/
def adoptDetour (k a b : Nat) (s : State) : Option State :=
  match detourFor s k a b with
  | none => none
  | some r =>
    if s.fab.part.detours.contains r then some s
    else if s.fab.part.detours.isEmpty then some (putPart { s.fab.part with detours := [r] } s)
    else none

/-- R263: cause of the hold of a lost link: the notice that its replay reports (DESIGN CHOICE, assumption 17). -/
def linkLostCause : Nat := 0x0050

/-- R263, R264: a member link that the schedule uses goes down while a job runs. -/
def linkLost (l : Nat) (s : State) : State :=
  match logLink s l with
  | none => s
  | some ll =>
    if s.fab.part.st = .forming then formingLost l s
    else if !runOrHeld s || !schedUses s ll then s
    else
      let k := ll / 24
      let me := nth s.fab.part.self k
      let q := if ll % 24 < me then ll % 24 else ll % 24 + 1
      match adoptDetour k me q s with
      | some s1 => detect linkLostCause (.link (Fin.ofNat 96 l)) none s1
      | none => detect 0x3008 (.link (Fin.ofNat 96 l)) none (report 0x3008 pgKpr s)

/-- R261: the holds of both ends of a lost link make their intermediate take part in the detour (DESIGN CHOICE, assumption 17). -/
def learnDetour (h : Hold) (s : State) : State :=
  if h.cause != linkLostCause then s
  else
    let me := s.fab.part.self
    let ends := s.recov.holds.filter fun x => x.cause = linkLostCause && x.rank != h.rank
    let a := coordsOf s.fab.part.shape h.rank
    let found := ends.findSome? fun x =>
      let b := coordsOf s.fab.part.shape x.rank
      ((List.range 4).find? fun k =>
        a.set k 0 = me.set k 0 && b.set k 0 = me.set k 0 && nth a k != nth b k &&
          decide (3 ≤ extent s k) && nth me k = detourMid (nth a k) (nth b k) (extent s k)).map fun k => (k, nth b k)
    match found with
    | some (k, y) =>
      match adoptDetour k (nth a k) y s with
      | some s1 => s1
      | none => detect 0x3008 .chip none (report 0x3008 pgKpr s)
    | none => s

/-- R383: the TYPE 3 event's DETAIL: LDIM, A, B, the physical link and LINE; the intermediate names no link. -/
def detourDetail (s : State) (r : List Byte) : List Byte :=
  let me := nth s.fab.part.self (dtDim r)
  let l := if me = dtA r then sectorLink s (dtDim r) (dtB r) else if me = dtB r then sectorLink s (dtDim r) (dtA r) else 0xFF
  slice r 0 3 ++ leBytes 1 l ++ slice r 4 4 ++ leBytes 4 0

/-- R263, R264: notice 0x0050 and a TYPE 3 event for each detour that the Ledger does not name yet. -/
def noteDetours (step w : Nat) (s : State) : State :=
  s.fab.part.detours.foldl (fun t r =>
    if t.led.events.any fun e => field e 0 1 = 3 && slice e 20 12 = detourDetail s r then t
    else ledEvent 3 0x0050 step (myRank s) w (detourDetail s r) (report 0x0050 pgKpr t)) s

/-! ### Holds -/

/-- R360: a second fault. -/
def secondFault (h : Hold) (s : State) : State :=
  faulted 0x20A0 h.step h.rank (raise 0x20A0 pgRcv 3 (0x20A0 + h.cause * 2 ^ 16) (h.step % 2 ^ 32) h.rank s)

/-- R365: HELD without replay. -/
def heldNoReplay (h : Hold) (s : State) : State :=
  if s.recov.noReplay.isSome then s
  else
    let s1 := raise 0x20A1 pgRcv 4 (0x20A1 + h.cause * 2 ^ 16) (h.step % 2 ^ 32) h.rank (stopAll s)
    let s2 := ledEvent 6 0x20A1 h.step h.rank s.watch (leBytes 2 h.cause) s1
    putRecov { s2.recov with noReplay := some h.cause, holds := [h] } { s2 with life := .held }

/-- R358: the head Keeper fixes the replay origin at its first hold. -/
def fixOrigin (s : State) : State :=
  if s.fab.part.rank != 0 then s
  else
    let o := s.watch + replayLead s
    let job := (s.jobs.active.map fun a => jId a.job.record).getD 0
    putRecov { s.recov with origin := some o } { s with fab := { s.fab with go := some ⟨s.fab.part.pid, s.run.bank, o, job⟩ } }

/-- R356: the hold is the first since the last origin, or names an earlier step than all received since. -/
def isNews (s : State) (h : Hold) : Bool := s.recov.holds.all fun x => decide (h.step < x.step)

/-- R356, R357: a hold that is recorded: at the first, and at one that names an earlier step, the member rolls back. -/
def newHold (h : Hold) (s : State) : State :=
  let first := s.recov.holds.isEmpty
  let news := isNews s h
  let s1 := putRecov { s.recov with holds := s.recov.holds ++ [h] } s
  let s2 := learnDetour h (if first then fixOrigin s1 else s1)
  if news then rollback h.step s2 else s2

/-- R355 to R365: a hold raised here or received. -/
def takeHold (h : Hold) (s : State) : State :=
  if isTerminal h.cause then (if inJob s then faulted h.cause h.step h.rank s else s)
  else if !runOrHeld s then s
  else if s.recov.replaying.contains h.step then secondFault h s
  else if replayOff s then heldNoReplay h s
  else newHold h s

/-- R356: a hold received on a member link is forwarded when it is news. -/
def receiveHold (h : Hold) (s : State) : State :=
  takeHold h (if !isTerminal h.cause && runOrHeld s && isNews s h then sendHold h s else s)

/-- R355: a hold raised here. -/
def raiseHold (h : Hold) (s : State) : State :=
  takeHold h (if !isTerminal h.cause && runOrHeld s then sendHold h s else s)

/-! ### Fault reports -/

/-- Descriptors of a bank in the Instruction Store of a physical Station, with their addresses (R111, R238). -/
def storeDescs (s : State) (b st : Nat) : List (Nat × List Byte) :=
  match boundOf s b st with
  | some (_, v) => v.descs.zipIdx.map fun d => (st * 0x2000000 + (nth (bankOf s b).istoreBase st + d.2) * 64, d.1)
  | none => []

/-- R114: the affected 4 KiB of the store from the image copy. -/
def rewriteStore (a : Nat) (s : State) : State :=
  let t := a / 4096 * 4096
  let ds := (storeDescs s s.run.bank (a / 0x2000000)).filter fun d => decide (t ≤ d.1) && decide (d.1 < t + 4096)
  { s with
    istore := ds.foldl (fun m d => wrN m d.1 d.2) s.istore
    istoreBad := s.istoreBad.filter fun x => decide (x < t) || decide (t + 4096 ≤ x) }

/-- R114, R188: the repair of a failing tile during the hold; the code that the fault then has. -/
def repairTile (f : FaultRec) (s : State) : Nat × State :=
  match f.tile with
  | none => (f.code, s)
  | some (space, a) =>
    if f.code = 0x2080 then (f.code, rewriteStore a s)
    else if f.code = 0x2090 || f.code = 0x2093 then
      match sourceOf s space a with
      | .mooring src => match (restoreTile a src).go s with
        | (.ok _, s1) => (f.code, s1)
        | (.error e, s1) => (0x2091, noSource 1 ((e.tile.map Prod.snd).getD src) s1)
      | .none => (0x2091, noSource space a s)
      | _ => (f.code, s)
    else (f.code, s)

/-- R71, R82: codes after which the Keeper tests the unit. -/
def needsKat (u : UnitRef) (code : Nat) : Bool :=
  match u with
  | .lantern _ _ => code = 0x2001 || code = 0x2003 || code = 0x2062
  | .wick _ _ => code = 0x2002

/-- R71: the known-answer test of a faulting unit starts. Its role stays ENABLED: R74 gives TEST to a spare only (DESIGN CHOICE,
assumption 47). -/
def startFaultKat (u : UnitRef) (s : State) : State := putUnit u { unitOf s u with suspect := true, katRunning := true } s

/-- R71, R82: the test of the unit behind a reported fault. -/
def katFor (f : FaultRec) (s : State) : State :=
  match f.at_ with
  | .unit u => if needsKat u f.code && s.life = .held && s.recov.noReplay.isNone then startFaultKat u s else s
  | _ => s

/-- R108: the pair of a 0x2073, and whether it has had one in this step. -/
def localAgain (f : FaultRec) (s : State) : Bool :=
  match f.at_ with
  | .unit (.wick st p) => f.code = 0x2073 && (wickOf s st p).localFault
  | _ => false

def markLocal (f : FaultRec) (s : State) : State :=
  match f.at_ with
  | .unit (.wick st p) => if f.code = 0x2073 then putWick st p { wickOf s st p with localFault := true } s else s
  | _ => s

/-- R363: a Station is marked dark as a whole; a running job faults. -/
def stationLost (n : Nat) (s : State) : State :=
  let s1 := staleBanks (markDark n 30 (putStn n { stnOf s n with dark := true } s))
  if inJob s then faulted 0x20A4 s.run.step (myRank s) (raise 0x20A4 pgRcv 7 0x20A4 (s.run.step % 2 ^ 32) (myRank s) s1) else s1

/-- R363: the router of a Station has raised 0x2050 three times within one hour of Watch time. -/
def routerBad (s : State) (n : Nat) : Bool :=
  let t := stnOf s n
  !t.dark && decide (3 ≤ (t.gallery.filter fun w => decide (s.watch ≤ w + 3600000000000)).length)

/-- R77: a report of a unit whose spare has already been swapped in during this step. -/
def afterSwap (f : FaultRec) (s : State) : Bool :=
  match f.at_ with
  | .unit u => s.recov.swapped.contains u
  | _ => false

/-- R355: one fault at the hold unit. -/
def reportFault (f : FaultRec) (s : State) : State :=
  let again := localAgain f s || afterSwap f s
  let s1 := markLocal f s
  let h : Hold := ⟨f.step, f.code, myRank s⟩
  if again && runOrHeld s1 then secondFault h s1
  else match findNat (routerBad s1) 16 0 with
    | some n => stationLost n s1
    | none =>
      let r := if runOrHeld s1 then repairTile f s1 else (f.code, s1)
      katFor f (raiseHold { h with cause := r.1 } r.2)

/-- R355: the oldest detected fault reaches the hold unit. -/
def execFaultReport (s : State) : Res :=
  .next (match s.recov.faults with
    | [] => s
    | f :: r => reportFault f (putRecov { s.recov with faults := r } s))

/-! ### The end of the rollback -/

/-- R357 step 4: a tile that fails leaves the rollback incomplete, and its fault is detected (R349). -/
def restoreDone (us : List Upset) (s : State) : State :=
  match (restorePairs (ckTensors s)).go (strikes us s) with
  | (.ok _, s1) => putRecov { s1.recov with restoring := false, rolledBack := true } s1
  | (.error f, s1) => detect f.code .chip f.tile (putRecov { s1.recov with restoring := false, rolledBack := false } s1)

/-- R357: the restore of the primaries finishes. -/
def execRollbackComplete (us : List Upset) (s : State) : Res :=
  .next (if s.life = .held && s.recov.restoring then restoreDone us s else s)

/-! ### The known-answer test of a faulting unit -/

/-- R71, R107: code of a swap that finds no tested spare. -/
def noSpareCode (u : UnitRef) : Nat :=
  match u with
  | .lantern _ _ => 0x2065
  | .wick _ _ => 0x2076

/-- R71, R75: the test has failed: a spare takes over, or the job ends. -/
def katFailed (u : UnitRef) (s : State) : State :=
  match testedSpare s u with
  | some v => swapIn u v s
  | none =>
    faulted (noSpareCode u) s.run.step (myRank s) (darken u (report (noSpareCode u) (unitPage u) s))

/-- R71: FAULT_KAT_COMPLETE. -/
def faultKatEnd (u : UnitRef) (pass : Bool) (s : State) : State :=
  let s1 := putUnit u { katDone pass (unitOf s u) with suspect := false } s
  if pass then s1 else katFailed u s1

/-- R71, R82: the known-answer test that runs on a faulting unit during the hold finishes. -/
def execFaultKatComplete (u : UnitRef) (pass : Bool) (s : State) : Res :=
  .next (if (unitOf s u).suspect && s.life = .held then faultKatEnd u pass s else s)

/-! ### The replay origin -/

/-- A unit of the chip still waits for its known-answer test. -/
def katPending (s : State) : Bool := s.lanterns.any (fun l => l.2.unit.suspect) || s.wicks.any fun w => w.2.unit.suspect

/-- R360: rollback and swap are complete. -/
def replayReady (s : State) : Bool := s.recov.rolledBack && !s.recov.restoring && !katPending s

/-- R360: replays begun within the last second. -/
def recentReplays (s : State) : List Nat := s.recov.begun.filter fun w => decide (s.watch ≤ w + 1000000000)

/-- R359: every engine is released at its restored position; turns start again. -/
def releaseAll (s : State) : State :=
  { s with
    engs := tmap (fun _ e => { e with stepEnded := false, issues := [], lastAct := s.watch, wdFrom := s.watch }) s.engs
    sb := s.sb.map fun e => (e.1, { e.2 with turn := 0, count := 0 }) }

/-- R351, R359: a slot's step starts with L + Δ as well. -/
def laterSlot (delta : Nat) (c : Option CkSlot) : Option CkSlot := c.map fun x => { x with start := x.start + delta }

/-- R359: the replay begins at O_r. -/
def beginReplay (o j : Nat) (s : State) : State :=
  let delta := o * 1024 - s.run.start
  let h := (s.recov.holds.find? fun x => x.step = j).getD ⟨j, 0, myRank s⟩
  let s1 := releaseAll s
  let s2 := regCount (pageBase pgRcv + 0x48) (raise 0x0080 pgRcv 0 0x0080 (j % 2 ^ 32) h.rank s1)
  let s3 := ledEvent 1 h.cause j h.rank o (leBytes 8 (delta / 1024)) s2
  let s4 := { s3 with
    life := .running, ck0 := laterSlot delta s3.ck0, ck1 := laterSlot delta s3.ck1
    run := { s3.run with l1024 := s3.run.l1024 + delta, start := o * 1024, gen := s3.run.gen + 1, grid := o }
    fab := { s3.fab with go := none }
    jobs := { s3.jobs with active := s3.jobs.active.map fun a => { a with replays := a.replays + 1 } } }
  putRecov { s4.recov with
    holds := [], target := none, origin := none, rolledBack := false, replaying := j :: s4.recov.replaying
    begun := o :: recentReplays s } (noteDetours j o s4)

/-- R360: more replays than the limit within one second. -/
def overLimit (s : State) : Bool :=
  s.fab.part.rank = 0 && decide (bits (regGet s (pageBase pgRcv + 0x40)) 13 0 < (recentReplays s).length + 1)

/-- R345: the switch of the launch is still not complete. -/
def notSwitched (s : State) : Bool :=
  match s.jobs.active with
  | some a => !a.switched
  | none => false

/-- R359, R360, R345: at O_r. -/
def atOrigin (o : Nat) (s : State) : State :=
  let j := s.recov.target.getD s.run.step
  if notSwitched s then faulted 0x3023 j (myRank s) (timEvent 0x3023 5 (offNow s) 0 s)
  else if !replayReady s then secondFault ⟨j, (s.recov.holds.head?.map Hold.cause).getD 0, myRank s⟩ s
  else if overLimit s then
    faulted 0x20A5 j (myRank s) (raise 0x20A5 pgRcv 8 0x20A5 (j % 2 ^ 32) (myRank s) s)
  else beginReplay o j s

/-- R359: the Watch reaches O_r. -/
def execReplayOrigin (s : State) : Res :=
  .next (match s.recov.origin with
    | some o => if s.life = .held then atOrigin o (watchTo o s) else s
    | none => s)

/-! ### Stations, the Keeper and detours -/

/-- R363: a Station PLL loses lock. -/
def execStationPllLoss (st : Fin 16) (s : State) : Res :=
  .next (if railsOff s then s
    else stationLost st { s with kpr := { s.kpr with clk := tput s.kpr.clk st { clkOf s st with locked := false } } })

/-- R370, R371, R392: the Keeper's cores differ: 0x20A6, the Keeper halts, FAULTED. -/
def keeperHalt (s : State) : State :=
  let s1 := assertFog 0x20A6 (raise 0x20A6 pgRcv 9 0x20A6 (s.run.step % 2 ^ 32) (myRank s) s)
  let s2 := { s1 with jobs := { s1.jobs with halted := true } }
  if inJob s then faulted 0x20A6 s.run.step (myRank s) s2 else { s2 with life := .faulted }

/-- R370: KEEPER_COMPARE_MISMATCH. -/
def execKeeperCompareMismatch (s : State) : Res := .next (if powered s then keeperHalt s else s)

/-- R366: a link passes the test: UP, at RATE, its delay within CHMAX, and few FEC corrections. -/
def detourLinkOk (s : State) (l : Nat) : Bool :=
  let k := linkOf s l
  k.st = .up && k.rate = rateNow s && decide (k.delay ≤ chmaxNow s) &&
    (k.fec = 0 || decide (k.fec * 1000000 < 2 * k.frames))

/-- R366: DETOUR_LINK_TEST: notice 0x0082 naming the link and the record. -/
def testDetours (s : State) : State :=
  (detourRecs s s.run.bank).zipIdx.foldl (fun t r =>
    (detourLinks s r.1).foldl (fun u l =>
      if detourLinkOk s l then u
      else emit (.notice 0x0082 [l, r.2]) (raise 0x0082 pgRcv 2 0x0082 (s.run.step % 2 ^ 32) (myRank s) u)) t)
    { s with
      recov := { s.recov with linkTestAt := s.watch }
      fab := { s.fab with links := tmap (fun _ k => { k with frames := 0, fec := 0 }) s.fab.links } }

/-- R366: the period of KPR_RCV_LINK_TEST expires, counted from the last test or from L (DESIGN CHOICE, assumption 47). -/
def execDetourLinkTest (s : State) : Res :=
  .next (if runOrHeld s then
      testDetours (watchTo (s.recov.linkTestAt + bits (regGet s (pageBase pgRcv + 0x54)) 11 0 * 1000000000) s)
    else s)

end Sys2Proof.Machine
end

