-- ==== Sys2Proof/Machine/Steps.lean ====
section
/-! DEFINITION. Steps (R169 to R171, R175, R274, R352, R353): the boundary, the commit, the checkpoint copy and the watchdog; and the
comparison of a Leading pair (R369, R370). -/

namespace Sys2Proof.Machine

/-! ### Leading entries -/

/-- R369: logical Station and engine of an entry. -/
def leadKey (e : List Byte) : List Byte := slice e 4 2

/-- What a comparison has come to: own entries that wait, the counterpart's, and the first pair that differs. -/
structure LeadCmp where
  own : List (List Byte)
  theirs : List (List Byte)
  diff : Option (List Byte × List Byte)
  deriving DecidableEq, Repr

/-- R369: one own entry against the next of the counterpart's for its Station and engine. -/
def leadStep (c : LeadCmp) (x : List Byte) : LeadCmp :=
  if c.diff.isSome || c.own.any (fun y => leadKey y = leadKey x) then { c with own := c.own ++ [x] }
  else match c.theirs.find? fun y => leadKey y = leadKey x with
    | none => { c with own := c.own ++ [x] }
    | some y => if y = x then { c with theirs := c.theirs.erase y } else { c with own := c.own ++ [x], diff := some (x, y) }

/-- R369: everything that both sides hold. -/
def leadMatch (own theirs : List (List Byte)) : LeadCmp := own.foldl leadStep ⟨[], theirs, none⟩

/-- R370: a divergence is captured in KPR_RCV_DIV. -/
def captureDiv (mine theirs : List Byte) (s : State) : State :=
  (List.range 16).foldl (fun t i =>
    regPut (pageBase pgRcv + 0x80 + 4 * i) (if i < 8 then field mine (4 * i) 4 else field theirs (4 * (i - 8)) 4) t) s

/-- R370: code 0x20A2: captures, Fog and FAULTED. -/
def diverged (mine theirs : List Byte) (s : State) : State :=
  let step := field mine 0 4
  let s1 := assertFog 0x20A2 (captureDiv mine theirs (raise 0x20A2 pgRcv 5 0x20A2 step (myRank s) s))
  if inJob s then faulted 0x20A2 step (myRank s) s1 else s1

/-- A management message to the counterpart (R369). -/
def toCounterpart (name : String) (data : List Byte) (s : State) : State :=
  let chip := (s.fab.pairLink.map fun l => chipAt (expectPos s l)).getD 0
  sendBytes chip 0 (messageBytes name data) (emit (.msg chip name data) s)

/-- R369, R370: compare what both sides hold; the buffer of 131,072 entries must not fill. -/
def leadCompare (s : State) : State :=
  let c := leadMatch s.fab.leadOwn s.fab.leadTheirs
  let s1 := { s with fab := { s.fab with leadOwn := c.own, leadTheirs := c.theirs } }
  match c.diff with
  | some (x, y) => diverged x y (toCounterpart "DIVERGENCE" (x ++ y) { s1 with fab := { s1.fab with comparing := false } })
  | none =>
    if 131072 ≤ c.own.length || 131072 ≤ c.theirs.length then
      let s2 := raise 0x20A3 pgRcv 6 0x20A3 (s.run.step % 2 ^ 32) (myRank s) { s1 with fab := { s1.fab with comparing := false } }
      if inJob s then faulted 0x20A3 s.run.step (myRank s) s2 else s2
    else s1

/-- R369: the entries of a committed step go to the counterpart. -/
def commitLead (k : Nat) (s : State) : State :=
  let mine := s.run.leadLog.filter fun e => field e 0 4 = k % 2 ^ 32
  let s1 := { s with run := { s.run with leadLog := s.run.leadLog.filter fun e => field e 0 4 != k % 2 ^ 32 } }
  if s.fab.comparing then
    leadCompare (toCounterpart "LEADING_ENTRIES" mine.flatten { s1 with fab := { s1.fab with leadOwn := s1.fab.leadOwn ++ mine } })
  else s1

/-! ### Step boundaries -/

/-- R169: an engine whose step has not ended. -/
def notEnded (e : Engine) : Bool :=
  e.present && (e.cur.isSome || (if e.pushed then !e.queue.isEmpty else !(e.stepEnded || e.halted)))

/-- R169: step k has ended locally. -/
def stepEndedHere (s : State) : Bool := s.engs.all fun e => !notEnded e.2

/-- The first engine, by Station and index, whose step has not ended. -/
def firstLate (s : State) : Option Eng :=
  (s.engs.find? fun e => notEnded e.2).map fun e => engAt (e.1 / 17) (e.1 % 17)

/-- Topmark of the descriptor in hand, or of the next. -/
def topNow (s : State) (g : Eng) : Nat :=
  match (engOf s g).cur with
  | some l => dTop l.w
  | none => ((nextBytes s g).map fun bs => dTop (descWords bs)).getD 0

/-- STN_SYNC_ERR_CAPTURE_C: what an engine waits on. -/
def waitCapture (s : State) (g : Eng) : Nat :=
  match (engOf s g).cur, (engOf s g).waiting with
  | none, some (k, o) => o % 2 ^ 13 + k % 4 * 2 ^ 13
  | some _, some (1, o) => o % 2 ^ 13 + 2 ^ 13
  | _, _ => 3 * 2 ^ 13

/-- R177: an event of the STN_SYNC page about an engine. -/
def syncEvent (code bit : Nat) (g : Eng) (s : State) : State :=
  raise code (pgSync g.st) bit (code + topNow s g * 2 ^ 16) ((engOf s g).pos + g.e.val * 2 ^ 20) (waitCapture s g) s

/-- R169: a step overrun, once for each attempt. -/
def stepOverrun (s : State) : State :=
  if s.recov.faults.any fun f => f.code = 0x2022 && f.step = s.run.step then s
  else match firstLate s with
    | some g => detect 0x2022 (.eng g) none (syncEvent 0x2022 2 g s)
    | none => s

/-- R220: the segment that a fork value selects. -/
def forkSeg (s : State) (id v : Nat) : Nat :=
  match (bankOf s s.run.bank).img.bind fun im => im.forks.find? fun f => f.id = id with
  | some f => (f.keys.lookup v).getD f.defseg
  | none => 0

/-- R171: S15 and the Stream Position of one engine after a fork. -/
def forkEng (s : State) (v seg k : Nat) (e : Engine) : Engine :=
  let pos := match boundOf s s.run.bank (k / 17) with
    | some (_, x) => nth (x.segs.getD seg []) (k % 17)
    | none => 0xFFFFFFFF
  if !e.present then e
  else
    let e1 := { e with s := tput e.s 15 (BitVec.ofNat 64 v) }
    if e.halted || e.pushed || pos = 0xFFFFFFFF then e1 else { e1 with pos := pos, prefetch := [] }

/-- R274: a fork ends the step of an image with no SCHEDULE section, and so with no SEGSTEP. -/
def forkUnmapped (s : State) : Bool := s.run.forkId.isSome && (schedOf s).isNone

/-- R274: the step record of the next step. With no SEGSTEP the record that a segment begins at is not stated: a free value (assumption
2). -/
def nextRec (s : State) : Nat :=
  match s.run.forkId, s.run.forkValue, schedOf s with
  | some id, some v, some b => scSegRec b (forkSeg s id v)
  | some _, _, _ => (Config.freeValue s.free).toNat % max 1 (((bankOf s s.run.bank).img.map Image.nsteps).getD 1)
  | none, _, _ => s.run.rec_ + 1

/-- R171: the fork of the step is applied. -/
def applyFork (s : State) : State :=
  match s.run.forkId, s.run.forkValue with
  | some id, some v => { s with engs := tmap (forkEng s v (forkSeg s id v)) s.engs }
  | _, _ => s

/-- R169, R159: every stream is released, turns start again, and the step's marks go. -/
def releaseStep (s : State) : State :=
  { s with
    engs := tmap (fun _ e => { e with stepEnded := false, forkId := none, issues := [] }) s.engs
    sb := s.sb.map fun e => (e.1, { e.2 with turn := 0, count := 0 })
    wicks := tmap (fun _ w => { w with localFault := false }) s.wicks
    recov := { s.recov with swapped := [] } }

/-- R169, R267, R312, R351: step k + 1 begins. -/
def nextStep (s : State) : State :=
  let rec_ := nextRec s
  let start := nextStart1024 s
  let s1 := releaseStep (applyFork (if forkUnmapped s then bumpFree s else s))
  let s2 := { s1 with
    run := { s1.run with
      step := s.run.step + 1, rec_ := rec_, start := start, forkId := none, forkValue := none
      gen := s.run.gen + 1, grid := ceilDiv start 1024 }
    fab := { s1.fab with fork := none, forkLinks := [] } }
  putSlot (s.run.step + 1) (ckNow s2 (s.run.step + 1) rec_ start) s2

/-- R411: END_JOB takes effect at this boundary. -/
def endsHere (s : State) : Bool :=
  match s.run.endStep with
  | some k => decide (k ≤ s.run.step + 1)
  | none => false

/-- R171: the step ended in a FORK whose value has not come. -/
def forkMissing (s : State) : Bool := s.run.forkId.isSome && s.run.forkValue.isNone

/-- R293: start of the fork Flash of the step; none when its period leaves none. -/
def forkFlashStart (s : State) : Option Nat :=
  let last := (ceilDiv (nextStart1024 s) 1024 * 1024 - hb1024 s - 100 * 1024) / 1024
  if last < s.run.grid then none
  else some (gridStart s ((last - s.run.grid) * 1024 / (flashTicks (rateNow s) * s.run.fq) / 100 * 100))

/-- R170: the FORK that an engine has issued in this step decides it. -/
def decides (s : State) (g : Eng) : Bool :=
  let e := engOf s g
  e.present && e.forkId.isSome && bitAt (dW7 (descWords (fetchBytes s g (e.pos - 1)))) 12

/-- R171, R293: this chip's decider issued less than 4 ticks before the start of the fork Flash, or after it. -/
def forkTooLate (s : State) : Bool :=
  match forkFlashStart s with
  | none => false
  | some f => (List.finRange 16).any fun st => (List.finRange 17).any fun e =>
      decides s ⟨st, e⟩ && decide (f < (engOf s ⟨st, e⟩).lastAct + 4)

/-- The ending of the step that a stream runs: the first STEP_END or FORK from a position on, as a decider or not. -/
def scanFork (s : State) (g : Eng) : Nat → Nat → Option Bool
  | 0, _ => none
  | n + 1, pos =>
    let w := rdN s.istore (istoreAddr s g pos) 64
    let op := field w 0 1
    if op = 0x55 then some (bitAt (field w 28 4) 12)
    else if op = 0x54 then some false else scanFork s g n (pos + 1)

/-- The engines that have a stream. -/
def streamEngs (s : State) : List Eng :=
  (List.finRange 16).flatMap fun n => ((List.finRange 17).map fun e => Eng.mk n e).filter fun g => (engOf s g).present && !(engOf s g).pushed

/-- R170: the stream that decides the fork at the end of this step, when this chip holds it (assumption 21). -/
def deciderOf (s : State) : Option Eng :=
  (streamEngs s).find? fun g =>
    let e := engOf s g
    let from_ := if e.stepEnded then e.pos - 1 else e.pos
    !e.halted && scanFork s g (((streamOf s g).map StreamEnt.count).getD 0 - from_) from_ = some true

/-- R171, R293: this chip's decider has not issued its FORK when the fork Flash is past. -/
def forkUnissued (s : State) : Bool :=
  (forkFlashStart s).isSome && match deciderOf s with
    | some g => !(engOf s g).stepEnded
    | none => false

/-- R171: 0x2010 for a fork, once. -/
def forkFault (s : State) : State :=
  if s.recov.faults.any fun f => f.code = 0x2010 then s else detect 0x2010 .chip none (report 0x2010 pgXch s)

/-- R169: at S(k + 1). A fork value that has not come is a late one (R171; DESIGN CHOICE, assumption 18). -/
def boundary (s : State) : State :=
  if forkUnissued s then stepOverrun (forkFault s)
  else if !stepEndedHere s then stepOverrun s
  else if endsHere s then startDrain 0x20B3 0 0 (s.run.step + 1) s
  else if forkMissing s || forkTooLate s then forkFault s
  else nextStep s

/-- R169: the Watch reaches S(k + 1). -/
def execStepBoundary (s : State) : Res :=
  .next (if s.life = .running then boundary (watchTo (ceilDiv (nextStart1024 s) 1024) s) else s)

/-! ### Commit -/

/-- R352: step k = committed may commit: step k + 1 has begun, and no hold names step k or an earlier one. -/
def canCommit (s : State) : Bool :=
  runOrHeld s && s.recov.noReplay.isNone && decide (s.recov.committed < s.run.step) && s.recov.copying.isNone &&
    s.recov.holds.all fun h => decide (s.recov.committed < h.step)

/-- S(k) in 1/1,024 tick, of the running step or of one whose slot still stands (R351). -/
def startOf (s : State) (k : Nat) : Nat :=
  if s.run.step = k then s.run.start
  else match slotOf s k with
    | some c => if c.step = k then c.start else 0
    | none => 0

/-- R352: C(k) of the oldest step that has not committed, in whole ticks. -/
def commitAt (s : State) : Nat := ceilDiv (startOf s (s.recov.committed + 1) + hb1024 s) 1024

/-- R188, R352: a tile that fails at C(k) is a detected fault of step k, whose start the second copies still hold (DEDUCED,
assumption 26). -/
def copyFails (k : Nat) (f : Fail) (s : State) : State :=
  { s with recov := { s.recov with faults := s.recov.faults ++ [⟨f.code, k, .chip, f.tile⟩] } }

/-- R352: the copier copies every checkpoint primary; one that fails after its first tile leaves the second copies in part (R372). -/
def commit (us : List Upset) (s : State) : State :=
  let k := s.recov.committed
  let ts := copyTiles (ckTensors s)
  match ((ts.take 1).forM copyOne).go (strikes us s) with
  | (.error f, s1) => copyFails k f s1
  | (.ok _, s1) =>
    match ((ts.drop 1).forM copyOne).go s1 with
    | (.error f, s2) => copyFails k f (putRecov { s2.recov with copying := some k } s2)
    | (.ok _, s2) =>
      commitLead k (putRecov { s2.recov with copying := some k, replaying := s2.recov.replaying.filter (· != k) } s2)

/-- R352: the Watch reaches C(k). -/
def execStepCommit (us : List Upset) (s : State) : Res :=
  .next (if canCommit s then commit us (watchTo (commitAt s) s) else s)

/-- R353: the copy made at C(k) has finished: the commit gate opens. -/
def copyDone (k : Nat) (s : State) : State := putRecov { s.recov with copying := none, committed := k + 1 } s

/-- R353: CHECKPOINT_COPY_DONE; a copy that a hold stopped goes on in the replay (R372). -/
def execCheckpointCopyDone (s : State) : Res :=
  .next (match s.recov.copying with
    | some k => if s.life = .running then copyDone k s else s
    | none => s)

/-! ### The watchdog -/

/-- R175: the watchdog counts for the engine: it has something to issue or in hand, no WAIT_WATCH is pending, and the count is not
suspended. A halted engine, one that has ended its step and an idle push target have nothing to wait for (DESIGN CHOICE,
assumption 18). -/
def wdCounts (s : State) (g : Eng) : Bool :=
  let e := engOf s g
  s.life = .running && e.present && !e.halted && !e.stepEnded && (e.cur.isSome || !e.pushed || !e.queue.isEmpty) && (pendingWatch s g).isNone &&
    !wdSuspended s g.st

/-- R175: the limit in ticks. -/
def wdLimit (s : State) (n : Nat) : Nat := bits (regGet s (pageBase (pgSync n) + 0x40)) 19 0 * 1000

/-- R175: 0x2020, a detected fault of the current step. -/
def watchdogFires (g : Eng) (s : State) : State :=
  let s1 := detect 0x2020 (.eng g) none (syncEvent 0x2020 0 g s)
  putEng g { engOf s1 g with wdFrom := s1.watch } s1

/-- R175: DEADLOCK_WATCHDOG. -/
def execDeadlockWatchdog (g : Eng) (s : State) : Res :=
  .next (if wdCounts s g then watchdogFires g (watchTo ((engOf s g).wdFrom + wdLimit s g.st) s) else s)

end Sys2Proof.Machine
end

