-- ==== Sys2Proof/Machine/ImageForm.lean ====
section
/-! DEFINITION. The Gustafold image (R210 to R221): its header, directory, sections and records, and check 1 of the verifier (R223). -/

namespace Sys2Proof.Machine

/-- A refusal of the verifier or the placer: the code, and what R223 reports with it: logical Station, variant, stream, Stream
Position and Topmark of a descriptor, or the numbers of the item at fault. -/
structure Rej where
  code : Nat
  loc : List Nat
  deriving DecidableEq, Repr

/-- A check: what follows it runs only if it holds. -/
def need (ok : Bool) (code : Nat) (loc : List Nat) : Except Rej Unit := if ok then .ok () else .error ⟨code, loc⟩

/-- Every item of a list, in order. -/
def needAll {α : Type} (l : List α) (f : α → Except Rej Unit) : Except Rej Unit := l.forM f

/-! ### Directory -/

/-- R211: a directory entry. -/
structure Sect where
  ty : Nat
  count : Nat
  off : Nat
  size : Nat
  digest : List Byte
  reserved : Bool
  deriving DecidableEq, Repr

def sectAt (b : List Byte) (i : Nat) : Sect :=
  let o := 64 + 64 * i
  { ty := field b o 2, count := field b (o + 4) 4, off := field b (o + 8) 8, size := field b (o + 0x10) 8
    digest := slice b (o + 0x18) 32
    reserved := field b (o + 2) 2 = 0 && field b (o + 0x38) 8 = 0 }

def imgSize (b : List Byte) : Nat := field b 8 8
def imgNsect (b : List Byte) : Nat := field b 6 2
def sectsOf (b : List Byte) : List Sect := (List.range (imgNsect b)).map (sectAt b)
def sectOf (b : List Byte) (ty : Nat) : Option Sect := (sectsOf b).find? fun s => s.ty = ty
def sectBytes (b : List Byte) (ty : Nat) : List Byte := ((sectOf b ty).map fun s => slice b s.off s.size).getD []
def sectCount (b : List Byte) (ty : Nat) : Nat := ((sectOf b ty).map Sect.count).getD 0

/-- R212: the image hash covers the bytes before the SIGNATURE section. -/
def signedBytes (b : List Byte) : List Byte := b.take (match sectOf b 0x0F with
  | some s => s.off
  | none => imgSize b)
def imageHash (b : List Byte) : List Byte := sha3 (signedBytes b)

/-- Ranges (offset, length) that do not overlap. -/
def apart (x y : Nat × Nat) : Bool := x.1 + x.2 ≤ y.1 || y.1 + y.2 ≤ x.1
def allApart : List (Nat × Nat) → Bool
  | [] => true
  | x :: xs => xs.all (apart x) && allApart xs

/-! ### Records -/

/-- R213. -/
def parseTensor (b : List Byte) : Tensor :=
  { id := field b 0 2, lst := field b 2 1, cls := field b 3 1, size := field b 4 4, align := field b 8 1, tgcode := field b 9 1
    moff := field b 0xC 4 }

/-- Records of n bytes of a section. -/
def recordsOf (b : List Byte) (ty n : Nat) : List (List Byte) := (List.range (sectCount b ty)).map fun i => slice (sectBytes b ty) (n * i) n

/-- R214: a stream entry. -/
def parseStream (w : Nat) : StreamEnt := ⟨bits w 19 0, bitAt w 20, bitAt w 21, bits w 63 32⟩

/-- R214: a parameter declaration. -/
def parseParam (b : List Byte) : ParamDecl := ⟨fieldInt b 0 8, fieldInt b 8 8, fieldInt b 0x10 8, field b 0x18 1, field b 0x1A 2⟩

/-- R214: the tables of a variant header: offset and bytes of descriptors, streams, handles, turns, parameters and segments. -/
def variantTables (h : List Byte) : List (Nat × Nat) :=
  [(field h 0x10 8, 64 * field h 4 4), (field h 0x18 8, 136), (field h 0x20 8, 36 * field h 8 4), (field h 0x28 8, 16 * field h 4 4),
   (field h 0x30 8, 34816), (field h 0x38 8, 68 * field h 0xC 4)]

/-- R214: a variant, from the section's bytes and its header. -/
def parseVariant (v h : List Byte) : Variant :=
  let t (i : Nat) : List Byte := let e := (variantTables h).getD i (0, 0); slice v e.1 e.2
  let nd := field h 4 4
  let nh := field h 8 4
  { lst := field h 0 1, lanterns := field h 1 1, wicks := field h 2 1, ndesc := nd, nhandles := nh, nseg := field h 0xC 4
    descs := (List.range nd).map fun i => slice (t 0) (64 * i) 64
    streams := (List.range 17).map fun e => parseStream (field (t 1) (8 * e) 8)
    handles := (List.range nh).map fun i => (slice (t 2) (32 * i) 32, field (t 2) (32 * nh + 4 * i) 4)
    turns := (List.range nd).map fun i => (List.range 4).map fun k => field (t 3) (16 * i + 4 * k) 4
    params := (List.range 1088).map fun i => parseParam (slice (t 4) (32 * i) 32)
    segs := (List.range (field h 0xC 4)).map fun g => (List.range 17).map fun e => field (t 5) (68 * g + 4 * e) 4 }

/-- Headers of the VARIANTS section. -/
def variantHeads (b : List Byte) : List (List Byte) := recordsOf b 2 64
def variantsOf (b : List Byte) : List Variant := (variantHeads b).map (parseVariant (sectBytes b 2))

/-- R215: a patch record: SLOT and its targets. -/
def parsePatch (r : List Byte) : Nat × List (Nat × Nat × Nat) :=
  (field r 0 1, (List.range (min 15 (field r 1 1))).map fun i =>
    let w := field r (4 + 4 * i) 4
    (bits w 3 0, bits w 8 4, bits w 14 9))

/-- R218: the step records, back to back, and whether they fit. -/
def parseSteps : Nat → List Byte → List StepRec × Bool
  | 0, _ => ([], true)
  | n + 1, b =>
    let k := field b 0xC 2
    let r : StepRec := ⟨field b 0 4, field b 4 4, field b 8 4, (List.range k).map fun i => (field b (16 + 8 * i) 1, field b (20 + 8 * i) 4)⟩
    let q := parseSteps n (b.drop (16 + 8 * k))
    (r :: q.1, decide (16 + 8 * k ≤ b.length) && q.2)

/-- R218: reserved bytes of a run of step records are zero. -/
def stepsReserved : Nat → List Byte → Bool
  | 0, _ => true
  | n + 1, b =>
    let k := field b 0xC 2
    field b 0xE 2 = 0 && ((List.range k).all fun i => field b (17 + 8 * i) 3 = 0) && stepsReserved n (b.drop (16 + 8 * k))

/-- R219: a manifest entry. -/
def parseBlock (r : List Byte) : Block := ⟨slice r 0 32, field r 0x20 1, field r 0x24 4, field r 0x28 8⟩

/-- R220: a fork table entry. -/
def parseFork (r : List Byte) : ForkEnt :=
  ⟨field r 0 1, field r 2 2, (List.range (min 15 (field r 1 1))).map fun i => (field r (8 + 16 * i) 8, field r (16 + 16 * i) 2)⟩

def imgNsteps (b : List Byte) : Nat := field b 0x1C 4
def imgNst (b : List Byte) : Nat := field b 0x26 1

/-- R210 to R221: an image in the Keeper's terms. -/
def parseImage (b : List Byte) : Image :=
  let n := imgNst b
  let fl := sectBytes b 4
  let mf := sectBytes b 9
  { replay := bitAt (field b 0x10 4) 0, stretchOk := bitAt (field b 0x10 4) 1, stretchMax := field b 0x14 2, fenv := field b 0x16 2
    chips := field b 0x18 4, nsteps := imgNsteps b, lantMin := field b 0x20 1, lantMax := field b 0x21 1, wickMin := field b 0x22 2
    wickMax := field b 0x24 2, nstations := n
    tensors := (recordsOf b 1 16).map parseTensor
    variants := variantsOf b
    patches := (recordsOf b 3 64).map parsePatch
    flags := (List.range n).map fun s => (List.range 256).map fun i => field fl (512 * s + 2 * i) 2
    chipFlags := (List.range 64).map fun i => field fl (512 * n + 2 * i) 2
    hostMask := field fl (512 * n + 128) 8
    envelope := (recordsOf b 5 4).map fun r => (field r 0 1, field r 2 2)
    steps := (parseSteps (sectCount b 6) (sectBytes b 6)).1
    root := slice mf 0 32, blockLog2 := field mf 36 1
    blocks := (List.range (field mf 32 4)).map fun i => parseBlock (slice mf (64 + 48 * i) 48)
    forks := (recordsOf b 0x0A 248).map parseFork
    curves := recordsOf b 0x0B 4112
    checkpoint := (recordsOf b 0x0C 2).map leNat
    schedule := (sectOf b 7).map fun _ => sectBytes b 7
    detours := sectBytes b 8, ndetours := sectCount b 8 }

/-! ### What the checks walk -/

/-- The descriptors of one stream of a variant. -/
def streamIn (v : Variant) (e : Nat) : List (List Byte) :=
  match v.streams[e]? with
  | some t => (v.descs.drop t.first).take t.count
  | none => []

/-- The variants with their place in the section, by logical Station and then in section order (R223). -/
def variantsInOrder (im : Image) : List (Nat × Variant) :=
  (List.range 16).flatMap fun n => (im.variants.zipIdx.filter fun e => e.1.lst = n).map fun e => (e.2, e.1)

/-- One descriptor of an image: variant, stream, position and words. -/
structure DescAt where
  vi : Nat
  v : Variant
  e : Nat
  pos : Nat
  bs : List Byte
  w : List Nat

def DescAt.loc (d : DescAt) : List Nat := [d.v.lst, d.vi, d.e, d.pos, dTop d.w]

/-- The descriptors of one stream. -/
def streamDescAts (vi : Nat) (v : Variant) (e : Nat) : List DescAt :=
  (streamIn v e).zipIdx.map fun x => ⟨vi, v, e, x.2, x.1, descWords x.1⟩

/-- The descriptors of a variant, by stream and position. -/
def variantDescs (vi : Nat) (v : Variant) : List DescAt := (List.range 17).flatMap (streamDescAts vi v)

/-- Every descriptor of the image, in the order of R223. -/
def allDescs (im : Image) : List DescAt := (variantsInOrder im).flatMap fun x => variantDescs x.1 x.2

/-- R125: a defined handle of a variant. -/
def handleIn (v : Variant) (i : Nat) : Option Handle :=
  if i = 0 then none
  else match v.handles[i - 1]? with
    | some (bs, _) => if zeroBytes bs then none else some (parseHandle bs)
    | none => none

/-- The tensor that a handle of a variant names (R214). -/
def relocOf (v : Variant) (i : Nat) : Nat := if i = 0 then 0 else ((v.handles[i - 1]?).map fun h => bits h.2 15 0).getD 0
def tensorIn (im : Image) (id : Nat) : Option Tensor := im.tensors.find? fun t => t.id = id

/-- The declaration of a stream's parameter register. -/
def paramIn (v : Variant) (e i : Nat) : Option ParamDecl := v.params[64 * e + i]?

/-! ### Check 1 -/

/-- R210: the header. -/
def headerFieldsOk (b : List Byte) : Bool :=
  let fl := field b 0x10 4
  let sm := field b 0x14 2
  field b 0 4 = 0x444C4647 && field b 4 2 = 1 && decide (1 ≤ imgNsect b) && decide (imgNsect b ≤ 32) && decide (fl < 4) &&
    decide (1024 ≤ sm) && decide (sm ≤ 2048) && (bitAt fl 1 || sm = 1024) && field b 0x16 2 != 0 && decide (1 ≤ field b 0x18 4) &&
    decide (field b 0x18 4 ≤ 390625) && imgNsteps b != 0 && decide (1 ≤ field b 0x20 1) && decide (field b 0x20 1 ≤ field b 0x21 1) &&
    decide (field b 0x21 1 ≤ 64) && decide (1 ≤ field b 0x22 2) && decide (field b 0x22 2 ≤ field b 0x24 2) &&
    decide (field b 0x24 2 ≤ 128) && decide (1 ≤ imgNst b) && decide (imgNst b ≤ 16) && zeroBytes (slice b 0x27 25)

/-- R211: bytes that COUNT records of a section need, and whether its COUNT is allowed. -/
def countOk (b : List Byte) (s : Sect) : Bool :=
  if s.ty = 1 then decide (16 * s.count ≤ s.size) else if s.ty = 2 then decide (64 * s.count ≤ s.size)
  else if s.ty = 3 then decide (64 * s.count ≤ s.size)
  else if s.ty = 4 then s.count = 1 && decide (512 * imgNst b + 136 ≤ s.size)
  else if s.ty = 5 then decide (4 * s.count ≤ s.size)
  else if s.ty = 6 then s.count = imgNsteps b && (parseSteps s.count (slice b s.off s.size)).2
  else if s.ty = 7 then s.count = 1 && decide (64 ≤ s.size)
  else if s.ty = 8 then decide (32 * s.count ≤ s.size)
  else if s.ty = 9 then s.count = 1 && decide (64 ≤ s.size)
  else if s.ty = 0x0A then decide (248 * s.count ≤ s.size)
  else if s.ty = 0x0B then decide (s.count ≤ 16) && decide (4112 * s.count ≤ s.size)
  else if s.ty = 0x0C then decide (2 * s.count ≤ s.size)
  else s.count = 1 && s.size = 2432 && ((sectsOf b).all fun t => decide (t.off ≤ s.off))

def sectKnown (ty : Nat) : Bool := (decide (1 ≤ ty) && decide (ty ≤ 0x0C)) || ty = 0x0F

/-- R211: the directory. -/
def directoryOk (b : List Byte) : Bool :=
  let ss := sectsOf b
  let lo := 64 + 64 * imgNsect b
  (ss.all fun s => sectKnown s.ty && s.reserved && s.off % 64 = 0 && decide (lo ≤ s.off) && decide (s.off + s.size ≤ imgSize b)) &&
    (nub (ss.map Sect.ty)).length = ss.length && allApart (ss.map fun s => (s.off, s.size)) &&
    ([1, 2, 4, 5, 6, 9].all fun t => (sectOf b t).isSome) && (ss.all (countOk b)) && ((sectOf b 7).isNone || (sectOf b 8).isSome)

/-- R214: a stream entry of engine e. -/
def streamEntOk (v : Variant) (raw e : Nat) : Bool :=
  let t := parseStream raw
  let here := e < v.lanterns || (4 ≤ e && e < 4 + v.wicks) || 12 ≤ e
  bits raw 31 22 = 0 && t.present = here && (here || raw = 0) && (!t.pushed || (here && e < 16)) &&
    (!t.pushed || (t.first = 0 && t.count = 0)) && decide (t.first + t.count ≤ v.ndesc)

/-- R214: a handle entry with its relocation word. -/
def handleEntOk (ids : List Nat) (h : List Byte × Nat) : Bool :=
  if zeroBytes h.1 then h.2 = 0 else bits h.2 31 16 = 0 && ids.contains (bits h.2 15 0)

/-- R214: a parameter declaration. -/
def paramOk (ids : List Nat) (raw : List Byte) : Bool :=
  let d := parseParam raw
  decide (d.kind ≤ 1) && (if d.kind = 0 then d.tensor = 0 else ids.contains d.tensor) && field raw 0x19 1 = 0 && field raw 0x1C 4 = 0 &&
    decide (d.min ≤ d.max) && decide (d.min ≤ d.init) && decide (d.init ≤ d.max)

/-- The tensors that a variant names. -/
def namedBy (v : Variant) : List Nat :=
  nub ((v.handles.map fun h => bits h.2 15 0) ++ v.params.map ParamDecl.tensor) |>.filter (· != 0)

/-- R214: one variant by itself. -/
def variantOk (b : List Byte) (im : Image) (i : Nat) (h : List Byte) : Bool :=
  let sec := sectBytes b 2
  let v := parseVariant sec h
  let ids := im.tensors.map Tensor.id
  let ts := (variantTables h).filter fun t => t.2 != 0
  let so := field h 0x18 8
  decide (i < im.variants.length) && field h 3 1 = 0 && decide (v.lst < im.nstations) && decide (1 ≤ v.lanterns) && decide (v.lanterns ≤ 4) &&
    decide (1 ≤ v.wicks) && decide (v.wicks ≤ 8) && decide (1 ≤ v.nhandles) && decide (v.nhandles ≤ 4095) &&
    (ts.all fun t => t.1 % 64 = 0 && decide (64 * sectCount b 2 ≤ t.1) && decide (t.1 + t.2 ≤ sec.length)) &&
    ((List.range 17).all fun e => streamEntOk v (field sec (so + 8 * e) 8) e) &&
    (v.handles.all (handleEntOk ids)) && (List.range 1088).all fun k => paramOk ids (slice sec (field h 0x30 8 + 32 * k) 32)

/-- R214: what the variants must agree on. -/
def variantsAgree (b : List Byte) (im : Image) : Bool :=
  (im.variants.all fun v => (im.variants.head?.map Variant.nseg) = some v.nseg) &&
    allApart ((variantHeads b).flatMap fun h => (variantTables h).filter fun t => t.2 != 0) &&
    im.variants.zipIdx.all fun x => im.variants.zipIdx.all fun y =>
      x.1.lst != y.1.lst || x.2 = y.2 ||
        (((namedBy x.1).all (namedBy y.1).contains) && ((namedBy y.1).all (namedBy x.1).contains) &&
          (x.1.lanterns != y.1.lanterns || x.1.wicks != y.1.wicks))

/-- R216: FLAGS. -/
def flagsSectOk (im : Image) : Bool :=
  im.hostMask % 2 ^ 48 = 0 && (List.range 64).all fun i => !bitAt im.hostMask i || nth im.chipFlags i = 0

/-- An opcode stands in some stream. -/
def usesOp (im : Image) (p : Nat → Bool) : Bool := (allDescs im).any fun d => p (dOp d.w)

/-- Check 1 of R223. -/
def check1 (b : List Byte) (im : Image) : Except Rej Unit := do
  need (headerFieldsOk b) 0x1080 []
  need (directoryOk b) 0x1080 []
  needAll (variantHeads b).zipIdx fun h => need (variantOk b im h.2 h.1) 0x1080 [field h.1 0 1, h.2]
  need (variantsAgree b im) 0x1080 []
  need ((sectOf b 7).isSome || !usesOp im (fun o => o = 0x40 || o = 0x41)) 0x1080 [7]
  need ((sectOf b 0x0A).isSome || !usesOp im (· = 0x55)) 0x1080 [0x0A]
  need (flagsSectOk im) 0x1080 []

end Sys2Proof.Machine
end

