-- ==== Sys2Proof/Machine/VerifyForm.lean ====
section
/-! DEFINITION. Checks 2 to 6 of the verifier (R223): digests and signature (R212), tensor records and patches (R213, R215), descriptor
words (R116 to R124), and formats and control words (R26 to R101, R196 to R200). -/

namespace Sys2Proof.Machine

/-! ### Checks 2 and 3 -/

/-- Check 2: every section's digest (R212). -/
def check2 (b : List Byte) : Except Rej Unit :=
  needAll (sectsOf b) fun t =>
    need (if t.ty = 0x0F then zeroBytes t.digest else sha3 (slice b t.off t.size) = t.digest) 0x1081 [t.ty]

/-- R429: role IMAGE of an owner key. -/
def hasRole (k : OwnerKey) (r : Nat) : Bool := bitAt k.roles r

/-- Check 3: the owner's signature (R212); a reserved byte of the section that is not zero (R6) fails here (DESIGN CHOICE,
assumption 37). -/
def check3 (keys : List OwnerKey) (policy : Nat) (b : List Byte) : Except Rej Unit :=
  match sectOf b 0x0F with
  | none => need (!bitAt policy 0) 0x1082 []
  | some s =>
    let sig := slice b s.off s.size
    need (zeroBytes (slice sig 8 4) && keys.any fun k => hasRole k 1 && leBytes 8 (keyId k.key) = slice sig 0 8 && Config.dsaVerify k.key (imageHash b) (slice sig 12 2420))
      0x1082 [0x0F]

/-! ### Check 4 -/

/-- Handles of a variant by number. -/
def handlesOf (v : Variant) : List (Nat × Handle) :=
  (List.range v.nhandles).filterMap fun i => (handleIn v (i + 1)).map fun h => (i + 1, h)

/-- R213: tensors named as some handle's Tally area. -/
def tallyIds (im : Image) : List Nat :=
  nub (im.variants.flatMap fun v => (handlesOf v).filterMap fun e => if e.2.tally = 0 then none else some (relocOf v e.2.tally))

/-- R213: a WTALLY tensor is the Tally area of a WEIGHT tensor: some handle names it so, and only handles of WEIGHT tensors do. -/
def wtallyOk (im : Image) (t : Tensor) : Bool :=
  let owners := im.variants.flatMap fun v => (handlesOf v).filterMap fun e =>
    if e.2.tally != 0 && relocOf v e.2.tally = t.id then some (relocOf v e.1) else none
  t.cls != 6 || (!owners.isEmpty && owners.all fun i => (tensorIn im i).any fun u => u.cls = 0)

/-- R213: a RING tensor is named only by stream handles. -/
def ringOk (im : Image) (t : Tensor) : Bool :=
  t.cls != 2 || im.variants.all fun v => (handlesOf v).all fun e => relocOf v e.1 != t.id || e.2.isStream

/-- R213: one tensor record, from its bytes. -/
def tensorOk (im : Image) (tallies : List Nat) (raw : List Byte) : Bool :=
  let t := parseTensor raw
  t.id != 0 && (im.tensors.filter fun u => u.id = t.id).length = 1 && decide (t.lst < im.nstations) && decide (t.cls ≤ 6) && t.size != 0 &&
    decide (t.align ≤ 8) && (t.tgcode = 0 || tallies.contains t.id) && field raw 0xA 2 = 0 &&
    (t.cls = 0 || t.cls = 5 || t.cls = 6 || t.moff = 0) && ringOk im t && wtallyOk im t

/-- R215: one patch record, from its bytes. -/
def patchOk (im : Image) (raw : List Byte) : Bool :=
  let n := field raw 1 1
  let tg (i : Nat) := field raw (4 + 4 * i) 4
  decide (field raw 0 1 < 64) && (im.patches.filter fun p => p.1 = field raw 0 1).length = 1 && decide (1 ≤ n) && decide (n ≤ 15) &&
    field raw 2 2 = 0 &&
    ((List.range 15).all fun i => if i < n then
        bits (tg i) 31 15 = 0 && decide (bits (tg i) 3 0 < im.nstations) && decide (bits (tg i) 8 4 ≤ 16)
      else tg i = 0) &&
    (nub ((List.range n).map tg)).length = n

/-- Check 4: the sections in their order in the image. -/
def check4 (b : List Byte) (im : Image) : Except Rej Unit := do
  let tallies := tallyIds im
  needAll (sectsOf b) fun s =>
    if s.ty = 1 then needAll (recordsOf b 1 16) fun r => need (tensorOk im tallies r) 0x1088 [field r 0 2]
    else if s.ty = 3 then do
      need (decide (sectCount b 3 ≤ 64)) 0x1080 [3]
      needAll (recordsOf b 3 64) fun r => need (patchOk im r) 0x1080 [3, field r 0 1]
    else .ok ()

/-! ### Check 5 -/

/-- Check 5. -/
def check5All (im : Image) : Except Rej Unit :=
  needAll (allDescs im) fun d =>
    match check5 d.bs (engClass d.e) with
    | none => .ok ()
    | some c => .error ⟨c, d.loc⟩

/-! ### Descriptors with their substitutions -/

/-- The declared range of the register that use u of W14 takes (R142, R144). -/
def substRange (d : DescAt) (u : Nat) : Option ParamDecl :=
  ((substUses d.w).lookup u).bind fun r => paramIn d.v d.e r

/-- Handle indices that field k can hold (R143). -/
def handleCands (d : DescAt) (k : Nat) : List Nat :=
  if bitAt (nth d.w 14) (10 + k) then
    match substRange d (10 + k) with
    | some p => (List.range 4096).filter fun i => decide (p.min ≤ i) && decide ((i : Int) ≤ p.max)
    | none => []
  else [nth (dHandles d.w) k]

/-- Every choice of one item from each list. -/
def choices : List (List Nat) → List (List Nat)
  | [] => [[]]
  | l :: ls => l.flatMap fun x => (choices ls).map (x :: ·)

/-- Every combination of the handle indices of a descriptor. -/
def handleSets (d : DescAt) : List (List Nat) := choices ((List.range 4).map (handleCands d))

/-- The largest count of loop level i that the declared ranges allow. -/
def maxCount (d : DescAt) (i l : Nat) : Nat :=
  if bitAt (nth d.w 14) i then (match substRange d i with
    | some p => min 65535 p.max.toNat
    | none => 0)
  else lvlCount l

/-- The least count of loop level i that the declared ranges allow. -/
def minCount (d : DescAt) (i l : Nat) : Nat :=
  if bitAt (nth d.w 14) i then (match substRange d i with
    | some p => p.min.toNat
    | none => 0)
  else lvlCount l

/-- The used levels with their least counts. -/
def minLevels (d : DescAt) : List Nat := (levels d.w).zipIdx.map fun e => setBits e.1 15 0 (minCount d e.2 e.1)

/-- The used levels with their largest counts. -/
def maxLevels (d : DescAt) : List Nat := (levels d.w).zipIdx.map fun e => setBits e.1 15 0 (maxCount d e.2 e.1)

/-- The least and the largest byte offset of handle k. -/
def offsetsOf (d : DescAt) (k : Nat) : List Int :=
  match substRange d (6 + k) with
  | some p => [p.min, p.max]
  | none => [0]

/-- The operand handles of a choice of indices. -/
def opHandles (d : DescAt) (hs : List Nat) : List (Nat × Handle) :=
  (List.range 4).filterMap fun k =>
    if (usedHandles (dOp d.w) (dW7 d.w) hs).getD k false then (handleIn d.v (nth hs k)).map fun h => (k, h) else none

def opHandle (d : DescAt) (hs : List Nat) (k : Nat) : Option Handle := (opHandles d hs).lookup k

/-- A Lantern descriptor. -/
def isLan (op : Nat) : Bool := op = 0x10 || op = 0x11 || op = 0x12

/-! ### R35, R52 to R54: formats and control -/

/-- R35. -/
def formats35 (d : DescAt) (hs : List Nat) : Bool :=
  let op := dOp d.w
  let f (k : Nat) (p : Nat → Bool) : Bool := match opHandle d hs k with
    | some h => p h.fmt
    | none => true
  (op = 0x12 || (f 0 fmtOperand && f 1 fmtOperand)) && (!lanRounds op (dW7 d.w) || f 2 fmtOutput) && (!(op = 0x10 && bitAt (dW7 d.w) 18) || f 3 fmtBias)

/-- R53: OFMT and OBLK16 are those of C. -/
def ofmtOk (d : DescAt) (hs : List Nat) : Bool :=
  !lanRounds (dOp d.w) (dW7 d.w) || match opHandle d hs 2 with
    | some h => h.fmt = bits (dW7 d.w) 4 0 && h.blk16 = bitAt (dW7 d.w) 5
    | none => true

/-- R33, R53: block dimensions. -/
def blockDims (d : DescAt) (hs : List Nat) : Bool :=
  let blk (h : Handle) := isMx h.fmt || h.fmt = 0x10
  let f (k : Nat) (p : Handle → Bool) : Bool := match opHandle d hs k with
    | some h => p h
    | none => true
  (dOp d.w = 0x12 || (f 0 (fun h => !blk h || h.blockdim = dimKA h (dW7 d.w)) &&
    f 1 fun h => !blk h || h.blockdim = dimKB (dW7 d.w))) && (!lanRounds (dOp d.w) (dW7 d.w) || f 2 fun h => !isMx h.fmt || h.blockdim = 0)

/-! ### Chains -/

/-- Where a stream can be: a position with the set open or closed. -/
abbrev ChainPos := Nat × Bool

/-- R51: the set after a descriptor. -/
def setAfter (w : List Nat) (o : Bool) : Bool :=
  if dOp w = 0x10 || dOp w = 0x11 then bitAt (dW7 w) 9 else if dOp w = 0x12 then false else o

/-- R164, R166, R170: where a stream goes from a position. -/
def nextPos (segs : List Nat) (w : List Nat) (p : Nat) : List Nat :=
  let op := dOp w
  if op = 0x7F then []
  else if op = 0x50 then (if bits (dW7 w) 13 11 = 6 then [] else [p + 1]) ++ [p + bits (dW7 w) 31 14]
  else if op = 0x51 then [p - bits (dW7 w) 14 0, p + 1]
  else if op = 0x55 then segs
  else [p + 1]

/-- The Stream Positions at which the segments of a variant begin in a stream. -/
def segStarts (v : Variant) (e : Nat) : List Nat := nub ((v.segs.map fun g => nth g e).filter (· != 0xFFFFFFFF))

/-- Every position that a stream can reach. -/
def reachFrom (segs : List Nat) (ds : List (List Nat)) : Nat → List ChainPos → List ChainPos → List ChainPos
  | 0, _, seen => seen
  | _, [], seen => seen
  | n + 1, x :: xs, seen =>
    if seen.contains x then reachFrom segs ds n xs seen
    else match ds[x.1]? with
      | none => reachFrom segs ds n xs (x :: seen)
      | some w => reachFrom segs ds n ((nextPos segs w x.1).map (fun p => (p, setAfter w x.2)) ++ xs) (x :: seen)

/-- The places that a stream of a variant can reach from its start. -/
def reached (v : Variant) (e : Nat) : List ChainPos :=
  let ds := (streamIn v e).map descWords
  reachFrom (segStarts v e) ds ((ds.length + 1) * 2 * (v.segs.length + 3)) [(0, false)] []

/-- R51: no MATMUL with the set open, no MATMUL_CHAIN or ACC_DRAIN with it closed. -/
def chainStateOk (rs : List ChainPos) (d : DescAt) : Bool :=
  !(isLan (dOp d.w) && rs.contains (d.pos, dOp d.w = 0x10))

/-! ### Slots, shapes and tiles -/

/-- An open set in the walk of a stream: slots, the shapes M × N that the opening C can have, the tile, the check group codes that
the opening B can have, and the Stream Position and Topmark of the descriptor that opens it. -/
structure OpenSet where
  slots : Nat
  shapes : List (Nat × Nat)
  tile : Nat
  gs : List Nat
  pos : Nat
  top : Nat
  deriving DecidableEq, Repr

/-- R64: the declared GCODE of the Tally area of a handle. -/
def gcodeOf (im : Image) (v : Variant) (h : Handle) : Option Nat :=
  if h.tally = 0 then none else (tensorIn im (relocOf v h.tally)).map Tensor.tgcode

/-- R37, R38: slots that a MATMUL or MATMUL_CHAIN adds. -/
def addSlots (d : DescAt) : Nat :=
  nestCount ((maxLevels d).take (lanKlevels (dW7 d.w))) + b2n (dOp d.w = 0x10 && bitAt (dW7 d.w) 18)

/-- The set that a MATMUL opens. -/
def opened (im : Image) (d : DescAt) : OpenSet :=
  let hss := handleSets d
  { slots := addSlots d
    shapes := (hss.filterMap fun hs => (opHandle d hs 2).map fun c => (shapeM c, shapeN c)).eraseDups
    tile := lanTile (dW7 d.w)
    gs := nub (hss.filterMap fun hs => (opHandle d hs 1).bind (gcodeOf im d.v))
    pos := d.pos, top := dTop d.w }

/-- One step of the walk: the set as the descriptor leaves or closes it, before it is closed. -/
def walkSet (im : Image) (mb : DescAt → Nat) (d : DescAt) (o : Option OpenSet) : Option OpenSet :=
  let op := dOp d.w
  if op = 0x10 then some (opened im d)
  else if op = 0x11 then o.map fun a => { a with slots := a.slots + addSlots d }
  else if op = 0x12 then o.map fun a => { a with slots := a.slots + (if drainMerges (dW7 d.w) then bits (dW7 d.w) 24 21 * mb d else 0) }
  else o

/-- A place of the walk: what stood open when a descriptor ran, and what it made of it. -/
structure SetAt where
  pos : Nat
  before : Option OpenSet
  after : Option OpenSet
  deriving DecidableEq, Repr

/-- The first place of a stream after the step that holds position p. -/
def afterStep (ds : List DescAt) (p : Nat) : Nat :=
  match (ds.drop p).findIdx? fun d => dOp d.w = 0x54 || dOp d.w = 0x55 || dOp d.w = 0x7F with
  | some k => p + k + 1
  | none => ds.length

/-- The fall-through walk of a stream (R38): a LOOPBACK with the set open goes round, one with the set closed goes on. `k` counts what
is left of the issues of R174 in the step; a step that uses them up (check 12 refuses it) is left for the next one. -/
def walkStream (im : Image) (mb : DescAt → Nat) (ds : List DescAt) :
    Nat → Nat → Nat → Option OpenSet → Tbl Nat → List SetAt → List SetAt
  | 0, _, _, _, _, acc => acc
  | n + 1, 0, p, _, _, acc => walkStream im mb ds n 4194304 (afterStep ds p) none [] acc
  | n + 1, k + 1, p, o, cnt, acc =>
    match ds[p]? with
    | none => acc
    | some d =>
      let a := walkSet im mb d o
      let acc := if isLan (dOp d.w) then ⟨p, o, a⟩ :: acc else acc
      let o1 := if setAfter d.w o.isSome then a else none
      if (match a with
        | some x => decide (32768 < x.slots)
        | none => false) then acc
      else if dOp d.w = 0x7F then acc
      else if dOp d.w = 0x51 && o1.isSome then
        let left := tget (bits (dW7 d.w) 30 15) cnt p - 1
        if left = 0 then walkStream im mb ds n k (p + 1) o1 (terase cnt p) acc
        else walkStream im mb ds n k (p - bits (dW7 d.w) 14 0) o1 (tput cnt p left) acc
      else walkStream im mb ds n (if dOp d.w = 0x54 || dOp d.w = 0x55 then 4194304 else k) (p + 1) o1 cnt acc

/-- The walk of a stream of a variant. -/
def setsOf (im : Image) (mb : DescAt → Nat) (ds : List DescAt) : List SetAt :=
  walkStream im mb ds (4194305 * (ds.length + 1)) 4194304 0 none [] []

/-- R128: where a handle's allocation lies in the image: tensor, first tile, tiles. -/
def imgRange (v : Variant) (i : Nat) : Option (Nat × Nat × Nat) :=
  (handleIn v i).map fun h => (relocOf v i, h.base, if h.isStream then h.tiles * h.depth else h.tiles)

/-- Two such ranges share a tile. -/
def rangesMeet (a b : Option (Nat × Nat × Nat)) : Bool :=
  match a, b with
  | some x, some y => x.1 = y.1 && decide (x.2.1 < y.2.1 + y.2.2) && decide (y.2.1 < x.2.1 + x.2.2)
  | _, _ => false

/-- A spilling descriptor: its variant, its handle C and the slots it writes. -/
structure SpillAt where
  v : Variant
  c : Nat
  slots : Nat

/-- R58: the bound on the records that a merge reads. -/
def mergeBound (sp : List SpillAt) (d : DescAt) : Nat :=
  (handleCands d 3).foldl (fun b i => (sp.filter fun x => rangesMeet (imgRange x.v x.c) (imgRange d.v i)).foldl (fun b x => max b x.slots) b) 0

/-- Lantern streams of the image. -/
def lanStreams (im : Image) : List (List DescAt) :=
  (variantsInOrder im).flatMap fun x => (List.range 4).map fun e => streamDescAts x.1 x.2 e

/-- The spilling descriptors with their slots, under bounds for the merges. -/
def spillsOf (im : Image) (mb : DescAt → Nat) : List SpillAt :=
  (lanStreams im).flatMap fun ds => (setsOf im mb ds).flatMap fun a =>
    match ds[a.pos]?, a.after with
    | some d, some x => if dOp d.w = 0x12 && drainSpills (dW7 d.w) then (handleCands d 2).map fun c => ⟨d.v, c, x.slots⟩ else []
    | _, _ => []

/-- R58: bounds that merges of merges settle at; bounds that still grow after as many rounds as there are spills grow for ever. -/
def settle (im : Image) : Nat → List SpillAt → List SpillAt × Bool
  | 0, sp => (sp, ((spillsOf im (mergeBound sp)).map SpillAt.slots) = sp.map SpillAt.slots)
  | n + 1, sp => settle im n (spillsOf im (mergeBound sp))

def settled (im : Image) : List SpillAt × Bool := let sp := spillsOf im fun _ => 0; settle im sp.length sp

/-- R54, R60, R61: shapes of chained outputs, spill destinations and merge sources. -/
def spillHandles (w7 : Nat) (d : DescAt) (hs : List Nat) (x : OpenSet) : Bool :=
  let n := x.shapes.foldl (fun a c => max a (spillLen (min (2 ^ x.tile) c.1 * min (1024 / 2 ^ x.tile) c.2))) 0
  (!drainSpills w7 || match opHandle d hs 2 with
    | some h => h.space = 0 && h.fmt = 8 && h.ndim = 1 && decide (n ≤ h.extent 0)
    | none => true) &&
  (!drainMerges w7 || match opHandle d hs 3 with
    | some h => h.space = 0 && h.fmt = 8 && h.ndim = 2 && decide (n ≤ h.extent 0) && (nth h.pitch 0 + 1) % 64 = 0 && decide (bits w7 24 21 ≤ h.extent 1)
    | none => true)

/-- R54: the shape of a chained C is that of the opening one, for every handle that either can be. -/
def chainShape (d : DescAt) (hs : List Nat) (x : OpenSet) : Bool :=
  match opHandle d hs 2 with
  | some h => x.shapes.all fun c => shapeM h = c.1 && shapeN h = c.2
  | none => true

/-- Highest multiple of N_t at which an output tile of a nest starts (R55, R136). -/
def lastTile (d : DescAt) : Option Nat :=
  let out := (maxLevels d).drop (lanKlevels (dW7 d.w))
  if out.any fun l => lvlCount l = 0 then none
  else some ((out.filter fun l => lvlDim 1 l != 15).foldl (fun a l => a + (lvlCount l - 1)) 0)

/-- R65: every check group lies inside one output tile. -/
def groupsOk (g nt nb : Nat) (d : DescAt) : Bool :=
  match lastTile d with
  | none => true
  | some j => nt % g = 0 || (List.range (j + 1)).all fun i => i * nt % g = 0 && decide (nb ≤ i * nt + nt)

/-- R64, R65: operand B; a TGCODE of 6 to 0xFE is refused by check 7 (R190). -/
def operandB (im : Image) (d : DescAt) (hs : List Nat) : Bool :=
  dOp d.w = 0x12 || match opHandle d hs 1 with
    | none => true
    | some h => match gcodeOf im d.v h with
      | some g => g != 0xFF && (5 < g || groupsOk (32 * 2 ^ g) (lanNt (dW7 d.w)) (h.extent (dimNB (dW7 d.w))) d)
      | none => false

/-- R60: a spilled tile has at most 32 rows and groups. -/
def spillGroups (d : DescAt) (x : OpenSet) : Bool :=
  !(dOp d.w = 0x12 && drainSpills (dW7 d.w)) ||
    x.shapes.all fun c => x.gs.all fun g =>
      decide (min (2 ^ x.tile) c.1 * ceilDiv (min (1024 / 2 ^ x.tile) c.2) (32 * 2 ^ g) ≤ 32)

/-- Check 6 for one Lantern descriptor. -/
def lanCheck (im : Image) (rs : List ChainPos) (at_ : List SetAt) (grows : Bool) (d : DescAt) : Except Rej Unit := do
  let op := dOp d.w
  let w7 := dW7 d.w
  let hss := handleSets d
  let mine := at_.filter fun a => a.pos = d.pos
  let opens := mine.filterMap fun a => if op = 0x10 then a.after else a.before
  need (hss.all (formats35 d)) 0x1051 d.loc
  needAll mine fun a => match a.after with
    | some x => need (decide (x.slots ≤ 32768)) 0x1050 [d.v.lst, d.vi, d.e, x.pos, x.top]
    | none => .ok ()
  need (!grows) 0x1050 d.loc
  need (chainStateOk rs d) 0x1053 d.loc
  need (lanW7Ok op w7 (levels d.w).length && (op = 0x10 || opens.all fun x => x.tile = lanTile w7)) 0x1056 d.loc
  need (hss.all (ofmtOk d)) 0x1055 d.loc
  need (hss.all (blockDims d)) 0x1052 d.loc
  need (op != 0x11 || hss.all fun hs => opens.all (chainShape d hs)) 0x1053 d.loc
  need (op = 0x12 || !bitAt w7 9 ||
    (nestCount ((maxLevels d).drop (lanKlevels w7)) = 1 && nestCount ((minLevels d).drop (lanKlevels w7)) = 1)) 0x1053 d.loc
  need (op != 0x12 || hss.all fun hs => opens.all (spillHandles w7 d hs)) 0x1053 d.loc
  need (hss.all (operandB im d) && opens.all (spillGroups d)) 0x1054 d.loc

/-! ### Wick and Tender descriptors -/

/-- R87, R88. -/
def kernelCheck (d : DescAt) : Except Rej Unit :=
  need (kernelW7Ok (dW7 d.w) && match handleIn d.v (bits (dW7 d.w) 11 0) with
    | some h => codeShapeOk h
    | none => false) 0x1060 d.loc

/-- R101. -/
def reduceCheck (d : DescAt) : Except Rej Unit :=
  need (reduceW7Ok (dW7 d.w) && (handleSets d).all fun hs => match opHandle d hs 0 with
    | some h => h.fmt = bits (dW7 d.w) 7 3
    | none => true) 0x1063 d.loc

/-- Bytes of the runs that handle k touches over a nest, within its allocation, for one byte offset. -/
def touchedAt (d : DescAt) (k : Nat) (h : Handle) (off : Int) : List (Int × Int) :=
  let ls := maxLevels d
  (List.range (nestCount ls)).map fun t =>
    let o := h.bitOff (coords (dOp d.w) (dW7 d.w) k ls (nestIdx ls t))
    (off + (o / 8 : Nat), off + ((o + unitSpan (dOp d.w) (dW7 d.w) k * elemBits h.fmt + 7) / 8 : Nat))

/-- Every byte offset that a handle can have (R142: multiples of 64). -/
def allOffsets (d : DescAt) (k : Nat) : List Int :=
  match substRange d (6 + k) with
  | some p => (List.range (((p.max - p.min) / 64).toNat + 1)).map fun (i : Nat) => p.min + 64 * (i : Int)
  | none => [0]

/-- R200: a COPY within one alias group never reads a byte that it writes. -/
def copyApart (d : DescAt) (hs : List Nat) : Bool :=
  match opHandle d hs 0, opHandle d hs 2 with
  | some a, some c =>
    if dOp d.w != 0x20 || a.isStream || c.isStream || a.alias_ = 0 || a.alias_ != c.alias_ then true
    else if relocOf d.v (nth hs 0) != relocOf d.v (nth hs 2) then true
    else (allOffsets d 0).all fun oa => (allOffsets d 2).all fun oc =>
      (touchedAt d 0 a (oa + (a.base * 4096 : Nat))).all fun x => (touchedAt d 2 c (oc + (c.base * 4096 : Nat))).all fun y =>
        decide (x.2 ≤ y.1) || decide (y.2 ≤ x.1)
  | _, _ => true

/-- R196, R198 to R200. -/
def tenderCheck (d : DescAt) : Except Rej Unit :=
  let op := dOp d.w
  need (tenderW7Ok op (dW7 d.w) && (handleSets d).all fun hs =>
    (match opHandle d hs 0, opHandle d hs 2 with
      | some a, some c => a.fmt = c.fmt && a.blk16 = c.blk16
      | _, _ => true) &&
    (!(op = 0x21 || op = 0x22) || match opHandle d hs 1 with
      | some h => h.fmt = 8 && h.extent 0 % (if bitAt (dW7 d.w) 19 then 4 else 2) = 0
      | none => true) && copyApart d hs) 0x1071 d.loc

/-- R28: the format of a handle and the extents of dimension 0. -/
def fmt28 (h : Handle) : Bool :=
  let q := if elemBits h.fmt = 6 then 4 else if elemBits h.fmt = 4 then 2 else 1
  fmtOk h.fmt h.blk16 && h.extent 0 % q = 0

/-- Check 6 of one descriptor that runs no Lantern. -/
def otherCheck (d : DescAt) : Except Rej Unit :=
  if dOp d.w = 0x30 then kernelCheck d else if dOp d.w = 0x31 then reduceCheck d
  else if [0x20, 0x21, 0x22, 0x23, 0x61].contains (dOp d.w) then tenderCheck d else .ok ()

/-- Check 6. -/
def check6 (im : Image) : Except Rej Unit := do
  needAll (variantsInOrder im) fun x => needAll (handlesOf x.2) fun e => need (fmt28 e.2) 0x1052 [x.2.lst, x.1, e.1]
  let st := settled im
  let mb := mergeBound st.1
  needAll (variantsInOrder im) fun x => needAll (List.range 17) fun e => do
    let ds := streamDescAts x.1 x.2 e
    if e < 4 then
      let rs := reached x.2 e
      let at_ := setsOf im mb ds
      needAll ds fun d => if isLan (dOp d.w) then lanCheck im rs at_ (!st.2) d else .ok ()
    else needAll ds otherCheck

end Sys2Proof.Machine
end

