-- ==== Sys2Proof/Machine/VerifyHandle.lean ====
section
/-! DEFINITION. Checks 7 and 8 of the verifier (R223): handles, spaces, substitution and bounds (R125 to R144), Tally areas (R190, R191),
overlapping handles (R162) and class writes (R213). -/

namespace Sys2Proof.Machine

/-! ### Handles by themselves -/

/-- R127, R281: the fields of a handle, from its 32 bytes. -/
def fields127 (bs : List Byte) (h : Handle) : Bool :=
  let q := if elemBits h.fmt = 6 then 4 else if elemBits h.fmt = 4 then 2 else 1
  decide (1 ≤ h.ndim) && decide (h.ndim ≤ 6) && decide (h.blockdim < h.ndim) && (isMx h.fmt || h.fmt = 0x10 || h.blockdim = 0) &&
    ((List.range 6).all fun d => decide (d < h.ndim) || (nth h.bound d = 0 && (5 ≤ d || nth h.pitch d = 0))) &&
    (6 ≤ h.ndim || nth h.pitch (h.ndim - 1) = 0) &&
    ((List.range 5).all fun d => decide (h.ndim ≤ d + 1) || decide (nth h.bound d ≤ nth h.pitch d)) &&
    (h.ndim = 1 || (nth h.pitch 0 + 1) % q = 0) && bits (field bs 0 8) 63 60 = 0 && bits (field bs 8 2) 3 0 = 0 &&
    (h.space != 3 || (h.base = 0 && h.alias_ = 0 && h.tally = 0 && h.aux = 0))

/-- R128: the allocation lies inside its tensor, in the space of the tensor's class. -/
def alloc128 (im : Image) (v : Variant) (i : Nat) (h : Handle) : Bool :=
  h.space = 3 || match tensorIn im (relocOf v i) with
    | none => false
    | some t =>
      let dram := t.cls = 4 || t.cls = 5
      decide (h.base + (if h.isStream then h.tiles * h.depth else h.tiles) ≤ t.size) && (if h.space = 1 then dram else !dram)

/-- R129: a scale or codebook handle. -/
def aux129 (v : Variant) (h : Handle) : Bool :=
  if isMx h.fmt then match handleIn v h.aux with
    | none => false
    | some x => x.fmt = 0x11 && x.ndim = h.ndim && (x.isStream == h.isStream) && (!h.isStream || x.alias_ = h.alias_) &&
        (List.range h.ndim).all fun d =>
          x.extent d = (if d = h.blockdim then ceilDiv (h.extent d) (if h.blk16 then 16 else 32) else h.extent d)
  else if h.fmt = 0x10 then match handleIn v h.aux with
    | none => false
    | some x => decide (h.ndim ≤ 5) && x.fmt = 3 && x.ndim = h.ndim + 1 && (x.isStream == h.isStream) && (!h.isStream || x.alias_ = h.alias_) &&
        x.extent 0 = 16 && (List.range h.ndim).all fun d => x.extent (d + 1) = (if d = h.blockdim then ceilDiv (h.extent d) 256 else h.extent d)
  else h.aux = 0

/-! ### Streams -/

/-- R134: handles that a descriptor pops, and whether it pushes C, for a choice of indices. -/
def popsOf (d : DescAt) (hs : List Nat) : List Nat :=
  [0, 1, 3].filter fun k => match opHandle d hs k with
    | some h => h.isStream
    | none => false
def pushesOf (d : DescAt) (hs : List Nat) : Bool :=
  match opHandle d hs 2 with
  | some h => h.isStream && !((dOp d.w = 0x10 || dOp d.w = 0x11) && bitAt (dW7 d.w) 9)
  | none => false

/-- Streams that push, or pop, stream handle i of a variant. -/
def pushersOf (ds : List DescAt) (i : Nat) : List Nat :=
  nub ((ds.filter fun d => (handleSets d).any fun hs => pushesOf d hs && nth hs 2 = i).map DescAt.e)
def poppersOf (ds : List DescAt) (i : Nat) : List Nat :=
  nub ((ds.filter fun d => (handleSets d).any fun hs => (popsOf d hs).any fun k => nth hs k = i).map DescAt.e)

/-- R129: the AUX FIFO of some stream handle. -/
def isAuxFifo (v : Variant) (i : Nat) : Bool := (handlesOf v).any fun e => e.2.isStream && e.2.aux != 0 && e.2.aux = i

/-- R129, R133: no descriptor names an AUX FIFO: it counts with its element FIFO. -/
def auxUnnamed (v : Variant) (ds : List DescAt) (i : Nat) : Bool :=
  !isAuxFifo v i || ds.all fun d => (handleSets d).all fun hs => (opHandles d hs).all fun e => nth hs e.1 != i

/-- R133: one pushing and one popping stream of different engines. -/
def stream133 (ds : List DescAt) (i : Nat) (h : Handle) : Bool :=
  !h.isStream || match pushersOf ds i, poppersOf ds i with
    | [], [] => true
    | [a], [b] => a != b
    | _, _ => false

/-! ### Tally areas -/

/-- R190: the handle of a Tally area, and its declared TGCODE. -/
def area190 (im : Image) (v : Variant) (h : Handle) : Bool :=
  h.tally = 0 || match handleIn v h.tally with
    | none => false
    | some a => decide (a.space ≤ 1) && a.fmt = 8 && a.ndim = 1 && a.tally = 0 && a.aux = 0 &&
        match tensorIn im (relocOf v h.tally) with
        | some t => decide (t.tgcode ≤ 5) || t.tgcode = 0xFF
        | none => false

/-- R191: NTILES of the area of a handle. -/
def areaTiles (h : Handle) : Nat := if h.isStream then h.depth * h.tiles else h.tiles

/-- R191: the area holds its header and Tallies, and `check` bytes of a check vector after them. -/
def areaRoom (v : Variant) (h : Handle) (check : Nat) : Bool :=
  h.tally = 0 || match handleIn v h.tally with
    | none => false
    | some a => decide ((if check = 0 then 0x40 + 8 * areaTiles h else roundUp (0x40 + 8 * areaTiles h) 64 + check) ≤ a.allocBytes)

/-- R191: two handles may name one Tally area only in one alias group with one BASE. -/
def areaShared (v u : Variant) (i j : Nat) (h k : Handle) : Bool :=
  h.tally = 0 || k.tally = 0 || !rangesMeet (imgRange v h.tally) (imgRange u k.tally) ||
    (!h.isStream && !k.isStream && h.alias_ != 0 && h.alias_ = k.alias_ && relocOf v i = relocOf u j && h.base = k.base)

/-- Variants whose handles can stand in the machine together with those of variant number x: itself, and those of other Stations. -/
def together (im : Image) (x : Nat × Variant) : List (Nat × Variant) :=
  (variantsInOrder im).filter fun y => y.1 = x.1 || y.2.lst != x.2.lst

/-- R191: a view whose BASE differs from its parent's carries no Tally area. In an alias group a handle is a view of each other handle
whose allocation holds its own (DEDUCED, assumption 51). -/
def view191 (v : Variant) (i : Nat) (h : Handle) : Bool :=
  h.tally = 0 || h.isStream || h.alias_ = 0 || (handlesOf v).all fun e =>
    e.2.isStream || e.2.alias_ != h.alias_ || relocOf v e.1 != relocOf v i || h.base = e.2.base ||
      !(decide (e.2.base ≤ h.base) && decide (h.base + h.tiles ≤ e.2.base + e.2.tiles))

/-- R191 of one handle. -/
def area191 (im : Image) (x : Nat × Variant) (i : Nat) (h : Handle) : Bool :=
  areaRoom x.2 h 0 && view191 x.2 i h && (together im x).all fun y => (handlesOf y.2).all fun e => (y.1 = x.1 && e.1 = i) || areaShared x.2 y.2 i e.1 h e.2

/-- Check 7 of one handle entry. -/
def handleCheck (im : Image) (x : Nat × Variant) (ds : List DescAt) (i : Nat) (h : Handle) : Except Rej Unit := do
  let loc := [x.2.lst, x.1, i]
  need (fields127 (((x.2.handles[i - 1]?).map Prod.fst).getD []) h) 0x1012 loc
  need (alloc128 im x.2 i h) 0x1010 loc
  need (aux129 x.2 h && auxUnnamed x.2 ds i) 0x1012 loc
  need (stream133 ds i h) 0x1013 loc
  need (area190 im x.2 h && area191 im x i h) 0x1070 loc

/-! ### Descriptors -/

/-- R125: handles that an opcode requires. -/
def requiredOf (op w7 : Nat) : List Nat :=
  if op = 0x10 then (if bitAt w7 18 then [0, 1, 2, 3] else [0, 1, 2])
  else if op = 0x11 || op = 0x21 || op = 0x22 then [0, 1, 2]
  else if op = 0x12 then (if drainMerges w7 then [2, 3] else [2])
  else if op = 0x20 || op = 0x61 || op = 0x40 then [0, 2]
  else if op = 0x23 || op = 0x41 then [2]
  else if op = 0x31 || op = 0x60 then [0]
  else []

/-- R120: handles that an opcode can use. -/
def canUse (op w7 : Nat) : List Bool := usedHandles op w7 [1, 1, 1, 1]

/-- R125. -/
def handles125 (d : DescAt) (hs : List Nat) : Bool :=
  (List.range 4).all fun k =>
    if (canUse (dOp d.w) (dW7 d.w)).getD k false then
      (nth hs k = 0 && !(requiredOf (dOp d.w) (dW7 d.w)).contains k) || (handleIn d.v (nth hs k)).isSome
    else nth hs k = 0

/-- R131, R280, R283: spaces of handle k of an opcode. -/
def spaces131 (op k : Nat) : List Nat :=
  if op = 0x10 || op = 0x11 then (if k = 0 || k = 2 then [0, 2] else [0])
  else if op = 0x12 then (if k = 2 then [0, 2] else [0])
  else if op = 0x30 || op = 0x31 || op = 0x60 then [0, 2]
  else if op = 0x40 then (if k = 2 then [3] else [0, 2])
  else if op = 0x41 then [0, 2]
  else [0, 1, 2]

def space131 (d : DescAt) (hs : List Nat) : Bool := (opHandles d hs).all fun e => (spaces131 (dOp d.w) e.1).contains e.2.space

/-- R134: no level walks a stream handle, but a reduction's along K of a stream A; some opcodes push or pop none. -/
def stream134 (d : DescAt) (hs : List Nat) : Bool :=
  (opHandles d hs).all fun e => !e.2.isStream ||
    ((levels d.w).zipIdx.all fun l =>
      lvlDim e.1 l.1 = 15 || ((dOp d.w = 0x10 || dOp d.w = 0x11) && e.1 = 0 && decide (l.2 < lanKlevels (dW7 d.w)))) &&
    !((dOp d.w = 0x31 || dOp d.w = 0x60) && e.1 = 2)

/-- R135. -/
def levels135 (d : DescAt) (hs : List Nat) : Bool :=
  levelsOk d.w ((List.range 4).map fun k => ((opHandle d hs k).map Handle.ndim).getD 0)

/-- R136: a reduction level of a MATMUL. -/
def redLevel (a : Handle) (w7 l : Nat) : Bool :=
  lvlDim 0 l = dimKA a w7 && lvlDim 1 l = dimKB w7 && lvlDim 2 l = 15 && bits l 29 28 = 0

/-- R136: an output level of a MATMUL. -/
def outLevel (a c : Handle) (bias : Bool) (w7 l : Nat) : Bool :=
  if lvlDim 1 l = dimNB w7 then
    lvlDim 0 l = 15 && lvlDim 2 l = (if c.isStream then 15 else 0) && (if bias then lvlDim 3 l = 0 && bits l 29 28 != 0 else bits l 29 28 = 0)
  else
    lvlDim 1 l = 15 && bits l 29 28 = 0 && lvlDim 0 l = (if a.isStream then 15 else dimMA a w7) && lvlDim 2 l = (if c.isStream then 15 else 1)

/-- R136. -/
def walks136 (d : DescAt) (hs : List Nat) : Bool :=
  let op := dOp d.w
  let w7 := dW7 d.w
  if op = 0x12 then (levels d.w).isEmpty
  else if op = 0x10 || op = 0x11 then
    match opHandle d hs 0, opHandle d hs 2 with
    | some a, some c => (levels d.w).zipIdx.all fun l =>
        if l.2 < lanKlevels w7 then redLevel a w7 l.1 else outLevel a c (op = 0x10 && bitAt w7 18) w7 l.1
    | _, _ => true
  else true

/-- R138: bounds over every iteration, for every count and byte offset that the declared ranges allow. -/
def bounds138 (d : DescAt) (hs : List Nat) : Bool :=
  (opHandles d hs).all fun e =>
    boundsOk (dOp d.w) (dW7 d.w) e.1 (maxLevels d) e.2 && (offsetsOf d e.1).all fun o => offsetOk (dOp d.w) (dW7 d.w) e.1 (maxLevels d) e.2 o

/-- R142: the uses of W14. -/
def subst142 (d : DescAt) : Bool :=
  let w14 := nth d.w 14
  bits w14 31 14 = 0 && decide (dPbase d.w + (substUses d.w).length ≤ 64) &&
    (substUses d.w).all fun u =>
      match paramIn d.v d.e u.2 with
      | none => false
      | some p =>
        if u.1 < 6 then bitAt (nth d.w (8 + u.1)) 30 && decide (0 ≤ p.min) && decide (p.max < 65536)
        else if u.1 < 10 then
          decide (p.init % 64 = 0) && decide (p.min % 64 = 0) && decide (p.max % 64 = 0) &&
            (handleSets d).all fun hs => match opHandle d hs (u.1 - 6) with
              | some h => decide (h.space < 2) && h.aux = 0
              | none => true
        else (canUse (dOp d.w) (dW7 d.w)).getD (u.1 - 10) false && decide (0 ≤ p.min) && decide (p.max < 4096)

/-- R191: the check vector of a B operand fits its Tally area. -/
def vectorRoom (im : Image) (d : DescAt) (hs : List Nat) : Bool :=
  !(dOp d.w = 0x10 || dOp d.w = 0x11) || match opHandle d hs 1 with
    | none => true
    | some h => match gcodeOf im d.v h with
      | some g => !decide (g ≤ 5) ||
          areaRoom d.v h (8 * ceilDiv (h.extent (dimNB (dW7 d.w))) (32 * 2 ^ g) * h.extent (dimKB (dW7 d.w)))
      | none => true

/-- Check 7 of one descriptor. -/
def descCheck7 (im : Image) (d : DescAt) : Except Rej Unit := do
  let hss := handleSets d
  need (!isControl (dOp d.w) || nth d.w 14 = 0) 0x1008 d.loc
  need (isControl (dOp d.w) || hss.all (handles125 d)) 0x1007 d.loc
  need (hss.all (space131 d)) 0x1007 d.loc
  need (hss.all (stream134 d)) 0x1010 d.loc
  need (isControl (dOp d.w) || hss.all (levels135 d)) 0x1005 d.loc
  need (hss.all (walks136 d)) 0x1056 d.loc
  need (hss.all (bounds138 d)) 0x1010 d.loc
  need (isControl (dOp d.w) || subst142 d) 0x1008 d.loc
  need (hss.all (vectorRoom im d)) 0x1070 d.loc

/-- Check 7. -/
def check7 (im : Image) : Except Rej Unit :=
  needAll (variantsInOrder im) fun x => do
    let ds := variantDescs x.1 x.2
    needAll (handlesOf x.2) fun e => handleCheck im x ds e.1 e.2
    needAll ds (descCheck7 im)

/-! ### Check 8 -/

/-- R158, R162: handles of a variant that some descriptor writes, with the scale handle and the Tally area that it writes with them. -/
def writtenBy (ds : List DescAt) : List Nat :=
  nub (ds.flatMap fun d => (handleSets d).flatMap fun hs => (List.range 4).flatMap fun k =>
    match opHandle d hs k with
    | some h => if writesHandle (dOp d.w) (dW7 d.w) k && h.space != 3 then [nth hs k, h.aux, h.tally].filter (· != 0) else []
    | none => [])

/-- R162: two handles may overlap, one of them written, only in one alias group. -/
def alias162 (v u : Variant) (i j : Nat) (h k : Handle) : Bool :=
  h.space = 3 || k.space = 3 || !rangesMeet (imgRange v i) (imgRange u j) ||
    (!h.isStream && !k.isStream && h.alias_ != 0 && h.alias_ = k.alias_)

/-- R213: classes that no descriptor writes. -/
def mayWrite (cls : Nat) : Bool := cls = 1 || cls = 2 || cls = 4

/-- R213: a descriptor writes only tensors whose class allows it. -/
def classWrites (d : DescAt) (im : Image) : Bool :=
  (handleSets d).all fun hs => (List.range 4).all fun k =>
    !(writesHandle (dOp d.w) (dW7 d.w) k && (opHandle d hs k).isSome) || match opHandle d hs k with
      | some h => h.space = 3 || (match tensorIn im (relocOf d.v (nth hs k)) with
        | some t => mayWrite t.cls
        | none => false)
      | none => true

/-- Check 8: the variants in order, each with its handles and then its descriptors. -/
def check8 (im : Image) : Except Rej Unit := do
  let vs := (variantsInOrder im).map fun x => (x, writtenBy (variantDescs x.1 x.2))
  needAll vs fun x => do
    needAll (handlesOf x.1.2) fun e =>
      need (vs.all fun y => (y.1.1 != x.1.1 && y.1.2.lst = x.1.2.lst) || (handlesOf y.1.2).all fun f =>
          (y.1.1 = x.1.1 && f.1 = e.1) || !(x.2.contains e.1 || y.2.contains f.1) || alias162 x.1.2 y.1.2 e.1 f.1 e.2 f.2)
        0x1011 [x.1.2.lst, x.1.1, e.1]
    needAll (variantDescs x.1.1 x.1.2) fun d => need (classWrites d im) 0x1088 d.loc

end Sys2Proof.Machine
end

