-- ==== Sys2Proof/Machine/VerifyFlow.lean ====
section
/-! DEFINITION. Checks 9 to 11 of the verifier (R223): control flow and steps (R59, R113, R165 to R170), flags (R153 to R156) and turns
(R158, R161). -/

namespace Sys2Proof.Machine

/-! ### Loops, branches and terminators -/

/-- R166: the LOOPBACKs of a stream: position and BACK. -/
def loopsOf (ws : List (List Nat)) : List (Nat × Nat) :=
  ws.zipIdx.filterMap fun x => if dOp x.1 = 0x51 then some (x.2, bits (dW7 x.1) 14 0) else none

/-- R165: a position lies in a LOOPBACK loop: the body and the LOOPBACK itself. -/
def inLoop (l : Nat × Nat) (p : Nat) : Bool := decide (l.1 ≤ p + l.2) && decide (p ≤ l.1)

/-- STEP_END, FORK and HALT. -/
def isTerm (op : Nat) : Bool := op = 0x54 || op = 0x55 || op = 0x7F

/-- R165: where a BRANCH lands. -/
def landsOk (ws : List (List Nat)) (p : Nat) (w : List Nat) : Bool :=
  let t := p + bits (dW7 w) 31 14
  decide (t < ws.length) && (loopsOf ws).all (fun l => inLoop l p = inLoop l t) &&
    ((ws.drop (p + 1)).take (t - p - 1)).all fun x => !isTerm (dOp x)

/-- Some BRANCH of the stream can skip a position. -/
def skippable (ws : List (List Nat)) (q : Nat) : Bool :=
  ws.zipIdx.any fun x => dOp x.1 = 0x50 && decide (x.2 < q) && decide (q < x.2 + bits (dW7 x.1) 31 14)

/-- R165: what a skipped descriptor may be. -/
def skipOk (d : DescAt) : Bool :=
  let w := d.w
  noFlags w && (((d.v.turns[((d.v.streams[d.e]?).map StreamEnt.first).getD 0 + d.pos]?).getD []).all fun t => !bitAt t 31) &&
    ((handleSets d).all fun hs => (opHandles d hs).all fun e => !e.2.isStream) &&
    !([0x40, 0x41, 0x51, 0x54, 0x55, 0x7F].contains (dOp w))

/-- R167: the body of one LOOPBACK of a stream: its position and BACK. -/
def bodyOk (ws : List (List Nat)) (l : Nat × Nat) : Bool :=
  let ls := loopsOf ws
  decide (l.2 ≤ l.1) && decide ((ls.filter fun m => decide (m.1 - m.2 ≤ l.1 - l.2) && decide (l.1 ≤ m.1)).length ≤ 8) &&
    (((ws.drop (l.1 - l.2)).take l.2).all fun x => !isTerm (dOp x)) &&
    ls.all fun m => decide (l.1 ≤ m.1 - m.2) || decide (m.1 ≤ l.1 - l.2) || (decide (m.1 - m.2 ≤ l.1 - l.2) && decide (l.1 ≤ m.1)) ||
      (decide (l.1 - l.2 ≤ m.1 - m.2) && decide (m.1 ≤ l.1))

/-- Check 9 of one descriptor: R59, R113, R165 and R167 in order; `rs` holds the places that its stream reaches. -/
def flowItem (segs : List Nat) (ws : List (List Nat)) (rs : List ChainPos) (d : DescAt) : Except Rej Unit := do
  need (!((dOp d.w = 0x50 || dOp d.w = 0x54 || dOp d.w = 0x55) && rs.contains (d.pos, true))) 0x1053 d.loc
  need (!(rs.any fun r => r.1 = d.pos) || (nextPos segs d.w d.pos).all fun p => decide (p < ws.length)) 0x1014 d.loc
  need (dOp d.w != 0x50 || landsOk ws d.pos d.w) 0x1026 d.loc
  need (!skippable ws d.pos || skipOk d) 0x1024 d.loc
  need (dOp d.w != 0x51 || bodyOk ws (d.pos, bits (dW7 d.w) 14 0)) 0x1026 d.loc

/-- Check 9 of one stream: its descriptors in order. -/
def flowCheck (vi : Nat) (v : Variant) (e : Nat) : Except Rej Unit := do
  let ds := streamDescAts vi v e
  needAll ds (flowItem (segStarts v e) (ds.map DescAt.w) (reached v e))
  need (!ds.isEmpty) 0x1014 [v.lst, vi, e, 0]

/-! ### Bindings and the steps of a bank -/

/-- A loaded stream that takes part in the steps. -/
structure LiveStream where
  vi : Nat
  v : Variant
  e : Nat
  ds : List DescAt

/-- Every choice of one variant per logical Station. -/
def bindings (im : Image) : List (List (Nat × Variant)) :=
  (List.range im.nstations).foldl (fun acc n =>
    let mine := (variantsInOrder im).filter fun x => x.2.lst = n
    if mine.isEmpty then acc else acc.flatMap fun b => mine.map fun x => b ++ [x]) [[]]

/-- The loaded streams of a binding. -/
def liveStreams (b : List (Nat × Variant)) : List LiveStream :=
  b.flatMap fun x => (List.range 17).filterMap fun e =>
    match x.2.streams[e]? with
    | some t => if t.present && !t.pushed then some ⟨x.1, x.2, e, streamDescAts x.1 x.2 e⟩ else none
    | none => none

/-- Where each stream stands at a step start; none for one that has halted. -/
abbrev Config := List (Option Nat)

/-- The terminator of the step that begins at a position: its position and words. -/
def termFrom (l : LiveStream) (p : Nat) : Option (Nat × List Nat) :=
  ((l.ds.drop p).find? fun d => isTerm (dOp d.w)).map fun d => (d.pos, d.w)

/-- What ends a step of a live stream: none for HALT, else the FORK_ID or STEP_END. -/
inductive Ending where
  | halt
  | step (pos : Nat)
  | fork (id pos : Nat)
  deriving DecidableEq, Repr

def endingOf (l : LiveStream) (p : Nat) : Ending :=
  match termFrom l p with
  | none => .halt
  | some (q, w) => if dOp w = 0x54 then .step q else if dOp w = 0x55 then .fork (bits (dW7 w) 7 0) q else .halt

/-- The endings of a step. -/
def endings (ls : List LiveStream) (c : Config) : List (Option Ending) := (ls.zip c).map fun x => x.2.map (endingOf x.1)

/-- FORK_IDs that a step reaches. -/
def forkIds (es : List (Option Ending)) : List Nat :=
  nub (es.filterMap fun e => match e with
    | some (.fork i _) => some i
    | _ => none)

/-- R170: every live stream that does not halt in the step reaches a FORK of one FORK_ID, or none does. -/
def forksAgree (es : List (Option Ending)) : Bool :=
  match forkIds es with
  | [] => true
  | [_] => es.all fun e => match e with
    | some (.step _) => false
    | _ => true
  | _ => false

/-- R169, R170: the step starts that can follow a step. -/
def nextConfigs (nseg : Nat) (ls : List LiveStream) (c : Config) : List Config :=
  let es := endings ls c
  if es.all fun e => match e with
    | some (.step _) | some (.fork _ _) => false
    | _ => true
  then []
  else if (forkIds es).isEmpty then
    [es.map fun e => match e with
      | some (.step q) => some (q + 1)
      | _ => none]
  else (List.range nseg).map fun g => (es.zip ls).map fun x => match x.1 with
    | some (.fork _ _) => some (nth (x.2.v.segs.getD g []) x.2.e)
    | _ => none

/-- The step starts that can be reached; the search ends where the forks of a step do not agree. -/
def configsFrom (nseg : Nat) (ls : List LiveStream) : Nat → List Config → List Config → List Config
  | 0, _, seen => seen
  | _, [], seen => seen
  | n + 1, c :: cs, seen =>
    if seen.contains c then configsFrom nseg ls n cs seen
    else configsFrom nseg ls n (cs ++ (if forksAgree (endings ls c) then nextConfigs nseg ls c else [])) (seen ++ [c])

def nsegOf (b : List (Nat × Variant)) : Nat := (b.head?.map fun x => x.2.nseg).getD 0

def configsOf (b : List (Nat × Variant)) : List Config :=
  let ls := liveStreams b
  configsFrom (nsegOf b) ls 4194304 [ls.map fun _ => some 0] []

/-- R168: STEP_ENDs and FORKs of a stream, and whether it holds a HALT. -/
def stepsHeld (l : LiveStream) : Nat × Bool :=
  ((l.ds.filter fun d => dOp d.w = 0x54 || dOp d.w = 0x55).length, l.ds.any fun d => dOp d.w = 0x7F)

/-- R168: every loaded stream holds the same number of steps. -/
def sameSteps (ls : List LiveStream) : Bool :=
  let hs := ls.map stepsHeld
  match hs.find? fun h => !h.2 with
  | none => true
  | some h => hs.all fun g => if g.2 then decide (g.1 < h.1) else g.1 = h.1

/-- R170: a FORK_ID has exactly one deciding stream. -/
def decidersOk (ls : List LiveStream) : Bool :=
  let fs := ls.flatMap fun l => (l.ds.filter fun d => dOp d.w = 0x55).map fun d => (bits (dW7 d.w) 7 0, bitAt (dW7 d.w) 12, d.v.lst * 17 + d.e)
  (nub (fs.map Prod.fst)).all fun i => (nub ((fs.filter fun f => f.1 = i && f.2.1).map fun f => f.2.2)).length = 1

/-- Check 9. -/
def check9 (im : Image) : Except Rej Unit := do
  needAll (variantsInOrder im) fun x => needAll (List.range 17) fun e =>
    match x.2.streams[e]? with
    | some t => if t.present && !t.pushed then flowCheck x.1 x.2 e else .ok ()
    | none => .ok ()
  needAll (bindings im) fun b => do
    let ls := liveStreams b
    need (sameSteps ls) 0x1026 []
    need ((configsOf b).all fun c => forksAgree (endings ls c)) 0x1024 []
    need (decidersOk ls) 0x1024 []

/-! ### Issues of a step -/

/-- R155, R166: one descriptor, from the stream's end backwards: what falls through it is one pass and every jump back across it; a
LOOPBACK of COUNT a issues a times for each fall-through, and jumps back a − 1 times. The state holds the issues of the later
descriptors, and the jumps: target and number. -/
def countBack (x : List Nat × Nat) (acc : List Nat × List (Nat × Nat)) : List Nat × List (Nat × Nat) :=
  let fall := acc.2.foldl (fun a j => if j.1 ≤ x.2 then a + j.2 else a) 1
  if dOp x.1 = 0x51 then
    let a := bits (dW7 x.1) 30 15
    (a * fall :: acc.1, (x.2 - bits (dW7 x.1) 14 0, (a - 1) * fall) :: acc.2)
  else (fall :: acc.1, acc.2)

/-- R166: how many times each descriptor of a stream issues in its step. -/
def issueTimes (ws : List (List Nat)) : List Nat := (ws.zipIdx.foldr countBack ([], [])).1

/-- The descriptors of a step with the number of times each issues. -/
def stepIssues (ls : List LiveStream) (c : Config) : List (DescAt × Nat) :=
  (ls.zip c).flatMap fun x =>
    match x.2 with
    | none => []
    | some p =>
      let ws := x.1.ds.map DescAt.w
      let last := ((termFrom x.1 p).map Prod.fst).getD ws.length
      ((x.1.ds.zip (issueTimes ws)).drop p).take (last + 1 - p)

/-! ### Flags -/

/-- Key of a flag: a Station flag by logical Station, a chip flag from 0x10000. -/
def flagKey (lst w : Nat) : Nat := if waitScope w = 1 then 0x10000 + waitIdx w else lst * 256 + waitIdx w

/-- R156: a key is a host flag. -/
def isHostFlag (im : Image) (k : Nat) : Bool := decide (0x10000 ≤ k) && bitAt im.hostMask (k - 0x10000)

/-- Initial value of a flag. -/
def flagInit (im : Image) (k : Nat) : Nat := if 0x10000 ≤ k then nth im.chipFlags (k - 0x10000) else nth (im.flags.getD (k / 256) []) (k % 256)

/-- WAITs and SIGNALs of a descriptor: flag and amount. -/
def waitsOf (d : DescAt) : List (Nat × Nat) :=
  ([nth d.w 1, nth d.w 2].filter fun w => waitThr w != 0).map fun w => (flagKey d.v.lst w, waitThr w)
def signalsOf (d : DescAt) : List (Nat × Nat) :=
  ([nth d.w 3, nth d.w 4].filter fun w => sigInc w != 0).map fun w => (flagKey d.v.lst w, sigInc w)

/-- R153: no flag has two waiting streams in a binding. -/
def oneWaiter (im : Image) (b : List (Nat × Variant)) : Bool :=
  let ws := ((allDescs im).filter fun d => b.any fun x => x.1 = d.vi).flatMap fun d => (waitsOf d).map fun x => (x.1, d.v.lst * 17 + d.e)
  ws.all fun x => ws.all fun y => x.1 != y.1 || x.2 = y.2

/-- What a step adds to a flag and takes from it. -/
def stepSum (f : DescAt → List (Nat × Nat)) (is : List (DescAt × Nat)) (k : Nat) : Nat :=
  is.foldl (fun a x => ((f x.1).filter fun y => y.1 = k).foldl (fun a y => a + y.2 * x.2) a) 0

/-- R154, R155: one step. -/
def flagsBalance (im : Image) (is : List (DescAt × Nat)) : Bool :=
  (nub (is.flatMap fun x => (waitsOf x.1).map Prod.fst ++ (signalsOf x.1).map Prod.fst)).all fun k =>
    isHostFlag im k || (decide (flagInit im k + stepSum signalsOf is k ≤ 65535) && stepSum signalsOf is k = stepSum waitsOf is k)

/-- Check 10. -/
def check10 (im : Image) : Except Rej Unit := do
  needAll (bindings im) fun b => need (oneWaiter im b) 0x1022 []
  needAll (allDescs im) fun d => need ((signalsOf d).all fun x => !isHostFlag im x.1) 0x1020 d.loc
  needAll (bindings im) fun b =>
    let ls := liveStreams b
    needAll (configsOf b) fun c => need (flagsBalance im (stepIssues ls c)) 0x1020 []

/-! ### Turns -/

/-- R158: scoreboard entry of a handle of a variant: its alias group, or the handle itself. -/
def entryKey (v : Variant) (i : Nat) (h : Handle) : Nat := if h.alias_ != 0 && !h.isStream then h.alias_ else 0x1000000 + v.lst * 4096 + i

/-- R160: the turn entries of a descriptor. -/
def turnsAt (d : DescAt) : List Nat := (d.v.turns[((d.v.streams[d.e]?).map StreamEnt.first).getD 0 + d.pos]?).getD []

/-- R158: one registration of a descriptor: entry, writer, turn entry, and the turn entries of the other handles of the entry. -/
structure RegAt where
  key : Nat
  writer : Bool
  turn : Nat
  others : List Nat
  deriving DecidableEq, Repr

/-- R158: the registrations of a descriptor with a choice of indices; stream handles have none (DEDUCED, assumption 25). -/
def regsAt (d : DescAt) (hs : List Nat) : List RegAt :=
  let op := dOp d.w
  let ks := (opHandles d hs).filter fun e => !e.2.isStream
  let writes (k : Nat) := writesHandle op (dW7 d.w) k || (List.range 4).any fun j => nth hs j = nth hs k && writesHandle op (dW7 d.w) j
  (nub (ks.map fun e => entryKey d.v (nth hs e.1) e.2)).map fun key =>
    let mine := (ks.filter fun e => entryKey d.v (nth hs e.1) e.2 = key).map Prod.fst
    let wr := [2, 3, 0, 1].filter fun k => mine.contains k && writes k
    let use := (wr ++ mine).headD 0
    ⟨key, !wr.isEmpty, nth (turnsAt d) use, mine.map (nth (turnsAt d))⟩

/-- R158, R160, R161: the turn entries of a descriptor by themselves. -/
def turnWords (d : DescAt) : Bool :=
  let hss := handleSets d
  (hss.all fun hs => (regsAt d hs).all fun r => r.others.all (· = r.turn) && bits r.turn 30 28 = 0 &&
      (!bitAt r.turn 31 || (if r.writer then bits r.turn 27 24 = 0 else bits r.turn 27 24 != 0))) &&
    (hss.all fun hs => (opHandles d hs).all fun e => !e.2.isStream || !bitAt (nth (turnsAt d) e.1) 31) &&
    (List.range 4).all fun k => !bitAt (nth d.w 14) (10 + k) || !bitAt (nth (turnsAt d) k) 31 ||
      (nub ((handleCands d k).map fun i => ((handleIn d.v i).map fun h => entryKey d.v i h).getD 0)).length ≤ 1

/-- The accesses of a step to one entry: stream, registration, number of issues. -/
def accessesTo (is : List (DescAt × Nat)) (key : Nat) : List (Nat × RegAt × Nat) :=
  is.flatMap fun x => ((handleSets x.1).flatMap fun hs => (regsAt x.1 hs).filter fun r => r.key = key).eraseDups.map fun r => (x.1.v.lst * 17 + x.1.e, r, x.2)

/-- R160: turns that the accesses take: turn, writer and GROUP. -/
def turnsTaken (as : List (Nat × RegAt × Nat)) : List (Nat × Bool × Nat) :=
  (as.filter fun a => bitAt a.2.1.turn 31).flatMap fun a =>
    (List.range a.2.2).map fun n => (bits a.2.1.turn 15 0 + bits a.2.1.turn 23 16 * n, a.2.1.writer, bits a.2.1.turn 27 24)

/-- R161: one entry of one step. -/
def entryTurns (as : List (Nat × RegAt × Nat)) : Bool :=
  let shared := 1 < (nub (as.map Prod.fst)).length && as.any fun a => a.2.1.writer
  let ts := turnsTaken as
  let top := ts.foldl (fun a t => max a (t.1 + 1)) 0
  (!shared || as.all fun a => bitAt a.2.1.turn 31) && (ts.all fun t => decide (t.1 < 65536)) &&
    (List.range (min top 65536)).all fun n =>
      match ts.filter fun t => t.1 = n with
      | [] => false
      | t :: r => if t.2.1 then r.isEmpty else r.length + 1 = t.2.2 && r.all fun u => !u.2.1 && u.2.2 = t.2.2

/-- Check 11. -/
def check11 (im : Image) : Except Rej Unit := do
  needAll (allDescs im) fun d => need (isControl (dOp d.w) || turnWords d) 0x1025 d.loc
  needAll (bindings im) fun b =>
    let ls := liveStreams b
    needAll (configsOf b) fun c =>
      let is := (stepIssues ls c).filter fun x => !isControl (dOp x.1.w)
      needAll (nub (is.flatMap fun x => (handleSets x.1).flatMap fun hs => (regsAt x.1 hs).map RegAt.key)) fun k =>
        need (entryTurns (accessesTo is k)) 0x1025 [k]

end Sys2Proof.Machine
end

