-- ==== Sys2Proof/Machine/VerifyRun.lean ====
section
/-! DEFINITION. Checks 12 and 13 of the verifier (R223): the abstract execution of every step (R174) and rollback safety (R221, R224). -/

namespace Sys2Proof.Machine

/-! ### The abstract machine -/

/-- R224: one access of a descriptor to an entry. -/
structure Access where
  key : Nat
  reads : Bool
  writes : Bool
  tensors : List Nat
  /-- Where a report finds it (R223, R224): logical Station, variant, stream, Stream Position, Topmark and handle. -/
  at_ : List Nat
  deriving DecidableEq, Repr

/-- A stream of the abstract execution: position, open LOOPBACKs, issues per position, segments left of the descriptor in hand. -/
structure SimStream where
  pos : Nat
  cnt : Tbl Nat
  issues : Tbl Nat
  left : Option Nat
  ended : Bool
  deriving DecidableEq, Repr

/-- The abstract machine (R174). -/
structure Sim where
  sts : List SimStream
  flags : Tbl Nat
  /-- FIFO fill levels by logical Station × 4096 + handle. -/
  fifos : Tbl Nat
  /-- Turn counter and reader-completion count by entry. -/
  turns : Tbl (Nat × Nat)
  issued : Nat
  log : List Access
  deriving DecidableEq, Repr

/-- Values of parameter registers: variant × 2048 + engine × 64 + register. -/
abbrev Asg := Tbl Int

def regKey (d : DescAt) (r : Nat) : Nat := d.vi * 2048 + d.e * 64 + r

/-- The value that use u of W14 takes: the assignment's, else INIT. -/
def useVal (a : Asg) (d : DescAt) (u : Nat) : Int :=
  match (substUses d.w).lookup u with
  | some r => (tget? a (regKey d r)).getD (((paramIn d.v d.e r).map ParamDecl.init).getD 0)
  | none => 0

/-- The used levels of a descriptor under an assignment. -/
def levelsAt (a : Asg) (d : DescAt) : List Nat :=
  (levels d.w).zipIdx.map fun l => if bitAt (nth d.w 14) l.2 then setBits l.1 15 0 (useVal a d l.2).toNat else l.1

/-- Its handle indices. -/
def handlesAt (a : Asg) (d : DescAt) : List Nat :=
  (List.range 4).map fun k => if bitAt (nth d.w 14) (10 + k) then (useVal a d (10 + k)).toNat else nth (dHandles d.w) k

/-- R134, R283: segments of a descriptor: each pops and pushes at most one entry of each FIFO. -/
def segsAt (a : Asg) (d : DescAt) : Nat :=
  if dOp d.w = 0x41 && rvPerFlit (dW7 d.w) && nestCount (levelsAt a d) != 0 then rvFlits (dW7 d.w) else segments (dOp d.w) (dW7 d.w) (levelsAt a d)

/-- FIFOs that a segment pops, and the one it pushes. -/
def simPops (a : Asg) (d : DescAt) : List Nat :=
  let empty := (dOp d.w = 0x10 || dOp d.w = 0x11) && nestCount ((levelsAt a d).take (lanKlevels (dW7 d.w))) = 0
  if empty then [] else (popsOf d (handlesAt a d)).map fun k => d.v.lst * 4096 + nth (handlesAt a d) k
def simPush (a : Asg) (d : DescAt) : Option (Nat × Nat) :=
  if pushesOf d (handlesAt a d) then
    (opHandle d (handlesAt a d) 2).map fun h => (d.v.lst * 4096 + nth (handlesAt a d) 2, h.depth)
  else none

/-- R224: a chained MATMUL is no access to C; a FIFO has no scoreboard entry (assumption 25) and its own rule. -/
def accessOf (a : Asg) (d : DescAt) : List Access :=
  let hs := handlesAt a d
  let op := dOp d.w
  let ks := (opHandles d hs).filter fun e => e.2.space != 3 && !e.2.isStream && !((op = 0x10 || op = 0x11) && bitAt (dW7 d.w) 9 && e.1 = 2)
  (nub (ks.map fun e => entryKey d.v (nth hs e.1) e.2)).map fun key =>
    let mine := ks.filter fun e => entryKey d.v (nth hs e.1) e.2 = key
    ⟨key, mine.any fun e => !writesHandle op (dW7 d.w) e.1, mine.any fun e => writesHandle op (dW7 d.w) e.1,
      nub (mine.map fun e => relocOf d.v (nth hs e.1)), d.loc ++ (mine.map fun e => nth hs e.1).take 1⟩

/-- R151, R156: the WAITs are met; waits on host flags are taken as met. -/
def simWaits (im : Image) (m : Sim) (d : DescAt) : Bool :=
  let ws := (waitsOf d).filter fun x => !isHostFlag im x.1
  (nub (ws.map Prod.fst)).all fun k => decide ((ws.filter fun x => x.1 = k).foldl (fun a x => a + x.2) 0 ≤ nget m.flags k)

/-- R160: the turns have come. -/
def simTurns (m : Sim) (st : SimStream) (a : Asg) (d : DescAt) : Bool :=
  (regsAt d (handlesAt a d)).all fun r => !bitAt r.turn 31 || (tget (0, 0) m.turns r.key).1 = turnAt r.turn (nget st.issues d.pos)

/-- R152, R160: a descriptor completes: SIGNALs and turns. -/
def simDone (im : Image) (a : Asg) (d : DescAt) (m : Sim) : Sim :=
  let f := (signalsOf d).foldl (fun t x => if isHostFlag im x.1 then t else tput t x.1 (nget t x.1 + x.2)) m.flags
  let t := (regsAt d (handlesAt a d)).foldl (fun t r =>
    let c := tget (0, 0) t r.key
    if !bitAt r.turn 31 then t
    else if r.writer then tput t r.key (c.1 + 1, c.2)
    else if c.2 + 1 = bits r.turn 27 24 then tput t r.key (c.1 + 1, 0) else tput t r.key (c.1, c.2 + 1)) m.turns
  { m with flags := f, turns := t }

/-- R166: where the stream goes after a descriptor has completed. -/
def simAdvance (d : DescAt) (st : SimStream) : SimStream :=
  let w := d.w
  if isTerm (dOp w) then { st with left := none, ended := true }
  else if dOp w = 0x51 then
    let n := tget (bits (dW7 w) 30 15) st.cnt d.pos - 1
    if n = 0 then { st with left := none, pos := d.pos + 1, cnt := terase st.cnt d.pos }
    else { st with left := none, pos := d.pos - bits (dW7 w) 14 0, cnt := tput st.cnt d.pos n }
  else { st with left := none, pos := d.pos + 1 }

def putSim (i : Nat) (st : SimStream) (m : Sim) : Sim := { m with sts := m.sts.set i st }

/-- One move of a stream: an issue, or a segment and with the last one the completion; none when it waits. -/
def simMove (im : Image) (a : Asg) (l : LiveStream) (i : Nat) (m : Sim) : Option Sim :=
  match m.sts[i]? with
  | none => none
  | some st =>
    if st.ended then none
    else match l.ds[st.pos]? with
      | none => none
      | some d =>
        match st.left with
        | none =>
          if simWaits im m d && simTurns m st a d then
            let f := (waitsOf d).foldl (fun t x => if isHostFlag im x.1 then t else tput t x.1 (nget t x.1 - x.2)) m.flags
            let pure_ := (simPops a d).isEmpty && (simPush a d).isNone
            some (putSim i { st with left := some (if pure_ then 0 else segsAt a d) }
              { m with flags := f, issued := m.issued + 1, log := accessOf a d ++ m.log })
          else none
        | some 0 =>
          let st1 := { st with issues := tput st.issues d.pos (nget st.issues d.pos + 1) }
          some (putSim i (simAdvance d st1) (simDone im a d m))
        | some (n + 1) =>
          let room := match simPush a d with
            | some (k, depth) => decide (nget m.fifos k < depth)
            | none => true
          if (simPops a d).all (fun k => nget m.fifos k != 0) && room then
            let f := (simPops a d).foldl (fun t k => tput t k (nget t k - 1)) m.fifos
            let g := match simPush a d with
              | some (k, _) => tput f k (nget f k + 1)
              | none => f
            some (putSim i { st with left := some n } { m with fifos := g })
          else none

/-- One round over every stream; the answer says whether anything moved. -/
def simRound (im : Image) (a : Asg) : List LiveStream → Nat → Bool → Sim → Bool × Sim
  | [], _, moved, m => (moved, m)
  | l :: ls, i, moved, m =>
    match simMove im a l i m with
    | some m1 => simRound im a ls (i + 1) true m1
    | none => simRound im a ls (i + 1) moved m

/-- R174: the limit on issues. -/
def issueLimit : Nat := 4194304

/-- Rounds until every stream has ended, none can move, or the limit is passed. -/
def simGo (im : Image) (a : Asg) (ls : List LiveStream) : Nat → Sim → Sim
  | 0, m => m
  | n + 1, m =>
    if m.sts.all SimStream.ended || issueLimit < m.issued then m
    else
      let r := simRound im a ls 0 false m
      if r.1 then simGo im a ls n r.2 else r.2

/-- A step that begins at a configuration, with FIFO levels. -/
def simStart (im : Image) (ls : List LiveStream) (c : Config) (fifos : Tbl Nat) : Sim :=
  let keys := nub (ls.flatMap fun l => l.ds.flatMap fun d => (waitsOf d ++ signalsOf d).map Prod.fst)
  { sts := c.map fun p => ⟨p.getD 0, [], [], none, p.isNone⟩, flags := keys.foldl (fun t k => tput t k (flagInit im k)) []
    fifos := fifos, turns := [], issued := 0, log := [] }

/-- R174: the registers that decide how many entries a descriptor of the step pushes or pops, or which handle it names. -/
def freeRegs (is : List (DescAt × Nat)) : List (Nat × ParamDecl) :=
  (is.flatMap fun x =>
    let d := x.1
    let str := (handleSets d).any fun hs => (opHandles d hs).any fun e => e.2.isStream
    (substUses d.w).filterMap fun u =>
      if (u.1 < 6 && str) || 10 ≤ u.1 then (paramIn d.v d.e u.2).map fun p => (regKey d u.2, p) else none).foldl
    (fun acc x => if acc.any fun y => y.1 = x.1 then acc else acc ++ [x]) []

/-- The number of combinations of their values. -/
def asgCount (rs : List (Nat × ParamDecl)) : Nat := rs.foldl (fun a r => a * ((r.2.max - r.2.min).toNat + 1)) 1

/-- Every combination of their values. -/
def asgs : List (Nat × ParamDecl) → List Asg
  | [] => [[]]
  | r :: rs => (List.range ((r.2.max - r.2.min).toNat + 1)).flatMap fun (i : Nat) => (asgs rs).map fun (a : Asg) => tput a r.1 (r.2.min + (i : Int))

/-- What the runs of one step give: where its streams start, issues summed, FIFO levels left, and the access logs in order. -/
structure StepRuns where
  start : Config
  issued : Nat
  levels : List (Tbl Nat)
  logs : List (List Access)

/-- Levels with empty FIFOs left out. -/
def cleanLevels (t : Tbl Nat) : Tbl Nat := t.filter fun e => e.2 != 0

/-- R174: one step from one set of levels, for every combination of values. -/
def runStep (im : Image) (ls : List LiveStream) (c : Config) (fifos : Tbl Nat) : Except Rej StepRuns :=
  let rs := freeRegs (stepIssues ls c)
  if issueLimit < asgCount rs then .error ⟨0x1027, []⟩
  else (asgs rs).foldl (fun acc a => acc.bind fun r =>
    let m := simGo im a ls (2 ^ 40) (simStart im ls c fifos)
    if issueLimit < r.issued + m.issued then .error ⟨0x1027, []⟩
    else if m.sts.all SimStream.ended then .ok ⟨c, r.issued + m.issued, cleanLevels m.fifos :: r.levels, m.log.reverse :: r.logs⟩
    else .error ⟨0x1023, (m.sts.zip ls).flatMap fun x => if x.1.ended then [] else [x.2.v.lst, x.2.vi, x.2.e, x.1.pos]⟩) (.ok ⟨c, 0, [], []⟩)

/-- Every step from every set of levels that can reach it (R174); `f` is the further check of each step's runs. -/
def runSteps (im : Image) (nseg : Nat) (ls : List LiveStream) (f : StepRuns → Except Rej Unit) :
    Nat → List (Config × Tbl Nat) → List (Config × Tbl Nat) → List (Config × Nat) → Except Rej Unit
  | 0, _, _, _ => .ok ()
  | _, [], _, _ => .ok ()
  | n + 1, x :: xs, seen, total =>
    if seen.contains x then runSteps im nseg ls f n xs seen total
    else
      match runStep im ls x.1 x.2 with
      | .error e => .error e
      | .ok r =>
        let sum := (total.lookup x.1).getD 0 + r.issued
        if issueLimit < sum then .error ⟨0x1027, []⟩
        else
          match f r with
          | .error e => .error e
          | .ok _ =>
            let next := (nextConfigs nseg ls x.1).flatMap fun c => r.levels.map fun t => (c, t)
            runSteps im nseg ls f n (xs ++ next) (x :: seen) ((x.1, sum) :: total.filter fun t => t.1 != x.1)

/-- The abstract execution of a binding from launch. -/
def execute (im : Image) (b : List (Nat × Variant)) (f : StepRuns → Except Rej Unit) : Except Rej Unit :=
  let ls := liveStreams b
  runSteps im (nsegOf b) ls f (2 ^ 40) [(ls.map fun _ => some 0, [])] [] []

/-- Check 12. -/
def check12 (im : Image) : Except Rej Unit := needAll (bindings im) fun b => execute im b fun _ => .ok ()

/-! ### Rollback safety -/

/-- R224: an entry that the step consumes and overwrites. -/
def consumes (log : List Access) (k : Nat) : Bool :=
  let mine := log.filter fun a => a.key = k
  (mine.any Access.writes) && (mine.any (fun a => a.reads && a.writes) || (mine.takeWhile fun a => !a.writes).any Access.reads)

/-- R224: the first access of an entry that a step consumes and overwrites outside the checkpoint set. -/
def logSafe (im : Image) (log : List Access) : Option Access :=
  log.find? fun x => consumes log x.key && !((log.filter fun a => a.key = x.key).all fun a => a.tensors.all im.checkpoint.contains)

/-- R224: the first FIFO that holds entries at a step boundary with its RING tensor outside the checkpoint set. -/
def levelsSafe (im : Image) (b : List (Nat × Variant)) (t : Tbl Nat) : Option Nat :=
  (t.find? fun e => match b.find? fun x => x.2.lst = e.1 / 4096 with
    | some x => !im.checkpoint.contains (relocOf x.2 (e.1 % 4096))
    | none => true).map Prod.fst

/-- R224: a report names the step, by the Stream Positions at which it starts, and what stands there. -/
def stepLoc (c : Config) : List Nat := c.map fun p => p.getD 0xFFFFFFFF

/-- R221: the CHECKPOINT section. -/
def checkpointOk (im : Image) : Bool :=
  (im.checkpoint.all fun i => match tensorIn im i with
    | some t => t.cls = 1 || t.cls = 2
    | none => false) &&
  (nub im.checkpoint).length = im.checkpoint.length &&
  (List.range im.nstations).all fun n =>
    decide ((im.checkpoint.filterMap (tensorIn im)).foldl (fun a t => if t.lst = n then a + t.size else a) 0 ≤ 256)

/-- Check 13: a refusal names the descriptor and handle, or the FIFO's logical Station and handle, and then the step. -/
def check13 (im : Image) : Except Rej Unit := do
  needAll (bindings im) fun b => execute im b fun r => do
    needAll r.logs fun l => match logSafe im l with
      | none => .ok ()
      | some x => .error ⟨0x1021, x.at_ ++ stepLoc r.start⟩
    needAll r.levels fun t => match levelsSafe im b t with
      | none => .ok ()
      | some k => .error ⟨0x1021, [k / 4096, k % 4096] ++ stepLoc r.start⟩
  need (checkpointOk im) 0x1021 [0x0C]

end Sys2Proof.Machine
end

