-- ==== Sys2Proof/Machine/VerifyCost.lean ====
section
/-! DEFINITION. Check 14 of the verifier (R223): the cost envelope and step records (R217, R218), fork tables (R220), curve tables (R96)
and the weight manifest (R219); and the latency tables that R217 numbers (R72, R106, R115, R157, R202, R286). -/

namespace Sys2Proof.Machine

/-! ### Latency classes -/

/-- One row of a latency table: its constant on A1 and on B0, in clocks or, for a row in µs, in ns. -/
structure LatRow where
  a1 : Nat
  b0 : Nat
  ns : Bool
  deriving DecidableEq, Repr

/-- A row in clocks. -/
def clkRow (a b : Nat) : Option LatRow := some ⟨a, b, false⟩

/-- R217: the tables by code; none is a rate row. -/
def latTables : List (List (Option LatRow)) :=
  [[clkRow 3 3, clkRow 8 8, clkRow 7 6, clkRow 24 16, clkRow 6 4, clkRow 6 4, none, clkRow 10 8, clkRow 2 2, clkRow 18 18, some ⟨2000, 2000, true⟩],
   [clkRow 12 10, clkRow 8 8, clkRow 8 8, clkRow 4 4, clkRow 6 6, clkRow 3 3, clkRow 22 20, clkRow 9 7, clkRow 12 10, clkRow 8 6, clkRow 8 6,
    clkRow 16 16, clkRow 8 8, clkRow 10 8, clkRow 2 2, clkRow 18 18, some ⟨2000, 2000, true⟩],
   [clkRow 2 1, clkRow 8 8, clkRow 2 2],
   [clkRow 2 2, clkRow 2 2, clkRow 2 2, clkRow 2 2, clkRow 3 2, clkRow 3 2],
   [clkRow 3 3, clkRow 6 6, clkRow 52 48, none, clkRow 6 4, none, clkRow 14 14, clkRow 4 4, clkRow 2 2],
   [clkRow 3 3, clkRow 8 7, clkRow 6 4, none, clkRow 4 3, none, clkRow 4 3, clkRow 14 14, clkRow 2 2]]

/-- R217: the row of a class. -/
def latRow (c : Nat) : Option LatRow := ((latTables[c / 32]?).bind fun t => t[c % 32]?).bind id

/-- The stepping profile's value of a class: 1 is A1, 2 is B0. -/
def profileVal (stepping c : Nat) : Nat := ((latRow c).map fun r => if stepping = 2 then r.b0 else r.a1).getD 0

/-- R217: ENVELOPE entries. -/
def envelopeOk (b : List Byte) (im : Image) (r : List Byte) : Bool :=
  field r 1 1 = 0 && (latRow (field r 0 1)).isSome && (im.envelope.filter fun e => e.1 = field r 0 1).length = 1 && sectCount b 5 = im.envelope.length

/-- R218: e of a step, in ticks, for latencies and a clock in MHz. -/
def stepTicks (r : StepRec) (lat : Nat → Nat) (f : Nat) : Nat :=
  let isNs (c : Nat) : Bool := match latRow c with
    | some x => x.ns
    | none => false
  let clocks := (r.pairs.filter fun p => !isNs p.1).foldl (fun a p => a + p.2 * lat p.1) r.base
  let ns := (r.pairs.filter fun p => isNs p.1).foldl (fun a p => a + p.2 * lat p.1) 0
  r.fabric + ceilDiv (clocks * 1000) f + ns

/-- R218: one step record. -/
def stepRecOk (im : Image) (r : StepRec) : Bool :=
  decide (1 ≤ r.period) && (!im.replay || decide (r.period ≤ 20000)) && (r.pairs.all fun p => (im.envelope.lookup p.1).isSome) &&
    decide (stepTicks r (fun c => (im.envelope.lookup c).getD 0) im.fenv ≤ r.period)

/-! ### Forks and curves -/

/-- R220: one fork table entry, from its bytes. -/
def forkOk (im : Image) (raw : List Byte) : Bool :=
  let f := parseFork raw
  let nseg := (im.variants.head?.map Variant.nseg).getD 0
  let n := field raw 1 1
  decide (n ≤ 15) && field raw 4 4 = 0 && ((List.range 15).all fun i => if i < n then zeroBytes (slice raw (18 + 16 * i) 6)
    else zeroBytes (slice raw (8 + 16 * i) 16)) && (nub (f.keys.map Prod.fst)).length = f.keys.length &&
    decide (f.defseg < nseg) && (f.keys.all fun k => decide (k.2 < nseg)) && (im.forks.filter fun g => g.id = f.id).length = 1

/-- R220: the Stream Positions of a variant's segments. -/
def segsOk (v : Variant) : Bool :=
  v.segs.all fun g => (List.range 17).all fun e =>
    match v.streams[e]? with
    | some t =>
      if !t.present || t.pushed then nth g e = 0xFFFFFFFF
      else match nth g e with
        | 0 => false
        | p + 1 => match (streamIn v e)[p]? with
          | some bs => dOp (descWords bs) = 0x54 || dOp (descWords bs) = 0x55
          | none => false
    | none => true

/-- R220: every FORK_ID named has an entry. -/
def forksNamed (im : Image) (d : DescAt) : Bool := dOp d.w != 0x55 || im.forks.any fun f => f.id = bits (dW7 d.w) 7 0

/-- R96: the header of a curve table. -/
def curveOk (t : List Byte) : Bool :=
  bits (field t 0 4) 30 23 != 255 && decide (-20 ≤ fieldInt t 0xC 1) && decide (fieldInt t 0xC 1 ≤ 20) && bits (field t 0xD 1) 7 2 = 0 && field t 0xE 2 = 0

/-! ### The manifest -/

/-- R219: one level of the tree; an odd node is carried up. -/
def pairUp : List (List Byte) → List (List Byte)
  | x :: y :: r => sha3 (1 :: x ++ y) :: pairUp r
  | l => l

/-- R219: the root over leaves, with as many levels as `n` allows. -/
def rootOf : Nat → List (List Byte) → List (List Byte)
  | 0, l => l
  | n + 1, l => if l.length ≤ 1 then l else rootOf n (pairUp l)

/-- R219: the leaf of block i. -/
def leafOf (i : Nat) (bs : List Byte) : List Byte := sha3 (0 :: leBytes 8 i ++ bs)

/-- Ranges in order of their starts. -/
def insRange (x : Nat × Nat) : List (Nat × Nat) → List (Nat × Nat)
  | [] => [x]
  | y :: r => if x.1 ≤ y.1 then x :: y :: r else y :: insRange x r
def sortRanges (l : List (Nat × Nat)) : List (Nat × Nat) := l.foldl (fun a x => insRange x a) []

/-- Sorted ranges (offset, length), joined where one ends as the next begins. -/
def joinRanges : List (Nat × Nat) → List (Nat × Nat)
  | [] => []
  | x :: r => match joinRanges r with
    | [] => [x]
    | y :: q => if x.1 + x.2 = y.1 then (x.1, x.2 + y.2) :: q else x :: y :: q

/-- R219: the Mooring ranges of a Station's WEIGHT and MOORED tensors, in bytes. -/
def weightRanges (im : Image) (n : Nat) : List (Nat × Nat) :=
  (im.tensors.filter fun t => t.lst = n && (t.cls = 0 || t.cls = 5)).map fun t => (t.moff * 4096, t.size * 4096)

/-- R219. -/
def manifestOk (im : Image) (mf : List Byte) : Bool :=
  let blk (n : Nat) := (im.blocks.filter fun b => b.lst = n && b.len != 0).map fun b => (b.moff, b.len)
  decide (64 + 48 * field mf 32 4 ≤ mf.length) && zeroBytes (slice mf 37 27) && decide (16 ≤ im.blockLog2) && decide (im.blockLog2 ≤ 24) &&
    (im.blocks.zipIdx.all fun b => decide (b.1.lst < im.nstations) && decide (b.1.len ≤ 2 ^ im.blockLog2) &&
      zeroBytes (slice mf (64 + 48 * b.2 + 0x21) 3)) &&
    (im.blocks.isEmpty || rootOf 64 (im.blocks.map Block.leaf) = [im.root]) &&
    (List.range im.nstations).all fun n => allApart (blk n) && allApart (weightRanges im n) &&
      joinRanges (sortRanges (blk n)) = joinRanges (sortRanges (weightRanges im n))

/-- Check 14 of one section. -/
def sectCheck (b : List Byte) (im : Image) (ty : Nat) : Except Rej Unit :=
  if ty = 5 then needAll (recordsOf b 5 4) fun r => need (envelopeOk b im r) 0x1085 [5, field r 0 1]
  else if ty = 6 then do
    need (stepsReserved (sectCount b 6) (sectBytes b 6)) 0x1085 [6]
    needAll im.steps.zipIdx fun r => need (stepRecOk im r.1) 0x1085 [6, r.2]
  else if ty = 2 then needAll (variantsInOrder im) fun x => need (segsOk x.2) 0x1084 [x.2.lst, x.1]
  else if ty = 0x0A then needAll (recordsOf b 0x0A 248) fun r => need (forkOk im r) 0x1084 [field r 0 1]
  else if ty = 0x0B then needAll im.curves.zipIdx fun t => need (curveOk t.1) 0x1062 [t.2]
  else if ty = 9 then need (manifestOk im (sectBytes b 9)) 0x1083 []
  else .ok ()

/-- Check 14: the sections in their order in the image. -/
def check14 (b : List Byte) (im : Image) : Except Rej Unit := do
  needAll (sectsOf b) fun s => sectCheck b im s.ty
  needAll (allDescs im) fun d => need (forksNamed im d) 0x1084 d.loc

end Sys2Proof.Machine
end

