-- ==== Sys2Proof/Machine/VerifySched.lean ====
section
/-! DEFINITION. Check 15 of the verifier (R223, R294): the logical fabric schedule (R273 to R283, R290, R293) and its detour variants (R262). -/

namespace Sys2Proof.Machine

/-- What a logical rank runs in a Character: OWNER and Phrase, in order. -/
abbrev SchedView := Nat → Nat → List (Nat × Nat)

/-- R273: the schedule of an image. -/
structure Plan where
  b : List Byte
  det : List Byte
  shape : List Nat
  chips : Nat
  tf : Nat
  n : Nat
  h : Nat

def planOf (im : Image) (b : List Byte) : Plan :=
  ⟨b, im.detours, scShape b, im.chips, flashTicks (scRate b), latN (scRate b) (scChmax b), latH (scRate b) (scChmax b)⟩

/-- R275: the primary schedule. -/
def primaryView (p : Plan) : SchedView := fun r c => phraseList p.b (scListAt p.b c (scClassOf p.b r))

/-- R273: Characters. -/
def planChars (p : Plan) : List Nat := List.range (scNchar p.b)

/-! ### Rule 1: form -/

/-- R275: the OWNER of an entry. -/
def ownerOk (im : Image) (o : Nat) : Bool :=
  if bitAt o 15 then bits o 14 4 = 0 && decide (bits o 3 0 < im.nstations) else bits o 14 7 = 0 && decide (o < 96)

/-- R276, R277: a Phrase of a Character of CLEN Flashes. -/
def phraseOk (im : Image) (clen o p : Nat) : Bool :=
  decide (phStart p < clen) && phCount p != 0 && phStride p != 0 && phStag p != 0 &&
    (if phForwards p then decide (phLink p < 96) else bits p 62 60 = 0 && decide (phStation p < im.nstations)) &&
    (!bitAt o 15 || (phHop p = 0 && phForwards p)) &&
    (List.range (phCount p)).all fun i => decide (phOrigin p i < clen) && !isReserved (phOrigin p i)

/-- R275: a Phrase list at an offset of a section. -/
def listOk (im : Image) (sec : List Byte) (clen c off : Nat) : Bool :=
  decide (off + 8 ≤ sec.length) && field sec off 2 = c && field sec (off + 2) 2 = 0 && decide (off + 8 + 16 * field sec (off + 4) 4 ≤ sec.length) &&
    (List.range (field sec (off + 4) 4)).all fun i =>
      let o := field sec (off + 8 + 16 * i) 2
      field sec (off + 10 + 16 * i) 6 = 0 && ownerOk im o && phraseOk im clen o (field sec (off + 16 + 16 * i) 8)

/-- R273: the header and its tables. -/
def schedHeadOk (im : Image) (b : List Byte) : Bool :=
  let fits (o n : Nat) := decide (o + n ≤ b.length)
  let nseg := (im.variants.head?.map Variant.nseg).getD 0
  decide (scRate b ≤ 2) && decide (5 ≤ scChmax b) && decide (scChmax b ≤ 160) && field b 2 2 = 0 && field b 0x0C 4 = 0 && zeroBytes (slice b 0x30 16) &&
    ((scShape b).all fun n => decide (1 ≤ n) && decide (n ≤ 25)) && (scShape b).foldl (· * ·) 1 = im.chips && decide (1 ≤ scNchar b) &&
    decide (scNchar b ≤ 64) && decide (1 ≤ scNclass b) && fits (scStepmap b) (2 * im.nsteps) && fits (scSegstep b) (2 * nseg) &&
    fits (scClassmap b) (2 * im.chips) && fits (scChars b) (scNchar b * (8 + 16 * scNclass b)) &&
    ((List.range im.nsteps).all fun r => match scCharOf b r with
      | some c => decide (c < scNchar b)
      | none => true) &&
    ((List.range nseg).all fun g => decide (scSegRec b g < im.nsteps)) &&
    (List.range im.chips).all fun r => decide (scClassOf b r < scNclass b)

/-- R275: one Character record with its lists. -/
def charOk (im : Image) (b : List Byte) (c : Nat) : Bool :=
  decide (1 ≤ scClen b c) && decide (scClen b c ≤ 1048576) && field b (scCharAt b c + 4) 4 = 0 &&
    (List.range (scNclass b)).all fun k => field b (scCharAt b c + 16 + 16 * k) 8 = 0 && listOk im b (scClen b c) c (scListAt b c k)

/-- R272, R279: the flits of the Phrases of one rank fit in a period. -/
def fitsPeriod (p : Plan) (period : Nat) (l : List (Nat × Nat)) : Bool :=
  l.all fun e => (List.range (phCount e.2)).all fun i =>
    let t := phOrigin e.2 i * p.tf
    decide (t + phHop e.2 * p.h + p.tf ≤ period) &&
      (bitAt e.1 15 || (if phForwards e.2 then decide (t + (phHop e.2 + 1) * p.h + p.tf ≤ period)
        else decide (t + p.n + phHop e.2 * p.h ≤ period + 4)))

/-- R279: a step record with its Character under a view of the schedule. -/
def charFits (im : Image) (p : Plan) (v : SchedView) (rec_ : Nat) : Bool :=
  match scCharOf p.b rec_, im.steps[rec_]? with
  | some c, some r => decide (scClen p.b c * p.tf ≤ r.period) && (List.range p.chips).all fun k => fitsPeriod p r.period (v k c)
  | _, _ => true

/-! ### Step records that run -/

/-- R274: a step start with the step record that it runs. -/
abbrev RecConfig := Config × Nat

def nextRecs (sec : Option (List Byte)) (nseg : Nat) (ls : List LiveStream) (x : RecConfig) : List RecConfig :=
  let ns := nextConfigs nseg ls x.1
  if (forkIds (endings ls x.1)).isEmpty then ns.map fun c => (c, x.2 + 1)
  else match sec with
    | some b => ns.zipIdx.map fun c => (c.1, scSegRec b c.2)
    | none => []

/-- The steps that can be reached, with their records; a record at or beyond NSTEPS ends the search. -/
def recsFrom (im : Image) (nseg : Nat) (ls : List LiveStream) : Nat → List RecConfig → List RecConfig → List RecConfig
  | 0, _, seen => seen
  | _, [], seen => seen
  | n + 1, x :: xs, seen =>
    if seen.contains x then recsFrom im nseg ls n xs seen
    else recsFrom im nseg ls n (xs ++ (if x.2 < im.nsteps then nextRecs im.schedule nseg ls x else [])) (seen ++ [x])

def recConfigs (im : Image) (b : List (Nat × Variant)) : List RecConfig :=
  let ls := liveStreams b
  recsFrom im (nsegOf b) ls 4194304 [(ls.map fun _ => some 0, 0)] []

/-- R274: no path runs a record at or beyond NSTEPS. -/
def recsOk (im : Image) : Bool := (bindings im).all fun b => (recConfigs im b).all fun x => decide (x.2 < im.nsteps)

/-! ### Rule 2: occupancies -/

/-- Occupancies of an output link at one rank: start and origin Flash. -/
def occsOf (p : Plan) (l : List (Nat × Nat)) (ll : Nat) : List (Nat × Nat) :=
  (l.filter fun e => phForwards e.2 && phLink e.2 = ll).flatMap fun e => (List.range (phCount e.2)).map fun i =>
    let f := phOrigin e.2 i
    (f * p.tf + (if bitAt e.1 15 then 0 else (phHop e.2 + 1) * p.h), f)

/-- R267, R290: the reserved Flashes up to the last of some occupancies; their numbers go on beyond CLEN. -/
def reservedOccs (p : Plan) (os : List (Nat × Nat)) : List (Nat × Nat) :=
  ((List.range (os.foldl (fun a o => max a (o.1 / p.tf)) 0 + 2)).filter isReserved).map fun f => (f * p.tf, f)

/-- Occupancies in order of start: the Flash of the first that begins within T_F of the one before. -/
def firstOverlap (tf : Nat) : List (Nat × Nat) → Option Nat
  | x :: y :: r => if y.1 < x.1 + tf then some (y.1 / tf) else firstOverlap tf (y :: r)
  | _ => none

/-- R290: occupancies in order of start: the Flash of the first whose origin is before the origin of the one before. -/
def firstOutOfOrder (tf : Nat) : List (Nat × Nat) → Option Nat
  | x :: y :: r => if y.2 < x.2 then some (y.1 / tf) else firstOutOfOrder tf (y :: r)
  | _ => none

/-- R294 rule 2 on one link of one rank: the Flash of the first breach. -/
def linkConflict (im : Image) (p : Plan) (os : List (Nat × Nat)) : Option Nat :=
  if os.isEmpty then none
  else
    let sorted := sortRanges os
    let meets := (sorted.find? fun o => isReserved (o.1 / p.tf) || isReserved ((o.1 + p.tf - 1) / p.tf)).map fun o => o.1 / p.tf
    (firstOverlap p.tf sorted).or (meets.or
      (if im.stretchOk then firstOutOfOrder p.tf (sortRanges (os ++ reservedOccs p os)) else none))

/-! ### Rule 3: matching -/

/-- The rank and logical link that a logical link of a rank reaches. -/
def farEnd (shape : List Nat) (r ll : Nat) : Option (Nat × Nat) :=
  let k := ll / 24
  let c := coordsOf shape r
  let me := nth c k
  let q := if ll % 24 < me then ll % 24 else ll % 24 + 1
  if q < nth shape k then some (rankOf shape (c.set k q), 24 * k + (if me < q then me else me - 1)) else none

/-- Phrases that agree but for OWNER, HOP and ACTION. -/
def sameRun (a b : Nat) : Bool := phStart a = phStart b && phCount a = phCount b && phStride a = phStride b && phStag a = phStag b

/-- What a rank sends on its links: link, Phrase and the HOP at which the far end receives it. -/
def sentBy (l : List (Nat × Nat)) : List (Nat × Nat × Nat) :=
  (l.filter fun e => phForwards e.2).map fun e => (phLink e.2, e.2, if bitAt e.1 15 then 0 else phHop e.2 + 1)

/-- R294 rule 3 for one Phrase of a rank: what it sends meets one receive Phrase, and a receive Phrase has one source. -/
def phraseMet (p : Plan) (v : SchedView) (c r : Nat) (e : Nat × Nat) : Bool :=
  ((sentBy [e]).all fun x => decide (x.2.2 ≤ 3) && match farEnd p.shape r x.1 with
    | none => false
    | some (q, ll) => ((v q c).filter fun e => e.1 = ll && sameRun e.2 x.2.1 && phHop e.2 = x.2.2).length = 1) &&
  (bitAt e.1 15 || match farEnd p.shape r e.1 with
    | none => false
    | some (q, ll) => ((sentBy (v q c)).filter fun x => x.1 = ll && sameRun e.2 x.2.1 && x.2.2 = phHop e.2).length = 1)

/-- R275: a Phrase's index in its table: its position among the entries with the same OWNER. -/
def phraseIndex (l : List (Nat × Nat)) (i : Nat) : Nat := (l.take i).countP fun e => e.1 = (l.getD i (0, 0)).1

/-- R294 rule 3 at one rank; a breach names the Phrase: Character, rank, OWNER and index. -/
def matchCheck (p : Plan) (v : SchedView) (c r : Nat) : Except Rej Unit :=
  needAll (v r c).zipIdx fun e => need (phraseMet p v c r e.1) 0x3013 [c, r, e.1.1, phraseIndex (v r c) e.2]

/-! ### Rule 4: capacities -/

/-- Times an item stands in a list at most n times. -/
def atMost (n : Nat) (l : List Nat) : Bool := (nub l).all fun x => decide ((l.filter (· = x)).length ≤ n)

/-- R282: at most 8 departures and 8 deliveries of a Port engine in a Flash. -/
def portLoad (im : Image) (p : Plan) (v : SchedView) (c r : Nat) : Bool :=
  (List.range im.nstations).all fun st =>
    atMost 8 (((v r c).filter fun e => e.1 = 0x8000 + st).flatMap fun e => (List.range (phCount e.2)).map (phOrigin e.2)) &&
    atMost 8 (((v r c).filter fun e => !bitAt e.1 15 && !phForwards e.2 && phStation e.2 = st).flatMap fun e =>
      (List.range (phCount e.2)).map fun i => (phOrigin e.2 i * p.tf + p.n + phHop e.2 * p.h - 4) / p.tf)

/-- R262: the runs of Phrase lists of a detour record, until the closing header: Character and offset. -/
def runLists (sec : List Byte) : Nat → Nat → List (Nat × Nat)
  | 0, _ => []
  | n + 1, off => if field sec off 2 = 0xFFFF || sec.length < off + 8 then []
    else (field sec off 2, off) :: runLists sec n (off + 8 + 16 * field sec (off + 4) 4)

/-- R275: a run of at most n lists closes inside its section with a header whose CHAR is 0xFFFF. -/
def runEnds (sec : List Byte) : Nat → Nat → Bool
  | 0, off => decide (off + 8 ≤ sec.length) && field sec off 2 = 0xFFFF
  | n + 1, off => decide (off + 8 ≤ sec.length) &&
      (field sec off 2 = 0xFFFF || runEnds sec n (off + 8 + 16 * field sec (off + 4) 4))

/-- R278: Phrases of each table that one chip can hold for the image: its own lists and those of every detour that touches it. -/
def phraseTotal (p : Plan) (recs : List (List Byte)) (r o : Nat) : Nat :=
  let own := (planChars p).foldl (fun a c => a + ((primaryView p r c).filter fun e => e.1 = o).length) 0
  recs.foldl (fun a d =>
    let k := dtDim d
    let me := nth (coordsOf p.shape r) k
    if dtLine d != 0xFFFFFFFF && dtLine d != rankOf p.shape ((coordsOf p.shape r).set k 0) then a
    else
      let off := if me = dtA d then some (dtOffA d) else if me = dtM d then some (dtOffM d) else if me = dtB d then some (dtOffB d) else none
      match off with
      | some o1 => a + ((runLists p.det 65 o1).flatMap fun x => (phraseList p.det x.2).filter fun e => e.1 = o).length
      | none => a) own

def capacityOk (im : Image) (p : Plan) (recs : List (List Byte)) : Bool :=
  (List.range p.chips).all fun r => ((List.range 96) ++ (List.range im.nstations).map (0x8000 + ·)).all fun o =>
    decide (phraseTotal p recs r o ≤ 4096)

/-! ### Rule 5: transfers -/

/-- Where a flit that leaves on a link comes to: rank and logical Station, and the hops it has made. -/
def follow (p : Plan) (v : SchedView) (c : Nat) : Nat → Nat → Nat → Nat → Nat → Nat → Option (Nat × Nat × Nat)
  | 0, _, _, _, _, _ => none
  | n + 1, r, ll, origin, stag, hop =>
    match farEnd p.shape r ll with
    | none => none
    | some (q, l2) =>
      match (v q c).find? fun e => e.1 = l2 && phHop e.2 = hop && phStag e.2 = stag && (phFlit e.2 origin).isSome with
      | none => none
      | some e => if phForwards e.2 then follow p v c n q (phLink e.2) origin stag (hop + 1) else some (q, phStation e.2, hop)

/-- A SEND's transfer: where all its flits go, with the tag, the flits and the handle C that describes it. -/
structure TransferAt where
  rank : Nat
  st : Nat
  stag : Nat
  flits : Nat
  c : Option Handle

/-- R280: the flit slots of a SEND at a rank. -/
def slotsAt (v : SchedView) (c r : Nat) (d : DescAt) : List (Nat × Nat) :=
  let t := ((v r c).filter fun e => e.1 = 0x8000 + d.v.lst).map Prod.snd
  ((t.drop (bits (dW7 d.w) 11 0)).take (bits (dW7 d.w) 19 12)).flatMap fun p => (List.range (phCount p)).map fun i => (phOrigin p i, p)

/-- R280: a SEND by itself. -/
def sendOk (v : SchedView) (c r : Nat) (d : DescAt) : Bool :=
  let w7 := dW7 d.w
  let hs := dHandles d.w
  let t := (v r c).filter fun e => e.1 = 0x8000 + d.v.lst
  let flits := match opHandle d hs 0 with
    | some h => ceilDiv (nestCount (levels d.w) * elemBits h.fmt) 2048
    | none => 0
  bits w7 31 20 = 0 && bits w7 19 12 != 0 && decide (bits w7 11 0 + bits w7 19 12 ≤ t.length) && (nth d.w 14 = 0 || nth d.w 14 = 0x40) &&
    flits = (slotsAt v c r d).length

/-- R280, R294: where the transfer of a SEND goes; none when its flits part or are lost. -/
def transferOf (p : Plan) (v : SchedView) (c r : Nat) (d : DescAt) : Option TransferAt :=
  let ends := (slotsAt v c r d).map fun x => (follow p v c 4 r (phLink x.2) x.1 (phStag x.2) 0).map fun y => (y.1, y.2.1, phStag x.2)
  match ends with
  | some e :: r1 => if r1.all (· = some e) then some ⟨e.1, e.2.1, e.2.2, ends.length, opHandle d (dHandles d.w) 2⟩ else none
  | _ => none

/-- R281, R283: a RECV by itself. -/
def recvOk (d : DescAt) : Bool :=
  let w7 := dW7 d.w
  bits w7 31 29 = 0 && rvFlits w7 != 0 && (!rvPerFlit w7 || (handleSets d).all fun hs => match opHandle d hs 2 with
    | some h => h.isStream && h.ndim = 1 && h.fmt = 8 && h.extent 0 = 256 && (levels d.w).all fun l => lvlDim 2 l = 15
    | none => false)

/-- R281: a remote receive handle describes the RECV's C. -/
def sameShape (a b : Option Handle) : Bool :=
  match a, b with
  | some x, some y => x.fmt = y.fmt && x.ndim = y.ndim && x.bound = y.bound
  | _, _ => false

def isPortOp (d : DescAt) : Bool := dOp d.w = 0x40 || dOp d.w = 0x41

/-- The tag and the logical Station that a refusal of rule 5 names for a SEND or RECV at a rank. -/
def tagAt (v : SchedView) (c r : Nat) (d : DescAt) : List Nat :=
  [if dOp d.w = 0x41 then rvStag (dW7 d.w) else ((slotsAt v c r d).head?.map fun x => phStag x.2).getD 0, d.v.lst]

/-- R294 rule 5: a delivered transfer is the only one of its tag at its Station, and one RECV takes it: the flits are equal, and so is the
shape of every handle C that the RECV can have (R281). -/
def takenOk (got : List TransferAt) (recvs : List DescAt) (t : TransferAt) : Bool :=
  ((got.filter fun u => u.rank = t.rank && u.st = t.st && u.stag = t.stag).length = 1) &&
    match recvs.filter fun d => d.v.lst = t.st && rvStag (dW7 d.w) = t.stag with
    | [d] => rvFlits (dW7 d.w) = t.flits && (handleSets d).all fun hs => sameShape t.c (opHandle d hs 2)
    | _ => false

/-- R294 rule 5 for one step of a binding: `is` are its descriptors with the times each issues. A breach names the tag and the Station. -/
def transfersCheck (p : Plan) (v : SchedView) (c : Nat) (is : List (DescAt × Nat)) : Except Rej Unit := do
  let sends := (is.filter fun x => dOp x.1.w = 0x40).map Prod.fst
  let recvs := (is.filter fun x => dOp x.1.w = 0x41).map Prod.fst
  let ranks := List.range p.chips
  let got := ranks.flatMap fun r => sends.filterMap (transferOf p v c r)
  needAll is fun x => need (!isPortOp x.1 || x.2 = 1) 0x3015 (tagAt v c 0 x.1)
  needAll recvs fun d => need (recvOk d) 0x3015 (tagAt v c 0 d)
  needAll ranks fun r => needAll sends fun d => need (sendOk v c r d && (transferOf p v c r d).isSome) 0x3015 (tagAt v c r d)
  needAll got fun t => need (takenOk got recvs t) 0x3015 [t.stag, t.st]
  needAll ranks fun r => do
    needAll recvs fun d => need (got.any fun t => t.rank = r && t.st = d.v.lst && t.stag = rvStag (dW7 d.w)) 0x3015 (tagAt v c r d)
    -- every departure belongs to one SEND
    needAll (v r c) fun e => need (!bitAt e.1 15 || (List.range (phCount e.2)).all fun i =>
      ((sends.filter fun d => 0x8000 + d.v.lst = e.1).flatMap (slotsAt v c r)).countP (· = (phOrigin e.2 i, e.2)) = 1)
      0x3015 [phStag e.2, bits e.1 3 0]

/-! ### Rule 6 -/

/-- R293: FORK_LEAD at F = 1. -/
def forkLead (p : Plan) : Nat := 4 * (32 * p.tf + p.n) + 100

/-! ### Detour variants -/

/-- R262: the key of a record: LDIM, A, B and LINE. -/
def dtKey (d : List Byte) : List Nat := [dtDim d, dtA d, dtB d, dtLine d]

/-- R262: a record by itself. -/
def detourOk (im : Image) (p : Plan) (recs : List (List Byte)) (d : List Byte) : Bool :=
  let n := nth p.shape (dtDim d)
  let offs := [dtOffA d, dtOffM d, dtOffB d]
  decide (dtDim d < 4) && decide (3 ≤ n) && decide (dtA d < dtB d) && decide (dtB d < n) && dtM d = detourMid (dtA d) (dtB d) n &&
    (dtLine d = 0xFFFFFFFF || (decide (dtLine d < p.chips) && nth (coordsOf p.shape (dtLine d)) (dtDim d) = 0)) &&
    (recs.filter fun r => dtKey r = dtKey d).length = 1 &&
    offs.all fun o =>
      let l := runLists p.det 65 o
      runEnds p.det 64 o && l.all fun x => decide (x.1 < scNchar p.b) && listOk im p.det (scClen p.b x.1) x.1 x.2

/-- The ranks of a line that a detour changes, with the offsets of their lists. -/
def detourRanks (p : Plan) (d : List Byte) (line : Nat) : List (Nat × Nat) :=
  let at_ (i : Nat) := rankOf p.shape ((coordsOf p.shape line).set (dtDim d) i)
  [(at_ (dtA d), dtOffA d), (at_ (dtM d), dtOffM d), (at_ (dtB d), dtOffB d)]

/-- R262: the schedule with one detour of one line. -/
def detourView (p : Plan) (d : List Byte) (line : Nat) : SchedView := fun r c =>
  match (detourRanks p d line).lookup r with
  | some off => (listInRun p.det c 65 off).getD (primaryView p r c)
  | none => primaryView p r c

/-- The lines that a record names. -/
def linesOf (p : Plan) (d : List Byte) : List Nat :=
  if dtLine d = 0xFFFFFFFF then (List.range p.chips).filter fun r => nth (coordsOf p.shape r) (dtDim d) = 0 else [dtLine d]

/-- The primary schedule and every detour variant, each variant with the key of its record. -/
def viewsOf (p : Plan) (recs : List (List Byte)) : List (List Nat × SchedView) :=
  ([], primaryView p) :: recs.flatMap fun d => (linesOf p d).map fun l => (dtKey d, detourView p d l)

/-- R262: the keys, with their line, of the links that the primary schedule uses in a dimension of three members or more. -/
def usedKeys (p : Plan) : List (List Nat) :=
  (List.range p.chips).flatMap fun r => (planChars p).flatMap fun c => ((primaryView p r c).filter fun e => phForwards e.2).filterMap fun e =>
    let k := phLink e.2 / 24
    let j := phLink e.2 % 24
    let me := nth (coordsOf p.shape r) k
    let q := if j < me then j else j + 1
    if nth p.shape k < 3 then none else some [k, min me q, max me q, rankOf p.shape ((coordsOf p.shape r).set k 0)]

/-- R262: a record covers a link of a line: it names the link, and that line or every line. -/
def coversKey (x : List Nat) (d : List Byte) : Bool := dtKey d = x || dtKey d = x.take 3 ++ [0xFFFFFFFF]

/-- R262: with REPLAY, every link used in a dimension of three members or more is covered; a breach names the key. -/
def coversAll (im : Image) (p : Plan) (recs : List (List Byte)) : Except Rej Unit :=
  if im.replay then needAll (usedKeys p) fun x => need (recs.any (coversKey x)) 0x3006 x else .ok ()

/-- Arrival ticks of the flits of a transfer (R272). -/
def lastArrival (p : Plan) (v : SchedView) (c r : Nat) (d : DescAt) : Nat :=
  (slotsAt v c r d).foldl (fun a x => match follow p v c 4 r (phLink x.2) x.1 (phStag x.2) 0 with
    | some y => max a (x.1 * p.tf + p.n + y.2.2 * p.h)
    | none => a) 0

/-- R262: a variant delivers every transfer by the primary's arrival. -/
def arrivesBy (p : Plan) (v : SchedView) (c : Nat) (is : List (DescAt × Nat)) : Bool :=
  (List.range p.chips).all fun r => (is.filter fun x => dOp x.1.w = 0x40).all fun x =>
    decide (lastArrival p v c r x.1 ≤ lastArrival p (primaryView p) c r x.1)

/-! ### Check 15 -/

/-- The steps of every binding: step record and descriptors, and whether the step ends in a FORK. -/
def scheduledSteps (im : Image) : List (Nat × List (DescAt × Nat) × Bool) :=
  (bindings im).flatMap fun b => (recConfigs im b).map fun x =>
    (x.2, stepIssues (liveStreams b) x.1, !(forkIds (endings (liveStreams b) x.1)).isEmpty)

/-- R294 for an image with a schedule. -/
def schedCheck (im : Image) (b : List Byte) : Except Rej Unit := do
  let p := planOf im b
  let recs := (List.range im.ndetours).map fun i => slice im.detours (32 * i) 32
  need (schedHeadOk im b) 0x3011 []
  needAll (planChars p) fun c => need (charOk im b c) 0x3011 [c]
  need (recsOk im) 0x3011 []
  needAll recs fun d => need (detourOk im p recs d) 0x3006 (dtKey d)
  coversAll im p recs
  let keyed := viewsOf p recs
  let views := keyed.map Prod.snd
  let ranks := List.range p.chips
  let steps := scheduledSteps im
  needAll views fun v => needAll (List.range im.nsteps) fun r => need (charFits im p v r) 0x3011 [r]
  needAll views fun v => needAll (planChars p) fun c => needAll ranks fun r => needAll (List.range 96) fun ll =>
    match linkConflict im p (occsOf p (v r c) ll) with
    | some f => .error ⟨0x3012, [c, r, ll, f]⟩
    | none => .ok ()
  needAll views fun v => needAll (planChars p) fun c => needAll ranks fun r => matchCheck p v c r
  need (capacityOk im p recs) 0x3014 []
  needAll views fun v => needAll (planChars p) fun c => needAll ranks fun r => need (portLoad im p v c r) 0x3014 [c, r]
  needAll views fun v => needAll steps fun t =>
    match scCharOf b t.1 with
    | some c => transfersCheck p v c t.2.1
    | none => needAll t.2.1 fun x => need (!isPortOp x.1) 0x3015 (tagAt v 0 0 x.1)
  needAll steps fun t => need (!t.2.2 || decide (forkLead p ≤ ((im.steps[t.1]?).map StepRec.period).getD 0)) 0x3016 [t.1]
  needAll keyed fun v => needAll steps fun t =>
    match scCharOf b t.1 with
    | some c => need (arrivesBy p v.2 c t.2.1) 0x3006 v.1
    | none => .ok ()

/-- Check 15. With no SCHEDULE section only R274's bound on the step records remains. -/
def check15 (im : Image) : Except Rej Unit :=
  match im.schedule with
  | some b => schedCheck im b
  | none => need (recsOk im) 0x3011 []

/-- Checks 1 to 15 of R223, in order. -/
def verify (keys : List OwnerKey) (policy : Nat) (b : List Byte) : Except Rej Image := do
  let im := parseImage b
  check1 b im
  check2 b
  check3 keys policy b
  check4 b im
  check5All im
  check6 im
  check7 im
  check8 im
  check9 im
  check10 im
  check11 im
  check12 im
  check13 im
  check14 b im
  check15 im
  pure im

end Sys2Proof.Machine
end

