-- ==== Sys2Proof/Machine/Place.lean ====
section
/-! DEFINITION. Acceptance against the stepping profile (R225, R226, R354, R361) and placement (R228 to R239): checks 16 to 18 of
R223, the placement of a bank, and what it binds. -/

namespace Sys2Proof.Machine

/-! ### Acceptance -/

/-- R460: the Station clock of the operating point, in MHz. -/
def fRun (s : State) : Nat := [940, 850, 750, 600].getD (bits (regGet s (pageBase pgPwr + 0x10)) 2 0) 940

/-- R225: the image's assumptions hold on this module with no stretch. -/
def fitsProfile (s : State) (im : Image) : Bool :=
  (im.envelope.all fun e => decide (profileVal s.kpr.stepping e.1 ≤ e.2)) && decide (im.fenv ≤ fRun s)

/-- R226: F_q of a stretched image, before its limits. -/
def stretchOf (s : State) (im : Image) : Nat :=
  im.steps.foldl (fun a r => max a (ceilDiv (1024 * stepTicks r (profileVal s.kpr.stepping) (fRun s)) r.period)) 1024

/-- R226: a stretched period in ticks. -/
def stretched (fq : Nat) (r : StepRec) : Nat := ceilDiv (r.period * fq) 1024

/-- R270, R354: RATE and CHMAX of an image; with no SCHEDULE section 224 Gb/s and 5 ticks. -/
def imgRate (im : Image) : Nat := (im.schedule.map scRate).getD 0
def imgChmax (im : Image) : Nat := (im.schedule.map scChmax).getD 5

/-- R352: HB of an image in 1/1,024 tick. -/
def imgHb (im : Image) (fq : Nat) : Nat := 4 * (32 * flashTicks (imgRate im) * fq + 1024 * latN (imgRate im) (imgChmax im))

/-- R358: ceil(replay_lead) of an image. -/
def imgLead (im : Image) (fq : Nat) : Nat :=
  ceilDiv (4 * (100 * flashTicks (imgRate im) * fq + 1024 * latN (imgRate im) (imgChmax im)) + 6000 * 1024) 1024

/-- R361: the largest bound over a bank's steps, rounded up to whole ticks. -/
def imgBound (im : Image) (fq : Nat) : Nat :=
  ceilDiv (imgHb im fq) 1024 + imgLead im fq + im.steps.foldl (fun a r => max a (stretched fq r)) 0

/-- Check 17 of R223: R225, R226, then R354. The answer is F_q. -/
def accept (s : State) (im : Image) : Except Rej Nat := do
  let fq := if fitsProfile s im then 1024 else stretchOf s im
  need (fitsProfile s im || im.stretchOk) 0x1030 []
  need (decide (fq = 1024) || decide (fq ≤ im.stretchMax)) 0x1030 []
  need (decide (fq = 1024) || !im.replay || im.steps.all fun r => decide (stretched fq r ≤ 20000)) 0x1030 []
  needAll im.steps.zipIdx fun r =>
    need (!im.replay || decide (imgHb im fq + 1000 * 1024 ≤ 1024 * stretched fq r.1)) 0x1085 [6, r.2]
  pure fq

/-! ### Binding -/

/-- R229: the Stations that are not dark as a whole, ascending. -/
def aliveStns (s : State) : List Nat := (List.range 16).filter fun n => !stnDark s n

/-- R230: the chip's enabled totals. -/
def totalLans (s : State) : Nat := (aliveStns s).foldl (fun a n => a + (lanEnabled s n).length) 0
def totalWicks (s : State) : Nat := (aliveStns s).foldl (fun a n => a + (wickEnabled s n).length) 0

/-- R230: one variant is the better choice. -/
def betterVariant (x y : Nat × Variant) : Bool :=
  decide (y.2.lanterns < x.2.lanterns) || (x.2.lanterns = y.2.lanterns && decide (y.2.wicks < x.2.wicks))

/-- R230: the variant chosen for a logical Station bound to physical Station n. -/
def chooseVariant (s : State) (im : Image) (lst n : Nat) : Option (Nat × Variant) :=
  ((im.variants.zipIdx.map fun e => (e.2, e.1)).filter fun e =>
    e.2.lst = lst && decide (e.2.lanterns ≤ (lanEnabled s n).length) && decide (e.2.wicks ≤ (wickEnabled s n).length)).foldl
      (fun a e => match a with
        | none => some e
        | some b => if betterVariant e b then some e else some b) none

/-- Check 16 of R223: R229 and R230. The answer is the physical Station and variant of each logical Station. -/
def bindStations (s : State) (im : Image) : Except Rej (List (Nat × Nat × Variant)) := do
  let stns := aliveStns s
  need (decide (im.nstations ≤ stns.length)) 0x1040 []
  need (decide (im.lantMin ≤ totalLans s) && decide (totalLans s ≤ im.lantMax)) 0x1041 []
  need (decide (im.wickMin ≤ totalWicks s) && decide (totalWicks s ≤ im.wickMax)) 0x1041 []
  let cs := (List.range im.nstations).filterMap fun i => (chooseVariant s im i (nth stns i)).map fun v => (nth stns i, v)
  need (cs.length = im.nstations) 0x1041 []
  pure cs

/-! ### Memory layout -/

/-- R232: one tensor comes before another. -/
def layBefore (x y : Tensor) : Bool :=
  decide (y.align < x.align) ||
    (x.align = y.align && (decide (y.size < x.size) || (x.size = y.size && decide (x.id < y.id))))

def insTensor (x : Tensor) : List Tensor → List Tensor
  | [] => [x]
  | y :: r => if layBefore x y then x :: y :: r else y :: insTensor x r

/-- R232: tensors in placement order. -/
def layOrder (ts : List Tensor) : List Tensor := ts.foldl (fun a t => insTensor t a) []

/-- The lowest offset, a multiple of `al`, at which `size` fits below `limit` beside the ranges taken. -/
def lowestFit (taken : List (Nat × Nat)) (limit size al : Nat) : Option Nat :=
  let fits := ((0 :: taken.map fun t => roundUp (t.1 + t.2) al).filter fun o =>
    decide (o + size ≤ limit) && taken.all fun t => decide (t.1 + t.2 ≤ o) || decide (o + size ≤ t.1))
  fits.foldl (fun a o => match a with
    | none => some o
    | some b => some (min b o)) none

/-- R232: placements so far as (TENSOR_ID, COPY, tile offset, tiles); none when a tensor did not fit. -/
abbrev Lay := Option (List (Nat × Nat × Nat × Nat))

/-- R232: one tensor or second copy takes its place. -/
def layOne (limit : Nat) (t : Tensor) (copy : Nat) (acc : Lay) : Lay :=
  acc.bind fun ps => (lowestFit (ps.map fun p => p.2.2) limit t.size (2 ^ t.align)).map fun o => ps ++ [(t.id, copy, o, t.size)]

/-- R232: the tensors of a Station in order, the second copy of a checkpoint tensor after its primary. -/
def layAll (ck : List Nat) (limit : Nat) (ts : List Tensor) : Lay :=
  (layOrder ts).foldl (fun a t =>
    let a1 := layOne limit t 0 a
    if ck.contains t.id then layOne limit t 1 a1 else a1) (some [])

/-- R213: tensors that stand in SRAM. -/
def inSram (t : Tensor) : Bool := t.cls != 4 && t.cls != 5

/-- R232: tiles of the placer area of a variant. -/
def placerTiles (v : Variant) : Nat := ceilDiv (16 * v.ndesc + 68 * v.nseg) 4096

/-- R193: bytes of each Station's DRAM outside the Keeper's reserved region. -/
def moorSpace : Nat := 0x1FC000000

/-- R193: the extents in use of Moorings and of the job areas of the other banks. -/
def extentsTaken (s : State) (except : Option Nat) : List (Nat × Nat) :=
  (s.moorings.filterMap fun e => if e.2.st = .empty then none else some (e.2.off, e.2.len)) ++
    s.banks.filterMap fun e =>
      if some e.1 = except || e.2.st = .free then none
      else e.2.placement.bind fun p => if p.jobAreaLen = 0 then none else some (p.jobArea, p.jobAreaLen)

/-- R193: the lowest extent of a length that is free in every Station (DESIGN CHOICE, assumption 19). -/
def allocExtent (s : State) (except : Option Nat) (len : Nat) : Option Nat :=
  if len = 0 then some 0 else lowestFit (extentsTaken s except) moorSpace len 0x10000

/-- R232, R233: the layouts of one bound Station, SRAM then DRAM. -/
structure StnLay where
  lst : Nat
  phys : Nat
  vi : Nat
  v : Variant
  sramLay : List (Nat × Nat × Nat × Nat)
  dramLay : List (Nat × Nat × Nat × Nat)

/-- R232, R233: lay out one Station. -/
def layStation (im : Image) (lst : Nat) (c : Nat × Nat × Variant) : Except Rej StnLay :=
  let ts := im.tensors.filter fun t => t.lst = lst
  let v := c.2.2
  if 16384 < placerTiles v then .error ⟨0x1040, [lst]⟩
  else match layAll im.checkpoint (16384 - placerTiles v) (ts.filter inSram), layAll im.checkpoint (moorSpace / 4096) (ts.filter fun t => t.cls = 4) with
    | some a, some d => .ok ⟨lst, c.1, c.2.1, v, a, d⟩
    | _, _ => .error ⟨0x1040, [lst]⟩

/-- R233: bytes that a Station's DRAMBUF tensors reach. -/
def dramNeed (l : StnLay) : Nat := l.dramLay.foldl (fun a p => max a ((p.2.2.1 + p.2.2.2) * 4096)) 0

/-- R232 to R235: what placement binds for one Station. -/
def placedStn (s : State) (job : Nat) (l : StnLay) : PlacedSt :=
  { phys := l.phys, variant := l.vi, lanterns := l.v.lanterns, wicks := l.v.wicks
    lantMap := (lanEnabled s l.phys).take l.v.lanterns, wickMap := (wickEnabled s l.phys).take l.v.wicks
    tensors := (l.sramLay.map fun p => ⟨p.1, p.2.1, 0, l.phys * 0x4000000 + p.2.2.1 * 4096, p.2.2.2⟩) ++
      l.dramLay.map fun p => ⟨p.1, p.2.1, 1, l.phys * 0x200000000 + job + p.2.2.1 * 4096, p.2.2.2⟩ }

/-! ### Capacity over the banks -/

/-- Banks other than b that hold an image in a physical Station, with the variant bound there. -/
def otherVariants (s : State) (b n : Nat) : List Variant :=
  (s.banks.filter fun e => e.1 != b && e.2.st != .free).filterMap fun e => (boundOf s e.1 n).map Prod.snd

/-- R239: descriptors of the chosen variants of every resident bank. -/
def descsFit (s : State) (b : Nat) (ls : List StnLay) : Bool :=
  ls.all fun l => decide ((otherVariants s b l.phys).foldl (fun a v => a + v.ndesc) l.v.ndesc ≤ 32768)

/-- R278: Phrases of an image at this chip under one owner. -/
def ownPhrases (s : State) (im : Image) (o : Nat) : Nat :=
  match im.schedule with
  | some b => phraseTotal (planOf im b) ((List.range im.ndetours).map fun i => slice im.detours (32 * i) 32) s.fab.part.rank o
  | none => 0

/-- R278: the Phrase tables hold every resident bank's. -/
def phrasesFit (s : State) (b : Nat) (im : Image) : Bool :=
  let others := (s.banks.filter fun e => e.1 != b && e.2.placement.isSome && e.2.st != .free).filterMap fun e => e.2.img
  im.schedule.isNone || ((List.range 96) ++ (List.range 16).map (0x8000 + ·)).all fun o =>
    decide ((im :: others).foldl (fun a i => a + ownPhrases s i o) 0 ≤ 4096)

/-- R258: the image is built for a partition of this size and shape. -/
def partitionFits (s : State) (im : Image) : Bool :=
  im.chips = s.fab.part.chips && match im.schedule with
    | some b => scShape b = s.fab.part.shape
    | none => true

/-- R235: the placement of laid-out Stations with their job area. -/
def placementOf (s : State) (ls : List StnLay) (off len : Nat) : Placement :=
  { stations := ls.map (placedStn s off), jobArea := off, jobAreaLen := len, moorBase := 0, fwSet := s.kpr.boot.fwSet
    stepping := s.kpr.stepping, darkHash := sha3 (darkBytes s), sectorHash := sha3 s.fab.part.sector }

/-- R228 to R239: checks 16 and 18 of R223, and the placement. -/
def place (s : State) (b : Nat) (im : Image) (cs : List (Nat × Nat × Variant)) : Except Rej Placement := do
  need (partitionFits s im) 0x3007 []
  let ls ← cs.zipIdx.mapM fun c => layStation im c.2 c.1
  let len := roundUp (ls.foldl (fun a l => max a (dramNeed l)) 0) 0x10000
  need (allocExtent s (some b) len).isSome 0x1040 []
  need (descsFit s b ls) 0x1043 []
  need (phrasesFit s b im) 0x3014 []
  pure (placementOf s ls ((allocExtent s (some b) len).getD 0) len)

/-! ### Units -/

/-- R73, R230, R231: role and logical number of a unit of a bound Station, by the map of its kind. In the states in which a spare is
powered (`on`, with the Watch), one that was power-gated powers up, with no test passed. -/
def bindUnit (on : Bool) (watch : Nat) (map : List Nat) (p : Nat) (u : UnitSt) : UnitSt :=
  if u.role = .dark then u
  else match map.findIdx? (· = p) with
    | some i => { u with role := .enabled, logical := some i, katRunning := false }
    | none =>
      let v := { u with role := if u.role = .test then .test else .spare, logical := none }
      if on && u.gate = .powerGated then { v with gate := .clockGated, katPassed := false, katAt := watch }
      else if on then { v with gate := .clockGated } else v

/-- R230, R231: the units of one bound Station. -/
def bindStation (r : PlacedSt) (s : State) : State :=
  let s1 := (List.range 5).foldl (fun t p => putLan r.phys p { lanOf t r.phys p with unit := bindUnit (sparePowered t) t.watch r.lantMap p (lanOf t r.phys p).unit } t) s
  (List.range 9).foldl (fun t p => putWick r.phys p { wickOf t r.phys p with unit := bindUnit (sparePowered t) t.watch r.wickMap p (wickOf t r.phys p).unit } t) s1

/-- R79, R110: ENABLE of the units that a placement binds in one Station. -/
def enableStation (r : PlacedSt) (s : State) : State :=
  r.wickMap.foldl (fun t p => enableUnit (pgWck r.phys p) t) (r.lantMap.foldl (fun t p => enableUnit (pgLnt r.phys p) t) s)

/-- R230, R231: a bank's placement binds the units. -/
def bindUnits (b : Nat) (s : State) : State :=
  match (bankOf s b).placement with
  | some p => p.stations.foldl (fun t r => enableStation r (bindStation r t)) s
  | none => s

end Sys2Proof.Machine
end

