-- ==== Sys2Proof/Machine/Load.lean ====
section
/-! DEFINITION. Loading a bank (R207 to R209), releasing it, TENSOR_ADDR (R410), and Moorings (R193, R194): the Tally areas and check
vectors that the Keeper computes (R63, R64, R190). -/

namespace Sys2Proof.Machine

/-! ### What jobs name -/

/-- Job records that are queued or active. -/
def liveRecords (s : State) : List (List Byte) :=
  s.jobs.waiting.map Job.record ++ (match s.jobs.active with
    | some a => [a.job.record]
    | none => [])

/-- R381: bank of a job that has ended and whose completion is still due, from its Ledger record. -/
def endedBanks (s : State) : List Nat :=
  s.jobs.ended.map (fun e => (rd s.dram (slotAddr e.slot + 0x40 + 0x1C)).toNat) ++ s.jobs.deferred.map fun e => field e.2 0x1C 1

/-- R410: a queued or active job names the bank. -/
def bankNamed (s : State) (b : Nat) : Bool := (liveRecords s).any fun r => jBank r = b

/-- R410: a queued or active job names the Mooring. -/
def moorNamed (s : State) (m : Nat) : Bool := (liveRecords s).any fun r => jMooring r = m

/-! ### Loads -/

/-- R181: bytes of image copies in the Keeper's DRAM, the bank itself apart. -/
def copiesElse (s : State) (b : Nat) : Nat := (s.banks.filter fun e => e.1 != b).foldl (fun a e => a + e.2.bytes.length) 0

/-- R238: what a switch left in the Stations no longer stands for a bank. -/
def forgetBank (b : Nat) (s : State) : State :=
  { s with run := { s.run with bound := s.run.bound.filter fun p => p.1 != b } }

/-- R238: the same for a Mooring. -/
def forgetMooring (m : Nat) (s : State) : State :=
  { s with run := { s.run with
      bound := s.run.bound.filter fun p => p.2 != some m
      mooring := if s.jobs.active.isNone && s.run.mooring = some m then none else s.run.mooring } }

/-- The command of a load in progress completes. -/
def bankDone (b status : Nat) (result : List Byte) (s : State) : State :=
  match tget? s.jobs.bankCmd b with
  | some o => cmdDone o status result { s with jobs := { s.jobs with bankCmd := terase s.jobs.bankCmd b } }
  | none => s

/-- R207: LOAD_IMAGE accepted: the bank becomes LOADING, its contents are released. -/
def startLoad (b host : Nat) (o : CmdFrom) (s : State) : State :=
  let held := strictOn s && s.life = .running
  let s1 := forgetBank b (putBank b { bankReset with st := .loading, hostPtr := host, strictHeld := held } s)
  wakeDram { s1 with jobs := { s1.jobs with bankCmd := tput s1.jobs.bankCmd b o } }

/-- R207, R412: LOAD_IMAGE. -/
def cmdLoadImage : CmdBody := fun o args s =>
  let b := field args 0 1
  if o.mctp || 15 < b then cmdDone o 0x1090 [] s
  else if (bankOf s b).st = .loading || bankNamed s b || (endedBanks s).contains b then cmdConflict o s
  else startLoad b (field args 8 8) o s

/-- R410: LOAD_IMAGE on the admin queue. -/
def execLoadImage (c : CmdRec) (s : State) : Res := .next (adminRun c 16 [1, 2, 3, 4, 5, 6, 7] inLoadStates cmdLoadImage s)

/-- R207 steps 2 to 5: everything that can refuse the load, and what it leaves. -/
def loadResult (s : State) (b : Nat) (img : List Byte) : Except Rej (Image × Nat × Placement) := do
  let size := imgSize img
  need (decide (size ≤ 0x10000000)) 0x1080 []
  need (decide (copiesElse s b + size ≤ 0x38000000)) 0x1043 []
  let bs := slice img 0 size
  let im ← verify (ownerKeys s) s.kpr.sec.policy bs
  let cs ← bindStations s im
  let fq ← accept s im
  let p ← place s b im cs
  pure (im, fq, p)

/-- R207: a load that failed: the bank is FREE; the code and where it was found are reported (R223). -/
def loadFailed (b : Nat) (r : Rej) (s : State) : State :=
  settleLife (bankDone b r.code [] (emit (.msg 0 "LOAD_REFUSED" (leBytes 2 r.code ++ r.loc.flatMap (leBytes 4)))
    (report r.code pgKpr (putBank b { bankReset with failed := r.code } s))))

/-- R214, R483: the streams of one bound Station's variant; the registers keep their values until the next launch (R144). -/
def bindStreams (im : Image) (r : PlacedSt) (s : State) : State :=
  match im.variants[r.variant]? with
  | none => s
  | some v => v.streams.zipIdx.foldl (fun t e =>
      let g := engAt r.phys e.2
      putEng g { engOf t g with present := e.1.present, pushed := e.1.pushed } t) s

/-- R96: the curve tables of a bank into the curve memory of the enabled pairs of a Station, at placing and at every switch. -/
def loadCurves (im : Image) (r : PlacedSt) (s : State) : State :=
  r.wickMap.foldl (fun t p =>
    putWick r.phys p { wickOf t r.phys p with curves := im.curves.zipIdx.map fun c => (c.2, c.1) } t) s

/-- R96, R230, R483: units, numbers, streams and curve memory follow the placement while no job is in force. -/
def bindIdle (b : Nat) (s : State) : State :=
  if inJob s then s
  else match (bankOf s b).img, (bankOf s b).placement with
    | some im, some pl => pl.stations.foldl (fun t r => loadCurves im r (bindStreams im r t)) (bindUnits b s)
    | _, _ => s

/-- R207 step 6: the bank is LOADED, or STALE after a change of the Dark map (R242). -/
def loadDone (b : Nat) (img : List Byte) (r : Image × Nat × Placement) (s : State) : State :=
  let bs := slice img 0 (imgSize img)
  let k : Bank :=
    { bankReset with
      st := if (bankOf s b).staleOnLoad then .stale else .loaded
      bytes := bs, hash := imageHash bs, img := some r.1, fq := r.2.1, placement := some r.2.2
      istoreBase := List.replicate 16 (b * 32768), bound := imgBound r.1 r.2.1 }
  let s1 := bindIdle b (putBank b k s)
  let s2 := if 1024 < r.2.1 then report 0x0040 pgKpr s1 else s1
  settleLife (bankDone b 0 (k.hash ++ sha3 (placementBytes b k) ++ leBytes 4 k.fq ++ leBytes 4 k.bound) s2)

/-- R408: a host DMA failed: 0x20B1 in the PCI page. -/
def dmaError (s : State) : State := raise 0x20B1 pgPci 2 0x20B1 0 0 s

/-- R207: the image fetch of a bank finishes; `none` is a DMA that failed (R408). -/
def fetchDone (b : Nat) (image : Option (List Byte)) (s : State) : State :=
  match image with
  | none => loadFailed b ⟨0x20B1, []⟩ (dmaError s)
  | some img =>
    match loadResult s b img with
    | .error r => loadFailed b r s
    | .ok r => loadDone b img r s

/-- R208: Keeper work that a RUNNING job under Strict Timing holds. -/
def strictHolds (s : State) : Bool := strictOn s && s.life = .running

/-- R207: IMAGE_FETCH_COMPLETE. A load that meets a Strict Timing job is held at step 2 (R208). -/
def execImageFetchComplete (bank : Fin 16) (image : Option (List Byte)) (s : State) : Res :=
  .next (if (bankOf s bank).st = .loading && !(bankOf s bank).strictHeld then
      (if strictHolds s then putBank bank { bankOf s bank with strictHeld := true } s else fetchDone bank image s)
    else s)

/-- R208: LOAD_STRICT_RELEASE. -/
def execLoadStrictRelease (bank : Fin 16) (s : State) : Res :=
  .next (if (bankOf s bank).strictHeld && s.life != .running then putBank bank { bankOf s bank with strictHeld := false } s else s)

/-! ### RELEASE_BANK and TENSOR_ADDR -/

/-- R410: RELEASE_BANK. -/
def cmdReleaseBank : CmdBody := fun o args s =>
  let b := field args 0 1
  if 15 < b then cmdDone o 0x1090 [] s
  else if bankNamed s b || (bankOf s b).st = .loading then cmdConflict o s
  else settleLife (cmdDone o 0 [] (forgetBank b (putBank b bankReset s)))

/-- R410: RELEASE_BANK on the admin queue. -/
def execReleaseBank (c : CmdRec) (s : State) : Res := .next (adminRun c 1 [] inBankStates cmdReleaseBank s)

/-- R181: BAR2 window offset of a byte of SRAM (0) or DRAM (1). -/
def windowOf (a : Nat × Nat) : Nat := if a.1 = 1 then a.2 else 0x2000000000 + a.2

/-- Second copy of a tensor. -/
def copyAddr (pl : Placement) (t : Tensor) : Option (Nat × Nat) :=
  match pl.stations[t.lst]? with
  | none => none
  | some r => (r.tensors.find? fun p => p.id = t.id && p.copy = 1).map fun p => (p.space, p.addr)

/-- R410: the result of TENSOR_ADDR. -/
def tensorResult (k : Bank) (id : Nat) : Option (List Byte) :=
  match k.img, k.placement with
  | some im, some pl =>
    match tensorIn im id, tensorAddr im pl id with
    | some t, some a => some (leBytes 8 (windowOf a) ++ leBytes 8 (t.size * 4096) ++
        leBytes 8 (((copyAddr pl t).map windowOf).getD 0xFFFFFFFFFFFFFFFF))
    | _, _ => none
  | _, _ => none

/-- R410: TENSOR_ADDR. -/
def cmdTensorAddr : CmdBody := fun o args s =>
  let k := bankOf s (field args 0 1)
  if 15 < field args 0 1 then cmdDone o 0x1090 [] s
  else if k.st != .loaded && k.st != .stale then cmdConflict o s
  else match tensorResult k (field args 2 2) with
    | some r => cmdDone o 0 r s
    | none => cmdDone o 0x1090 [] s

/-- R417: states of TENSOR_ADDR. -/
def inAddrStates (s : State) : Bool := inBankStates s || s.life = .faulted

/-- R410: TENSOR_ADDR on the admin queue. -/
def execTensorAddr (c : CmdRec) (s : State) : Res := .next (adminRun c 4 [1] inAddrStates cmdTensorAddr s)

/-! ### Moorings -/

def putMoorCmds (t : Tbl CmdFrom) (s : State) : State := { s with jobs := { s.jobs with moorCmd := t } }

/-- R193: bytes of a Mooring's part in each Station. -/
def moorNeed (im : Image) : Nat :=
  roundUp ((im.tensors.filter fun t => t.cls = 0 || t.cls = 5 || t.cls = 6).foldl (fun a t => max a ((t.moff + t.size) * 4096)) 0) 0x10000

/-- R193, R194: an extent is allocated and the Mooring becomes FILLING. -/
def openMooring (o : CmdFrom) (m : Nat) (im : Image) (pl : Placement) (s : State) : State :=
  match allocExtent s none (moorNeed im) with
  | none => cmdDone o 0x1072 [] (report 0x1072 pgKpr s)
  | some off =>
    let k : Mooring := { moorReset with st := .filling, off := off, len := moorNeed im, img := some im, phys := pl.stations.map PlacedSt.phys }
    cmdDone o 0 (leBytes 8 off ++ leBytes 8 k.len) (wakeDram (forgetMooring m (putMoor m k s)))

/-- R194, R410: MOORING_OPEN: an EMPTY Mooring, for a bank that holds an image (DESIGN CHOICE, assumption 19). With 64 resident, any
more is the 65th (R193). -/
def cmdMooringOpen : CmdBody := fun o args s =>
  let m := field args 0 1
  let k := bankOf s (field args 1 1)
  if 63 < m || 15 < field args 1 1 then cmdDone o 0x1090 [] s
  else if (List.range 64).all fun i => (moorOf s i).st != .empty then cmdDone o 0x1072 [] (report 0x1072 pgKpr s)
  else if (moorOf s m).st != .empty || (k.st != .loaded && k.st != .stale) then cmdConflict o s
  else match k.img, k.placement with
    | some im, some pl => openMooring o m im pl s
    | _, _ => cmdConflict o s

/-- R410: MOORING_OPEN on the admin queue. -/
def execMooringOpen (c : CmdRec) (s : State) : Res := .next (adminRun c 2 [] inBankStates cmdMooringOpen s)

/-- R194, R410: FILLING to VERIFYING; under Strict Timing the verification waits while a job is RUNNING. -/
def cmdMooringSeal : CmdBody := fun o args s =>
  let m := field args 0 1
  if 63 < m then cmdDone o 0x1090 [] s
  else if (moorOf s m).st != .filling then cmdConflict o s
  else putMoorCmds (tput s.jobs.moorCmd m o)
    (putMoor m { moorOf s m with st := .verifying, strictHeld := strictOn s && s.life = .running } s)

/-- R410: MOORING_SEAL on the admin queue. -/
def execMooringSeal (c : CmdRec) (s : State) : Res := .next (adminRun c 1 [] inBankStates cmdMooringSeal s)

/-- The command of a verification in progress completes. -/
def moorDone (m status : Nat) (s : State) : State :=
  match tget? s.jobs.moorCmd m with
  | some o => cmdDone o status [] (putMoorCmds (terase s.jobs.moorCmd m) s)
  | none => s

/-- DRAM address of byte `o` of the Mooring's part of a logical Station. -/
def moorAddr (k : Mooring) (lst o : Nat) : Nat := nth k.phys lst * 0x200000000 + k.off + o

/-- R194: every weight block matches the manifest. -/
def moorBlocks (k : Mooring) (im : Image) : M Unit :=
  im.blocks.zipIdx.forM fun b => do
    let bs ← readMem 1 (moorAddr k b.1.lst b.1.moff) b.1.len
    if leafOf b.2 bs = b.1.leaf then pure () else failM 0x1073 none b.2 0

/-- R195, R233: the handles of a variant that stand in the Mooring, relocated into it. -/
def moorHandles (k : Mooring) (im : Image) (v : Variant) : Tbl Handle :=
  (handlesOf v).filterMap fun e =>
    match tensorIn im (relocOf v e.1) with
    | some t =>
      if (t.cls = 0 || t.cls = 5 || t.cls = 6) && !e.2.isStream then
        some (e.1, { e.2 with space := 1, base := moorAddr k t.lst (t.moff * 4096) / 4096 + e.2.base })
      else none
    | none => none

/-- R52, R63: whether B's rows lie along dimension 0: W7 of the first descriptor that reads the handle as B. -/
def bControl (v : Variant) (i : Nat) : Nat :=
  (((variantDescs 0 v).find? fun d => (dOp d.w = 0x10 || dOp d.w = 0x11) && (handleCands d 1).contains i).map fun d => dW7 d.w).getD 0

/-- R190: the header of a Tally area, its reserved bytes zero. -/
def tallyHeader (g tiles rows groups cv : Nat) : List Byte :=
  leBytes 1 1 ++ leBytes 1 g ++ leBytes 2 0 ++ leBytes 4 tiles ++ leBytes 4 rows ++ leBytes 4 groups ++ leBytes 8 cv ++ leBytes 40 0

/-- R63: one entry of a check vector: row k, columns of group q. -/
def cvEntry (b aux : Opnd) (w7 g k q : Nat) : M Nat := do
  let n := b.h.extent (dimNB w7)
  let cols := (List.range (32 * 2 ^ g)).filter fun c => decide (q * (32 * 2 ^ g) + c < n)
  let xs ← cols.mapM fun c => lanElem b aux (((List.replicate 6 0).set (dimKB w7) k).set (dimNB w7) (q * (32 * 2 ^ g) + c))
  pure (xs.foldl (fun t x => (t + resAlpha x) % tallyP) 0)

/-- R63, R64: the check vector, group by group, and within a group by row. -/
def cvWrite (b aux : Opnd) (w7 g at_ : Nat) : M Unit :=
  (List.range (ceilDiv (b.h.extent (dimNB w7)) (32 * 2 ^ g))).forM fun q =>
    (List.range (b.h.extent (dimKB w7))).forM fun k => do
      let e ← cvEntry b aux w7 g k q
      writeMem 1 (at_ + 8 * (q * b.h.extent (dimKB w7) + k)) (leBytes 8 e)

/-- R64, R190, R192: one Tally area: header, every tile's Tally, and the check vector where the image declares one. -/
def moorTally (st i w7 g : Nat) (h th : Handle) : M Unit := do
  let cv := roundUp (0x40 + 8 * h.tiles) 64
  let rows := h.extent (dimKB w7)
  let groups := ceilDiv (h.extent (dimNB w7)) (32 * 2 ^ g)
  let hd := if g ≤ 5 then tallyHeader g h.tiles rows groups cv else tallyHeader g h.tiles 0 0 0
  writeMem 1 (th.base * 4096) hd
  (List.range h.tiles).forM fun j => do
    let _ ← sealTile st h (h.base * 4096 + 4096 * j) j j
  if g ≤ 5 then do
    let aux := ((handleOf (← get) st h.aux).map fun a => (⟨h.aux, a, 0, 0⟩ : Opnd)).getD ⟨i, h, 0, 0⟩
    cvWrite ⟨i, h, 0, 0⟩ aux w7 g (th.base * 4096 + cv)
  else pure ()

/-- R194: every Tally area of a variant's Mooring tensors. -/
def moorVariant (k : Mooring) (im : Image) (v : Variant) : M Unit := do
  let st := nth k.phys v.lst
  let hs := moorHandles k im v
  let old := stnOf (← get) st
  modify (putStn st { old with handles := hs })
  hs.forM fun e =>
    match tget? hs e.2.tally, tensorIn im (relocOf v e.1), tensorIn im (relocOf v e.2.tally) with
    | some th, some t, some ta =>
      if t.cls != 6 && ta.cls = 6 && e.2.tally != 0 then moorTally st e.1 (bControl v e.1) ta.tgcode e.2 th else pure ()
    | _, _, _ => pure ()
  modify fun s => putStn st { stnOf s st with handles := old.handles } s

/-- R194: blocks, then Tally areas and check vectors. -/
def moorVerify (k : Mooring) (im : Image) : M Unit := do
  moorBlocks k im
  im.variants.forM (moorVariant k im)

/-- The Handle Tables of the Stations as they were. -/
def keepHandles (t s : State) : State := { s with stations := tmap (fun n x => { x with handles := (stnOf t n).handles }) s.stations }

/-- R194, R206: why a verification failed: a weight block, or 0x2091 in the page of the memory. -/
def moorLost (f : Fail) (s : State) : State :=
  match f.code, f.tile with
  | 0x1073, _ => report 0x1073 pgKpr s
  | _, some (space, a) => noSource space a s
  | _, none => report 0x2091 pgKpr s

/-- R194: a verification ends: READY, or FAILED with the code. -/
def moorVerified (m : Nat) (s : State) : State :=
  let k := moorOf s m
  match k.img with
  | none => s
  | some im =>
    match (moorVerify k im).go s with
    | (.ok _, s1) => moorDone m 0 (settleDram (putMoor m { k with st := .ready } s1))
    | (.error f, s1) =>
      let code := if f.code = 0x1073 then 0x1073 else 0x2091
      moorDone m code (settleDram (moorLost f (putMoor m { k with st := .failed } (keepHandles s s1))))

/-- R194: MOORING_VERIFY_COMPLETE. A verification waits for a Strict Timing job as a load does (R412). -/
def execMooringVerifyComplete (m : Fin 64) (s : State) : Res :=
  .next (if (moorOf s m).st = .verifying && !(moorOf s m).strictHeld then
      (if strictHolds s then putMoor m { moorOf s m with strictHeld := true } s else moorVerified m s)
    else s)

/-- R410: MOORING_VERIFY_RESUME. -/
def execMooringVerifyResume (m : Fin 64) (s : State) : Res :=
  .next (if (moorOf s m).strictHeld && s.life != .running then putMoor m { moorOf s m with strictHeld := false } s else s)

/-- R410: MOORING_RELEASE; a verification in progress is abandoned, and its command completes with 0x2040 (DESIGN CHOICE,
assumption 19). -/
def cmdMooringRelease : CmdBody := fun o args s =>
  let m := field args 0 1
  if 63 < m then cmdDone o 0x1090 [] s
  else if moorNamed s m then cmdConflict o s
  else cmdDone o 0 [] (settleDram (moorDone m 0x2040 (forgetMooring m (putMoor m moorReset s))))

/-- R410: MOORING_RELEASE on the admin queue. -/
def execMooringRelease (c : CmdRec) (s : State) : Res := .next (adminRun c 1 [] inBankStates cmdMooringRelease s)

end Sys2Proof.Machine
end

