-- ==== Sys2Proof/Machine/Launch.lean ====
section
/-! DEFINITION. Jobs from their record to L: the record and its lists (R405 to R407), dispatch (R409), PREPARE and its replies (R344), the
switch of R238 with the SRAM fill (R195), the GO block (R344, R358), and the launch at L (R345). -/

namespace Sys2Proof.Machine

/-! ### Job records -/

/-- R405. -/
def jobRecordOk (s : State) (r : List Byte) : Bool :=
  r.length = 128 && jVersion r = 1 && decide (jBank r ≤ 15) && decide (jMooring r ≤ 63) && decide (jFlags r < 4) &&
    jPid r = s.fab.part.pid && decide (jNpatch r ≤ 60) && decide (jNbuf r ≤ 64) && field r 0x36 2 = 0 && zeroBytes (slice r 0x48 56) &&
    (if jNpatch r = 0 then field r 0x38 8 = 0 else field r 0x38 8 % 16 = 0) &&
    (if jNbuf r = 0 then field r 0x40 8 = 0 else field r 0x40 8 % 32 = 0)

/-- R406: the patch list. -/
def patchList (n : Nat) (bs : List Byte) : List (Nat × Nat) := (List.range n).map fun i => (field bs (16 * i) 1, field bs (16 * i + 8) 8)

/-- R406: the entries are right for the bank. -/
def patchesOk (im : Image) (n : Nat) (bs : List Byte) : Bool :=
  let ps := patchList n bs
  decide (16 * n ≤ bs.length) && (ps.all fun p => decide (p.1 ≤ 59) && (im.patches.lookup p.1).isSome) &&
    ((List.range n).all fun i => zeroBytes (slice bs (16 * i + 1) 7)) && (nub (ps.map Prod.fst)).length = n

/-- R407: a buffer entry. -/
def parseBuf (b : List Byte) : BufEnt := ⟨field b 0 4, field b 4 2, field b 6 1, field b 8 8, field b 0x10 8, field b 0x18 8⟩
def bufList (n : Nat) (bs : List Byte) : List BufEnt := (List.range n).map fun i => parseBuf (slice bs (32 * i) 32)

/-- R407: one entry. -/
def bufOk (s : State) (im : Image) (e : BufEnt) : Bool :=
  match tensorIn im e.tensor with
  | none => false
  | some t =>
    decide (e.rank < s.fab.part.chips) && decide (e.kind < 8) && (bitAt e.kind 0 || bitAt e.kind 1) &&
      (!bitAt e.kind 0 || t.cls = 1 || t.cls = 3 || t.cls = 4) && (!bitAt e.kind 1 || t.cls = 1 || t.cls = 4) &&
      (!bitAt e.kind 2 || (bitAt e.kind 0 && t.cls = 3)) && e.off % 64 = 0 && decide (1 ≤ e.len) &&
      decide (e.off + e.len ≤ t.size * 4096)

/-- R407: no two buffers of one member overlap. -/
def bufsApart : List BufEnt → Bool
  | [] => true
  | x :: r => (r.all fun y => x.rank != y.rank || x.tensor != y.tensor || apart (x.off, x.len) (y.off, y.len)) && bufsApart r

/-- R407. -/
def bufsOk (s : State) (im : Image) (n : Nat) (bs : List Byte) : Bool :=
  decide (32 * n ≤ bs.length) && ((List.range n).all fun i => field bs (32 * i + 7) 1 = 0) && ((bufList n bs).all (bufOk s im)) &&
    bufsApart (bufList n bs)

/-- R240: what refuses a job for its Mooring. -/
def moorRefuses (s : State) (r : List Byte) : Option Nat :=
  let k := moorOf s (jMooring r)
  if k.st != .ready then some 0x2040
  else if k.img.map Image.root != (bankOf s (jBank r)).img.map Image.root then some 0x1086
  else none

/-- The partition that the record is for: a Leading job names the lower PID of the pair (R409). -/
def leadPids (s : State) : Option (Nat × Nat) := s.fab.leading.map fun r => (field r 8 4, field r 0xC 4)
def higherPid (s : State) : Bool :=
  match leadPids s with
  | some (a, b) => s.fab.part.pid = max a b && a != b
  | none => false

/-- R409: the record is not this chip's to take. -/
def notHead (s : State) (r : List Byte) : Bool := (s.fab.part.st = .formed && s.fab.part.rank != 0) || (jLeading r && higherPid s)

/-- R405 to R407, R240: the first rule that a record breaks, given its lists. -/
def jobRefusal (s : State) (r : List Byte) (patches buffers : Option (List Byte)) : Option Nat :=
  if notHead s r then some 0x20B0
  else if !jobRecordOk s r then some 0x1090
  else if (jNpatch r != 0 && patches.isNone) || (jNbuf r != 0 && buffers.isNone) then some 0x20B1
  else match (bankOf s (jBank r)).img with
    | none => some 0x2040
    | some im =>
      if !patchesOk im (jNpatch r) (patches.getD []) then some 0x1090
      else if !bufsOk s im (jNbuf r) (buffers.getD []) then some 0x1091
      else moorRefuses s r

/-- R417: states in which a job record completes with 0x2040. -/
def refusesJobs (s : State) : Bool := s.life = .keep || s.life = .ready || s.life = .faulted || s.life = .off

/-- A job from its record and lists. -/
def jobOf (q idx : Nat) (r patches buffers : List Byte) : Job :=
  ⟨q, idx, r, patchList (jNpatch r) patches, bufList (jNbuf r) buffers⟩

/-- R405, R417: a record that was read from a job queue. -/
def takeJob (q idx : Nat) (r : List Byte) (patches buffers : Option (List Byte)) (s : State) : State :=
  let j := jobOf q idx r (patches.getD []) (buffers.getD [])
  if refusesJobs s then refuseJob j true 0x2040 (conflict q 0 s)
  else match jobRefusal s r patches buffers with
    | some c => refuseJob j true c (if c = 0x20B1 then dmaError s else report c pgPci s)
    | none => { s with jobs := { s.jobs with waiting := s.jobs.waiting ++ [j] } }

/-- R405: JOB_RECORD. -/
def execJobRecord (q : Fin 64) (record : List Byte) (patches buffers : Option (List Byte)) (s : State) : Res :=
  .next (if canTake s q then takeJob q (headIndex s q) record patches buffers (advanceHead q s) else s)

/-! ### Parameters and patches -/

/-- The state with a bank current. -/
def withBank (b : Nat) (s : State) : State := { s with run := { s.run with bank := b } }

/-- R406: seeds first, then the job's patches. -/
def jobWrites (j : Job) : List (Nat × Nat) := ((List.range 4).map fun i => (60 + i, jSeed j.record i)) ++ j.patches

/-- R215: the parameter registers of this chip that a slot writes. -/
def patchTargets (s : State) (b slot : Nat) : List (Eng × Nat) :=
  match (bankOf s b).img, (bankOf s b).placement with
  | some im, some pl => ((im.patches.lookup slot).getD []).filterMap fun t =>
      (pl.stations[t.1]?).bind fun r =>
        match (im.variants[r.variant]?).bind fun v => v.streams[t.2.1]? with
        | some e => if e.present then some (engAt r.phys t.2.1, t.2.2) else none
        | none => none
  | _, _ => []

/-- R144: every seed and patch lies in the range of every target. -/
def writesFit (s : State) (j : Job) : Bool :=
  let b := jBank j.record
  (jobWrites j).all fun w => (patchTargets s b w.1).all fun t =>
    match paramDecl (withBank b s) t.1 t.2 with
    | some d => decide (d.min ≤ signed 64 w.2) && decide (signed 64 w.2 ≤ d.max)
    | none => true

/-! ### Placement again -/

/-- R236: a STALE bank is placed again; the code of what fails. -/
def replaceBank (b : Nat) (s : State) : Nat × State :=
  let k := bankOf s b
  match k.img with
  | none => (0x2040, s)
  | some im =>
    if k.st != .stale then (0, s)
    else
      let r : Except Rej Placement := do
        let cs ← bindStations s im
        place s b im cs
      match r with
      | .error e => (e.code, report e.code pgKpr s)
      | .ok p => (0, forgetBank b (putBank b { k with st := .loaded, placement := some p, installed := false, staleOnLoad := false } s))

/-! ### Switch times -/

/-- R195: bytes that a bank's largest Station takes from the Mooring. -/
def fillBytes (s : State) (b : Nat) : Nat :=
  match (bankOf s b).img with
  | none => 0
  | some im => (List.range im.nstations).foldl (fun a n => max a
      ((im.tensors.filter fun t => t.lst = n && (t.cls = 0 || t.cls = 6)).foldl (fun x t => x + t.size * 4096) 0)) 0

/-- R238: bank and Mooring stand in the Stations already. -/
def bound (s : State) (j : Job) : Bool := s.run.bound = some (jBank j.record, some (jMooring j.record))

/-- R408: bytes that the host link copies in. -/
def inputBytes (s : State) (j : Job) : Nat := (ownBufs s j 0).foldl (fun a e => if e.host = 0 then a else a + e.len) 0

/-- R195, R238, R394, R408: ticks of a switch: the fill or the Handle Table's 64 clocks, and the input copies at 59 GB/s. -/
def switchTicks (s : State) (j : Job) : Nat :=
  let clocks := if bound s j then 64 else max 64 (ceilDiv (fillBytes s (jBank j.record)) 2048 + 300)
  ceilDiv (clocks * 1000) (fRun s) + ceilDiv (inputBytes s j) 59

/-! ### Replies -/

/-- R266, R271: a link below the RATE or beyond the CHMAX of the schedule. -/
def linkUnfit (s : State) (l : Nat) : Bool :=
  decide (rateNow s < (linkOf s l).rate) || decide (chmaxNow s < (linkOf s l).delay)

/-- R264: the logical links that the bank's schedule uses and that are down here, or unfit for it. -/
def linksDownHere (s : State) (b : Nat) : List Nat :=
  (List.range 96).filter fun ll =>
    schedUses (withBank b s) ll && ((linkOf s (physLink s ll)).st != .up || linkUnfit (withBank b s) (physLink s ll))

/-- R271: 0x3017 for each UP link that the bank's schedule uses and that is unfit for it. -/
def noteUnfit (b : Nat) (s : State) : State :=
  (List.range 96).foldl (fun t ll =>
    if schedUses (withBank b s) ll && (linkOf s (physLink s ll)).st = .up && linkUnfit (withBank b s) (physLink s ll) then
      report 0x3017 (pgLnk (physLink s ll)) t
    else t) s

/-- R344: the grandmaster that the chip follows. -/
def followedGm (s : State) : Nat :=
  let t := s.fab.time
  if gmLive s t.actB then chipNo s else ((domOf s t.actB).blk.map TimeBlk.gmid).getD 0

/-- R344 step 1: what this member has to say. -/
def ownReply (s : State) (j : Job) : PrepareReply :=
  let b := jBank j.record
  let k := bankOf s b
  let m := moorOf s (jMooring j.record)
  { rank := s.fab.part.rank, bank := b, imageHash := if k.st = .loaded then k.hash else [], fq := k.fq
    mooringReady := m.st = .ready, mooringRoot := ((m.img.map Image.root).getD []), servoLocked := s.fab.time.servo = .locked
    activeDomain := b2n s.fab.time.actB, grandmaster := followedGm s, strict := strictOn s, switchTicks := switchTicks s j
    pending := pendingSlots s, linksDown := linksDownHere s b, refused := 0 }

/-- The bytes of a reply; the spec gives the message no layout. -/
def replyBytes (r : PrepareReply) : List Byte :=
  leBytes 4 r.rank ++ leBytes 1 r.bank ++ slice r.imageHash 0 32 ++ leBytes 4 r.fq ++ leBytes 1 (b2n r.mooringReady) ++
    slice r.mooringRoot 0 32 ++ leBytes 1 (b2n r.servoLocked) ++ leBytes 1 r.activeDomain ++ leBytes 4 r.grandmaster ++
    leBytes 1 (b2n r.strict) ++ leBytes 8 r.switchTicks ++ leBytes 1 r.pending ++ leBytes 2 r.refused ++ r.linksDown.flatMap (leBytes 1)

/-! ### ARMED -/

def putActive (a : Option Active) (s : State) : State := { s with jobs := { s.jobs with active := a } }

/-- A job that is being launched. -/
def newActive (j : Job) (own : Bool) : Active :=
  { job := j, own := own, replies := [], launch := none, switching := false, switched := false, lateLaunch := false, dma := []
    dmaFailed := false, inputHash := [], outputHash := [], darkHash := [], placeHash := [], endOffset := 0, endCode := 0, cause := 0
    causeRank := 0, steps := 0, replays := 0, fq := 1024, clash := false }

/-- R408: the copies of INPUT buffers with HOSTADDR. -/
def inDmas (s : State) (j : Job) : List Dma :=
  (ownBufs s j 0).filterMap fun e =>
    if e.host = 0 then none
    else (bufAddr s (jBank j.record) e).map fun a => ⟨false, a.1, a.2, e.len, e.host, s.watch⟩

/-- R264: links known down before step 0: the three chips of a detour take it up. The answer says whether this chip would take part
in two. -/
def launchDetours (down : List (Nat × Nat)) (s : State) : Bool × State :=
  down.foldl (fun r d =>
    let t := r.2
    let a := coordsOf t.fab.part.shape d.1
    let k := d.2 / 24
    let x := nth a k
    let q := if d.2 % 24 < x then d.2 % 24 else d.2 % 24 + 1
    let me := t.fab.part.self
    let mine := a.set k 0 = me.set k 0 && (nth me k = x || nth me k = q || nth me k = detourMid x q (extent t k))
    if !mine then r
    else match adoptDetour k x q t with
      | some t1 => (r.1, t1)
      | none => (true, t)) (false, s)

/-- R264: a chip of two detours: 0x3008 stops the job, which is ARMED by now. -/
def detourClash (s : State) : State := faulted 0x3008 0 (myRank s) (report 0x3008 pgKpr s)

/-- R310: entries of an earlier job's grid belong to no generation of the new one. -/
def retireGrid (s : State) : State :=
  { s with fab := { s.fab with links := tmap (fun _ k =>
      { k with buf := k.buf.map (fun e => if e.kind = .scheduled then { e with epoch := 2 ^ 64 } else e), occ := [], late := [] }) s.fab.links } }

/-- R24, R407: the host buffers of this member, as SRAM ranges. -/
def hostBufs (s : State) (j : Job) : List (Nat × Nat) :=
  (ownBufs s j 2).filterMap fun e => (bufAddr s (jBank j.record) e).map fun a => (a.2, e.len)

/-- R344: L is known: ARMED, and the switch of R238 begins; the job's host buffers are declared from here on (R24). -/
def arm (a : Active) (l fq : Nat) (late : Bool) (down : List (Nat × Nat)) (s : State) : State :=
  let b := jBank a.job.record
  let im := (bankOf s b).img
  let s1 := { s with
    life := .armed
    run := { s.run with
      bank := b, mooring := some (jMooring a.job.record), fq := fq, endStep := none, gen := 0, leadLog := []
      replay := ((im.map Image.replay).getD false) && !jNoReplay a.job.record, hostBufs := hostBufs s a.job }
    recov := { recovReset with begun := s.recov.begun, linkTestAt := l }
    led := ledReset
    fab := { s.fab with part := { s.fab.part with detours := [] } } }
  let r := launchDetours down (putActive (some { a with launch := some l, switching := true, lateLaunch := late, dma := inDmas s1 a.job })
    (wakeDram (retireGrid s1)))
  if r.1 || a.clash then detourClash r.2 else r.2

/-- R344 step 3: the GO block of a launch. -/
def goOf (s : State) (a : Active) (l : Nat) : GoBlk := ⟨s.fab.part.pid, jBank a.job.record, l, jId a.job.record⟩

/-- R344 step 2: L for a slowest switch time. -/
def chooseL (s : State) (b slowest : Nat) : Nat :=
  let u := 100 * flashTicks (rateNow (withBank b s))
  ceilDiv (s.watch + max 50000 (slowest + 20000)) u * u

/-! ### The head Keeper's decision -/

/-- A launch refused: the job completes with the code (R415); the members are told. -/
def refuseLaunch (code : Nat) (s : State) : State :=
  match s.jobs.active with
  | none => s
  | some a => refuseJob a.job a.own code (putActive none (toMembers "LAUNCH_REFUSED" (leBytes 2 code)
      { s with fab := { s.fab with leadLaunch := none, go := none } }))

/-- R344: 0x3022 names the first member that fails. -/
def refuse3022 (rank : Nat) (s : State) : State := refuseLaunch 0x3022 (timEvent 0x3022 5 (offNow s) rank s)

/-- R378: 0x3024 names the first member whose STRICT_ACTIVE differs. -/
def refuse3024 (a : Active) (rank : Nat) (s : State) : State :=
  refuseLaunch 0x3024 (raise 0x3024 pgLdg 2 0x3024 (jId a.job.record % 2 ^ 32) rank s)

/-- R344: a member fails step 1. -/
def replyFails (own r : PrepareReply) : Bool :=
  !r.servoLocked || r.activeDomain != own.activeDomain || r.grandmaster != own.grandmaster || !r.mooringReady ||
    r.mooringRoot != own.mooringRoot

/-- Replies by rank, the head Keeper's own first. -/
def insReply (x : PrepareReply) : List PrepareReply → List PrepareReply
  | [] => [x]
  | y :: r => if x.rank < y.rank then x :: y :: r else y :: insReply x r

/-- R264: logical links reported down, by rank. -/
def downLinks (rs : List PrepareReply) : List (Nat × Nat) := rs.flatMap fun r => r.linksDown.map fun l => (r.rank, l)

/-- R262, R264: a record covers a link of some member. -/
def covered (s : State) (d : Nat × Nat) : Bool :=
  let a := coordsOf s.fab.part.shape d.1
  let k := d.2 / 24
  let x := nth a k
  let q := if d.2 % 24 < x then d.2 % 24 else d.2 % 24 + 1
  let line := rankOf s.fab.part.shape (a.set k 0)
  (detourRecs s s.run.bank).any fun r => dtDim r = k && dtA r = min x q && dtB r = max x q && (dtLine r = line || dtLine r = 0xFFFFFFFF)

/-- R368: the other head Keeper gets L. -/
def tellLead (a : Active) (l : Nat) (s : State) : State :=
  if jLeading a.job.record && !higherPid s then toCounterpart "LEADING_LAUNCH" (leBytes 8 l) s else s

/-- The bytes of PREPARE; the spec gives the message no layout. -/
def prepareBytes (j : Job) (fq : Nat) (down : List (Nat × Nat)) : List Byte :=
  j.record ++ (j.patches.flatMap fun p => leBytes 1 p.1 ++ leBytes 7 0 ++ leBytes 8 p.2) ++
    (j.bufs.flatMap fun e => leBytes 4 e.rank ++ leBytes 2 e.tensor ++ leBytes 1 e.kind ++ leBytes 1 0 ++ leBytes 8 e.off ++ leBytes 8 e.len ++
      leBytes 8 e.host) ++ leBytes 4 fq ++ down.flatMap fun d => leBytes 4 d.1 ++ leBytes 1 d.2

/-- R344 steps 2 and 3: L is chosen, or for a Leading counterpart taken over (R368). -/
def launchWith (a : Active) (rs : List PrepareReply) (s : State) : State :=
  let fq := rs.foldl (fun m r => max m r.fq) 1024
  let l := if jLeading a.job.record && higherPid s then s.fab.leadLaunch.getD 0 else chooseL s (jBank a.job.record) (rs.foldl (fun m r => max m r.switchTicks) 0)
  let s1 := tellLead a l (toMembers "PREPARE" (prepareBytes a.job fq (downLinks rs)) s)
  let s2 := arm a l fq false (downLinks rs) s1
  { s2 with fab := { s2.fab with go := if s.fab.part.st = .formed then some (goOf s a l) else none, leadLaunch := none } }

/-- R387: a member has 64 records PENDING: the PREPARE of the launch is delayed, so the job waits again. -/
def delayLaunch (a : Active) (s : State) : State :=
  let s1 := putActive none s
  if a.own then { s1 with jobs := { s1.jobs with waiting := a.job :: s1.jobs.waiting } } else s1

/-- R227: a member refused the image with 0x1030: the load has failed at the head Keeper too. -/
def loadUndone (b code : Nat) (s : State) : State :=
  if code = 0x1030 then settleLife (forgetBank b (putBank b { bankReset with failed := code } s)) else s

/-- R344 step 1, R227, R236, R144, R264, R378: all replies are in. -/
def decide3 (a : Active) (own : PrepareReply) (rs : List PrepareReply) (s : State) : State :=
  if rs.any fun r => decide (64 ≤ r.pending) then delayLaunch a s
  else if withheld s then refuseLaunch 0x5031 (raise 0x5031 pgSec 4 0x5031 0 0 s)
  else if (rs.find? fun r => r.refused != 0).isSome then
    let c := ((rs.find? fun r => r.refused != 0).map PrepareReply.refused).getD 0
    loadUndone own.bank c (refuseLaunch c (report c pgKpr s))
  else if rs.any fun r => r.imageHash != own.imageHash || r.bank != own.bank then refuseLaunch 0x1087 (report 0x1087 pgKpr s)
  else match (if s.fab.part.st = .formed then rs.find? (replyFails own) else none), rs.find? fun r => r.strict != own.strict with
    | some r, _ => refuse3022 r.rank s
    | none, some r => refuse3024 a r.rank s
    | none, none =>
      if !((downLinks rs).all (covered (withBank own.bank s))) then refuseLaunch 0x3004 (report 0x3004 pgKpr s)
      else launchWith a rs s

/-- R368: a Leading counterpart waits for L. -/
def waitsForL (s : State) (a : Active) : Bool := jLeading a.job.record && higherPid s && s.fab.leadLaunch.isNone

/-- R344: at the head Keeper, when every reply has come. -/
def decideLaunch (s : State) : State :=
  match s.jobs.active with
  | none => s
  | some a =>
    let ranks := a.replies.map PrepareReply.rank
    if a.launch.isSome || !((otherRanks s.fab.part).all ranks.contains) || waitsForL s a then s
    else decide3 a (ownReply s a.job) (insReply (ownReply s a.job) a.replies) s

/-! ### Dispatch -/

/-- R409: job queues in round-robin order, starting after the one served last. -/
def nextJob (s : State) : Option Job :=
  ((List.range 64).map fun i => (s.jobs.lastQ + 1 + i) % 64).findSome? fun q => s.jobs.waiting.find? fun j => j.queue = q

/-- R368: the pair link is not UP. -/
def pairDown (s : State) : Bool :=
  match s.fab.pairLink with
  | some l => (linkOf s l).st != .up
  | none => true

/-- R240, R144, R236, R368, R437: what refuses a job at its launch, after its bank has been placed again. -/
def launchRefusal (s : State) (j : Job) : Option Nat :=
  match moorRefuses s j.record with
  | some c => some c
  | none =>
    if !writesFit s j then some 0x1009
    else if withheld s then some 0x5031
    else if jLeading j.record && pairDown s then some 0x20A3
    else none

/-- R344 step 1: PREPARE goes to every member, and for a Leading job to the other head Keeper. -/
def sendPrepare (j : Job) (s : State) : State :=
  let m := prepareBytes j (bankOf s (jBank j.record)).fq []
  let s1 := toMembers "PREPARE" m s
  if jLeading j.record && !higherPid s then toCounterpart "PREPARE" m s1 else s1

/-- R368, R437: 0x20A3 stands in KPR_RCV, and 0x5031 in KPR_SEC. -/
def noteRefusal (c : Nat) (s : State) : State :=
  if c = 0x20A3 then raise 0x20A3 pgRcv 6 0x20A3 0 (myRank s) s
  else if c = 0x5031 then raise 0x5031 pgSec 4 0x5031 0 0 s else report c pgKpr s

/-- R409, R344: a launch begins at a head Keeper, or at a chip in no partition. -/
def beginLaunch (j : Job) (own : Bool) (s : State) : State :=
  let r := replaceBank (jBank j.record) s
  let s1 := r.2
  let code := if r.1 = 0 then launchRefusal s1 j else some r.1
  match code with
  | some c => refuseJob j own c (noteRefusal c s1)
  | none => decideLaunch (sendPrepare j (putActive (some (newActive j own)) (noteUnfit (jBank j.record) s1)))

/-- R409: JOB_DISPATCH may run: the chip is free, and fewer than 64 records are PENDING (R387). -/
def mayDispatch (s : State) : Bool :=
  s.life = .loaded && s.jobs.active.isNone && !s.jobs.halted && !paused s && decide (pendingSlots s < 64)

/-- R409: the job leaves the waiting list. -/
def takeOff (j : Job) (s : State) : State :=
  { s with jobs := { s.jobs with waiting := s.jobs.waiting.erase j, lastQ := j.queue } }

/-- R417: a job that waited when the module left the states in which jobs wait completes with 0x2040. -/
def refuseWaiting (j : Job) (s : State) : State := refuseJob j true 0x2040 (conflict j.queue 0 (takeOff j s))

/-- R409: JOB_DISPATCH. -/
def execJobDispatch (s : State) : Res :=
  .next (match nextJob s with
    | some j =>
      if mayDispatch s then beginLaunch j true (takeOff j s)
      else if refusesJobs s && !s.jobs.halted && !paused s then refuseWaiting j s else s
    | none => s)

/-- R344: a member that may take PREPARE: not the head, or the head Keeper of a Leading pair's higher PID; and no job in force. -/
def takesPrepare (s : State) (m : PrepareMsg) : Bool :=
  s.fab.part.st = .formed && (s.life = .loaded || s.life = .ready) &&
    ((s.fab.part.rank != 0 && (jPid m.record = s.fab.part.pid || (jLeading m.record && s.fab.leading.isSome))) ||
      (s.fab.part.rank = 0 && jLeading m.record && higherPid s))

/-- R227, R236, R144, R437: the code with which a member cannot launch a job, after its bank has been placed again with code c. -/
def memberRefusal (s : State) (c : Nat) (j : Job) : Nat :=
  let k := bankOf s (jBank j.record)
  if k.img.isNone then (if k.failed = 0x1030 then 0x1030 else 0)
  else if c != 0 then c
  else if !writesFit s j then 0x1009 else if withheld s then 0x5031 else 0

/-- R344: a member that can launch holds the job, with the largest F_q (R227) and the detours of links known down (R264). -/
def holdJob (m : PrepareMsg) (j : Job) (s : State) : State :=
  let r := launchDetours m.down (withBank (jBank m.record) { s with fab := { s.fab with part := { s.fab.part with detours := [] } } })
  putActive (some { newActive j false with fq := max (bankOf s (jBank m.record)).fq m.fq, clash := r.1 }) r.2

/-- R344: a member gets PREPARE: its bank is placed again if STALE, and it replies. -/
def takePrepare (m : PrepareMsg) (s : State) : State :=
  let j := jobOf 0 0 m.record m.patches m.buffers
  let r := replaceBank (jBank m.record) s
  let c := memberRefusal r.2 r.1 j
  let s2 := (fun t => if c = 0x5031 then noteRefusal c t else t) (noteUnfit (jBank m.record) r.2)
  sendMsg 0 0 "PREPARE_REPLY" (replyBytes { ownReply r.2 j with refused := c })
    (if (bankOf r.2 (jBank m.record)).st = .loaded && c = 0 then holdJob m j s2 else putActive none s2)

/-- R344: PREPARE. -/
def execPrepare (m : PrepareMsg) (s : State) : Res :=
  .next (if takesPrepare s m then
      (if s.fab.part.rank = 0 then
          (if s.jobs.active.isNone && s.life = .loaded then beginLaunch (jobOf 0 0 m.record m.patches m.buffers) false s else s)
        else takePrepare m s)
    else s)

/-- R344: at a head Keeper that waits for replies. -/
def takesReply (s : State) (r : PrepareReply) : Bool :=
  s.fab.part.st = .formed && s.fab.part.rank = 0 && r.rank != 0 && decide (r.rank < s.fab.part.chips) &&
    match s.jobs.active with
    | some a => a.launch.isNone && !(a.replies.any fun x => x.rank = r.rank)
    | none => false

/-- R344: a reply is kept. -/
def keepReply (r : PrepareReply) (s : State) : State :=
  match s.jobs.active with
  | some a => putActive (some { a with replies := insReply r a.replies }) s
  | none => s

/-- R344: PREPARE_REPLY. -/
def execPrepareReply (r : PrepareReply) (s : State) : Res :=
  .next (if takesReply s r then decideLaunch (keepReply r s) else s)

/-- R368: LEADING_LAUNCH_MESSAGE: L from the head Keeper of the lower PID. -/
def execLeadingLaunchMessage (launch : Nat) (s : State) : Res :=
  .next (if higherPid s && s.fab.part.rank = 0 then decideLaunch { s with fab := { s.fab with leadLaunch := some launch } } else s)

/-! ### The GO block -/

/-- A GO block names the job in force. -/
def goMatches (s : State) (g : GoBlk) : Bool :=
  g.pid = s.fab.part.pid && match s.jobs.active with
    | some a => jId a.job.record = g.job && jBank a.job.record = g.bank
    | none => false

/-- R344 step 4, R345: the first GO of a launch. A scope that opened after PREPARE stops the job (R437). -/
def goArm (g : GoBlk) (s : State) : State :=
  match s.jobs.active with
  | none => s
  | some a =>
    let down := s.fab.part.detours
    let s1 := arm a g.watch a.fq (decide (g.watch < s.watch + switchTicks s a.job)) [] s
    if s1.life = .armed && withheld s1 then faulted 0x5031 0 (myRank s1) (raise 0x5031 pgSec 4 0x5031 0 0 s1)
    else if s1.life = .armed then { s1 with fab := { s1.fab with go := some g, part := { s1.fab.part with detours := down } } } else s1

/-- R358: the GO block of a replay. -/
def goReplay (g : GoBlk) (s : State) : State :=
  let s1 := if s.life = .running then takeHold ⟨s.run.step, 0, 0⟩ s else s
  if s1.life != .held || s1.recov.origin.isSome || s1.recov.noReplay.isSome then s1
  else putRecov { s1.recov with origin := some g.watch } { s1 with fab := { s1.fab with go := some g } }

/-- R344, R358: a GO block that arrived on a member link. -/
def takeGo (g : GoBlk) (s : State) : State :=
  if !goMatches s g || s.fab.part.rank = 0 then s
  else if s.life = .loaded then goArm g s
  else if (s.life = .held || s.life = .running) && decide (s.watch < g.watch) then goReplay g s
  else s

/-! ### The switch -/

/-- R238 step 1, R111: a bank's descriptors into the Instruction Store of one Station. -/
def installStation (b : Nat) (r : PlacedSt) (v : Variant) (s : State) : State :=
  let a := r.phys * 0x2000000 + b * 0x200000
  { s with
    istore := wrN s.istore a v.descs.flatten
    istoreBad := s.istoreBad.filter fun w => decide (w < a) || decide (a + 64 * v.ndesc ≤ w) }

/-- R234, R195: the Handle Table of a Station, relocated. -/
def handleTable (s : State) (b : Nat) (v : Variant) : Tbl Handle :=
  match (bankOf s b).img, (bankOf s b).placement with
  | some im, some pl => (handlesOf v).filterMap fun e =>
      (tensorAddr im pl (relocOf v e.1)).map fun a => (e.1, { e.2 with base := e.2.base + a.2 / 4096 })
  | _, _ => []

/-- R232: the bytes of the placer area: turn entries, then the segment table. -/
def placerBytes (v : Variant) : List Byte := (v.turns.flatMap fun t => t.flatMap (leBytes 4)) ++ v.segs.flatMap fun g => g.flatMap (leBytes 4)

/-- The code region of the pairs of a Station is emptied (R89). -/
def dropCode (r : PlacedSt) (s : State) : State :=
  r.wickMap.foldl (fun t p => putWick r.phys p { wickOf t r.phys p with resident := [] } t) s

/-- R144, R112, R214: one engine at launch. -/
def launchEng (v : Variant) (r : PlacedSt) (e : Nat) (s : State) : State :=
  let g := engAt r.phys e
  match v.streams[e]? with
  | none => s
  | some t =>
    let p := (List.range 64).filterMap fun i => (paramDecl s g i).map fun d => (i, BitVec.ofInt 64 d.init)
    putEng g { engReset with present := t.present, pushed := t.pushed, p := if t.present then p else [] } s

/-- R144, R406: seeds and patches. -/
def applyPatches (j : Job) (s : State) : State :=
  (jobWrites j).foldl (fun t w => (patchTargets t (jBank j.record) w.1).foldl (fun u g =>
    putEng g.1 { engOf u g.1 with p := tput (engOf u g.1).p g.2 (BitVec.ofNat 64 w.2) } u) t) s

/-- R238: everything of one Station but the fill. The FIFO pointers are emptied at every launch, not only at the first after the bank is
placed (DESIGN CHOICE, assumption 50: R132 names the placing). -/
def switchStation (b : Nat) (im : Image) (r : PlacedSt) (lst : Nat) (s : State) : State :=
  match im.variants[r.variant]? with
  | none => s
  | some v =>
    let s1 := if (bankOf s b).installed then s else installStation b r v s
    let flags := ((im.flags.getD lst []).zipIdx.filter fun f => f.1 != 0).map fun f => (f.2, f.1)
    let s2 := putStn r.phys { stnOf s1 r.phys with flags := flags, fifos := [], handles := handleTable s1 b v, frozen := false, gallery := [] } s1
    let s3 := pokeMem 0 (r.phys * 0x4000000 + (16384 - placerTiles v) * 4096) (placerBytes v) s2
    (List.range 17).foldl (fun t e => launchEng v r e t) (loadCurves im r (dropCode r s3))

/-- R195: one tensor from the Mooring into SRAM. -/
def fillTensor (k : Mooring) (t : Tensor) (p : Placed) : M Unit :=
  (List.range t.size).forM fun i => copyTileFrom (moorAddr k t.lst (t.moff * 4096 + 4096 * i)) (p.addr + 4096 * i)
where
  copyTileFrom (src dst : Nat) : M Unit := do
    let bs ← readMem 1 src 4096
    writeMem 0 dst bs

/-- R195: every tile of a WEIGHT tensor against its Tally area. -/
def fillVerify (im : Image) (r : PlacedSt) (v : Variant) : M Unit := do
  let s ← get
  (stnOf s r.phys).handles.forM fun e =>
    match tensorIn im (relocOf v e.1) with
    | some t =>
      if t.cls = 0 && e.2.tally != 0 && !e.2.isStream then
        (List.range e.2.tiles).forM fun j => verifyTile r.phys { e.2 with space := 0 } (e.2.base * 4096 + 4096 * j) j j
      else pure ()
    | none => pure ()

/-- R195: the SRAM fill of every Station. -/
def fillSram (k : Mooring) (im : Image) (pl : Placement) : M Unit := do
  im.tensors.forM fun t =>
    if t.cls = 0 || t.cls = 6 then
      match (pl.stations[t.lst]?).bind fun r => r.tensors.find? fun p => p.id = t.id && p.copy = 0 with
      | some p => fillTensor k t p
      | none => pure ()
    else pure ()
  pl.stations.forM fun r => match im.variants[r.variant]? with
    | some v => fillVerify im r v
    | none => pure ()

/-- R352: at launch, the second copies of step 0. -/
def firstCopies (s : State) : M Unit :=
  (ckTensors s).forM fun p => (List.range p.1.size).forM fun i => copyTile p.1.space (p.1.addr + 4096 * i) (p.2.addr + 4096 * i)

/-- R238, R195: the parts of the switch that memory can fail. -/
def switchMem (fresh : Bool) (k : Mooring) (im : Image) (pl : Placement) : M Unit := do
  if fresh then fillSram k im pl else pure ()
  firstCopies (← get)

/-- R195, R188: an uncorrectable read in the switch: a Mooring that lost a tile is FAILED, and 0x2091 ends the job. -/
def fillFailed (f : Fail) (s : State) : State :=
  if f.code = 0x2093 || f.code = 0x2090 then dataLost f s else report f.code pgKpr s

/-- R238: the switch's registers, tables and flags. -/
def switchRegs (a : Active) (im : Image) (pl : Placement) (s : State) : State :=
  let b := jBank a.job.record
  let m := jMooring a.job.record
  let s1 := putBank b { bankOf s b with placement := some { pl with moorBase := (moorOf s m).off } } s
  let s2 := bindUnits b { s1 with engs := [], sb := [], chipFlags := (im.chipFlags.zipIdx.filter fun f => f.1 != 0).map fun f => (f.2, f.1), hostMask := im.hostMask }
  let s2 := { s2 with stations := tmap (fun _ t => { t with flags := [], pausedAt := none }) s2.stations }
  let s3 := pl.stations.zipIdx.foldl (fun t r => switchStation b im r.1 r.2 t) s2
  putBank b { bankOf s3 b with installed := true } (applyPatches a.job { s3 with run := { s3.run with hostBufs := hostBufs s3 a.job } })

/-- R345: a switch that ends after L stands ready for the replay of step 0. -/
def lateReady (s : State) : State :=
  if s.life != .held then s
  else
    let c := ckNow s 0 0 (match s.jobs.active with
      | some a => a.launch.getD 0 * 1024
      | none => 0)
    putRecov { s.recov with rolledBack := true } (putSlot 0 c { s with run := { s.run with step := 0, rec_ := 0, start := c.start } })

/-- R238: the switch ends. -/
def switchDone (us : List Upset) (s : State) : State :=
  match s.jobs.active with
  | none => s
  | some a =>
    let b := jBank a.job.record
    let m := jMooring a.job.record
    match (bankOf s b).img, (bankOf s b).placement with
    | some im, some pl =>
      let s1 := switchRegs a im pl (strikes us s)
      match (switchMem (!bound s a.job) (moorOf s m) im pl).go s1 with
      | (.ok _, s2) =>
        lateReady (putActive (some { a with switched := true }) { s2 with run := { s2.run with bound := some (b, some m) } })
      | (.error f, s2) => fillFailed f (forgetBank b s2)
    | _, _ => s

/-- The switch is in progress, its input copies are in, and the chip waits for L or for a replay of step 0. -/
def switchPending (s : State) : Bool :=
  (s.life = .armed || s.life = .held) && match s.jobs.active with
    | some a => a.switching && !a.switched && a.dma.isEmpty
    | none => false

/-- R238: SWITCH_COMPLETE. -/
def execSwitchComplete (us : List Upset) (s : State) : Res := .next (if switchPending s then switchDone us s else s)

/-! ### L -/

/-- R381, R382: the hashes that are taken at L. -/
def launchHashes (s : State) (a : Active) (input : List Byte) : Active :=
  let b := jBank a.job.record
  { a with
    inputHash := input, darkHash := (((bankOf s b).placement.map Placement.darkHash).getD []), placeHash := placementHash s b }

/-- R344 step 5, R267, R351: the job runs from step 0 at L. -/
def launchRun (a : Active) (l : Nat) (s : State) : State :=
  let s1 := putActive (some a) s
  let s2 := releaseAll { s1 with
    life := .running
    run := { s1.run with l1024 := l * 1024, step := 0, rec_ := 0, start := l * 1024, forkId := none, forkValue := none, gen := 0, grid := l }
    fab := { s1.fab with go := none, comparing := jLeading a.job.record && s1.fab.leading.isSome, leadOwn := [], leadTheirs := [] } }
  noteDetours 0 l (putSlot 0 (ckNow s2 0 0 (l * 1024)) s2)

/-- R345: the member does not start: 0x3023, and a hold of step 0. -/
def launchLate (a : Active) (l : Nat) (s : State) : State :=
  let s1 := putActive (some { a with lateLaunch := true }) (timEvent 0x3023 5 (offNow s) 0 s)
  let c := ckNow s1 0 0 (l * 1024)
  let s2 := { (putSlot 0 c s1) with
    life := .held
    run := { s1.run with l1024 := l * 1024, step := 0, rec_ := 0, start := l * 1024, forkId := none, forkValue := none, gen := 0, grid := l }
    fab := { s1.fab with go := none, comparing := jLeading a.job.record && s1.fab.leading.isSome, leadOwn := [], leadTheirs := [] } }
  let h : Hold := ⟨0, 0x3023, myRank s⟩
  if replayOff s2 then heldNoReplay h (sendHold h s2)
  else
    let s3 := fixOrigin (sendHold h s2)
    putRecov { s3.recov with holds := [h], target := some 0, rolledBack := a.switched } s3

/-- R344, R345: the Watch reaches L. An input buffer that cannot be read ends the job (R188). -/
def atLaunch (a : Active) (l : Nat) (s : State) : State :=
  match (bufHash a.job 0).go s with
  | (.ok h, t) =>
    let a1 := launchHashes t a h
    if a.switched && !a.lateLaunch then launchRun a1 l t else launchLate a1 l t
  | (.error f, t) => dataLost f t

/-- R344: LAUNCH_WATCH. -/
def execLaunchWatch (s : State) : Res :=
  .next (match s.jobs.active with
    | some a => match a.launch with
      | some l => if s.life = .armed then atLaunch a l (watchTo l s) else s
      | none => s
    | none => s)

end Sys2Proof.Machine
end

