-- ==== Sys2Proof/Machine/Ends.lean ====
section
/-! DEFINITION. How jobs end: host DMA (R408), END_JOB (R411), DRAINING (R415), the certificates of the Ledger (R387 to R389), and Leading
pairs (R367 to R370). -/

namespace Sys2Proof.Machine

/-! ### Host DMA -/

/-- R408: the next copy of the job in force, and the active job without it. -/
def nextDma (s : State) : Option (Active × Dma) :=
  match s.jobs.active with
  | some a => match a.dma with
    | d :: r => some ({ a with dma := match r with
        | [] => []
        | e :: q => { e with started := s.watch } :: q }, d)
    | [] => none
  | none => none

/-- R408, R183, R185: one copy, under the code of the device memory: into it, or out to the host. -/
def dmaCopy (d : Dma) (data : List Byte) : M Unit :=
  if d.out then do
    let bs ← readMem d.space d.addr d.len
    modify (emit (.hostWrite d.host bs))
  else writeMem d.space d.addr (slice data 0 d.len)

/-- R408: one copy ends; one that meets an uncorrectable word ends the job (R188). -/
def dmaDone (a : Active) (d : Dma) (data : List Byte) (s : State) : State :=
  match (dmaCopy d data).go (putActive (some a) s) with
  | (.ok _, s1) => s1
  | (.error f, s1) => dataLost f s1

/-- R408: HOST_DMA_COMPLETE. -/
def execHostDmaComplete (data : List Byte) (s : State) : Res :=
  .next (match nextDma s with
    | some (a, d) => dmaDone a d data s
    | none => s)

/-- R408: 0x20B1: before launch the job is refused; in DRAINING it goes on without the copy. -/
def dmaFails (a : Active) (s : State) : State :=
  if s.life = .armed then refuseLaunch 0x20B1 { s with life := .loaded }
  else if s.life = .draining then putActive (some { a with dmaFailed := true }) s
  else s

/-- R408: HOST_DMA_TIMEOUT: 50 ms. -/
def execHostDmaTimeout (s : State) : Res :=
  .next (match nextDma s with
    | some (a, d) => dmaFails a (dmaError (watchTo (d.started + 50000000) s))
    | none => s)

/-! ### END_JOB -/

/-- R411: the first step from k on whose S(k) lies at or after a time in 1/1,024 tick, along consecutive step records. -/
def firstStepAt (s : State) (t : Nat) : Nat → Nat → Nat → Nat → Nat
  | 0, k, _, _ => k
  | n + 1, k, rec_, start =>
    if t ≤ start then k
    else firstStepAt s t n (k + 1) (rec_ + 1)
      (start + max 1 ((((bankOf s s.run.bank).img.bind fun im => im.steps[rec_]?).map StepRec.period).getD 1) * s.run.fq)

/-- R411: the step at which a job in RUNNING ends. -/
def pickEnd (s : State) : Nat :=
  firstStepAt s ((s.watch + 50000) * 1024) 60000 (s.run.step + 1) (s.run.rec_ + 1) (nextStart1024 s)

/-- The END_JOB command waits for its job to end (R410). -/
def waitEnd (id : Nat) (o : CmdFrom) (s : State) : State := { s with jobs := { s.jobs with endCmds := s.jobs.endCmds ++ [(id, o)] } }

/-- R411: the end step, at the head Keeper and at every member. -/
def sendEnd (s : State) : State :=
  toMembers "END_JOB_STEP" (leBytes 4 (pickEnd s)) { s with run := { s.run with endStep := some (pickEnd s) } }

/-- R365, R411: a job HELD without replay drains at once, with its original cause. -/
def drainHeld (cause : Nat) (s : State) : State :=
  startDrain 0x20B3 cause ((s.recov.holds.head?.map Hold.rank).getD 0) s.recov.committed s

/-- R411: END_JOB on the job in force. The members of a partition HELD without replay drain with their head (DEDUCED, assumption 22). -/
def endActive (id : Nat) (o : CmdFrom) (s : State) : State :=
  match s.recov.noReplay with
  | some c => drainHeld c (toMembers "END_JOB_STEP" (leBytes 4 s.run.step) (waitEnd id o s))
  | none => sendEnd (waitEnd id o s)

/-- R411: END_JOB. A job that waits is not RUNNING or HELD; any other JOB_ID is of a job already complete. -/
def cmdEndJob : CmdBody := fun o args s =>
  let id := field args 0 8
  if (s.jobs.active.map fun a => jId a.job.record) = some id then
    (if s.fab.part.st = .formed && s.fab.part.rank != 0 then cmdConflict o s else endActive id o s)
  else if s.jobs.waiting.any fun j => jId j.record = id then cmdConflict o s
  else cmdDone o 0 [] s

/-- R411: END_JOB on the admin queue. -/
def execEndJob (c : CmdRec) (s : State) : Res := .next (adminRun c 8 [] runOrHeld cmdEndJob s)

/-- R411: a member gets the end step; one that is HELD without replay drains. -/
def takeEndStep (k : Nat) (s : State) : State :=
  match s.recov.noReplay with
  | some c => drainHeld c s
  | none => { s with run := { s.run with endStep := some k } }

/-- R411: END_JOB_STEP_MESSAGE. -/
def execEndJobStepMessage (k : Nat) (s : State) : Res :=
  .next (if runOrHeld s && s.fab.part.st = .formed && s.fab.part.rank != 0 then takeEndStep k s else s)

/-! ### DRAINING -/

/-- R369: the entries of the last step are committed with the job's end. -/
def commitRest (s : State) : State :=
  let s1 := { s with run := { s.run with leadLog := [] } }
  if s.fab.comparing then
    leadCompare (toCounterpart "LEADING_ENTRIES" s.run.leadLog.flatten
      { s1 with fab := { s1.fab with leadOwn := s1.fab.leadOwn ++ s.run.leadLog } })
  else s1

/-- R415: DRAINING ends, unless the last entries diverge (R370). -/
def drainEnd (s : State) : State :=
  let s1 := commitRest s
  match s1.jobs.active with
  | some a => finishDrain a s1
  | none => s1

/-- R415: DRAIN_COMPLETE. -/
def execDrainComplete (s : State) : Res :=
  .next (if s.life = .draining && (nextDma s).isNone then drainEnd s else s)

/-! ### Certificates -/

/-- R388: a certificate. -/
def certBytes (s : State) (kind : Nat) (body : List Byte) (len pid job : Nat) (sig : List Byte) : List Byte :=
  leBytes 4 0x54434A46 ++ leBytes 2 1 ++ leBytes 2 kind ++ leBytes 8 (keyId (daymark s)) ++ slice body 0 32 ++ leBytes 4 len ++
    leBytes 4 pid ++ leBytes 8 job ++ slice sig 0 2420 ++ leBytes 12 0

def putEnded (es : List Ended) (s : State) : State := { s with jobs := { s.jobs with ended := es } }

/-- The record of an ended job, by its slot. -/
def setEnded (e : Ended) (s : State) : State := putEnded (s.jobs.ended.map fun x => if x.slot = e.slot then e else x) s
def dropEnded (e : Ended) (s : State) : State := putEnded (s.jobs.ended.filter fun x => x.slot != e.slot) s

/-- R414: nothing more is owed for the job. -/
def closeEnded (cert : Bool) (e : Ended) (s : State) : State := dropEnded e (postJob e cert s)

/-- R393: a certificate was signed. -/
def countSigned (s : State) : State := regCount (pageBase pgLdg + 0x4C) s

/-- R389: the member is not the head Keeper of the partition of the job. -/
def notHeadOf (e : Ended) : Bool := decide (1 < e.chips) && e.rank != 0

/-- R387 to R389: the member certificate is signed; a member sends it to its head Keeper. -/
def signMember (e : Ended) (sig : List Byte) (s : State) : State :=
  let c := certBytes s 1 e.recHash e.recLen e.pid e.jobId sig
  let s1 := countSigned (putSlotState e.slot 2 (pokeMem 1 (slotAddr e.slot + 0x3C000) c s))
  if notHeadOf e then closeEnded false e (sendMsg 0 0 "MEMBER_CERT" c s1)
  else if e.parted then closeEnded false e s1
  else setEnded { e with signed := true, certs := tput e.certs 0 c } s1

/-- R389: every member certificate has come. -/
def gathered (e : Ended) : Bool := (List.range e.chips).all fun r => (tget? e.certs r).isSome

/-- R389: the Merkle root over the member certificates. -/
def certRoot (e : Ended) : List Byte :=
  ((rootOf 64 ((List.range e.chips).map fun r => leafOf r (tget [] e.certs r))).head?).getD []

/-- R389: the partition certificate is signed and written. -/
def signPartition (e : Ended) (sig : List Byte) (s : State) : State :=
  let c := certBytes s 2 (certRoot e) e.chips e.pid e.jobId sig
  closeEnded true e (countSigned (pokeMem 1 (slotAddr e.slot + 1) [1] (pokeMem 1 (slotAddr e.slot + 0x3C9C0) c s)))

/-- R437: the Daymark is withheld: the slot stays INCOMPLETE. -/
def leaveIncomplete (e : Ended) (s : State) : State := closeEnded false e (putSlotState e.slot 3 (noteWithheld s))

/-- R387, R389: the job whose signature is in progress: member certificates first. -/
def signingJob (s : State) : Option Ended := (s.jobs.ended.find? fun e => !e.signed).or (s.jobs.ended.find? gathered)

/-- R438: the signature in progress when a scope opens will complete. -/
def keepSigning (s : State) : State :=
  match signingJob s with
  | some e => setEnded { e with begun := true } s
  | none => s

/-- R428, R437, R438: a signature is refused once the Daymark is killed, and while it is withheld, but for one in progress by then. -/
def refusesSign (s : State) (e : Ended) : Bool := s.kpr.fuses.kill || (withheld s && !e.begun)

/-- R387, R389: the signature in progress ends. -/
def signNext (sig : List Byte) (s : State) : State :=
  match signingJob s with
  | some e =>
    let e1 := { e with begun := false }
    if !e.signed then (if refusesSign s e then leaveIncomplete e1 s else signMember e1 sig s)
    else if refusesSign s e then closeEnded false e1 (noteWithheld s) else signPartition e1 sig s
  | none => s

/-- R387: LEDGER_SIGN_COMPLETE. -/
def execLedgerSignComplete (signature : List Byte) (s : State) : Res := .next (if s.jobs.halted then s else signNext signature s)

/-- The ended job that a member certificate is of, while certificates are gathered. -/
def certFor (s : State) (rank : Nat) (cert : List Byte) : Option Ended :=
  s.jobs.ended.find? fun e => !e.parted && e.rank = 0 && decide (rank < e.chips) && rank != 0 &&
    field cert 0x38 8 = e.jobId && field cert 0x34 4 = e.pid && (tget? e.certs rank).isNone

/-- R389: a member certificate is kept; with the last one the partition certificate is signed. -/
def takeCert (e : Ended) (rank : Nat) (cert sig : List Byte) (s : State) : State :=
  let e1 := { e with certs := tput e.certs rank cert }
  if gathered e1 && !daymarkOff s then signPartition e1 sig (setEnded e1 s) else setEnded e1 s

/-- R389: MEMBER_CERT_RX. -/
def execMemberCertRx (rank : Nat) (cert : List Byte) (signature : List Byte) (s : State) : Res :=
  .next (match certFor s rank cert with
    | some e => if s.jobs.halted then s else takeCert e rank cert signature s
    | none => s)

/-- The oldest job whose certificates are still missing. -/
def gathering (s : State) : Option Ended :=
  s.jobs.ended.find? fun e => !e.parted && decide (1 < e.chips) && e.rank = 0 && !gathered e

/-- R389: the first missing rank. -/
def firstUncertified (e : Ended) : Nat := ((List.range e.chips).find? fun r => (tget? e.certs r).isNone).getD 0

/-- R389: 0x5020; no partition certificate. -/
def gatherFails (e : Ended) (s : State) : State :=
  let s1 := raise 0x5020 pgLdg 3 0x5020 (e.jobId % 2 ^ 32) (firstUncertified e) s
  if e.signed then closeEnded false e s1 else setEnded { e with parted := true } s1

/-- R389: CERT_GATHER_TIMEOUT, 1 s after the job's end. -/
def execCertGatherTimeout (s : State) : Res :=
  .next (match gathering s with
    | some e => if s.jobs.halted then s else gatherFails e (watchTo (e.endedAt + 1000000000) s)
    | none => s)

/-- R387: LEDGER_DEFERRED_WRITE. -/
def execLedgerDeferredWrite (s : State) : Res :=
  .next (if s.life = .running then s
    else s.jobs.deferred.foldl (fun t e => bookRecord e.1 e.2 t) { s with jobs := { s.jobs with deferred := [] } })

/-! ### Leading pairs -/

/-- R367: PERM entries of a physical dimension. -/
def permOf (r : List Byte) (d : Nat) : List Byte :=
  match (List.range 4).find? fun k => prDimmap r k = d with
  | some k => slice r (0x20 + 25 * k) 25
  | none => []

/-- R367: a Leading record is valid for this chip's partition and the other's record. -/
def leadingOk (s : State) (r other : List Byte) : Bool :=
  let mine := s.fab.part.record
  let d := field r 6 1
  r.length = 32 && field r 0 4 = 0x4441454C && field r 4 2 = 1 && decide (d < 4) && field r 7 1 = 0 && zeroBytes (slice r 0x10 16) &&
    s.fab.part.st = .formed && other.length = 144 && prPid other != prPid mine &&
    ((field r 8 4 = prPid mine && field r 0xC 4 = prPid other) || (field r 8 4 = prPid other && field r 0xC 4 = prPid mine)) &&
    field other 0x0C 1 = field mine 0x0C 1 &&
    ((List.range 4).all fun x => x = d || (prMask other x = prMask mine x && permOf other x = permOf mine x)) &&
    Nat.land (prMask other d) (prMask mine d) = 0 && popN 25 (prMask other d) = popN 25 (prMask mine d)

/-- R367: the pair link: along DIM to the counterpart's coordinate. -/
def pairLinkOf (s : State) (r other : List Byte) : Option Nat :=
  ((List.range 4).find? fun k => prDimmap other k = field r 6 1).bind fun k =>
    ((prCoords other k)[nth s.fab.part.self k]?).map (linkTo s (field r 6 1))

/-- R367: LEADING_SET. -/
def cmdLeadingSet (r other : List Byte) : CmdBody := fun o _ s =>
  if leadingOk s r other then cmdDone o 0 [] { s with fab := { s.fab with leading := some r, pairLink := pairLinkOf s r other } }
  else cmdDone o 0x3030 [] (report 0x3030 pgKpr s)

/-- R367: LEADING_SET on the admin queue. -/
def execLeadingSet (c : CmdRec) (record : List Byte) (other : List Byte) (s : State) : Res :=
  .next (adminRun c 8 [] inRL (cmdLeadingSet record other) s)

/-- R367: LEADING_CLEAR. -/
def cmdLeadingClear : CmdBody := fun o _ s =>
  cmdDone o 0 [] { s with fab := { s.fab with leading := none, pairLink := none, comparing := false, leadOwn := [], leadTheirs := [] } }

/-- R367: LEADING_CLEAR on the admin queue. -/
def execLeadingClear (c : CmdRec) (s : State) : Res := .next (adminRun c 0 [] inRL cmdLeadingClear s)

/-- R369: LEADING_ENTRIES_RX. -/
def execLeadingEntriesRx (entries : List (List Byte)) (s : State) : Res :=
  .next (if s.fab.comparing then leadCompare { s with fab := { s.fab with leadTheirs := s.fab.leadTheirs ++ entries } } else s)

/-- R370: DIVERGENCE_MESSAGE: the counterpart's entry and the one of this chip that it differs from. -/
def execDivergenceMessage (entry theirs : List Byte) (s : State) : Res :=
  .next (if s.fab.comparing then diverged theirs entry { s with fab := { s.fab with comparing := false } } else s)

end Sys2Proof.Machine
end

