-- ==== Sys2Proof/Machine/LinkOps.lean ====
section
/-! DEFINITION. What every part of the link layer shares: events of a LNK page (R322), how a link leaves UP (R318, R319), the error limit,
fencing (R317), DOWN (R314), and the Bulk queues of the chip (R303, R313). -/

namespace Sys2Proof.Machine

/-- A register of a link's page. -/
def lnkReg (l off : Nat) : Nat := pageBase (pgLnk l) + off

/-- R322: an event of a link's page: code and state, the partner's claimed chip number, and the detail. -/
def linkEvent (l code bit detail : Nat) (s : State) : State :=
  raise code (pgLnk l) bit (code + linkCode (linkOf s l).st * 2 ^ 16) (linkOf s l).claimed detail s

/-- R322: LEFT_UP, an event without a status code. -/
def leftUp (l : Nat) (s : State) : State :=
  setEvent (pgLnk l) 0 (linkCode (linkOf s l).st * 2 ^ 16) (linkOf s l).claimed 0 s

/-- Hardware adds to a saturating 32-bit counter. -/
def regAddSat (a n : Nat) (s : State) : State := regPut a (min 0xFFFFFFFF (regGet s a + n)) s

/-- R314: a link in DOWN, with the Watch of its next try; the Bulk flits that wait stay. -/
def downFrom (s : State) (k : Link) : Link :=
  { linkReset with
    cable := k.cable, bulkQ := k.bulkQ, rxBulk := k.rxBulk, errAt := k.errAt, flashAt := s.watch
    retryAt := s.watch + k.backoff, backoff := min (2 * k.backoff) 1000000000 }

def toDown (l : Nat) (s : State) : State := putLink l (downFrom s (linkOf s l)) s

/-- R318: GRACE of a link, in ticks. -/
def graceTicks (s : State) (l : Nat) : Nat := bits (regGet s (lnkReg l 0x40)) 13 0 * 1000

/-- R311: ACK_TIMEOUT of a link, in ticks. -/
def ackTicks (s : State) (l : Nat) : Nat := bits (regGet s (lnkReg l 0x40)) 25 16 * 1000

/-- R318, R319: a link leaves UP for RESUME and its GRACE starts; R263 handles a member link at once. -/
def leaveUp (l : Nat) (s : State) : State :=
  if (linkOf s l).st != .up then s
  else
    let s1 := leftUp l s
    linkLost l (putLink l { linkOf s1 l with st := .resume, graceAt := some (s.watch + graceTicks s l), nonceSent := [] } s1)

/-! ### Bulk -/

/-- R303: one flit of a message joins its parts. -/
def addPart (f : BulkFlit) (m : BulkMsg) : BulkMsg :=
  { m with
    parts := tput m.parts (hBIndex f.header) (f.payload.take (hLen f.header))
    last := if hLast f.header then some (hBIndex f.header) else m.last }

/-- A message is complete. -/
def msgWhole (m : BulkMsg) : Bool :=
  match m.last with
  | some n => m.parts.length = n + 1
  | none => false

/-- The message of a flit, so far. -/
def msgOf (s : State) (f : BulkFlit) : BulkMsg :=
  (s.fab.bulk.find? fun m => m.src = hSrc f.header && m.msgid = hMsgid f.header).getD
    ⟨hSrc f.header, hMsgid f.header, hBchan f.header, [], none⟩

/-- R194: a Mooring fill message: an 8-byte DRAM address and the weight bytes, written where they lie in one FILLING Mooring's extent,
else dropped (DESIGN CHOICE, assumption 51: the spec gives the message no layout). -/
def bulkFill (bs : List Byte) (s : State) : State :=
  let a := field bs 0 8
  let data := bs.drop 8
  match mooringAt s a with
  | some m =>
    let k := moorOf s m
    if k.st = .filling && decide (a < 0x2000000000) && decide (a % 0x200000000 + data.length ≤ k.off + k.len)
      then ((writeMem 1 a data).go s).2 else s
  | none => s

/-- R303: a whole message goes to the endpoint that its BCHAN names; Mooring fill writes weight blocks (R194). -/
def bulkArrives (m : BulkMsg) (s : State) : State :=
  let bs := m.parts.flatMap Prod.snd
  emit (.bulk m.bchan m.src bs) (if m.bchan = 1 then bulkFill bs s else s)

/-- R303: reassembly by (SRC, MSGID, INDEX); a duplicate is dropped, and a whole message goes to the endpoint of its BCHAN. -/
def takeBulk (f : BulkFlit) (s : State) : State :=
  let key := (hSrc f.header, hMsgid f.header)
  let m := msgOf s f
  if s.fab.bulkDone.contains key || (tget? m.parts (hBIndex f.header)).isSome then s
  else
    let m1 := addPart f m
    let rest := s.fab.bulk.filter fun x => !(x.src = key.1 && x.msgid = key.2)
    if msgWhole m1 then
      bulkArrives m1
        { s with fab := { s.fab with bulk := rest, bulkDone := (key :: s.fab.bulkDone).take 1024 } }
    else { s with fab := { s.fab with bulk := rest ++ [m1] } }

/-- R313: Flashes of one round trip, plus 4. -/
def offRoom (k : Link) : Nat := ceilDiv (2 * pathDelay k) (flashTicks k.rate) + 4

/-- R313: OFF is set above 128 − H flits and cleared at 32 or fewer. -/
def setOff (l : Nat) (s : State) : State :=
  let k := linkOf s l
  let n := k.rxBulk.length
  putLink l { k with offOut := if 128 < n + offRoom k then true else if n ≤ 32 then false else k.offOut } s

/-- R303: the receive buffer of a link empties into this Keeper and into the queues that have room, oldest first. -/
def drainRx (l : Nat) : Nat → State → State
  | 0, s => s
  | n + 1, s =>
    match (linkOf s l).rxBulk with
    | [] => s
    | f :: r =>
      let s1 := putLink l { linkOf s l with rxBulk := r } s
      match bulkRoute s (hDest f.header) with
      | none => drainRx l n (takeBulk f s1)
      | some o => if (linkOf s1 o).bulkQ.length < 128 then drainRx l n (pushBulk o f s1) else s

/-- A queue has gained room: every receive buffer is tried, and this Keeper's own flits. -/
def drainAll (s : State) : State :=
  drainOut ((List.range 96).foldl (fun t l => if (linkOf t l).rxBulk.isEmpty then t else setOff l (drainRx l 128 t)) s)

/-! ### Fencing and the error limit -/

/-- R314, R317: a link is fenced; what it held for its partner goes. The code's event is captured, as the worked
example of R479 shows. -/
def fence (l code bit detail : Nat) (s : State) : State :=
  let k := linkOf s l
  let s1 := linkEvent l code bit detail s
  let s2 := if k.st = .up then leftUp l s1 else s1
  let s3 := putLink l { linkReset with st := .fenced, cable := k.cable, claimed := k.claimed, rxBulk := k.rxBulk } s2
  drainAll (if k.st = .up then linkLost l s3 else s3)

/-- R319: one CRC failure, tag failure or NAK request more; at the limit within one second 0x4012 is raised and the link leaves UP. -/
def noteErr (l : Nat) (s : State) : State :=
  let k := linkOf s l
  let es := s.watch :: k.errAt.filter fun w => decide (s.watch < w + 1000000000)
  let lim := bits (regGet s (lnkReg l 0x44)) 15 0
  if lim != 0 && decide (lim ≤ es.length) && k.st = .up then
    leaveUp l (linkEvent l 0x4012 6 k.expect (putLink l { k with errAt := [] } s))
  else putLink l { k with errAt := es } s

end Sys2Proof.Machine
end

