-- ==== Sys2Proof/Machine/Transmit.lean ====
section
/-! DEFINITION. The transmitter of a link (R267 to R269, R288, R298 to R311, R317): what one Flash carries. -/

namespace Sys2Proof.Machine

/-! ### Frames on the wire -/

/-- R316, R317: direction byte of the frames that this chip sends on a link: 0x01 from the initiator. -/
def dirTx (s : State) (l : Nat) : Nat := if chipNo s < (linkOf s l).claimed then 1 else 2
def dirRx (s : State) (l : Nat) : Nat := 3 - dirTx s l

/-- R317: one more frame sent under the key; after 2^20 the key is replaced. -/
def sentOne (k : Link) : Link :=
  if !k.sealed then k
  else if k.sentUnder + 1 = 2 ^ 20 then { k with sentUnder := 0, keyTx := ratchet k.keyTx }
  else { k with sentUnder := k.sentUnder + 1 }

/-- R298, R300, R317: a frame leaves on a link. -/
def transmit (l header : Nat) (payload : List Byte) (s : State) : State :=
  let k := linkOf s l
  let body := headerBytes header ++ slice payload 0 256
  let c := if k.sealed then sealFrame k.keyTx (dirTx s l) k.sentUnder body else (body, leBytes 4 (crc32 body))
  emit (.wire l (frameWire c.1 c.2)) (putLink l (sentOne k) s)

/-- R305, R308, R313: the ACK block goes into a payload of 256 bytes; a NAK request is sent once, and an OFF that has been sent ends
when the receive buffer holds 32 flits or fewer. -/
def withAck (k : Link) (payload : List Byte) : List Byte := putField (slice payload 0 256) 0x40 8 (ackBlock k)
def nakSent (l : Nat) (s : State) : State :=
  let k := linkOf s l
  putLink l { k with nak := none, offOut := k.offOut && decide (32 < k.rxBulk.length) } s

/-- R306, R307: a new DATA or CONTROL frame takes the next SEQ and enters the replay buffer. -/
def sendNew (l : Nat) (kind : TxKind) (header : Nat) (payload : List Byte) (s : State) : State :=
  let k := linkOf s l
  let h := withSeq header k.seq
  let e : TxEntry := ⟨k.seq, kind, s.run.gen, h, payload, false⟩
  transmit l h payload (putLink l { k with seq := (k.seq + 1) % 4096, buf := k.buf ++ [e]
                                           ackAt := if k.buf.isEmpty then s.watch else k.ackAt } s)

/-- R301: a LINK frame. -/
def sendLink (l : Nat) (s : State) : State := nakSent l (transmit l 2 (linkPayload (linkOf s l)) s)

/-! ### CONTROL frames -/

/-- R304: hold and fork fields. -/
def holdField (h : Option Hold) : List Byte :=
  match h with
  | some h => leBytes 2 1 ++ leBytes 2 h.cause ++ leBytes 4 h.step ++ leBytes 4 h.rank ++ leBytes 4 0
  | none => List.replicate 16 0
def forkField (f : Option ForkMsg) : List Byte :=
  match f with
  | some f => leBytes 1 1 ++ leBytes 1 f.id ++ leBytes 2 0 ++ leBytes 4 f.step ++ leBytes 8 f.value
  | none => List.replicate 16 0

/-- R304: the payload of a CONTROL frame; the time frame is zero where it is void. -/
def ctlPayload (h : Option Hold) (f : Option ForkMsg) (time : List Byte) : List Byte :=
  holdField h ++ forkField f ++ List.replicate 96 0 ++ slice time 0 128

/-- R269: the hold that waits for a member link. -/
def holdDue (s : State) (l : Nat) : Option Hold :=
  if isMember s l then (s.recov.sends.find? fun e => e.2.contains l).map Prod.fst else none

/-- The first waiting hold of a link has gone out on it. -/
def dropSend (l : Nat) : List (Hold × List Nat) → List (Hold × List Nat)
  | [] => []
  | e :: r =>
    if e.2.contains l then (let ls := e.2.filter (· != l); if ls.isEmpty then r else (e.1, ls) :: r)
    else e :: dropSend l r

/-- R269: the fork value that waits for a link. -/
def forkDue (s : State) (l : Nat) : Option ForkMsg := if isMember s l && s.fab.forkLinks.contains l then s.fab.fork else none

/-- R304: PID of a CONTROL frame: the partition's on a member link, else 0. -/
def ctlPid (s : State) (l : Nat) : Nat := if isMember s l then s.fab.part.pid else 0

/-- R269: a control flit with what waits for the link. With the replay buffer full a LINK frame goes (assumption 21). -/
def sendControl (l : Nat) (time : List Byte) (s : State) : State :=
  let k := linkOf s l
  if 1024 ≤ k.buf.length then sendLink l s
  else
    let p := withAck k (ctlPayload (holdDue s l) (forkDue s l) time)
    let s1 := nakSent l (sendNew l .control (ctlHeader false (ctlPid s l)) p s)
    { s1 with
      recov := { s1.recov with sends := dropSend l s1.recov.sends }
      fab := { s1.fab with forkLinks := s1.fab.forkLinks.filter (· != l) } }

/-! ### The fork Flash -/

/-- R293: FORK_LEAD in 1/1,024 tick. -/
def forkLead1024 (s : State) : Nat := hb1024 s + 100 * 1024

/-- R293: a control Flash is the fork Flash of the step. -/
def isForkFlash (s : State) (f : FlashAt) : Bool :=
  let bound := ceilDiv (nextStart1024 s) 1024 * 1024
  f.part && isControlFlash f.num && decide (f.start * 1024 + forkLead1024 s ≤ bound) &&
    decide (bound < gridStart s (f.num + 100) * 1024 + forkLead1024 s)

/-- R171, R293: the decider's chip places v in the fork Flash, or raises 0x2010 when it had not issued 4 ticks before. -/
def atFork (f : FlashAt) (s : State) : State :=
  if s.life != .running || s.fab.fork.isSome || !isForkFlash s f then s
  else match deciderOf s with
    | none => s
    | some g =>
      let e := engOf s g
      match e.forkId, s.run.forkValue with
      | some id, some v =>
        if e.lastAct + 4 ≤ f.start then
          { s with fab := { s.fab with fork := some ⟨id, s.run.step, v⟩, forkLinks := memberLinks s } }
        else forkFault s
      | _, _ => forkFault s

/-! ### Replay -/

/-- R309: the oldest entry that has to go again, of Bulk or of the other kinds. -/
def againOf (k : Link) (bulk : Bool) : Option TxEntry := k.buf.find? fun e => e.again && (e.kind = .bulk) == bulk

/-- An entry has gone again. -/
def wentAgain (l seq : Nat) (s : State) : State :=
  let k := linkOf s l
  putLink l { k with buf := k.buf.map fun e => if e.seq = seq then { e with again := false } else e } s

/-- R310: the filler of a Scheduled entry whose grid has passed a later origin. -/
def filler (seq : Nat) : Nat := withSeq (ctlHeader true 0) seq

/-- R310, R250: an entry that never goes again: a Scheduled flit whose grid has passed a later origin, or is not this link's any more, and a
Control flit of a partition that the link no longer joins (DESIGN CHOICE for the Control flit, assumption 21). -/
def staleEntry (s : State) (l : Nat) (e : TxEntry) : Bool :=
  match e.kind with
  | .bulk => false
  | .scheduled => e.epoch != s.run.gen || !onPartitionGrid s l
  | .control => hPid e.header != 0 && hPid e.header != ctlPid s l

/-- R304, R309, R310: an entry goes again under its SEQ. -/
def resend (l : Nat) (e : TxEntry) (s : State) : State :=
  let s1 := regCount (lnkReg l 0x88) (wentAgain l e.seq s)
  let k := linkOf s1 l
  if staleEntry s1 l e then nakSent l (transmit l (filler e.seq) (withAck k []) s1)
  else match e.kind with
  | .bulk | .scheduled => transmit l e.header e.payload s1
  | .control =>
    nakSent l (transmit l (if hReplay e.header then e.header else e.header + 2 ^ 14) (withAck k e.payload) s1)

/-! ### Retry Flashes -/

/-- R307: a Scheduled flit meets 1,008 entries outstanding. -/
def bufferFull (l : Nat) (s : State) : State :=
  detect 0x4021 (.link (Fin.ofNat 96 l)) none (linkEvent l 0x4021 7 (linkOf s l).seq s)

/-- R310, R312: late transit flits of an earlier generation go. -/
def freshLate (s : State) (l : Nat) : List LateFlit := (linkOf s l).late.filter fun f => f.epoch = s.run.gen

/-- R291: a late transit flit leaves in a retry Flash. -/
def sendLate (l : Nat) (f : LateFlit) (s : State) : State :=
  sendNew l .scheduled f.header f.payload (putLink l { linkOf s l with late := (freshLate s l).drop 1 } s)

/-- R269: what a retry Flash carries: a hold or fork value, else a replay, else a late transit flit, else nothing but a LINK frame. -/
def retryFlash (l : Nat) (s : State) : State :=
  if (holdDue s l).isSome || (forkDue s l).isSome then sendControl l [] s
  else match againOf (linkOf s l) false with
    | some e => resend l e s
    | none => match freshLate s l with
      | f :: _ => if 1008 ≤ (linkOf s l).buf.length then sendLink l (bufferFull l s) else sendLate l f s
      | [] => sendLink l s

/-! ### Schedulable Flashes -/

/-- The Station and the SEND's flit that leave on a link in a Flash. -/
def departing (s : State) (l f : Nat) : Option (Fin 16 × DepFlit) :=
  (List.finRange 16).findSome? fun (st : Fin 16) =>
    ((portOf s st).dep.find? fun d => d.link = l && d.origin = f).map fun d => (st, d)

/-- R289: a schedule violation, with the link, the origin Flash and the tag of the flit. -/
def violation (l origin stag : Nat) (s : State) : State :=
  detect 0x3010 (.link (Fin.ofNat 96 l)) none (raise 0x3010 pgXch 0 (0x3010 + l * 2 ^ 16) (origin + stag * 2 ^ 20) 0 s)

/-- A Scheduled flit takes its occupancy on a link and leaves. -/
def sendSched (l header start : Nat) (payload : List Byte) (s : State) : State :=
  sendNew l .scheduled header payload (putLink l { linkOf s l with occ := (linkOf s l).occ ++ [start] } s)

/-- R280, R289, R307: a SEND's flit leaves its departure buffer. -/
def depart (l : Nat) (f : FlashAt) (st : Fin 16) (d : DepFlit) (s : State) : State :=
  let k := linkOf s l
  if 1008 ≤ k.buf.length then sendLink l (bufferFull l s)
  else if k.occ.any (occOverlap f.ticks f.start) then violation l d.origin d.stag s
  else flitLeft st d (sendSched l (schedHeader s.run.gen d.origin 0 d.stag d.index d.tally) f.start d.payload s)

/-- R288, R309, R313: a Bulk flit to start: one to send again, or a new one. -/
def sendBulk (l : Nat) (s : State) : Option State :=
  let k := linkOf s l
  if k.offIn then none
  else match againOf k true, k.bulkQ with
    | some e, _ => some (resend l e s)
    | none, f :: r =>
      if 1008 ≤ k.buf.length then none
      else some (drainAll (sendNew l .bulk f.header f.payload (putLink l { k with bulkQ := r } s)))
    | none, [] => none

/-- R268, R288: what a schedulable Flash carries. -/
def schedFlash (l : Nat) (f : FlashAt) (s : State) : State :=
  match if f.part && s.life = .running then departing s l f.num else none with
  | some (st, d) => depart l f st d s
  | none =>
    if (linkOf s l).occ.any (occOverlap f.ticks f.start) then s
    else if flashTaken s l f then sendLink l s
    else (sendBulk l s).getD (sendLink l s)

/-! ### The commands -/

/-- Occupancies that have ended go. -/
def pruneOcc (l : Nat) (f : FlashAt) (s : State) : State :=
  let k := linkOf s l
  putLink l { k with flashAt := f.start + 1, occ := k.occ.filter fun a => decide (f.start < a + f.ticks) } s

/-- R267 to R269: one Flash of an UP link. -/
def upFlash (l : Nat) (f : FlashAt) (s : State) : State :=
  let s1 := pruneOcc l f (watchTo f.start s)
  if f.cut then s1
  else if isControlFlash f.num then
    (let s2 := atFork f s1; sendControl l (timeFrame s2 (isMember s2 l) f.start) s2)
  else if isRetryFlash f.num then retryFlash l s1
  else schedFlash l f s1

/-- R300, R301: a TRAIN frame: KIND 0b11, a CRC and never a seal; part i of the message that it repeats (DESIGN CHOICE, assumption 20). -/
def trainWire (msg : List Byte) (i : Nat) : List Byte :=
  let body := headerBytes 3 ++ slice (msg.drop (256 * i)) 0 256
  frameWire body (leBytes 4 (crc32 body))

/-- R314: one Flash of the global grid while the link trains: a TRAIN frame with the next part of this chip's message; DETECT and
EQUALISE send a pattern and no message (R315). -/
def trainFlash (l : Nat) (s : State) : State :=
  let k := linkOf s l
  let t := flashTicks k.rate
  let a := ceilDiv (max k.flashAt s.watch) t * t
  let s1 := watchTo a (putLink l { k with flashAt := a + 1, msgAt := (k.msgAt + 1) % max 1 (ceilDiv k.msg.length 256) } s)
  if k.st = .detect || k.st = .equalise then emit (.train l (linkCode k.st)) s1 else emit (.wire l (trainWire k.msg k.msgAt)) s1

/-- The link sends TRAIN frames. -/
def inTraining (k : Link) : Bool :=
  k.st = .detect || k.st = .equalise || k.st = .auth || k.st = .position || k.st = .delay || k.st = .resume

/-- The next Flash of an UP link. -/
def nextFlash (s : State) (l : Nat) : Option FlashAt := flashFrom s l (max (linkOf s l).flashAt s.watch)

/-- R267: a Flash of the grid in force starts on a link, and its transmitter sends one frame. -/
def execFlashStart (l : LinkNo) (s : State) : Res :=
  .next (if railsOff s then s
    else if (linkOf s l).st = .up then
      match nextFlash s l with
      | some f => upFlash l f s
      | none => s
    else if inTraining (linkOf s l) then trainFlash l s else s)

/-- R288, R303: the next Flash of a link may start a Bulk flit. -/
def bulkFlash (s : State) (l : Nat) : Option FlashAt :=
  match nextFlash s l with
  | some f =>
    if f.cut || isReserved f.num || (f.part && (departing s l f.num).isSome) || (linkOf s l).occ.any (occOverlap f.ticks f.start) ||
      flashTaken s l f then none else some f
  | none => none

/-- R303: a queued Bulk flit is forwarded, when the partner signals ON and the next Flash allows it. -/
def execBulkForward (l : LinkNo) (s : State) : Res :=
  .next (if railsOff s || (linkOf s l).st != .up then s
    else match bulkFlash s l with
      | some f => (sendBulk l (pruneOcc l f (watchTo f.start s))).getD s
      | none => s)

end Sys2Proof.Machine
end

