-- ==== Sys2Proof/Machine/Receive.lean ====
section
/-! DEFINITION. The receiver of a link (R299, R300, R308, R312, R313, R317): decoding, sequence, acknowledgements, and what becomes of
each kind of frame. -/

namespace Sys2Proof.Machine

/-! ### Decoding -/

/-- R299, R366: a frame received, with the half-flits corrected. -/
def countFec (l n : Nat) (s : State) : State :=
  let k := linkOf s l
  regAddSat (lnkReg l 0x80) n (putLink l { k with frames := k.frames + 1, fec := k.fec + n } s)

/-- R317: one more frame slot under the key; after 2^20 the key is replaced. -/
def gotOne (k : Link) : Link :=
  if k.gotUnder + 1 = 2 ^ 20 then { k with gotUnder := 0, keyRx := ratchet k.keyRx, tagFails := 0 }
  else { k with gotUnder := k.gotUnder + 1 }

/-- R300, R317: a frame that fails its CRC or tag is discarded whole; the sixteenth tag failure under a key fences the link. -/
def crcFail (l : Nat) (s : State) : State :=
  let s1 := chk 5 true (regCount (lnkReg l 0x84) s)
  let k := linkOf s1 l
  if !k.sealed then noteErr l s1
  else
    let s2 := putLink l { k with tagFails := k.tagFails + 1 } s1
    if k.tagFails + 1 = 16 then fence l 0x4004 3 k.expect s2 else noteErr l s2

/-- R317: a corrupted frame still advances the count, after its tag failure has counted under the key that it failed. -/
def slotGone (l : Nat) (s : State) : State := if (linkOf s l).sealed then putLink l (gotOne (linkOf s l)) s else s

/-- R298 to R300, R317: header and payload of a frame received, or none when it is discarded. -/
def openFrame (l : Nat) (f : Frame) (s : State) : Option (Nat × List Byte) × State :=
  let r := frameOpen f
  let s1 := countFec l r.1 s
  let k := linkOf s1 l
  if k.sealed then
    match unsealFrame k.keyRx (dirRx s l) k.gotUnder r.2.1 r.2.2 with
    | some b => (some (leNat (b.take 16), b.drop 16), chk 5 false (putLink l (gotOne k) s1))
    | none => (none, slotGone l (crcFail l s1))
  else if crc32 r.2.1 = leNat r.2.2 then (some (leNat (r.2.1.take 16), r.2.1.drop 16), chk 5 false s1)
  else (none, crcFail l s1)

/-! ### Sequence -/

/-- R308: E moves past every frame received without a gap. -/
def advanceE : Nat → Link → Link
  | 0, k => k
  | n + 1, k =>
    if k.got.contains k.expect then
      advanceE n { k with expect := (k.expect + 1) % 4096, got := k.got.filter (· != k.expect) }
    else k

/-- R308: the frames missing before a SEQ. -/
def missing (k : Link) (seq : Nat) : List Nat :=
  ((List.range ((seq + 4096 - k.expect) % 4096)).map fun i => (k.expect + i) % 4096).filter fun x => !k.got.contains x

/-- Length of the run of consecutive SEQs at the head of a list. -/
def seqRun : Nat → List Nat → Nat
  | _, [] => 0
  | a, x :: r => if x = a then seqRun ((a + 1) % 4096) r + 1 else 0

/-- R308: the first 15 missing frames are requested once: the run that no earlier request named. -/
def askNak (seq : Nat) (k : Link) : Link :=
  if k.nak.isSome || !ahead seq k.expect then k
  else match ((missing k seq).take 15).filter fun x => !k.asked.contains x with
    | [] => k
    | a :: r =>
      let n := seqRun a (a :: r)
      { k with nak := some (a, n), asked := k.asked ++ (a :: r).take n }

/-- R308: a SEQ is taken; none when the frame is a duplicate. -/
def takeSeq (seq : Nat) (k : Link) : Option Link :=
  if !ahead seq (k.expect + 4095) || k.got.contains seq then none
  else
    let k1 := advanceE 2048 { k with got := seq :: k.got, ackValid := true }
    some (askNak seq { k1 with asked := k1.asked.filter fun x => ahead x (k1.expect + 4095) })

/-! ### Acknowledgements -/

/-- R307: an ACKSEQ that is ahead of the oldest entry minus 1 frees every entry up to it. -/
def freeAcked (w blk : Nat) (k : Link) : Link :=
  match k.buf with
  | [] => k
  | e :: _ =>
    if bitAt blk 12 && ahead (bits blk 11 0) (e.seq + 4095) then
      { k with buf := k.buf.filter fun x => ahead x.seq (bits blk 11 0), ackAt := w, timeouts := 0 }
    else k

/-- R309: the entries that a NAK requests go again. -/
def takeNak (blk : Nat) (k : Link) : Link :=
  let n := bits blk 28 25
  { k with buf := k.buf.map fun x => if (x.seq + 4096 - bits blk 24 13) % 4096 < n then { x with again := true } else x }

/-- R305, R313, R319, R321: an ACK block: the ACK first, then the NAK, then OFF. -/
def takeAck (l : Nat) (payload : List Byte) (s : State) : State :=
  let blk := field payload 0x40 8
  let s1 := putLink l { takeNak blk (freeAcked s.watch blk (linkOf s l)) with offIn := bitAt blk 29 } s
  if bits blk 28 25 = 0 then s1 else noteErr l s1

/-! ### Drops and times -/

/-- R312: DROPS.UNEXPECTED, and DROPS.BOUNDARY. -/
def dropUnexpected (l : Nat) (s : State) : State := regCount (lnkReg l 0x90) s
def dropBoundary (l : Nat) (s : State) : State := regCount (lnkReg l 0x94) s

/-- R334: when the frame that has just arrived left its transmitter. -/
def leftAt (s : State) (l : Nat) : Nat := s.watch - pathDelay (linkOf s l)

/-- The Flash in which a frame left satisfies a test. -/
def inFlash (s : State) (l t : Nat) (p : Nat → Bool) : Bool :=
  match flashHolding s l t with
  | some (f, _) => p f
  | none => false

/-! ### Scheduled flits -/

/-- R277, R312: the receive Phrase of a flit. -/
def phraseFor (s : State) (l h : Nat) : Option Nat :=
  (logLink s l).bind fun ll => (recvTable s ll).find? fun p =>
    phHop p = hHop h && phStag p = hStag h && (phFlit p (hOrigin h)).isSome

/-- R272, R312: the flit left in its occupancy Flash. -/
def onTime (s : State) (h t : Nat) : Bool :=
  let a := occStart s (hOrigin h) (hHop h)
  decide (a ≤ t) && decide (t < a + flashTicks (rateNow s))

/-- R291, R312: the flit left in a retry Flash after its occupancy and before the next origin. -/
def inRetry (s : State) (l h t : Nat) : Bool :=
  let a := occStart s (hOrigin h) (hHop h)
  inFlash s l t (fun f => isRetryFlash f && decide (a < gridStart s f)) &&
    match nextOrigin s with
    | some o => decide (t < o)
    | none => true

/-- R277: the header with which a transit chip sends a flit on. -/
def onward (s : State) (h : Nat) : Nat := schedHeader s.run.gen (hOrigin h) (hHop h + 1) (hStag h) (hIndex h) (hTally h)

/-- R21, R272, R289: cut-through onto an output link. -/
def forwardNow (l lo h : Nat) (payload : List Byte) (s : State) : State :=
  let a := occStart s (hOrigin h) (hHop h + 1)
  let k := linkOf s lo
  if k.st != .up then s
  else if k.occ.any (occOverlap (flashTicks (rateNow s)) a) then violation l (hOrigin h) (hStag h) s
  else if 1008 ≤ k.buf.length then bufferFull lo s
  else regAdd64 (pageBase pgXch + 0x40) 1 (sendSched lo (onward s h) a payload s)

/-- R291, R313: a late flit waits for a retry Flash of its output link; with 24 waiting it is dropped, with OFF and 0x3010. -/
def forwardLate (l lo h : Nat) (payload : List Byte) (s : State) : State :=
  let k := linkOf s lo
  if (freshLate s lo).length < 24 then
    putLink lo { k with late := freshLate s lo ++ [⟨onward s h, payload, s.run.gen⟩] } s
  else violation l (hOrigin h) (hStag h) (putLink l { linkOf s l with offOut := true } s)

/-- R285: release Watch of a flit. -/
def releaseAt (s : State) (h : Nat) : Nat :=
  gridStart s (hOrigin h) + latN (rateNow s) (chmaxNow s) - 4 + hHop h * latH (rateNow s) (chmaxNow s) + 11 * (hHop h + 1)

/-- R272: the Watch at which a flit lands that left for its last hop at t: N − 4 ticks later, the channel stage at exactly CHMAX (R271). -/
def landsAt (s : State) (t : Nat) : Nat := t + latN (rateNow s) (chmaxNow s) - 4

/-- R277: what the matching Phrase does with a flit that left its transmitter at t. -/
def routeFlit (l p h t : Nat) (late : Bool) (payload : List Byte) (s : State) : State :=
  if phForwards p then
    (if late then forwardLate l (physLink s (phLink p)) h payload s else forwardNow l (physLink s (phLink p)) h payload s)
  else
    deliver (physStn s (phStation p)) ⟨hStag h, hIndex h, hTally h, payload, hOrigin h, landsAt s t, false⟩ (releaseAt s h) s

/-- R271, R313: a flit that left at t stands in the staging buffer until its channel stage has taken CHMAX ticks; with 24 there it is
dropped, with OFF and 0x3010. -/
def stageFlit (l t : Nat) (s : State) : Option State :=
  let k := linkOf s l
  let held := k.staged.filter fun w => decide (s.watch < w)
  if held.length < 24 then some (putLink l { k with staged := held ++ [t + txRx k.rate + chmaxNow s] } s) else none
def stagingFull (l h : Nat) (s : State) : State := violation l (hOrigin h) (hStag h) (putLink l { linkOf s l with offOut := true } s)

/-- R312, R295: an accepted Scheduled flit. -/
def takeSched (l h : Nat) (payload : List Byte) (s : State) : State :=
  let t := leftAt s l
  if !isMember s l then dropBoundary l s
  else if s.life != .running || hGen h != s.run.gen % 4 then dropUnexpected l s
  else match phraseFor s l h with
    | none => dropUnexpected l s
    | some p =>
      if onTime s h t || inRetry s l h t then
        match stageFlit l t s with
        | some s1 => routeFlit l p h t (!onTime s h t) payload s1
        | none => stagingFull l h s
      else dropUnexpected l s

/-! ### Bulk flits -/

/-- R303, R313: an accepted Bulk flit. -/
def takeBulkFlit (l h : Nat) (payload : List Byte) (s : State) : State :=
  let k := linkOf s l
  if 390625 ≤ hDest h || 3 < hBchan h || 128 ≤ k.rxBulk.length then dropUnexpected l s
  else setOff l (drainRx l 128 (putLink l { k with rxBulk := k.rxBulk ++ [⟨h, payload⟩] } s))

/-! ### CONTROL frames -/

/-- A step number from its low 32 bits. -/
def stepNear (s : State) (low : Nat) : Nat := s.run.step / 2 ^ 32 * 2 ^ 32 + low

/-- R171, R269, R293: a fork value of the running step is taken and forwarded once. -/
def takeFork (p : List Byte) (s : State) : State :=
  if s.life = .running && s.fab.fork.isNone && field p 0x14 4 = s.run.step % 2 ^ 32 then
    { s with
      run := { s.run with forkValue := some (field p 0x18 8) }
      fab := { s.fab with fork := some ⟨field p 0x11 1, s.run.step, field p 0x18 8⟩, forkLinks := memberLinks s } }
  else s

/-- R304: the hold of a CONTROL payload. -/
def holdIn (s : State) (p : List Byte) : Hold := ⟨stepNear s (field p 4 4), field p 2 2, field p 8 4⟩

/-- R304, R312: the hold and fork fields. -/
def takeFields (l h : Nat) (p : List Byte) (s : State) : State :=
  let hold := bitAt (field p 0 1) 0
  let fork := bitAt (field p 0x10 1) 0
  if !hold && !fork then s
  else if !isMember s l then dropBoundary l s
  else if hPid h != s.fab.part.pid || !inFlash s l (leftAt s l) isReserved then dropUnexpected l s
  else
    let s1 := if hold then receiveHold (holdIn s p) s else s
    if fork then takeFork p s1 else s1

/-- R333, R344, R358: the GO block of a time frame, taken on a member link. -/
def takeGoIn (l : Nat) (f : List Byte) (s : State) : State :=
  if bitAt (field f 1 1) 2 && isMember s l then
    takeGo ⟨field f 0x60 4, field f 0x64 1, field f 0x68 8, field f 0x70 8⟩ s
  else s

/-- R312: the time frame, in a control Flash with REPLAY = 0. -/
def takeTime (l h : Nat) (p : List Byte) (s : State) : State :=
  if !hReplay h && inFlash s l (leftAt s l) isControlFlash then
    takeGoIn l (slice p 0x80 128) (acceptTime l (slice p 0x80 128) s)
  else s

/-- R304: an accepted CONTROL frame: the ACK block, the time frame, then hold and fork. -/
def takeControl (l h : Nat) (p : List Byte) (s : State) : State :=
  let s1 := takeTime l h p (takeAck l p s)
  takeFields l h p s1

/-! ### The commands -/

/-- A frame of a kind arrives on an UP link: opened, and handed on when it has that kind. -/
def arrive (l : Nat) (f : Frame) (kind : Nat → Bool) (handle : Nat → List Byte → State → State) (s : State) : State :=
  if railsOff s || (linkOf s l).st != .up then s
  else match openFrame l f s with
    | (none, s1) => s1
    | (some (h, p), s1) => if kind h then handle h p s1 else s

/-- R308: a SEQ-bearing frame is passed on unless it is a duplicate. -/
def sequenced (l : Nat) (handle : Nat → Nat → List Byte → State → State) (h : Nat) (p : List Byte) (s : State) : State :=
  match takeSeq (hSeq h) (linkOf s l) with
  | none => regCount (lnkReg l 0x8C) s
  | some k => handle l h p (putLink l k s)

def isSched (h : Nat) : Bool := hKind h = 0 && !hBulk h
def isBulk (h : Nat) : Bool := hKind h = 0 && hBulk h

/-- R312: a Scheduled DATA frame arrives. -/
def execScheduledFrameRx (l : LinkNo) (f : Frame) (s : State) : Res := .next (arrive l f isSched (sequenced l takeSched) s)

/-- R303, R312: a Bulk DATA frame arrives. -/
def execBulkFrameRx (l : LinkNo) (f : Frame) (s : State) : Res := .next (arrive l f isBulk (sequenced l takeBulkFlit) s)

/-- R304, R312: a CONTROL frame arrives. -/
def execControlFrameRx (l : LinkNo) (f : Frame) (s : State) : Res :=
  .next (arrive l f (fun h => hKind h = 1) (sequenced l takeControl) s)

/-- R301, R305: a LINK frame arrives. -/
def execLinkFrameRx (l : LinkNo) (f : Frame) (s : State) : Res :=
  .next (arrive l f (fun h => hKind h = 2) (fun _ p t => takeAck l p t) s)

/-! ### TRAIN frames -/

/-- R300: a TRAIN frame carries a CRC and is never sealed; none when it is discarded. -/
def trainOk (f : Frame) : Bool :=
  let r := frameOpen f
  crc32 r.2.1 = leNat r.2.2 && hKind (leNat (r.2.1.take 16)) = 3

/-- R314: the partner's next message ends POSITION; every other message is a command of its own (assumption 20). -/
def trainStep (l : Nat) (s : State) : State :=
  let k := linkOf s l
  if k.st = .position then putLink l { k with st := .delay } s else s

/-- R314: a TRAIN frame arrives while the link trains. -/
def takeTrain (l : Nat) (f : Frame) (s : State) : State :=
  let s1 := countFec l (frameOpen f).1 s
  if trainOk f then trainStep l s1 else regCount (lnkReg l 0x84) s1

/-- R314: TRAIN_FRAME_RX. -/
def execTrainFrameRx (l : LinkNo) (f : Frame) (s : State) : Res :=
  .next (if railsOff s || !inTraining (linkOf s l) then s else takeTrain l f s)

end Sys2Proof.Machine
end

