-- ==== Sys2Proof/Machine/Train.lean ====
section
/-! DEFINITION. Training, authentication, loss, resume and GRACE of a link (R314 to R320), its timers, its two register actions, and the
cables (R492). -/

namespace Sys2Proof.Machine

/-- R322: LNK_CONTROL of a link. -/
def lnkCtl (s : State) (l : Nat) : Nat := regGet s (lnkReg l 0x10)

/-! ### DETECT and EQUALISE -/

/-- R314: a DETECT link locks at a rate that RATE_MAX allows. -/
def lockDetect (l rate : Nat) (s : State) : State :=
  if bits (lnkCtl s l) 2 1 ≤ rate then putLink l { linkOf s l with st := .equalise, rate := rate } s else s

/-- R314, R318: SIGNAL_LOCK: EQUALISE from DETECT; in RESUME the proof starts with a fresh nonce. -/
def execSignalLock (l : LinkNo) (rate : Fin 3) (nonce : List Byte) (s : State) : Res :=
  .next (match (linkOf s l).st with
    | .detect => lockDetect l rate s
    | .resume => putLink l { linkOf s l with nonceSent := slice nonce 0 32, msg := slice nonce 0 32, msgAt := 0 } s
    | _ => s)

/-- R314, R315: training fails with 0x4011. -/
def trainFailed (l : Nat) (s : State) : State := toDown l (linkEvent l 0x4011 5 0 s)

/-- Fresh random bytes: 8 n bytes of free values (assumption 2). -/
def freshBytes (s : State) (n : Nat) : List Byte := (List.range n).flatMap fun i => leBytes 8 (Config.freeValue (s.free + i)).toNat

/-- R316: the bytes of a HELLO; the spec gives it no layout (assumption 20). -/
def helloBytes (h : Hello) (nonce : List Byte) : List Byte :=
  slice (h.pos.map (BitVec.ofNat 8)) 0 4 ++ leBytes 1 h.rateMax ++ leBytes 1 (b2n h.sealCapable + 2 * b2n h.sealRequire) ++ leBytes 2 0 ++
    slice nonce 0 32

/-- R316: this chip's HELLO. -/
def ownHello (s : State) (l : Nat) : Hello :=
  { pos := s.fab.pos, rateMax := bits (lnkCtl s l) 2 1, sealCapable := true, sealRequire := bitAt (lnkCtl s l) 3 }

/-- R314, R316: AUTH begins, and TRAIN frames carry this chip's HELLO, with its fresh nonce. -/
def enterAuth (l : Nat) (s : State) : State :=
  let h := helloBytes (ownHello s l) (freshBytes s 4)
  putLink l { linkOf s l with st := .auth, helloSent := h, msg := h, msgAt := 0 } { s with free := s.free + 4 }

/-- R315: a bit error ratio of at most 10^-6 chooses the rate; else the next lower rate is tried. -/
def rateDone (l errors nbits : Nat) (s : State) : State :=
  let k := linkOf s l
  if 0 < nbits && errors * 1000000 ≤ nbits then enterAuth l s
  else if k.rate < 2 then putLink l { k with rate := k.rate + 1 } s
  else trainFailed l s

/-- R315: EQUALISE_RATE_DONE. -/
def execEqualiseRateDone (l : LinkNo) (errors bits : Nat) (s : State) : Res :=
  .next (if (linkOf s l).st = .equalise then rateDone l errors bits s else s)

/-- Full training is in progress. -/
def trainingNow (k : Link) : Bool := inTraining k && k.st != .resume

/-- R314: full training exceeds 100 ms. -/
def execTrainingTimeout (l : LinkNo) (s : State) : Res :=
  .next (if trainingNow (linkOf s l) then trainFailed l (watchTo ((linkOf s l).trainBegan + 100000000) s) else s)

/-- R314: the backoff of a DOWN link expires. -/
def execLinkDownRetry (l : LinkNo) (s : State) : Res :=
  .next (if !railsOff s && mayTrain s l then tryLink l (watchTo (linkOf s l).retryAt s) else s)

/-! ### AUTH -/

/-- R316: this chip is the initiator of the link. -/
def isInitiator (s : State) (l : Nat) : Bool := decide (chipNo s < (linkOf s l).claimed)

/-- R316, R317: this chip's second message: its certificate chain, and the initiator's encapsulation key when sealing. -/
def sendChain (l : Nat) (s : State) : State :=
  let k := linkOf s l
  let key := if k.sealed && isInitiator s l then Config.kemPublic s.free else []
  putLink l { k with kemNo := s.free, kemKey := key, msg := s.kpr.flash.identity ++ s.kpr.sec.ownerCert.getD [] ++ key, msgAt := 0 }
    (bumpFree s)

/-- R316, R317: a partner's HELLO, with the agreement on sealing. -/
def takeHello (l : Nat) (h : Hello) (nonce : List Byte) (s : State) : State :=
  let need := bitAt (lnkCtl s l) 3
  let s1 := putLink l { linkOf s l with
    helloGot := some (helloBytes h nonce), partnerPos := h.pos, claimed := chipAt h.pos, sealed := h.sealCapable && (h.sealRequire || need) } s
  if need && !h.sealCapable then fence l 0x4003 3 0 s1 else sendChain l s1

/-- R316: LINK_HELLO. A repeated HELLO changes nothing. -/
def execLinkHello (l : LinkNo) (h : Hello) (nonce : List Byte) (s : State) : Res :=
  .next (if (linkOf s l).st = .auth && (linkOf s l).helloGot.isNone then takeHello l h nonce s else s)

/-- R316: the transcript under a role byte. -/
def transcriptOf (s : State) (l role : Nat) : List Byte :=
  let k := linkOf s l
  let got := k.helloGot.getD []
  let hs := if isInitiator s l then k.helloSent ++ got else got ++ k.helloSent
  sha3 (ascii "UHLIVO-LINK-1" ++ leBytes 1 role ++ hs ++ if k.sealed then k.kemKey ++ k.kemCipher else [])

/-- R316, R317: role bytes. -/
def partnerRole (s : State) (l : Nat) : Nat := if isInitiator s l then 2 else 1
def ownRole (s : State) (l : Nat) : Nat := if isInitiator s l then 1 else 2

/-- R316, R437: this chip's third message: its signature over the transcript, after a responder's ciphertext; withheld with the Daymark. -/
def sendSignature (l : Nat) (s : State) : State :=
  let k := linkOf s l
  let cipher := if k.sealed && !isInitiator s l then k.kemCipher else []
  let sig := if daymarkOff s then [] else Config.dsaSign s.kpr.fuses.seed (transcriptOf s l (ownRole s l))
  putLink l { k with msg := cipher ++ sig, msgAt := 0 } s

/-- R317: a responder takes the initiator's encapsulation key, makes the ciphertext and signs. -/
def linkRespond (l : Nat) (kem : List Byte) (s : State) : State :=
  let k := linkOf s l
  let k1 := if k.sealed then { k with kemKey := kem, kemCipher := Config.kemEncaps kem k.kemNo, shared := Config.kemSecret kem k.kemNo } else k
  sendSignature l (putLink l k1 s)

/-- R432: LINK_OWNED wants an owner certificate by a CA key of the record. -/
def ownerPolicyOk (s : State) (key ownerCert : List Byte) : Bool :=
  !bitAt s.kpr.sec.policy 1 || (ownerKeys s).any fun k => bitAt k.roles 3 && Config.ownerCertOk k.key key ownerCert

/-- R316, R317: a partner's chain and the owner policy; with an initiator's chain comes its encapsulation key. -/
def takeChain (l : Nat) (chain ownerCert kem : List Byte) (s : State) : State :=
  match Config.chainKey chain with
  | some key =>
    if ownerPolicyOk s key ownerCert then
      (let s1 := putLink l { linkOf s l with chainKey := some key } s
       if isInitiator s l then s1 else linkRespond l kem s1)
    else fence l 0x4001 2 0 s
  | none => fence l 0x4001 2 0 s

/-- R316: LINK_CERT_CHAIN. -/
def execLinkCertChain (l : LinkNo) (m : ChainMsg) (ownerCert : List Byte) (s : State) : Res :=
  .next (if (linkOf s l).st = .auth && (linkOf s l).helloGot.isSome && (linkOf s l).chainKey.isNone then
      takeChain l m.chain ownerCert m.kem s
    else s)

/-- R317: key of a direction. -/
def sealKey (secret transcript : List Byte) (dir : Nat) : List Byte := sha3 (secret ++ transcript ++ leBytes 1 dir)

/-- R316 to R318: authentication is complete: the partner, the keys and the session secret, all from the transcript of the initiator's
role (assumption 20). -/
def authDone (l : Nat) (s : State) : State :=
  let k := linkOf s l
  let t := transcriptOf s l 1
  putLink l { k with
    st := .position, partner := some k.claimed, transcript := t, secret := sha3 (t ++ ascii "UHLIVO-RESUME")
    keyTx := if k.sealed then sealKey k.shared t (dirTx s l) else [], keyRx := if k.sealed then sealKey k.shared t (dirRx s l) else []
    sentUnder := 0, gotUnder := 0, tagFails := 0 } s

/-- R247: the partner's signed position. -/
def checkPosition (l : Nat) (s : State) : State :=
  if (linkOf s l).partnerPos = expectPos s l then s else fence l 0x3003 8 (chipNo s) s

/-- R317: an initiator takes the responder's ciphertext, and signs. -/
def takeCipher (l : Nat) (kem : List Byte) (s : State) : State :=
  if !isInitiator s l then s
  else
    let k := linkOf s l
    sendSignature l (putLink l (if k.sealed then { k with kemCipher := kem, shared := Config.kemDecaps k.kemNo kem } else k) s)

/-- R316, R437: the partner's signature, with a responder's ciphertext before it. Without its own Daymark the link fails AUTH. -/
def takeSignature (l : Nat) (key sig kem : List Byte) (s : State) : State :=
  let s1 := takeCipher l kem s
  if daymarkOff s1 || !Config.dsaVerify key (transcriptOf s1 l (partnerRole s1 l)) sig then fence l 0x4001 2 0 s1
  else checkPosition l (authDone l s1)

/-- R316: LINK_TRANSCRIPT_SIGNATURE: an ML-DSA-44 signature comes in its three parts, in order (assumption 20). -/
def execLinkTranscriptSignature (l : LinkNo) (sigC sigZ sigH kem : List Byte) (s : State) : Res :=
  .next (if (linkOf s l).st = .auth then
      match (linkOf s l).chainKey with
      | some key => takeSignature l key (sigC ++ sigZ ++ sigH) kem s
      | none => s
    else s)

/-! ### DELAY and UP -/

/-- R266, R271: a member link that is unfit for the schedule is recorded and counts as down. -/
def checkFit (l : Nat) (s : State) : State :=
  if isMember s l && (schedOf s).isSome && linkUnfit s l then
    linkLost l (report 0x3017 (pgLnk l) (putLink l { linkOf s l with unfit := true } s))
  else s

/-- R271: the channel delay: as measured, and 5 ticks for the seal. -/
def delayOf (k : Link) (ticks : Nat) : Nat := ticks + if k.sealed then 5 else 0

/-- R306, R314: full training ends: UP, with SEQ from 0. -/
def enterUp (l ticks : Nat) (s : State) : State :=
  let k := linkOf s l
  checkFit l (setOff l (putLink l { k with
    st := .up, delay := delayOf k ticks, unfit := false, graceAt := none, flashAt := s.watch, backoff := 1000000, seq := 0, buf := []
    ackAt := s.watch, timeouts := 0, expect := 0, got := [], ackValid := false, nak := none, asked := [], offIn := false
    late := [], staged := [], occ := [], frames := 0, fec := 0, errAt := [] } s))

/-- R271: DELAY_MEASURE_DONE. -/
def execDelayMeasureDone (l : LinkNo) (ticks : Nat) (s : State) : Res :=
  .next (if (linkOf s l).st = .delay then enterUp l ticks s else s)

/-! ### Loss and resume -/

/-- R314, R318, R319: loss of signal: UP goes to RESUME; full training starts over; RESUME has to relock. -/
def loseSignal (l : Nat) (s : State) : State :=
  match (linkOf s l).st with
  | .up => leaveUp l s
  | .resume => putLink l { linkOf s l with nonceSent := [] } s
  | .down | .fenced => s
  | _ => toDown l s

/-- R319: LOSS_OF_SIGNAL. -/
def execLossOfSignal (l : LinkNo) (s : State) : Res := .next (loseSignal l s)

/-- R318: both nonces, the initiator's first. -/
def bothNonces (s : State) (l : Nat) (got : List Byte) : List Byte :=
  let own := (linkOf s l).nonceSent
  if isInitiator s l then own ++ got else got ++ own

/-- R318: the proof that the holder of a role owes. -/
def proofOf (s : State) (l role : Nat) (nonces : List Byte) : List Byte := sha3 ((linkOf s l).secret ++ nonces ++ leBytes 1 role)

/-- R318: this chip's own proof goes out, after its nonce, in a TRAIN frame. -/
def sendProof (l : Nat) (nonces : List Byte) (s : State) : State :=
  emit (.wire l (trainWire ((linkOf s l).nonceSent ++ proofOf s l (ownRole s l) nonces) 0)) s

/-- R318: the session goes on: new keys, the delay measured again, every outstanding entry again, notice 0x0060. -/
def resumed (l : Nat) (nonces : List Byte) (ticks : Nat) (s : State) : State :=
  let k := linkOf s l
  let s1 := linkEvent l 0x0060 1 0 (putLink l { k with
    st := .up, delay := delayOf k ticks, graceAt := none, nonceSent := [], flashAt := s.watch, ackAt := s.watch, timeouts := 0
    keyTx := if k.sealed then sha3 (k.keyTx ++ nonces) else [], keyRx := if k.sealed then sha3 (k.keyRx ++ nonces) else []
    sentUnder := 0, gotUnder := 0, tagFails := 0, errAt := [], occ := [], buf := k.buf.map fun e => { e with again := true } } s)
  checkFit l s1

/-- R314, R318: a link goes DOWN and trains in full at once. -/
def fullTraining (l : Nat) (s : State) : State :=
  putLink l { downFrom s (linkOf s l) with retryAt := s.watch, backoff := 1000000 } s

/-- R318: the partner's resume proof, checked. -/
def takeProof (l : Nat) (nonce proof : List Byte) (ticks : Nat) (s : State) : State :=
  let ns := bothNonces s l nonce
  let s1 := sendProof l ns s
  if proof = proofOf s l (partnerRole s l) ns then resumed l ns ticks s1 else fullTraining l s1

/-- R318, R321: RESUME_PROOF, by the tick at which GRACE expires. -/
def execResumeProof (l : LinkNo) (nonce proof : List Byte) (ticks : Nat) (s : State) : Res :=
  .next (if (linkOf s l).st = .resume && !(linkOf s l).nonceSent.isEmpty && decide (s.watch ≤ (linkOf s l).graceAt.getD 0) then
      takeProof l nonce proof ticks s
    else s)

/-! ### Timers -/

/-- R311: every outstanding entry goes again; at the third timeout in a row the link leaves UP. -/
def ackLate (l : Nat) (s : State) : State :=
  let k := linkOf s l
  if k.timeouts + 1 = 3 then leaveUp l (putLink l { k with timeouts := 0 } s)
  else putLink l { k with timeouts := k.timeouts + 1, ackAt := s.watch, buf := k.buf.map fun e => { e with again := true } } s

/-- R311: ACK_TIMEOUT. -/
def execAckTimeout (l : LinkNo) (s : State) : Res :=
  .next (if (linkOf s l).st = .up && !(linkOf s l).buf.isEmpty then ackLate l (watchTo ((linkOf s l).ackAt + ackTicks s l) s) else s)

/-- R370: a pair link stays down past its GRACE: 0x20A3, or the comparison ends and the Ledger says so. -/
def pairLost (l : Nat) (s : State) : State :=
  if !s.fab.comparing || s.fab.pairLink != some l then s
  else
    let s1 := { s with fab := { s.fab with comparing := false } }
    if bitAt (regGet s (pageBase pgRcv + 0x10)) 1 then
      let s2 := raise 0x20A3 pgRcv 6 0x20A3 (s.run.step % 2 ^ 32) (myRank s) s1
      if inJob s then faulted 0x20A3 s.run.step (myRank s) s2 else s2
    else ledEvent 4 0x4010 s.run.step (myRank s) s.watch [] s1

/-- R320: the flush: 0x4010 with the entries discarded, and DOWN. -/
def flushLink (l : Nat) (s : State) : State :=
  let k := linkOf s l
  let s1 := linkEvent l 0x4010 4 k.buf.length s
  drainAll (pairLost l (putLink l { downFrom s1 k with bulkQ := [] } s1))

/-- R320: GRACE_EXPIRY. -/
def execGraceExpiry (l : LinkNo) (s : State) : Res :=
  .next (if (linkOf s l).st = .resume then flushLink l (watchTo ((linkOf s l).graceAt.getD 0) s) else s)

/-! ### Register actions -/

/-- R321: RETRAIN, ENABLE = 0 and UNFENCE are refused on a member link in ARMED, RUNNING and HELD. -/
def linkBusy (s : State) (l : Nat) : Bool := isMember s l && (s.life = .armed || s.life = .running || s.life = .held)

/-- R314, R246: a FENCED link goes to DOWN; with bad straps every link stays fenced. -/
def unfenceLink (l : Nat) (s : State) : State :=
  if (linkOf s l).st = .fenced && s.fab.posOk then fullTraining l s else s

/-- R314: UNFENCE. -/
def execUnfence (l : LinkNo) (s : State) : Res :=
  .next (hostWrite (pgLnk l) (lnkReg l 0x10) (fun t => if linkBusy t l then conflict 0x7F (lnkReg l 0x10) t else unfenceLink l t) s)

/-- R319: a link is sent to DOWN, leaving UP if it was up. -/
def forceDown (l : Nat) (s : State) : State :=
  match (linkOf s l).st with
  | .fenced => s
  | .up => linkLost l (fullTraining l (leftUp l s))
  | _ => fullTraining l s

/-- R319: RETRAIN. -/
def execRetrain (l : LinkNo) (s : State) : Res :=
  .next (hostWrite (pgLnk l) (lnkReg l 0x10) (fun t => if linkBusy t l then conflict 0x7F (lnkReg l 0x10) t else forceDown l t) s)

/-! ### Cables -/

/-- R492: what a cable's arrival or removal does to one link of its connector. -/
def cableLink (present : Bool) (l : Nat) (s : State) : State :=
  let s1 := putLink l { linkOf s l with cable := present } s
  if !present then loseSignal l s1
  else if !railsOff s && mayTrain s1 l then tryLink l (putLink l { linkOf s1 l with backoff := 1000000 } s1) else s1

/-- R492: CBL_PRSNT_N of a connector changes: CBL_3V3 follows, and its eight links train or stay DOWN. -/
def cableChange (conn : Nat) (present : Bool) (s : State) : State :=
  let s1 := { s with kpr := { s.kpr with pins := { s.kpr.pins with cblPower := tput s.kpr.pins.cblPower conn present } } }
  (List.range 8).foldl (fun t i => cableLink present (8 * conn + i) t) (emit (.pin ("CBL_3V3 " ++ toString conn) (b2n present)) s1)

/-- R492: CABLE_PRESENT_CHANGE. -/
def execCablePresentChange (conn : Fin 12) (present : Bool) (s : State) : Res :=
  .next (if s.life = .off then s else cableChange conn present s)

end Sys2Proof.Machine
end

