-- ==== Sys2Proof/Machine/HostBus.lean ====
section
/-! DEFINITION. The PCI Express side of the host interface: BAR2 (R24, R181, R203, R397, R398), doorbells (R400, R401) and queues
(R402 to R404). -/

namespace Sys2Proof.Machine

/-! ### BAR2 -/

/-- R179, R178: sizes of the DRAM and SRAM spaces, and of the window space (R397). -/
def dramSize : Nat := 0x2000000000
def sramSize : Nat := 0x40000000
def windowSize : Nat := 0x4000000000

/-- R396: the size of BAR2. -/
def bar2Size (s : State) : Nat := 2 ^ s.kpr.pins.bar2Log2

/-- R397: the window offset of a BAR2 offset: PCI_BAR2_WINDOW counts when BAR2 is sized below the window. -/
def windowAt (s : State) (off : Nat) : Nat :=
  if bar2Size s < windowSize then regGet s (pageBase pgPci + 0x40) + 2 ^ 32 * regGet s (pageBase pgPci + 0x44) + off else off

/-- R398: KEEP serves nothing, and neither do rails that are off after a trip. -/
def bar2Dead (s : State) : Bool := railsOff s

/-- R398: the DRAM part of the window is served. -/
def dramServed (s : State) : Bool := s.life != .ready || memoryFilling s

/-- Bytes of [off, off + len) that lie below a bound. -/
def below (off len bound : Nat) : Nat := min (off + len) bound - off

/-- R397: the bytes of a window range that lie in DRAM, and in SRAM, each with its address and length. -/
def dramPart (off len : Nat) : Nat × Nat := (off, below off len dramSize)
def sramPart (off len : Nat) : Nat × Nat :=
  let a := max off dramSize
  (a - dramSize, below a (off + len - a) (dramSize + sramSize))

/-- R19, R188: an uncorrectable read, or a discarded Gallery packet, during a step is a detected fault. The PCI page reports the packet
of a host access (DESIGN CHOICE, assumption 46). -/
def hostFault (f : Fail) (s : State) : State :=
  let t := if f.code = 0x2050 then report 0x2050 pgPci s else s
  if runOrHeld t then detect f.code .chip f.tile t else t

/-- R183, R397: the bytes of a served read; DRAM that is not served reads as 0xFF, the reserved rest as 0. -/
def readWindow (off len : Nat) (dram : Bool) : M (List Byte) := do
  let d := dramPart off len
  let r := sramPart off len
  let x ← if dram then readMem 1 d.1 d.2 else pure (List.replicate d.2 0xFF)
  let y ← readMem 0 r.1 r.2
  pure (x ++ y ++ List.replicate (len - d.2 - r.2) 0)

/-- R19, R183: a read whose packet is discarded, or with uncorrectable data, returns none. -/
def serveRead (off len : Nat) (dram : Bool) (us : List Upset) (s : State) : State :=
  match (do galleryGate us; readWindow off len dram : M (List Byte)).go s with
  | (.ok bs, s1) => emit (.data bs) s1
  | (.error f, s1) => hostFault f (emit (.data []) s1)

/-- R397, R398, R447: a BAR2 read. -/
def bar2Read (off len : Nat) (us : List Upset) (s : State) : State :=
  if paused s then emit (.data (List.replicate len 0xFF)) s
  else if bar2Dead s then conflict 0x7F off (emit (.data (List.replicate len 0xFF)) s)
  else
    let s1 := strikes us s
    let w := windowAt s off
    if dramServed s || (dramPart w len).2 = 0 then serveRead w len true us s1
    else conflict 0x7F off (serveRead w len false us s1)

/-- R397: BAR2_READ. -/
def execBar2Read (off len : Nat) (us : List Upset) (s : State) : Res :=
  .next (if s.life = .off || bar2Size s < off + len then s else bar2Read off len us s)

/-- R24: memory bound to a handle of the loaded image: in the Stations' tables, and before the switch of an ARMED member in its bank's
placement. -/
def boundMem (s : State) : List (Nat × Nat × Nat) :=
  (s.stations.flatMap fun t => t.2.handles.map fun h => allocRange h.2) ++
    match s.jobs.active.bind fun a => (bankOf s (jBank a.job.record)).placement with
    | some p => p.stations.flatMap fun x => (x.tensors.filter fun t => t.copy = 0).map fun t => (t.space, t.addr, t.size * 4096)
    | none => []

/-- Ranges (address and length) that together hold every byte of [a, a + n); each is used once at most. -/
def bufsCover (bs : List (Nat × Nat)) : Nat → Nat → Nat → Bool
  | 0, _, n => n = 0
  | k + 1, a, n => n = 0 || match bs.find? fun b => decide (b.1 ≤ a) && decide (a < b.1 + b.2) with
    | some b => bufsCover bs k (b.1 + b.2) (n - (b.1 + b.2 - a))
    | none => false

/-- R24: the bytes of a range that lie in bound memory lie in declared host buffers. -/
def inHostBuf (s : State) (b r : Nat × Nat × Nat) : Bool :=
  let lo := max b.2.1 r.2.1
  r.1 != 1 && bufsCover s.run.hostBufs s.run.hostBufs.length lo (min (b.2.1 + b.2.2) (r.2.1 + r.2.2) - lo)

/-- R203: a Mooring extent in VERIFYING or READY meets a DRAM range. -/
def inMooring (s : State) (r : Nat × Nat × Nat) : Bool :=
  s.moorings.any fun m => (m.2.st = .verifying || m.2.st = .ready) &&
    (List.range 16).any fun n => overlap (1, n * 0x200000000 + m.2.off, m.2.len) r

/-- R181: the Keeper's region of some Station's DRAM meets a range. -/
def inKeeper (r : Nat × Nat × Nat) : Bool := (List.range 16).any fun n => overlap (1, n * 0x200000000 + moorSpace, 0x4000000) r

/-- R24, R181, R203, R398: why a write to a range is dropped. -/
def writeBarred (s : State) (r : Nat × Nat × Nat) : Bool :=
  (r.1 = 1 && (!dramServed s || inKeeper r || inMooring s r)) ||
    ((s.life = .armed || s.life = .running || s.life = .held) && (boundMem s).any fun b => overlap b r && !inHostBuf s b r)

/-- One part of a BAR2 write: dropped and recorded, or written under its code. A part with one byte that R24 drops is dropped whole
(DESIGN CHOICE, assumption 22). -/
def writePart (off space a : Nat) (bs : List Byte) (us : List Upset) (s : State) : State :=
  if bs.isEmpty then s
  else if writeBarred s (space, a, bs.length) then conflict 0x7F off s
  else match (do galleryGate us; writeMem space a bs : M Unit).go s with
    | (.ok _, s1) => s1
    | (.error f, s1) => hostFault f s1

/-- R397, R398, R447: a BAR2 write; the part beyond SRAM is dropped. -/
def bar2Write (off : Nat) (data : List Byte) (us : List Upset) (s : State) : State :=
  if paused s || bar2Dead s then s
  else
    let w := windowAt s off
    let d := dramPart w data.length
    let r := sramPart w data.length
    writePart (off + d.2) 0 r.1 ((data.drop d.2).take r.2) us (writePart off 1 d.1 (data.take d.2) us (strikes us s))

/-- R397: BAR2_WRITE. -/
def execBar2Write (off : Nat) (data : List Byte) (us : List Upset) (s : State) : Res :=
  .next (if s.life = .off || bar2Size s < off + data.length then s else bar2Write off data us s)

/-! ### Doorbells -/

/-- R400, R403: 0x20B4 with the queue and the BAR4 offset. -/
def badDoorbell (q off : Nat) (s : State) : State := raise 0x20B4 pgPci 4 (0x20B4 + q * 2 ^ 16) off 0 s

/-- R403: a queue halts. -/
def haltQueue (q off : Nat) (s : State) : State := badDoorbell q off (putQueue q { queueOf s q with error := true } s)

/-- Distance from one ring index to another. -/
def ringDist (n a b : Nat) : Nat := (b + n - a % n) % n

/-- R403: a new submission tail lies inside the ring and does not pass the head reported in the last completion. -/
def tailOk (s : State) (q t : Nat) : Bool :=
  let k := queueOf s q
  let n := ringSize s q
  decide (t < n) && decide (ringDist n k.sqReported k.sqTail ≤ ringDist n k.sqReported t)

/-- R403: a new completion head lies inside the ring and does not pass CQ_TAIL. -/
def headOk (s : State) (q h : Nat) : Bool :=
  let k := queueOf s q
  let n := ringSize s q
  decide (h < n) && decide (ringDist n k.cqHead h ≤ ringDist n k.cqHead k.cqTail)

/-- R400, R418, R447: what every queue doorbell meets first: reserved bits, a pair that is not enabled, a halted pair. -/
def queueDoorbell (q off value : Nat) (act : State → State) (s : State) : State :=
  if paused s || s.life = .off then s
  else if 4096 ≤ value then badDoorbell q off s
  else if !(queueOf s q).enabled then badDoorbell q off s
  else if (queueOf s q).error then s else act s

/-- R403: the submission tail. -/
def sqTail (q t off : Nat) (s : State) : State :=
  if tailOk s q t then putQueue q { queueOf s q with sqTail := t } s else haltQueue q off s

/-- R403: SQ_TAIL_DOORBELL. -/
def execSqTailDoorbell (q : Fin 65) (value : W32) (s : State) : Res :=
  .next (queueDoorbell q (8 * q.val) value.toNat (sqTail q value.toNat (8 * q.val)) s)

/-- R403: the completion head. -/
def cqHead (q h off : Nat) (s : State) : State :=
  if headOk s q h then putQueue q { queueOf s q with cqHead := h } s else haltQueue q off s

/-- R403: CQ_HEAD_DOORBELL. -/
def execCqHeadDoorbell (q : Fin 65) (value : W32) (s : State) : Res :=
  .next (queueDoorbell q (8 * q.val + 4) value.toNat (cqHead q value.toNat (8 * q.val + 4)) s)

/-- R351: a doorbell applied since S(k) is kept in a register slot. -/
def incSlot (i n : Nat) (c : CkSlot) : CkSlot := { c with hostInc := tput c.hostInc i (nget c.hostInc i + n) }

/-- R401: an increment is applied. -/
def addHostFlag (i n : Nat) (s : State) : State :=
  { s with
    chipFlags := tput s.chipFlags i (nget s.chipFlags i + n)
    ck0 := s.ck0.map (incSlot i n), ck1 := s.ck1.map (incSlot i n)
    led := { s.led with hostFed := true } }

/-- R401: a host flag doorbell. -/
def hostFlag (i n off : Nat) (s : State) : State :=
  if !runOrHeld s || !bitAt s.hostMask i then conflict 0x7F off s
  else if 65535 < nget s.chipFlags i + n then raise 0x20B2 pgPci 3 (0x20B2 + 0x7F * 2 ^ 16) off 0 s
  else addHostFlag i n s

/-- R400, R401: HOST_FLAG_DOORBELL. -/
def execHostFlagDoorbell (i : Fin 64) (value : W32) (s : State) : Res :=
  .next (let off := 0x10000 + 4 * i.val
    if paused s || s.life = .off then s
    else if i.val < 48 || value.toNat = 0 || 65536 ≤ value.toNat then badDoorbell 0x7F off s
    else hostFlag i value.toNat off s)

/-! ### Queues -/

/-- R419: PCI_Q_CONFIG of a queue, and its fields. -/
def qConfigReg (q : Nat) : Nat := pageBase pgPci + 0x110 + q * 0x20
def qVector (s : State) (q : Nat) : Nat := bits (regGet s (qConfigReg q)) 26 16
def cqBase (s : State) (q : Nat) : Nat :=
  regGet s (pageBase pgPci + 0x108 + q * 0x20) + 2 ^ 32 * regGet s (pageBase pgPci + 0x10C + q * 0x20)

/-- R404: the ring has room: one entry stays free, so that a full ring is not an empty one (assumption 22). -/
def cqRoom (s : State) (q : Nat) : Bool := (queueOf s q).enabled && !(queueOf s q).error &&
  ((queueOf s q).cqTail + 1) % ringSize s q != (queueOf s q).cqHead

/-- R404, R414: a record with its PHASE and the submission head. -/
def stampComp (k : Queue) (rec_ : List Byte) : List Byte :=
  putField (putField rec_ 2 1 (field rec_ 2 1 / 2 * 2 + b2n k.phase)) 4 2 k.sqHead

/-- R404: the completion is written, and its vector is sent. -/
def postNext (q : Nat) (c : List Byte) (rest : List (List Byte)) (s : State) : State :=
  let k := queueOf s q
  let n := ringSize s q
  let wrap := k.cqTail + 1 = n
  emit (.msix (qVector s q)) (emit (.hostWrite (cqBase s q + 64 * k.cqTail) (stampComp k c))
    (putQueue q { k with comps := rest, cqTail := (k.cqTail + 1) % n, phase := if wrap then !k.phase else k.phase, sqReported := k.sqHead } s))

/-- R404: COMPLETION_POST. -/
def execCompletionPost (q : Fin 65) (s : State) : Res :=
  .next (match (queueOf s q).comps with
    | c :: rest => if cqRoom s q && !s.jobs.halted && !paused s then postNext q c rest s else s
    | [] => s)

/-- R403: both rings at index 0; completions that wait stay. -/
def queueStart (on : Bool) (k : Queue) : Queue := { queueReset with enabled := on, comps := k.comps }

/-- R399, R475: PCI_Q_CONFIG as written: a SIZE_LOG2 or a VECTOR outside its range is ignored. -/
def qConfigValue (s : State) (q v : Nat) (enable : Bool) : Nat :=
  let old := regGet s (qConfigReg q)
  let size := if 4 ≤ bits v 7 4 && bits v 7 4 ≤ 12 then bits v 7 4 else bits old 7 4
  let vector := if 2 ≤ bits v 26 16 then bits v 26 16 else bits old 26 16
  b2n enable + size * 16 + vector * 2 ^ 16

/-- R399, R419: SIZE_LOG2 and VECTOR allow the pair to be enabled. -/
def qConfigOk (v : Nat) : Bool := decide (4 ≤ bits v 7 4) && decide (bits v 7 4 ≤ 12) && decide (2 ≤ bits v 26 16)

/-- R403: a write of ENABLE = 1. -/
def enableQueue (q v : Nat) (s : State) : State :=
  let k := queueOf s q
  if k.enabled then regPut (qConfigReg q) (qConfigValue s q v true) s
  else if qConfigOk v then regPut (qConfigReg q) (qConfigValue s q v true) (putQueue q (queueStart true k) s)
  else regPut (qConfigReg q) (qConfigValue s q v false) s

/-- R403, R399: QUEUE_ENABLE. -/
def execQueueEnable (q : Fin 65) (value : W32) (s : State) : Res :=
  .next (if paused s || s.life = .off then s else enableQueue q value.toNat s)

/-- R403: the job in force was taken from the queue. -/
def queueBusy (s : State) (q : Nat) : Bool :=
  inJob s && match s.jobs.active with
    | some a => a.own && a.job.queue = q
    | none => false

/-- R403: a write of ENABLE = 0. -/
def disableQueue (q v : Nat) (s : State) : State :=
  if queueBusy s q then conflict q (qConfigReg q) s
  else regPut (qConfigReg q) (qConfigValue s q v false) (putQueue q (queueStart false (queueOf s q)) s)

/-- R403: QUEUE_DISABLE. -/
def execQueueDisable (q : Fin 65) (value : W32) (s : State) : Res :=
  .next (if paused s || s.life = .off then s else disableQueue q value.toNat s)

end Sys2Proof.Machine
end

