-- ==== Sys2Proof/Machine/Security.lean ====
section
/-! DEFINITION. Commands over MCTP (R412), owner requests (R430 to R433), debug scopes (R436, R437) and attestation (R434, R435). -/

namespace Sys2Proof.Machine

/-- R392, R447: the Keeper answers: powered, not halted, not in the pause of an activation. -/
def keeperUp (s : State) : Bool := s.life != .off && !s.jobs.halted && !paused s

/-! ### Commands over MCTP -/

/-- R410, R412: a command record by its opcode. The bytes of a pointer argument follow the record. -/
def mctpRun (r attached : List Byte) (s : State) : State :=
  let o : CmdFrom := ⟨true, 0, field r 8 8, field r 0x10 8⟩
  let go (listed : Nat) (holes : List Nat) (legal : State → Bool) (body : CmdBody) : State :=
    cmdGate (slice r 1 7) (slice r 0x18 104) listed holes (legal s) body o s
  match field r 0 1 with
  | 0x01 => go 0 [] upLegal cmdPowerUp
  | 0x02 => go 0 [] inKRL cmdPowerDown
  | 0x11 => go 1 [] inBankStates cmdReleaseBank
  | 0x12 => go 4 [1] inAddrStates cmdTensorAddr
  | 0x20 => go 2 [] inBankStates cmdMooringOpen
  | 0x21 => go 1 [] inBankStates cmdMooringSeal
  | 0x22 => go 1 [] inBankStates cmdMooringRelease
  | 0x30 => go 8 [] inRL (cmdForm (slice attached 0 144))
  | 0x31 => go 0 [] inRL cmdDissolve
  | 0x32 => go 8 [] inRL (cmdLeadingSet (slice attached 0 32) (slice attached 32 144))
  | 0x33 => go 0 [] inRL cmdLeadingClear
  | 0x40 => go 8 [] runOrHeld cmdEndJob
  | 0x50 => go 0 [] (fun _ => true) cmdResetWarm
  | _ => if romRecovery s then cmdDone o 0x5003 [] s else cmdDone o 0x1090 [] s

/-- R412: MCTP_COMMAND. -/
def execMctpCommand (record : List Byte) (attached : List Byte) (s : State) : Res :=
  .next (if keeperUp s then mctpRun record attached s else s)

/-! ### Owner requests -/

/-- R430: fields of a request. -/
def rqOp (r : List Byte) : Nat := field r 6 1
def rqKey (r : List Byte) : Nat := field r 8 8
def rqNonce (r : List Byte) : List Byte := slice r 0x10 32
def rqLen (r : List Byte) : Nat := field r 0x30 4
def rqPayload (r : List Byte) : List Byte := slice r 0x40 (rqLen r)
def rqSig (r : List Byte) : List Byte := slice r (0x40 + rqLen r) 2420

/-- R430: the header of a request. -/
def rqHeadOk (r : List Byte) : Bool :=
  field r 0 4 = 0x4E574F53 && field r 4 2 = 1 && field r 7 1 = 0 && zeroBytes (slice r 0x34 12) && decide (rqLen r ≤ 12288)

/-- R431: the payload of an operation: its length and its reserved bits. -/
def rqPayloadOk (r : List Byte) : Bool :=
  let p := rqPayload r
  match rqOp r with
  | 0x01 | 0x02 => rqLen r = 1320 && zeroBytes (slice p 1 7) && decide (field p 0 1 < 16)
  | 0x03 => rqLen r = 8
  | 0x04 => rqLen r = 4 && decide (field p 0 4 < 8)
  | 0x05 => decide (0 < rqLen r)
  | 0x10 => rqLen r = 4 && decide (field p 0 4 < 16)
  | _ => rqLen r = 0

/-- R430: the whole format of a signed request. -/
def rqOk (r : List Byte) : Bool := rqHeadOk r && rqPayloadOk r && r.length = 0x40 + rqLen r + 2420

/-- R430: what an owner key signs. -/
def rqSigned (s : State) (r : List Byte) : List Byte := ascii "SELTAR-OWNER-1" ++ slice s.kpr.fuses.chipId 0 16 ++ r.take (0x40 + rqLen r)

/-- R430: the request's nonce is the outstanding one, not yet 60 s old. -/
def nonceOk (s : State) (r : List Byte) : Bool :=
  match s.kpr.sec.nonce with
  | some n => n.1 = rqNonce r && decide (s.watch < n.2)
  | none => false

def putSec (c : Sec) (s : State) : State := { s with kpr := { s.kpr with sec := c } }

/-- R430: the response: the status code and, for a request that succeeded, a Daymark signature, while the Daymark is available. -/
def respond (code : Nat) (nonce extra : List Byte) (s : State) : State :=
  let m := ascii "SELTAR-DEVICE-1" ++ slice s.kpr.fuses.chipId 0 16 ++ nonce ++ leBytes 2 code
  emit (.reply "SPDM owner" (leBytes 2 code ++ extra ++
    if code = 0 && !daymarkOff s then Config.dsaSign s.kpr.fuses.seed m else [])) s

/-- R439, R417: the event of a request that fails. -/
def noteBad (code : Nat) (r : List Byte) (s : State) : State :=
  if code = 0x2040 then conflict 0x7F 0 s
  else raise code pgSec (if code = 0x5030 then 2 else 0) (code + rqOp r * 2 ^ 16) (rqKey r % 2 ^ 32) (rqKey r / 2 ^ 32) s

/-- A request is refused. -/
def rqRefuse (code : Nat) (r : List Byte) (s : State) : State := respond code (rqNonce r) [] (noteBad code r s)

/-- R436: the public key of a Berwamen debug key that the running bundle lists. -/
def vendorKey (s : State) (r : List Byte) : Option (List Byte) := s.kpr.boot.bundle.debugKeys.find? fun k => keyId k = rqKey r

/-- R429, R431: the owner key that a request names, with a role bit. -/
def ownerKey (s : State) (r : List Byte) (role : Nat) : Option (List Byte) :=
  (s.kpr.sec.keys.find? fun k => keyId k.key = rqKey r && bitAt k.roles role).map OwnerKey.key

/-- R431: the key that signs a request: ENROL's own ADMIN key, a DEBUG or vendor key for DEBUG_UNLOCK, else an ADMIN key. -/
def signingKey (s : State) (r : List Byte) : Option (List Byte) :=
  let p := rqPayload r
  match rqOp r with
  | 0x01 => if keyId (slice p 8 1312) = rqKey r && bitAt (field p 0 1) 0 then some (slice p 8 1312) else none
  | 0x10 => match if s.kpr.sec.owned then ownerKey s r 2 else none with
    | some k => some k
    | none => vendorKey s r
  | _ => ownerKey s r 0

/-- R436: what is wrong with a debug token: a scope that an owner may not sign, or a vendor key on a module that does not take it. -/
def debugBad (s : State) (r : List Byte) : Bool :=
  let scope := field (rqPayload r) 0 4
  if s.kpr.sec.owned && (ownerKey s r 2).isSome then bitAt scope 2 || bitAt scope 3
  else s.kpr.sec.owned && !bitAt s.kpr.sec.policy 2

/-- R431: ROLES and keys after a REVOKE_KEY. -/
def keysWithout (s : State) (r : List Byte) : List OwnerKey := s.kpr.sec.keys.filter fun k => keyId k.key != field (rqPayload r) 0 8

/-- R431: the owner certificate is for the Daymark and signed by a CA key. -/
def certOk (s : State) (r : List Byte) : Bool := s.kpr.sec.keys.any fun k => bitAt k.roles 3 && Config.ownerCertOk k.key (daymark s) (rqPayload r)

/-- R431, R433: the owner state of an operation, fuses and lock included. -/
def ownerStateOk (s : State) (r : List Byte) : Bool :=
  let c := s.kpr.sec
  match rqOp r with
  | 0x01 => !c.owned && !c.recordBad && decide (s.kpr.fuses.epoch < 32)
  | 0x02 => c.owned && decide (c.keys.length < 4)
  | 0x03 => c.owned && (keysWithout s r).length != c.keys.length && (keysWithout s r).any fun k => bitAt k.roles 0
  | 0x04 => c.owned && !c.lock
  | 0x05 => c.owned && !c.lock && certOk s r
  | 0x08 => (c.owned || c.recordBad) && decide (s.kpr.fuses.epoch < 32)
  | 0x10 => !c.lock
  | _ => c.owned

/-- R431: the lifecycle state allows an operation. -/
def lifeAllows (s : State) (r : List Byte) : Bool :=
  match rqOp r with
  | 0x02 | 0x03 => s.life != .updating
  | 0x06 | 0x07 => true
  | _ => inKRL s

/-- R430, R431, R436: the first check that a request fails. -/
def rqFails (s : State) (r : List Byte) : Option Nat :=
  if !rqOk r then some 0x5012
  else if !nonceOk s r then some 0x5011
  else match signingKey s r with
    | none => some 0x5010
    | some k =>
      if rqOp r = 0x10 && debugBad s r then some 0x5030
      else if !Config.dsaVerify k (rqSigned s r) (rqSig r) then some 0x5010
      else if !ownerStateOk s r then some 0x5012
      else if !lifeAllows s r then some 0x2040
      else none

/-- R430: the nonce is consumed. -/
def useNonce (s : State) : State := putSec { s.kpr.sec with nonce := none } s

/-- R424, R430: a request of an operation: checked, answered, and with its effect when it passes. -/
def ownerRun (op : Nat) (r : List Byte) (effect : List Byte → State → State) (s : State) : State :=
  if !keeperUp s || rqOp r != op then s
  else if romRecovery s then respond 0x5003 (rqNonce r) [] s
  else match rqFails s r with
    | some c => rqRefuse c r (useNonce s)
    | none => respond 0 (rqNonce r) [] (effect r (useNonce s))

/-- R431: one OWNER_EPOCH fuse is blown. -/
def blowEpoch (s : State) : State := { s with kpr := { s.kpr with fuses := { s.kpr.fuses with epoch := s.kpr.fuses.epoch + 1 } } }

/-- R431: the key of a payload, with its roles. -/
def payloadKey (r : List Byte) : OwnerKey := ⟨slice (rqPayload r) 8 1312, field (rqPayload r) 0 1⟩

/-- R431: ENROL. -/
def enrolOwner (r : List Byte) (s : State) : State :=
  let s1 := blowEpoch s
  putSec { s1.kpr.sec with owned := true, recordBad := false, epoch := s1.kpr.fuses.epoch, tagOk := true, policy := 0, lock := false
                           keys := [payloadKey r], ownerCert := none } s1
def execEnrol (request : List Byte) (s : State) : Res := .next (ownerRun 0x01 request enrolOwner s)

/-- R431: ADD_KEY. -/
def addKey (r : List Byte) (s : State) : State := putSec { s.kpr.sec with keys := s.kpr.sec.keys ++ [payloadKey r] } s
def execAddKey (request : List Byte) (s : State) : Res := .next (ownerRun 0x02 request addKey s)

/-- R431: REVOKE_KEY. -/
def revokeKey (r : List Byte) (s : State) : State := putSec { s.kpr.sec with keys := keysWithout s r } s
def execRevokeKey (request : List Byte) (s : State) : Res := .next (ownerRun 0x03 request revokeKey s)

/-- R432: SET_POLICY. -/
def setPolicy (r : List Byte) (s : State) : State := putSec { s.kpr.sec with policy := field (rqPayload r) 0 4 } s
def execSetPolicy (request : List Byte) (s : State) : Res := .next (ownerRun 0x04 request setPolicy s)

/-- R431: SET_OWNER_CERT. -/
def setOwnerCert (r : List Byte) (s : State) : State := putSec { s.kpr.sec with ownerCert := some (rqPayload r) } s
def execSetOwnerCert (request : List Byte) (s : State) : Res := .next (ownerRun 0x05 request setOwnerCert s)

/-- R433: LOCK. -/
def setLock (_ : List Byte) (s : State) : State := putSec { s.kpr.sec with lock := true } s
def execLock (request : List Byte) (s : State) : Res := .next (ownerRun 0x06 request setLock s)

/-- R431: UNLOCK. -/
def clearLock (_ : List Byte) (s : State) : State := putSec { s.kpr.sec with lock := false } s
def execUnlock (request : List Byte) (s : State) : Res := .next (ownerRun 0x07 request clearLock s)

/-- R431: RELEASE. -/
def releaseOwner (_ : List Byte) (s : State) : State :=
  let s1 := blowEpoch s
  putSec { s1.kpr.sec with owned := false, recordBad := false, epoch := 0, tagOk := true, policy := 0, lock := false, keys := []
                           ownerCert := none } s1
def execRelease (request : List Byte) (s : State) : Res := .next (ownerRun 0x08 request releaseOwner s)

/-- Bits of a scope mask added to another. -/
def joinBits (a b : Nat) : Nat := Nat.lor a b

/-- R437: an invasive scope opens while a job runs. -/
def scopeFaults (scope : Nat) (s : State) : State :=
  if (bitAt scope 1 || bitAt scope 2) && runOrHeld s then
    faulted 0x5031 s.run.step (myRank s) (raise 0x5031 pgSec 4 0x5031 0 0 s)
  else s

/-- R436: DEBUG_UNLOCK opens its scopes. -/
def openScopes (r : List Byte) (s : State) : State :=
  let scope := field (rqPayload r) 0 4
  let s0 := if daymarkOff s || !(bitAt scope 1 || bitAt scope 2) then s else keepSigning s
  let s1 := putSec { s.kpr.sec with debugOpen := joinBits s.kpr.sec.debugOpen scope } s0
  let s2 := if s1.kpr.sec.debugOpen = s.kpr.sec.debugOpen then s1
    else setEvent pgSec 3 (0x10 * 2 ^ 16) (rqKey r % 2 ^ 32) (rqKey r / 2 ^ 32) s1
  scopeFaults scope s2
def execDebugUnlock (request : List Byte) (s : State) : Res := .next (ownerRun 0x10 request openScopes s)

/-! ### The nonce -/

/-- R430: a GET_NONCE request: OP 0x00, KEYID, NONCE and LEN zero, no signature. -/
def getNonceOk (r : List Byte) : Bool :=
  rqHeadOk r && r.length = 0x40 && rqOp r = 0 && rqKey r = 0 && zeroBytes (rqNonce r) && rqLen r = 0

/-- R430, R438: a fresh nonce for 60 s; the old one is discarded. -/
def giveNonce (r random : List Byte) (s : State) : State :=
  respond 0 (rqNonce r) (slice random 0 32) (putSec { s.kpr.sec with nonce := some (slice random 0 32, s.watch + 60000000000) } s)

/-- R430: GET_NONCE. -/
def execGetNonce (request : List Byte) (random : List Byte) (s : State) : Res :=
  .next (if !keeperUp s || rqOp request != 0 then s
    else if romRecovery s then respond 0x5003 (rqNonce request) [] s
    else if getNonceOk request then giveNonce request random s else rqRefuse 0x5012 request s)

/-- R430: NONCE_EXPIRY. -/
def execNonceExpiry (s : State) : Res :=
  .next (match s.kpr.sec.nonce with
    | some n => let s1 := watchTo n.2 s; putSec { s1.kpr.sec with nonce := none } s1
    | none => s)

/-! ### Attestation -/

/-- R434: an SPDM answer, and an ERROR. -/
def spdm (name : String) (data : List Byte) (s : State) : State := emit (.reply ("SPDM " ++ name) data) s
def spdmError (name : String) (data : List Byte) (s : State) : State := spdm ("ERROR " ++ name) data s

/-- R424, R434: the responder serves a request. -/
def spdmServe (answer : State → State) (s : State) : State :=
  if !keeperUp s then s else if romRecovery s then spdmError "Unspecified" (leBytes 2 0x5003) s else answer s

/-- R434: GET_VERSION: version 1.3 only. -/
def execSpdmGetVersion (s : State) : Res := .next (spdmServe (spdm "VERSION" [0x13]) s)

/-- R434: the chain in a certificate slot. -/
def slotChain (s : State) (slot : Nat) : Option (List Byte) :=
  if slot = 0 then some s.kpr.flash.identity else if slot = 1 && s.kpr.sec.owned then s.kpr.sec.ownerCert else none

/-- R434: GET_CERTIFICATE. -/
def execSpdmGetCertificate (slot : Nat) (s : State) : Res :=
  .next (spdmServe (match slotChain s slot with
    | some c => spdm "CERTIFICATE" c
    | none => spdmError "InvalidRequest" []) s)

/-- R427, R434: an attestation signature. -/
def attest (s : State) (m : List Byte) : List Byte := Config.dsaSign s.kpr.fuses.seed (ascii "dmtf-spdm-v1.3.*" ++ m)

/-- R434: killed or withheld, a signed answer is ERROR Unspecified with the status code. -/
def withDaymark (answer : State → State) (s : State) : State :=
  if daymarkOff s then spdmError "Unspecified" (leBytes 2 0x5031) (raise 0x5031 pgSec 4 0x5031 0 0 s) else answer s

/-- R434: CHALLENGE. -/
def execSpdmChallenge (slot : Nat) (message : List Byte) (s : State) : Res :=
  .next (spdmServe (fun t => match slotChain t slot with
    | some _ => withDaymark (fun u => spdm "CHALLENGE_AUTH" (attest u message) u) t
    | none => spdmError "InvalidRequest" [] t) s)

/-- The bytes of a Relight copy or bundle. -/
def objectBytes (b : Bundle) : List Byte := b.manifest ++ b.components.flatten ++ b.key ++ b.signature

/-- R429: the owner record without its tag; the spec gives it no layout (assumption 23). -/
def ownerRecord (c : Sec) : List Byte :=
  leBytes 4 c.epoch ++ leBytes 4 c.policy ++ (c.keys.flatMap fun k => leBytes 1 k.roles ++ k.key) ++ c.ownerCert.getD []

/-- R435: measurement 7. -/
def policyBlock (s : State) : List Byte :=
  leBytes 8 (s.kpr.sec.policy + b2n s.kpr.sec.lock * 2 ^ 32 + s.kpr.sec.debugOpen % 16 * 2 ^ 33)

/-- R435: the FUS page from 0x040 to 0x15F, as read. -/
def fusBytes (s : State) : List Byte := (List.range 72).flatMap fun i => leBytes 4 (readWord s (pageBase pgFus + 0x40 + 4 * i))

/-- R435: measurements 1 to 10. -/
def fixedBlock (s : State) (i : Nat) : Option (List Byte) :=
  match i with
  | 1 => some (sha3 Config.maskRom)
  | 2 => some (sha3 (objectBytes s.kpr.boot.relight))
  | 3 => some (sha3 s.kpr.boot.bundle.manifest)
  | 4 => some (leBytes 4 s.kpr.boot.fwSet ++ leBytes 1 s.kpr.boot.svn ++ leBytes 1 s.kpr.boot.source ++ leBytes 2 0)
  | 5 => some (sha3 (fusBytes s))
  | 6 => some (if s.kpr.sec.owned then sha3 (ownerRecord s.kpr.sec) else List.replicate 32 0)
  | 7 => some (policyBlock s)
  | 8 => some (sha3 (darkBytes s))
  | 9 => some (slice s.fab.part.hash 0 32)
  | 10 => some (leBytes 4 (b2n (strictOn s) + 2 * b2n s.kpr.forwarded))
  | _ => none

/-- R435: the measurement of an index. -/
def measurement (s : State) (i : Nat) : Option (List Byte) :=
  if i < 0x10 then fixedBlock s i
  else if i < 0x20 then
    let k := bankOf s (i - 0x10)
    some (if k.st = .loaded || k.st = .stale then slice k.hash 0 32 else List.replicate 32 0)
  else if i < 0x60 then
    let m := moorOf s (i - 0x20)
    some (if m.st = .ready then slice ((m.img.map Image.root).getD []) 0 32 else List.replicate 32 0)
  else none

/-- R435: a block with its index: raw values are 4, 7 and 10. -/
def measBlock (s : State) (i : Nat) : List Byte :=
  match measurement s i with
  | some v => leBytes 1 i ++ leBytes 1 (b2n (i = 4 || i = 7 || i = 10)) ++ leBytes 2 v.length ++ v
  | none => []

/-- R435: the indexes of every block. -/
def measIndexes : List Nat := (List.range 10).map (· + 1) ++ (List.range 80).map (· + 0x10)

/-- The blocks that a request asks for: 0 their number, 0xFF all, else one. -/
def measAsked (s : State) (i : Nat) : Option (List Byte) :=
  if i = 0 then some [BitVec.ofNat 8 measIndexes.length]
  else if i = 0xFF then some (measIndexes.flatMap (measBlock s))
  else if (measurement s i).isSome then some (measBlock s i) else none

/-- R434, R435: GET_MEASUREMENTS. -/
def execSpdmGetMeasurements (index : Nat) (signed : Bool) (message : List Byte) (s : State) : Res :=
  .next (spdmServe (fun t => match measAsked t index with
    | some b =>
      if signed then withDaymark (fun u => spdm "MEASUREMENTS" (b ++ attest u (message ++ b)) u) t else spdm "MEASUREMENTS" b t
    | none => spdmError "InvalidRequest" [] t) s)

end Sys2Proof.Machine
end

