-- ==== Sys2Proof/Machine/RegWrite.lean ====
section
/-! DEFINITION. Host writes to BAR0 (R470 to R484): events, locks, the Station's freeze and resume, the parameter window, and a write
to any register, by its access code and by the action its chapter gives it. -/

namespace Sys2Proof.Machine

/-! ### EVENT, EVENT_ENABLE, EVENT_SET and LOCK of a page -/

/-- The bits that the fields of a register cover. -/
def fieldMask (fs : List RegField) : Nat := fs.foldl (fun m f => Nat.lor m (2 ^ (f.hi + 1) - 2 ^ f.lo)) 0

/-- The EVENT bits that a page defines. -/
def eventMask (p : Nat) : Nat :=
  match regFind (regsOf (pageKind p).1) 0x18 with
  | some (d, _, _) => fieldMask d.fields
  | none => 0

/-- R478: a clear of EVENT bits in a clock in which hardware sets some of them: hardware wins, and SET_DURING_CLEAR counts it. -/
def clearEvents (p bits hwSet : Nat) (s : State) : State :=
  let a := pageBase p
  let met := Nat.land (Nat.land hwSet bits) (eventMask p)
  let ev := regGet s (a + 0x18)
  let s1 := regPut (a + 0x18) (Nat.lor (Nat.land ev (Nat.xor bits 0xFFFFFFFF)) met) s
  let s2 := if met = 0 then s1 else regCount16 (a + 0x34) s1
  afterSummary p (summaryOn s p) s2

/-- R476: a write of 1 to EVENT_SET bits sets the EVENT bits and does nothing else but raise the summary bit. -/
def setEvents (p bits : Nat) (s : State) : State :=
  let a := pageBase p + 0x18
  afterSummary p (summaryOn s p) (regPut a (Nat.lor (regGet s a) (Nat.land bits (eventMask p))) s)

/-- R479: a write to EVENT_ENABLE. -/
def enableEvents (p v : Nat) (s : State) : State :=
  afterSummary p (summaryOn s p) (regPut (pageBase p + 0x1C) (Nat.land v (eventMask p)) s)

/-- R480: a write of 1 to LOCK. -/
def lockPage (p : Nat) (s : State) : State := regPut (pageBase p + 0x30) 1 s

/-- R480: PAGE_LOCK. -/
def execPageLock (page : PageNo) (s : State) : Res :=
  .next (hostWrite page (pageBase page + 0x30) (lockPage page) s)

/-- R478: EVENT_CLEAR. -/
def execEventClear (page : PageNo) (bits hwSet : W32) (s : State) : Res :=
  .next (hostWrite page (pageBase page + 0x18) (clearEvents page bits.toNat hwSet.toNat) s)

/-- R476: EVENT_SET. -/
def execEventSet (page : PageNo) (bits : W32) (s : State) : Res :=
  .next (hostWrite page (pageBase page + 0x20) (setEvents page bits.toNat) s)

/-- R479: EVENT_ENABLE_WRITE. -/
def execEventEnableWrite (page : PageNo) (value : W32) (s : State) : Res :=
  .next (hostWrite page (pageBase page + 0x1C) (enableEvents page value.toNat) s)

/-! ### FREEZE and RESUME -/

/-- R177: a write to FREEZE; a release also ends the freeze of a break (assumption 24). -/
def freezeStation (st : Fin 16) (freeze : Bool) (s : State) : State :=
  let a := pageBase (pgSync st) + 0x10
  let s1 := regPut a (setBits (regGet s a) 0 0 (b2n freeze)) s
  settlePause st (if freeze then s1 else putStn st { stnOf s1 st with frozen := false } s1)

/-- R177: STATION_FREEZE. -/
def execStationFreeze (st : Fin 16) (freeze : Bool) (s : State) : Res :=
  .next (hostWrite (pgSync st) (pageBase (pgSync st) + 0x10) (freezeStation st freeze) s)

/-- The STN_ENG_CONTROL_e register of an engine. -/
def engCtlReg (g : Eng) : Nat := pageBase (pgSync g.st) + 0xA00 + g.e.val * 0x40

/-- R173: some engine of the Station is at a break that freezes the Station. -/
def breakFreezes (s : State) (st : Fin 16) : Bool :=
  (List.range 17).any fun e =>
    let g := engAt st e
    (engOf s g).atBreak.isSome && bitAt (regGet s (engCtlReg g)) 1

/-- R173: an engine at a break issues its descriptor without the break test; the Station's freeze ends with its last freezing break
(assumption 24). -/
def resumeEngine (g : Eng) (s : State) : State :=
  let e := engOf s g
  if e.atBreak.isNone then s
  else
    let s1 := putEng g { e with atBreak := none, resumed := true } s
    settlePause g.st (if breakFreezes s1 g.st then s1 else putStn g.st { stnOf s1 g.st with frozen := false } s1)

/-- R173: ENGINE_RESUME. -/
def execEngineResume (g : Eng) (s : State) : Res :=
  .next (hostWrite (pgSync g.st) (engCtlReg g) (resumeEngine g) s)

/-! ### The parameter window -/

/-- The STN_PARAM_DATA register of a Station. -/
def paramReg (st : Nat) : Nat := pageBase (pgParam st) + 0x48

/-- R483: a write to STN_PARAM_DATA in a state that allows it. -/
def writeParam (st : Fin 16) (value : W64) (s : State) : State :=
  let sel := regGet s (pageBase (pgParam st) + 0x40)
  let g := engAt st (bits sel 4 0)
  let e := engOf s g
  if e.present && !bitAt sel 5 then putEng g { e with p := tput e.p (bits sel 11 6) value } s else s

/-- R145, R483: a write to STN_PARAM_DATA, refused while a job is ARMED, RUNNING or HELD. -/
def paramWrite (st : Fin 16) (value : W64) (s : State) : State :=
  if engineWriteOk s then writeParam st value s else conflict 0x7F (paramReg st) s

/-- R483: PARAM_WRITE. -/
def execParamWrite (st : Fin 16) (value : W64) (s : State) : Res :=
  .next (hostWrite (pgParam st) (paramReg st) (paramWrite st value) s)

/-! ### Actions of CONTROL registers -/

/-- R77, R110, R417: ENGINE_RESET where the state allows it, else refused with 0x2040. -/
def resetOrRefuse (a : Nat) (reset : State → State) (s : State) : State :=
  if engineWriteOk s then reset s else conflict 0x7F a s

/-- R481: a unit with its engine, or alone where it has none. -/
def resetUnit (u : UnitRef) (s : State) : State :=
  match unitEng s u with
  | some g => resetEng g s
  | none => clearFree u s

/-- R79, R110: CONTROL of a Lantern or Wick pair. -/
def unitControl (u : UnitRef) (v : Nat) (s : State) : State :=
  if bitAt v 1 then resetOrRefuse (pageBase (unitPage u) + 0x10) (resetUnit u) s else s

/-- R79, R110: KAT_CONTROL of a Lantern or Wick pair. -/
def katControl (u : UnitRef) (v : Nat) (s : State) : State :=
  if bitAt v 0 && (unitOf s u).role = .spare then katBegin u s else s

/-- R205: TND_CONTROL. -/
def tenderControl (st v : Nat) (s : State) : State :=
  (List.range 4).foldl (fun t c =>
    if bitAt v c then resetOrRefuse (pageBase (pgTnd st) + 0x10) (resetEng (engAt st (12 + c))) t else t) s

/-- R319, R322: the parts of LNK_CONTROL that act: ENABLE, UNFENCE and RETRAIN. -/
def linkActs (l v : Nat) (wasOn : Bool) (s : State) : State :=
  let on := bitAt (lnkCtl s l) 0
  let s1 := if wasOn && !on then forceDown l s else if !wasOn && on && mayTrain s l then tryLink l s else s
  let s2 := if bitAt v 4 then (if linkBusy s1 l then conflict 0x7F (lnkReg l 0x10) s1 else unfenceLink l s1) else s1
  if bitAt v 5 then (if linkBusy s2 l then conflict 0x7F (lnkReg l 0x10) s2 else forceDown l s2) else s2

/-- R319, R322: a write to LNK_CONTROL; clearing ENABLE is refused while a job needs the link. -/
def linkControl (l : Nat) (d : RegDesc) (v : Nat) (s : State) : State :=
  let on := bitAt (lnkCtl s l) 0
  let bad := on && !bitAt v 0 && linkBusy s l && !pageLocked s (pgLnk l)
  let s1 := writeReg (pgLnk l) (lnkReg l 0x10) d (if bad then v + 1 else v) s
  linkActs l v on (if bad then conflict 0x7F (lnkReg l 0x10) s1 else s1)

/-- R403, R419: a write to PCI_Q_CONFIG_q. -/
def queueConfig (q v : Nat) (s : State) : State := if bitAt v 0 then enableQueue q v s else disableQueue q v s

/-- R419: PCI_Q_SQ_BASE_q and PCI_Q_CQ_BASE_q ignore writes while the pair is enabled; PCI_BAR2_WINDOW takes multiples of the BAR2
size (R397). -/
def pciWide (a off i : Nat) (d : RegDesc) (v : Nat) (s : State) : State :=
  if off = 0x40 then (if v % bar2Size s = 0 then writeReg pgPci a d v s else s)
  else if (queueOf s i).enabled then s
  else writeReg pgPci a d v s

/-- R378: a write to KPR_LDG_CONTROL. -/
def ledgerControl (v : Nat) (s : State) : State :=
  if inKRL s then setStrict (bitAt v 0) s else conflict 0x7F (pageBase pgLdg + 0x10) s

/-! ### A write of one register -/

/-- What a write to a register of the common header does, if it is one (R474 to R480). -/
def headerWrite (p off v : Nat) (s : State) : Option State :=
  if off = 0x18 then some (clearEvents p v 0 s)
  else if off = 0x1C then some (enableEvents p v s)
  else if off = 0x20 then some (setEvents p v s)
  else if off = 0x30 then some (if bitAt v 0 then lockPage p s else s)
  else none

/-- A write of a whole register: p its page, a its address, d and i its description and index, v the value. -/
def putRegister (p a : Nat) (d : RegDesc) (i v : Nat) (s : State) : State :=
  let k := pageKind p
  let n := Fin.ofNat 16 k.2.1
  let plain (t : State) : State := writeReg p a d v t
  match headerWrite p d.off v s with
  | some t => t
  | none =>
    match k.1 with
    | .lnt =>
      let u := UnitRef.lantern n (Fin.ofNat 5 k.2.2)
      if d.off = 0x10 then unitControl u v (plain s) else if d.off = 0x70 then katControl u v (plain s) else plain s
    | .wck =>
      let u := UnitRef.wick n (Fin.ofNat 9 k.2.2)
      if d.off = 0x10 then unitControl u v (plain s) else if d.off = 0x70 then katControl u v (plain s) else plain s
    | .stnSync =>
      if d.off = 0x10 then freezeStation n (bitAt v 0) s
      else if d.off = 0xA00 && bitAt v 0 then resumeEngine (engAt n i) (plain s) else plain s
    | .tnd => if d.off = 0x10 then tenderControl n v s else plain s
    | .prt => if d.off = 0x10 then (if bitAt v 0 then resetOrRefuse a (resetEng (engAt n 16)) s else s) else plain s
    | .stnParam => if d.off = 0x48 then paramWrite n (BitVec.ofNat 64 v) s else plain s
    | .lnk => if d.off = 0x10 then linkControl k.2.2 d v s else plain s
    | .pci =>
      if d.off = 0x110 then queueConfig i v s
      else if d.off = 0x40 || d.off = 0x100 || d.off = 0x108 then pciWide a d.off i d v s
      else plain s
    | .pwr => if d.off = 0x10 then oppWrite (bits v 2 0) s else plain s
    | .tim =>
      if d.off = 0x10 then (if bitAt v 3 then timeRevert (plain s) else plain s)
      else if d.off = 0x50 then todSecWrite v s
      else if d.off = 0x58 then setTodInc v s
      else plain s
    | .kprLdg => if d.off = 0x10 then ledgerControl v s else plain s
    | .kpr | .kprSec | .kprUpd | .kprRcv | .stnSram | .stnClk | .xch | .drm | .fus => plain s

/-- The staged low word of a 64-bit register, or its current one (R472). -/
def lowWord (a : Nat) (s : State) : Nat := (tget? s.staged a).getD (readWord s a)

/-- R472: a 4-byte write: the low word of a 64-bit register is staged, and the high word commits both. -/
def writeWord (a v : Nat) (s : State) : State :=
  match pageAt a with
  | none => s
  | some p =>
    match regFind (regsOf (pageKind p).1) (a % 0x1000) with
    | none => s
    | some (d, i, w) =>
      let base := a - 4 * w
      hostWrite p a (fun t =>
        if !d.wide then putRegister p base d i v t
        else if w = 0 then { t with staged := tput t.staged base v }
        else putRegister p base d i (lowWord base t + 2 ^ 32 * v) { t with staged := terase t.staged base }) s

/-- R471: an 8-byte write: one 64-bit register at once, or two 32-bit registers, the lower address first. -/
def writeLong (a v : Nat) (s : State) : State :=
  match pageAt a with
  | none => s
  | some p =>
    match regFind (regsOf (pageKind p).1) (a % 0x1000) with
    | some (d, i, 0) =>
      if d.wide then hostWrite p a (putRegister p a d i v) s else writeWord (a + 4) (v / 2 ^ 32) (writeWord a (v % 2 ^ 32) s)
    | _ => writeWord (a + 4) (v / 2 ^ 32) (writeWord a (v % 2 ^ 32) s)

/-- R471: a BAR0 write of 4 or 8 bytes, aligned to its own length; any other is ignored. -/
def bar0Write (addr size value : Nat) (s : State) : State :=
  if size = 4 && addr % 4 = 0 then writeWord addr (value % 2 ^ 32) s
  else if size = 8 && addr % 8 = 0 then writeLong addr (value % 2 ^ 64) s
  else s

/-- R470 to R475: REGISTER_WRITE. -/
def execRegisterWrite (addr size value : Nat) (s : State) : Res := .next (bar0Write addr size value s)

end Sys2Proof.Machine
end

