-- ==== Sys2Proof/Machine/Dispatch.lean ====
section
/-! DEFINITION. The dispatch of the commands: one arm per row of spec/opcode_table.json. -/

namespace Sys2Proof.Machine

def exec (i : Instr) (s : State) : Host.Outcome State Fault Refusal :=
  match i with
  | .nop g => Sys2Proof.Machine.execNop g s
  | .matmul g us => Sys2Proof.Machine.execMatmul g us s
  | .matmulChain g us => Sys2Proof.Machine.execMatmulChain g us s
  | .accDrain g us => Sys2Proof.Machine.execAccDrain g us s
  | .copy g us => Sys2Proof.Machine.execCopy g us s
  | .gather g us => Sys2Proof.Machine.execGather g us s
  | .scatter g us => Sys2Proof.Machine.execScatter g us s
  | .fill g us => Sys2Proof.Machine.execFill g us s
  | .kernel g us => Sys2Proof.Machine.execKernel g us s
  | .reduceScalar g us => Sys2Proof.Machine.execReduceScalar g us s
  | .send g us => Sys2Proof.Machine.execSend g us s
  | .recv g us => Sys2Proof.Machine.execRecv g us s
  | .branch g => Sys2Proof.Machine.execBranch g s
  | .loopback g => Sys2Proof.Machine.execLoopback g s
  | .setparam g => Sys2Proof.Machine.execSetparam g s
  | .waitWatch g => Sys2Proof.Machine.execWaitWatch g s
  | .waitWatchTarget g => Sys2Proof.Machine.execWaitWatchTarget g s
  | .stepEnd g => Sys2Proof.Machine.execStepEnd g s
  | .fork g => Sys2Proof.Machine.execFork g s
  | .tallyVerify g us => Sys2Proof.Machine.execTallyVerify g us s
  | .tap g us => Sys2Proof.Machine.execTap g us s
  | .halt g => Sys2Proof.Machine.execHalt g s
  | .descriptorFetch g us => Sys2Proof.Machine.execDescriptorFetch g us s
  | .descriptorComplete g => Sys2Proof.Machine.execDescriptorComplete g s
  | .fifoPush g us => Sys2Proof.Machine.execFifoPush g us s
  | .fifoPop g us => Sys2Proof.Machine.execFifoPop g us s
  | .wickInstruction w fetch core0 core1 us => Sys2Proof.Machine.execWickInstruction w fetch core0 core1 us s
  | .tlyRed o rd rs1 => Sys2Proof.Machine.execTlyRed o rd rs1 s
  | .tlyAdd o rd rs1 rs2 => Sys2Proof.Machine.execTlyAdd o rd rs1 rs2 s
  | .tlyMul o rd rs1 rs2 => Sys2Proof.Machine.execTlyMul o rd rs1 rs2 s
  | .tlySh o rd rs1 rs2 => Sys2Proof.Machine.execTlySh o rd rs1 rs2 s
  | .tlyTile w rd rs1 us => Sys2Proof.Machine.execTlyTile w rd rs1 us s
  | .tlyChk w rd rs1 us => Sys2Proof.Machine.execTlyChk w rd rs1 us s
  | .tlyBeta w rd rs1 rs2 rs3 us => Sys2Proof.Machine.execTlyBeta w rd rs1 rs2 rs3 us s
  | .crvEv o vd vs2 rs1 => Sys2Proof.Machine.execCrvEv o vd vs2 rs1 s
  | .rngU32 o vd rs1 rs2 => Sys2Proof.Machine.execRngU32 o vd rs1 rs2 s
  | .rngF32 o vd rs1 rs2 => Sys2Proof.Machine.execRngF32 o vd rs1 rs2 s
  | .redMax o rd vs2 => Sys2Proof.Machine.execRedMax o rd vs2 s
  | .redMin o rd vs2 => Sys2Proof.Machine.execRedMin o rd vs2 s
  | .redAmax o rd vs2 rs1 => Sys2Proof.Machine.execRedAmax o rd vs2 rs1 s
  | .redAmin o rd vs2 rs1 => Sys2Proof.Machine.execRedAmin o rd vs2 rs1 s
  | .redSum o rd vs2 => Sys2Proof.Machine.execRedSum o rd vs2 s
  | .cvtIn o vd vs2 rs1 => Sys2Proof.Machine.execCvtIn o vd vs2 rs1 s
  | .cvtOut o vd vs2 rs1 => Sys2Proof.Machine.execCvtOut o vd vs2 rs1 s
  | .cvtMxs o rd vs2 rs1 => Sys2Proof.Machine.execCvtMxs o rd vs2 rs1 s
  | .ecall w us => Sys2Proof.Machine.execEcall w us s
  | .pushStore o addr data vector => Sys2Proof.Machine.execPushStore o addr data vector s
  | .pushQueueRoom w => Sys2Proof.Machine.execPushQueueRoom w s
  | .spareKatTimer unit => Sys2Proof.Machine.execSpareKatTimer unit s
  | .spareKatComplete unit pass => Sys2Proof.Machine.execSpareKatComplete unit pass s
  | .katStart unit => Sys2Proof.Machine.execKatStart unit s
  | .faultKatComplete unit pass => Sys2Proof.Machine.execFaultKatComplete unit pass s
  | .engineWakeDone unit => Sys2Proof.Machine.execEngineWakeDone unit s
  | .powerGateDelayExpiry unit => Sys2Proof.Machine.execPowerGateDelayExpiry unit s
  | .stepBoundary => Sys2Proof.Machine.execStepBoundary s
  | .stepCommit us => Sys2Proof.Machine.execStepCommit us s
  | .checkpointCopyDone => Sys2Proof.Machine.execCheckpointCopyDone s
  | .deadlockWatchdog g => Sys2Proof.Machine.execDeadlockWatchdog g s
  | .sramScrubRead st us => Sys2Proof.Machine.execSramScrubRead st us s
  | .scrubWriteback st => Sys2Proof.Machine.execScrubWriteback st s
  | .scrubPeriodEnd st => Sys2Proof.Machine.execScrubPeriodEnd st s
  | .dramPatrolRead ch us => Sys2Proof.Machine.execDramPatrolRead ch us s
  | .dramRefresh ch => Sys2Proof.Machine.execDramRefresh ch s
  | .dramTemperatureRead group celsius => Sys2Proof.Machine.execDramTemperatureRead group celsius s
  | .faultReport => Sys2Proof.Machine.execFaultReport s
  | .rollbackComplete us => Sys2Proof.Machine.execRollbackComplete us s
  | .replayOrigin => Sys2Proof.Machine.execReplayOrigin s
  | .flashStart l => Sys2Proof.Machine.execFlashStart l s
  | .departureBufferFetch st us => Sys2Proof.Machine.execDepartureBufferFetch st us s
  | .departureDeadline st => Sys2Proof.Machine.execDepartureDeadline st s
  | .scheduledFrameRx l f => Sys2Proof.Machine.execScheduledFrameRx l f s
  | .flitRelease st => Sys2Proof.Machine.execFlitRelease st s
  | .recvFlit st us => Sys2Proof.Machine.execRecvFlit st us s
  | .bulkFrameRx l f => Sys2Proof.Machine.execBulkFrameRx l f s
  | .bulkForward l => Sys2Proof.Machine.execBulkForward l s
  | .controlFrameRx l f => Sys2Proof.Machine.execControlFrameRx l f s
  | .linkFrameRx l f => Sys2Proof.Machine.execLinkFrameRx l f s
  | .trainFrameRx l f => Sys2Proof.Machine.execTrainFrameRx l f s
  | .linkHello l h nonce => Sys2Proof.Machine.execLinkHello l h nonce s
  | .linkCertChain l m ownerCert => Sys2Proof.Machine.execLinkCertChain l m ownerCert s
  | .linkTranscriptSignature l sigC sigZ sigH kem => Sys2Proof.Machine.execLinkTranscriptSignature l sigC sigZ sigH kem s
  | .delayMeasureDone l ticks => Sys2Proof.Machine.execDelayMeasureDone l ticks s
  | .equaliseRateDone l errors bits => Sys2Proof.Machine.execEqualiseRateDone l errors bits s
  | .trainingTimeout l => Sys2Proof.Machine.execTrainingTimeout l s
  | .linkDownRetry l => Sys2Proof.Machine.execLinkDownRetry l s
  | .lossOfSignal l => Sys2Proof.Machine.execLossOfSignal l s
  | .resumeProof l nonce proof ticks => Sys2Proof.Machine.execResumeProof l nonce proof ticks s
  | .ackTimeout l => Sys2Proof.Machine.execAckTimeout l s
  | .graceExpiry l => Sys2Proof.Machine.execGraceExpiry l s
  | .unfence l => Sys2Proof.Machine.execUnfence l s
  | .retrain l => Sys2Proof.Machine.execRetrain l s
  | .cablePresentChange conn present => Sys2Proof.Machine.execCablePresentChange conn present s
  | .partitionForm c record => Sys2Proof.Machine.execPartitionForm c record s
  | .formationReport rank pid hash => Sys2Proof.Machine.execFormationReport rank pid hash s
  | .formationTimeout => Sys2Proof.Machine.execFormationTimeout s
  | .formedMessage => Sys2Proof.Machine.execFormedMessage s
  | .formationAbort => Sys2Proof.Machine.execFormationAbort s
  | .partitionDissolve c => Sys2Proof.Machine.execPartitionDissolve c s
  | .watchReferencePulse => Sys2Proof.Machine.execWatchReferencePulse s
  | .domainTimeout domB => Sys2Proof.Machine.execDomainTimeout domB s
  | .ppsInEdge => Sys2Proof.Machine.execPpsInEdge s
  | .ppsTimeout => Sys2Proof.Machine.execPpsTimeout s
  | .todMessageRx msg => Sys2Proof.Machine.execTodMessageRx msg s
  | .todTimeout => Sys2Proof.Machine.execTodTimeout s
  | .ppsOutPulse => Sys2Proof.Machine.execPpsOutPulse s
  | .ppsOutEnd => Sys2Proof.Machine.execPpsOutEnd s
  | .todTxSend => Sys2Proof.Machine.execTodTxSend s
  | .timeRevert => Sys2Proof.Machine.execTimeRevert s
  | .todSecWrite value => Sys2Proof.Machine.execTodSecWrite value s
  | .jobRecord q record patches buffers => Sys2Proof.Machine.execJobRecord q record patches buffers s
  | .jobDispatch => Sys2Proof.Machine.execJobDispatch s
  | .prepare m => Sys2Proof.Machine.execPrepare m s
  | .prepareReply r => Sys2Proof.Machine.execPrepareReply r s
  | .switchComplete us => Sys2Proof.Machine.execSwitchComplete us s
  | .launchWatch => Sys2Proof.Machine.execLaunchWatch s
  | .leadingSet c record other => Sys2Proof.Machine.execLeadingSet c record other s
  | .leadingClear c => Sys2Proof.Machine.execLeadingClear c s
  | .leadingLaunchMessage launch => Sys2Proof.Machine.execLeadingLaunchMessage launch s
  | .leadingEntriesRx entries => Sys2Proof.Machine.execLeadingEntriesRx entries s
  | .divergenceMessage entry theirs => Sys2Proof.Machine.execDivergenceMessage entry theirs s
  | .drainComplete => Sys2Proof.Machine.execDrainComplete s
  | .ledgerSignComplete signature => Sys2Proof.Machine.execLedgerSignComplete signature s
  | .memberCertRx rank cert signature => Sys2Proof.Machine.execMemberCertRx rank cert signature s
  | .certGatherTimeout => Sys2Proof.Machine.execCertGatherTimeout s
  | .ledgerDeferredWrite => Sys2Proof.Machine.execLedgerDeferredWrite s
  | .sqTailDoorbell q value => Sys2Proof.Machine.execSqTailDoorbell q value s
  | .cqHeadDoorbell q value => Sys2Proof.Machine.execCqHeadDoorbell q value s
  | .hostFlagDoorbell n value => Sys2Proof.Machine.execHostFlagDoorbell n value s
  | .completionPost q => Sys2Proof.Machine.execCompletionPost q s
  | .queueEnable q value => Sys2Proof.Machine.execQueueEnable q value s
  | .queueDisable q value => Sys2Proof.Machine.execQueueDisable q value s
  | .bar2Read off len us => Sys2Proof.Machine.execBar2Read off len us s
  | .bar2Write off data us => Sys2Proof.Machine.execBar2Write off data us s
  | .registerWrite addr size value => Sys2Proof.Machine.execRegisterWrite addr size value s
  | .hostDmaComplete data => Sys2Proof.Machine.execHostDmaComplete data s
  | .hostDmaTimeout => Sys2Proof.Machine.execHostDmaTimeout s
  | .powerUp c => Sys2Proof.Machine.execPowerUp c s
  | .powerDown c => Sys2Proof.Machine.execPowerDown c s
  | .loadImage c => Sys2Proof.Machine.execLoadImage c s
  | .imageFetchComplete bank image => Sys2Proof.Machine.execImageFetchComplete bank image s
  | .loadStrictRelease bank => Sys2Proof.Machine.execLoadStrictRelease bank s
  | .releaseBank c => Sys2Proof.Machine.execReleaseBank c s
  | .tensorAddr c => Sys2Proof.Machine.execTensorAddr c s
  | .mooringOpen c => Sys2Proof.Machine.execMooringOpen c s
  | .mooringSeal c => Sys2Proof.Machine.execMooringSeal c s
  | .mooringVerifyComplete m => Sys2Proof.Machine.execMooringVerifyComplete m s
  | .mooringRelease c => Sys2Proof.Machine.execMooringRelease c s
  | .endJob c => Sys2Proof.Machine.execEndJob c s
  | .endJobStepMessage k => Sys2Proof.Machine.execEndJobStepMessage k s
  | .resetWarm c => Sys2Proof.Machine.execResetWarm c s
  | .mctpCommand record attached => Sys2Proof.Machine.execMctpCommand record attached s
  | .spdmGetVersion => Sys2Proof.Machine.execSpdmGetVersion s
  | .spdmGetCertificate slot => Sys2Proof.Machine.execSpdmGetCertificate slot s
  | .spdmChallenge slot message => Sys2Proof.Machine.execSpdmChallenge slot message s
  | .spdmGetMeasurements index signed message => Sys2Proof.Machine.execSpdmGetMeasurements index signed message s
  | .getNonce request random => Sys2Proof.Machine.execGetNonce request random s
  | .nonceExpiry => Sys2Proof.Machine.execNonceExpiry s
  | .enrol request => Sys2Proof.Machine.execEnrol request s
  | .addKey request => Sys2Proof.Machine.execAddKey request s
  | .revokeKey request => Sys2Proof.Machine.execRevokeKey request s
  | .setPolicy request => Sys2Proof.Machine.execSetPolicy request s
  | .setOwnerCert request => Sys2Proof.Machine.execSetOwnerCert request s
  | .lock request => Sys2Proof.Machine.execLock request s
  | .unlock request => Sys2Proof.Machine.execUnlock request s
  | .release request => Sys2Proof.Machine.execRelease request s
  | .debugUnlock request => Sys2Proof.Machine.execDebugUnlock request s
  | .requestUpdate maxTransfer => Sys2Proof.Machine.execRequestUpdate maxTransfer s
  | .updateComponent bundleSize => Sys2Proof.Machine.execUpdateComponent bundleSize s
  | .firmwareDataResponse ok data => Sys2Proof.Machine.execFirmwareDataResponse ok data s
  | .firmwareDataTimeout => Sys2Proof.Machine.execFirmwareDataTimeout s
  | .transferComplete staged => Sys2Proof.Machine.execTransferComplete staged s
  | .flashWriteStepDone readBackOk => Sys2Proof.Machine.execFlashWriteStepDone readBackOk s
  | .cancelUpdate => Sys2Proof.Machine.execCancelUpdate s
  | .cancelUpdateComponent => Sys2Proof.Machine.execCancelUpdateComponent s
  | .activateFirmware => Sys2Proof.Machine.execActivateFirmware s
  | .activateTimeout => Sys2Proof.Machine.execActivateTimeout s
  | .healthConfirmed passed => Sys2Proof.Machine.execHealthConfirmed passed s
  | .trialTimeout => Sys2Proof.Machine.execTrialTimeout s
  | .revertCopyDone => Sys2Proof.Machine.execRevertCopyDone s
  | .powerApplied straps => Sys2Proof.Machine.execPowerApplied straps s
  | .warmResetPin perst => Sys2Proof.Machine.execWarmResetPin perst s
  | .functionLevelReset => Sys2Proof.Machine.execFunctionLevelReset s
  | .feedADrop mvA mvB => Sys2Proof.Machine.execFeedADrop mvA mvB s
  | .feedAReturn mvA => Sys2Proof.Machine.execFeedAReturn mvA s
  | .singleFeedEnter mvA mvB => Sys2Proof.Machine.execSingleFeedEnter mvA mvB s
  | .singleFeedExit mvA mvB => Sys2Proof.Machine.execSingleFeedExit mvA mvB s
  | .powerFail mvA mvB => Sys2Proof.Machine.execPowerFail mvA mvB s
  | .powerSample watts => Sys2Proof.Machine.execPowerSample watts s
  | .temperatureSample tj station td => Sys2Proof.Machine.execTemperatureSample tj station td s
  | .oppWrite value => Sys2Proof.Machine.execOppWrite value s
  | .droopDetect st => Sys2Proof.Machine.execDroopDetect st s
  | .droopRelease st => Sys2Proof.Machine.execDroopRelease st s
  | .stationPllLoss st => Sys2Proof.Machine.execStationPllLoss st s
  | .keeperCompareMismatch => Sys2Proof.Machine.execKeeperCompareMismatch s
  | .detourLinkTest => Sys2Proof.Machine.execDetourLinkTest s
  | .engineReset g => Sys2Proof.Machine.execEngineReset g s
  | .pageLock page => Sys2Proof.Machine.execPageLock page s
  | .eventClear page bits hwSet => Sys2Proof.Machine.execEventClear page bits hwSet s
  | .eventSet page bits => Sys2Proof.Machine.execEventSet page bits s
  | .eventEnableWrite page value => Sys2Proof.Machine.execEventEnableWrite page value s
  | .stationFreeze st freeze => Sys2Proof.Machine.execStationFreeze st freeze s
  | .engineResume g => Sys2Proof.Machine.execEngineResume g s
  | .paramWrite st value => Sys2Proof.Machine.execParamWrite st value s
  | .strictWrite strict => Sys2Proof.Machine.execStrictWrite strict s
  | .resetRelease pin => Sys2Proof.Machine.execResetRelease pin s
  | .signalLock l rate nonce => Sys2Proof.Machine.execSignalLock l rate nonce s
  | .mooringVerifyResume m => Sys2Proof.Machine.execMooringVerifyResume m s
  | .lowWordRead addr size => Sys2Proof.Machine.execLowWordRead addr size s
  | .smbusAlertResponse => Sys2Proof.Machine.execSmbusAlertResponse s
  | .jtagInstruction op => Sys2Proof.Machine.execJtagInstruction op s
  | .tapReset => Sys2Proof.Machine.execTapReset s
  | .rmaEntry => Sys2Proof.Machine.execRmaEntry s

end Sys2Proof.Machine
end

