-- ==== Sys2Proof/WellFormed.lean ====
section
/-! DEFINITION. Commands whose operands have the lengths and ranges that the spec gives them. -/

namespace Sys2Proof

/-- R410: a command record: 7 reserved bytes, 104 bytes of ARGS, a 64-bit TAG and pointer. -/
def CmdRec.wf (c : CmdRec) : Bool :=
  decide (c.tag < 2 ^ 64) && decide (c.resultPtr < 2 ^ 64) && c.reserved.length == 7 && c.args.length == 104

/-- R298: a frame is 280 bytes. -/
def Frame.wf (f : Frame) : Bool := f.length == 280

/-- An upset strikes an address of SRAM (R178), DRAM (R179) or a codeword of 36 symbols (R185), or a bit of an accumulator (R37). -/
def Upset.wf (u : Upset) : Bool :=
  match u with
  | .sramSingle a | .sramDouble a | .sramSilent a _ => decide (a < 0x40000000)
  | .dramSymbols a ys => decide (a < 0x2000000000) && ys.all fun y => decide (y < 36)
  | .dramSilent a _ => decide (a < 0x2000000000)
  | .accumulator r c b => decide (r < 256) && decide (c < 256) && decide (b < 768)
  | .rounding r => decide (r < 256)
  | _ => true

/-- Every upset of a command. -/
def upsetsWf (us : List Upset) : Bool := us.all Upset.wf

/-- R316: a HELLO carries four coordinates and a rate code. -/
def Hello.wf (h : Hello) : Bool :=
  h.pos.length == 4 && h.pos.all (fun c => decide (c < 32)) && decide (h.rateMax < 3)

/-- R396, R471: a BAR0 access lies in the 64 MiB window. -/
def bar0Wf (addr size : Nat) : Bool := decide (addr + size ≤ 0x4000000) && decide (0 < size)

/-- A command with well-formed operands. -/
def Instr.wf (i : Instr) : Bool :=
  match i with
  | .scheduledFrameRx _ f | .bulkFrameRx _ f | .controlFrameRx _ f | .linkFrameRx _ f | .trainFrameRx _ f => Frame.wf f
  | .linkHello _ h nonce => h.wf && nonce.length == 32
  | .wickInstruction _ fetch _ _ us => upsetsWf fetch && upsetsWf us
  | .partitionForm c _ | .leadingSet c _ _ => c.wf
  | .partitionDissolve c | .leadingClear c | .powerUp c | .powerDown c | .loadImage c | .releaseBank c | .tensorAddr c
  | .mooringOpen c | .mooringSeal c | .mooringRelease c | .endJob c | .resetWarm c => c.wf
  | .jobRecord _ r _ _ => r.length == 128
  | .prepare m => m.record.length == 128
  | .mctpCommand r _ => r.length == 128
  | .matmul _ us | .matmulChain _ us | .accDrain _ us | .copy _ us | .gather _ us | .scatter _ us | .fill _ us | .kernel _ us
  | .reduceScalar _ us | .send _ us | .recv _ us | .tallyVerify _ us | .tap _ us | .descriptorFetch _ us | .fifoPush _ us
  | .fifoPop _ us | .ecall _ us | .tlyTile _ _ _ us | .tlyChk _ _ _ us | .tlyBeta _ _ _ _ _ us | .stepCommit us
  | .sramScrubRead _ us | .dramPatrolRead _ us | .rollbackComplete us | .departureBufferFetch _ us | .recvFlit _ us
  | .switchComplete us => upsetsWf us
  | .tlyRed o _ _ | .tlyAdd o _ _ _ | .tlyMul o _ _ _ | .tlySh o _ _ _ | .crvEv o _ _ _ | .rngU32 o _ _ _ | .rngF32 o _ _ _
  | .redMax o _ _ | .redMin o _ _ | .redAmax o _ _ _ | .redAmin o _ _ _ | .redSum o _ _ | .cvtIn o _ _ _ | .cvtOut o _ _ _
  | .cvtMxs o _ _ _ | .pushStore o _ _ _ => upsetsWf o.us
  | .bar2Read off len us => decide (off + len ≤ 0x4000000000) && upsetsWf us
  | .bar2Write off d us => decide (off + d.length ≤ 0x4000000000) && upsetsWf us
  | .registerWrite a n _ => bar0Wf a n
  | .lowWordRead a n => bar0Wf a n
  | .todSecWrite v => decide (v < 2 ^ 64)
  | .formationReport _ _ h => h.length == 32
  | .nop _ | .branch _ | .loopback _ | .setparam _ | .waitWatch _ | .waitWatchTarget _ | .stepEnd _ | .fork _ | .halt _
  | .descriptorComplete _ | .pushQueueRoom _ | .spareKatTimer _ | .spareKatComplete _ _
  | .katStart _ | .faultKatComplete _ _ | .engineWakeDone _ | .powerGateDelayExpiry _ | .stepBoundary | .checkpointCopyDone
  | .deadlockWatchdog _ | .scrubWriteback _ | .scrubPeriodEnd _ | .dramRefresh _ | .dramTemperatureRead _ _ | .faultReport
  | .replayOrigin | .flashStart _ | .departureDeadline _ | .flitRelease _ | .bulkForward _ | .linkCertChain _ _ _
  | .linkTranscriptSignature _ _ _ _ _ | .delayMeasureDone _ _ | .equaliseRateDone _ _ _ | .trainingTimeout _ | .linkDownRetry _
  | .lossOfSignal _ | .resumeProof _ _ _ _ | .ackTimeout _ | .graceExpiry _ | .unfence _ | .retrain _ | .cablePresentChange _ _
  | .formationTimeout | .formedMessage | .formationAbort | .watchReferencePulse | .domainTimeout _ | .ppsInEdge | .ppsTimeout
  | .todMessageRx _ | .todTimeout | .ppsOutPulse | .ppsOutEnd | .todTxSend | .timeRevert | .jobDispatch | .prepareReply _
  | .launchWatch | .leadingLaunchMessage _ | .leadingEntriesRx _ | .divergenceMessage _ _ | .drainComplete
  | .ledgerSignComplete _ | .memberCertRx _ _ _ | .certGatherTimeout | .ledgerDeferredWrite | .sqTailDoorbell _ _
  | .cqHeadDoorbell _ _ | .hostFlagDoorbell _ _ | .completionPost _ | .queueEnable _ _ | .queueDisable _ _ | .hostDmaComplete _
  | .hostDmaTimeout | .imageFetchComplete _ _ | .loadStrictRelease _ | .mooringVerifyComplete _ | .endJobStepMessage _
  | .spdmGetVersion | .spdmGetCertificate _ | .spdmChallenge _ _ | .spdmGetMeasurements _ _ _ | .getNonce _ _ | .nonceExpiry
  | .enrol _ | .addKey _ | .revokeKey _ | .setPolicy _ | .setOwnerCert _ | .lock _ | .unlock _ | .release _ | .debugUnlock _
  | .requestUpdate _ | .updateComponent _ | .firmwareDataResponse _ _ | .firmwareDataTimeout | .transferComplete _
  | .flashWriteStepDone _ | .cancelUpdate | .cancelUpdateComponent | .activateFirmware | .activateTimeout | .healthConfirmed _
  | .trialTimeout | .revertCopyDone | .powerApplied _ | .warmResetPin _ | .functionLevelReset | .feedADrop _ _ | .feedAReturn _
  | .singleFeedEnter _ _ | .singleFeedExit _ _ | .powerFail _ _ | .powerSample _ | .temperatureSample _ _ _ | .oppWrite _
  | .droopDetect _ | .droopRelease _ | .stationPllLoss _ | .keeperCompareMismatch | .detourLinkTest | .engineReset _
  | .pageLock _ | .eventClear _ _ _ | .eventSet _ _ | .eventEnableWrite _ _ | .stationFreeze _ _ | .engineResume _
  | .paramWrite _ _ | .strictWrite _ | .resetRelease _ | .signalLock _ _ _ | .mooringVerifyResume _ | .smbusAlertResponse
  | .jtagInstruction _ | .tapReset | .rmaEntry => true

end Sys2Proof
end

