-- ==== Sys2Proof/Safety.lean ====
section
/-! DEFINITION. Runs of the block, and what a safe run is: in the terms that the statements use. -/

namespace Sys2Proof.Machine

/-- The state after n steps, or the fault or refusal that ended the run before. -/
def runN : Nat → State → Host.Outcome State Fault Refusal
  | 0, s => .next s
  | n + 1, s =>
    match step s with
    | .next t => runN n t
    | o => o

/-- A run is safe while no step ends it. -/
def safeFor (n : Nat) (s : State) : Prop := ∃ t, runN n s = .next t

/-- The state with a command at the front of its queue. -/
def State.withFront (s : State) (c : Instr) : State := { s with pending := c :: s.pending }

/-- The local memory of every Wick pair is in its canonical form. -/
def wicksWf (ws : Tbl Wick) : Bool := ws.all fun w => Mem.wf w.2.lmem

/-- Every byte memory of the module is in its canonical form: SRAM, DRAM, the Instruction Stores and every Wick pair's local memory. -/
def memoriesWf (s : State) : Bool := Mem.wf s.sram && Mem.wf s.dram && Mem.wf s.istore && wicksWf s.wicks

/-- Every waiting command has well-formed operands. -/
def queueWf (s : State) : Bool := s.pending.all Instr.wf

/-- R421: the fuses that a die carries from its manufacture: no command writes them. -/
def dieIdentity (s : State) : List Byte × Nat × List (List Byte) × Nat :=
  (s.kpr.fuses.chipId, s.kpr.fuses.seed, s.kpr.fuses.vendorHash, s.kpr.fuses.grade)

/-- R421: a fuse once blown stays blown: DAYMARK_KILL, the revoked vendor keys, the SVN floor, the owner epoch and LIFECYCLE only rise. -/
def fusesRise (f g : Fuses) : Prop :=
  (f.kill = true → g.kill = true) ∧ (∀ i, bitAt f.revoked i = true → bitAt g.revoked i = true) ∧ f.svn ≤ g.svn ∧ f.epoch ≤ g.epoch ∧
    f.lifecycle ≤ g.lifecycle

/-- What every command keeps: the rest of the queue, the identity and the stepping of the die, the blown fuses (R421), and the canonical
form of every memory. -/
structure Kept (s t : State) : Prop where
  pending : t.pending = s.pending
  identity : dieIdentity t = dieIdentity s
  stepping : t.kpr.stepping = s.kpr.stepping
  fuses : fusesRise s.kpr.fuses t.kpr.fuses
  memories : memoriesWf s = true → memoriesWf t = true

/-! ### When a descriptor issues -/

/-- R115, R140, R151, R159, R160, R172, R353: everything that engine g waits for before it issues the descriptor of bytes bs, whose opcode is
op: the engine may take it, its WAITs are met, no break stops it, its scoreboard entries and the commit gate are free, its unit is awake
where the opcode needs it, and it passes the checks at issue. -/
structure CanIssue (op : Nat) (wake : Bool) (g : Eng) (bs : List Byte) (s : State) : Prop where
  free : engFree s g = true
  bytes : nextBytes s g = some bs
  opcode : dOp (descWords bs) = op
  waits : waitsMet s g.st (descWords bs) = true
  breaks : (engOf s g).resumed = true ∨ breakMask s g (dTop (descWords bs)) = 0
  scoreboard : (latch s g bs).sb.all (sbFree s (nget (engOf s g).issues (engOf s g).pos)) = true
  gate : gateCloses s g.st op (dW7 (descWords bs)) (latch s g bs).h = false
  copier : engClass g.e = 2 → s.recov.copying = none
  awake : wake = true → engAwake s g = true
  subst : substOk (descWords bs) (fun i => tget 0 (engOf s g).p i) (paramDecl s g) = true
  checks : if (engOf s g).pushed then pushedReason s g bs (latch s g bs) = none else latchedBounds s g (latch s g bs) = true

/-- R115: what the issue and the work of a control descriptor may change: engines, flags, scoreboards and the break counts. -/
def IssueFrame (g : Eng) (s t : State) : Prop :=
  t = { s with engs := t.engs, stations := t.stations, chipFlags := t.chipFlags, sb := t.sb, regs := t.regs } ∧
    ∀ k, k ≠ g → engOf t k = engOf s k

/-! ### Admin commands -/

/-- R402, R410, R424: the Keeper may take a record from the admin queue, and the record is well formed: `listed` argument bytes, of which `holes`
are reserved. -/
structure AdminReady (c : CmdRec) (listed : Nat) (holes : List Nat) (s : State) : Prop where
  take : canTake s 64 = true
  booted : romRecovery s = false
  args : argsOk c.reserved c.args listed holes = true

/-- R404, R410, R414: a command completes with a status: its record, with its tag and index, joins those that wait for the admin ring. -/
def Completed (c : CmdRec) (status : Nat) (s t : State) : Prop :=
  (queueOf t 64).comps.getLast? = some (compRecord status 0 0 (headIndex s 64) c.tag 0 0 0 0 0 0)

end Sys2Proof.Machine
end

