-- ==== Sys2Proof/Certificates/Slice0/Obligations.lean ====
section
/-! DEFINITION. The statements for the provers. Each says in its docstring which rule of spec/ it rests on. -/

open Sys2Proof Sys2Proof.Machine

/-! ### The block and its queue -/

/-- Step takes the command at the front of the queue and runs exec on it with the rest of the queue. -/
def Obligations.StepRunsFrontCommand : Prop :=
  ∀ (c : Instr) (s : State), step (s.withFront c) = exec c s

/-- On an empty queue the block lets one tick of the Watch pass and does nothing else (the model's choice: assumption 1). -/
def Obligations.EmptyQueueTicks : Prop :=
  ∀ s : State, s.pending = [] → step s = .next { s with watch := s.watch + 1 }

/-- No command, and so no step, refuses or faults, but for one: a JTAG access to the Keeper cores' debug module under an open
KEEPER scope, whose effect the spec does not give. -/
def Obligations.EveryCommandAnswers : Prop :=
  ∀ (c : Instr) (s : State),
    (∃ t, exec c s = .next t) ∨
      (c = .jtagInstruction .keeper ∧ bitAt s.kpr.sec.debugOpen 2 = true ∧ exec c s = .refused .jtagKeeperAccess)

/-- R415, R481: the state after reset: KEEP, the Watch at 0, every register at its reset value, no bank or Mooring in use, the queue empty and
every memory in its canonical form. -/
def Obligations.ResetState : Prop :=
  State.reset.life = .keep ∧ State.reset.watch = 0 ∧ State.reset.pending = [] ∧ memoriesWf State.reset = true ∧
    queueWf State.reset = true ∧ State.reset.engs = [] ∧ State.reset.banks = [] ∧ State.reset.moorings = [] ∧
    (∀ a, regGet State.reset a = regReset a) ∧ regGet State.reset (pageBase pgPwr + 0x50) = 50

/-- Every step keeps the canonical form of SRAM, DRAM, the Instruction Stores and every Wick pair's local memory. -/
def Obligations.StepKeepsMemories : Prop :=
  ∀ s t : State, memoriesWf s = true → step s = .next t → memoriesWf t = true

/-- R421: a fuse is blown once and never cleared: no step clears DAYMARK_KILL or a revoked key, or lowers the SVN floor, the owner epoch
or LIFECYCLE; and no step changes CHIP_ID, DAYMARK_SEED, the vendor keys or the grade. -/
def Obligations.StepKeepsFuses : Prop :=
  ∀ s t : State, step s = .next t → fusesRise s.kpr.fuses t.kpr.fuses ∧ dieIdentity t = dieIdentity s

/-- Over any number of steps the memories stay canonical and no fuse is cleared. -/
def Obligations.RunsKeepInvariants : Prop :=
  ∀ (n : Nat) (s t : State), runN n s = .next t →
    (memoriesWf s = true → memoriesWf t = true) ∧ fusesRise s.kpr.fuses t.kpr.fuses ∧ dieIdentity t = dieIdentity s ∧
      t.pending = s.pending.drop n

/-! ### Issue -/

/-- R115: when everything that a descriptor waits for is met and its class's own check passes, it issues: it is latched, its thresholds are
subtracted, its registrations made and the Stream Position moved, all at once. -/
def Obligations.DescriptorIssues : Prop :=
  ∀ (op : Nat) (wake : Bool) (cls : Latched → M Unit) (g : Eng) (bs : List Byte) (s s1 : State),
    CanIssue op wake g bs s → (cls (latch s g bs)).go s = (.ok (), s1) →
      tryIssue op wake cls g s = .ok (latch s g bs) (issueNow g (latch s g bs) s1)

/-- R151: a descriptor issues only when every flag holds the sum of the thresholds that its WAITs name on it; one that does not issue leaves every
flag as it was; and issue takes the two thresholds together. What issue leaves besides: the engine holds the descriptor, the Stream Position of a
stream has moved on by one but for HALT, a pushed descriptor has left its queue, and nothing outside engines, flags, scoreboards and break
counts has changed. -/
def Obligations.IssueEffect : Prop :=
  ∀ (g : Eng) (l : Latched) (s : State),
    (∀ (op : Nat) (wake : Bool) (cls : Latched → M Unit) (t : State),
      (tryIssue op wake cls g s = .ok l t → ∀ sc i, (sc = 0 ∨ sc = 1) →
        (if waitScope (nth l.w 1) = sc ∧ waitIdx (nth l.w 1) = i then waitThr (nth l.w 1) else 0) +
          (if waitScope (nth l.w 2) = sc ∧ waitIdx (nth l.w 2) = i then waitThr (nth l.w 2) else 0) ≤ flagGet s g.st sc i) ∧
      (tryIssue op wake cls g s = .no t → ∀ sc i, flagGet t g.st sc i = flagGet s g.st sc i)) ∧
    (engOf (issueNow g l s) g).cur = some l ∧
    (engOf (issueNow g l s) g).pos = (if l.pushed || dOp l.w = 0x7F then (engOf s g).pos else (engOf s g).pos + 1) ∧
    (engOf (issueNow g l s) g).queue = (if l.pushed then (engOf s g).queue.tail else (engOf s g).queue) ∧
    (∀ sc i, (sc = 0 ∨ sc = 1) → flagGet (issueNow g l s) g.st sc i = flagGet s g.st sc i -
      (if waitScope (nth l.w 1) = sc ∧ waitIdx (nth l.w 1) = i then waitThr (nth l.w 1) else 0) -
      (if waitScope (nth l.w 2) = sc ∧ waitIdx (nth l.w 2) = i then waitThr (nth l.w 2) else 0)) ∧
    IssueFrame g s (issueNow g l s)

/-- R121, R164, R166: issue of NOP on an awake engine, HALT, BRANCH and LOOPBACK: the first two are done at once, a taken BRANCH jumps
forward by its offset, and a LOOPBACK jumps back while iterations remain; nothing else in the module changes. -/
def Obligations.ControlFlowIssues : Prop :=
  ∀ (g : Eng) (bs : List Byte) (s : State), let l := latch s g bs; let e := engOf s g; let w7 := dW7 l.w
    (CanIssue 0x00 false g bs s → engAwake s g = true →
      ∃ t, exec (.nop g) s = .next t ∧ (engOf t g).cur = some { l with done := true, blocked := 0 } ∧ IssueFrame g s t) ∧
    (CanIssue 0x7F false g bs s →
      ∃ t, exec (.halt g) s = .next t ∧ (engOf t g).cur = some { l with done := true, blocked := 0 } ∧ (engOf t g).pos = e.pos ∧
        IssueFrame g s t) ∧
    (CanIssue 0x50 false g bs s → e.pushed = false →
      ∃ t, exec (.branch g) s = .next t ∧
        (engOf t g).pos = (if branchTaken (bits w7 13 11) (tget 0 e.s (bits w7 3 0)) (branchRhs e w7)
          then e.pos + bits w7 31 14 else e.pos + 1) ∧
        (engOf t g).cur = some { l with done := true, blocked := 0 } ∧ (engOf t g).p = e.p ∧ (engOf t g).s = e.s ∧ IssueFrame g s t) ∧
    (CanIssue 0x51 false g bs s → e.pushed = false →
      let d := loopDepth (streamDescs s g) e.pos
      let left := if (loopOf e d).active then (loopOf e d).remaining - 1 else bits w7 30 15 - 1
      ∃ t, exec (.loopback g) s = .next t ∧
        (engOf t g).pos = (if 0 < left then e.pos - bits w7 14 0 else e.pos + 1) ∧
        loopOf (engOf t g) d = ⟨decide (0 < left), left⟩ ∧ (engOf t g).cur = some { l with done := true, blocked := 0 } ∧
        IssueFrame g s t)

/-- R147, R122, R168, R170: issue of SETPARAM (its register takes the value that MODE selects, when that lies in the declared range),
of WAIT_WATCH (done at once when its target has passed, else waiting), of STEP_END and of FORK (the engine waits for the end of the
step; a decider supplies the fork value). -/
def Obligations.StepControlIssues : Prop :=
  ∀ (g : Eng) (bs : List Byte) (s : State), let l := latch s g bs; let e := engOf s g; let w7 := dW7 l.w
    (∀ d, CanIssue 0x52 false g bs s → paramDecl s g (bits w7 5 0) = some d →
      d.min ≤ (setparamValue e w7).toInt → (setparamValue e w7).toInt ≤ d.max →
      ∃ t, exec (.setparam g) s = .next t ∧ tget 0 (engOf t g).p (bits w7 5 0) = setparamValue e w7 ∧
        (∀ i, i ≠ bits w7 5 0 → tget 0 (engOf t g).p i = tget 0 e.p i) ∧ (engOf t g).s = e.s ∧
        (engOf t g).cur = some { l with done := true, blocked := 0 } ∧ IssueFrame g s t) ∧
    (CanIssue 0x53 false g bs s →
      ∃ t, exec (.waitWatch g) s = .next t ∧ (engOf t g).cur =
        some { l with target := watchTarget s e w7, done := decide (watchTarget s e w7 ≤ s.watch)
                      blocked := if watchTarget s e w7 ≤ s.watch then 0 else l.blocked } ∧
        IssueFrame g s t) ∧
    (CanIssue 0x54 false g bs s →
      ∃ t, exec (.stepEnd g) s = .next t ∧ (engOf t g).cur = none ∧ (engOf t g).stepEnded = true ∧ (engOf t g).forkId = e.forkId ∧
        IssueFrame g s t) ∧
    (CanIssue 0x55 false g bs s →
      ∃ t, exec (.fork g) s = .next t ∧ (engOf t g).cur = none ∧ (engOf t g).stepEnded = true ∧
        (engOf t g).forkId = some (bits w7 7 0) ∧ t.run.forkId = some (bits w7 7 0) ∧
        t.run.forkValue = (if bitAt w7 12 then some (tget 0 e.s (bits w7 11 8)).toNat else s.run.forkValue) ∧
        IssueFrame g { s with run := t.run } t)

/-- R280, R283: issue of SEND and RECV: the engine holds the transfer, with the Tally of its stream tag before the first word. -/
def Obligations.TransfersIssue : Prop :=
  ∀ (g : Eng) (bs : List Byte) (us : List Upset) (s : State), let u := strikes us s; let l := latch u g bs
    (CanIssue 0x40 false g bs u →
      ∃ t, exec (.send g us) s = .next t ∧
        (engOf t g).cur = some { l with tally := transferInit (((sendSlots u g.st (dW7 l.w)).head?.map fun x => phStag x.2).getD 0) } ∧
        IssueFrame g u t) ∧
    (CanIssue 0x41 false g bs u →
      ∃ t, exec (.recv g us) s = .next t ∧ (engOf t g).cur = some { l with tally := transferInit (rvStag (dW7 l.w)) } ∧ IssueFrame g u t)

/-- R51, R123, R197, R199: issue of the descriptors that run in one segment: when the segment's work succeeds and no FIFO holds it up, the
descriptor is done, and every memory and register is as that work left it. -/
def Obligations.ComputeDescriptorsRun : Prop :=
  ∀ (g : Eng) (bs : List Byte) (us : List Upset) (s s2 : State),
    let u := strikes us s; let l := latch u g bs; let s1 := issueNow g l u
    ∀ (c : Instr) (op : Nat) (body : Latched → M Unit),
      (c, op, body) ∈ [(.matmul g us, 0x10, matmulBody g us 0), (.matmulChain g us, 0x11, matmulBody g us 0),
        (.accDrain g us, 0x12, drainBody g us 0), (.copy g us, 0x20, copyBody g us), (.gather g us, 0x21, indexBody g us),
        (.scatter g us, 0x22, indexBody g us), (.fill g us, 0x23, fillBody g us), (.tallyVerify g us, 0x60, verifyBody g us),
        (.tap g us, 0x61, copyBody g us)] →
      CanIssue op true g bs u → (op < 0x20 → (checkLan g l).go u = (.ok (), u)) → l.nseg = 1 → segBlock s1 g l = 0 →
      (body l).go s1 = (.ok (), s2) →
      ∃ t, exec c s = .next t ∧
        (engOf t g).cur = some { l with seg := 1, blocked := 0, done := true, res := ((engOf s2 g).cur.map Latched.res).getD l.res } ∧
        t = { s2 with engs := t.engs, stations := t.stations }

/-- R101: a REDUCE_SCALAR that runs in one segment holds its result, written to S(SDST), and to S(SDST + 1) the paired value where bit 12
asks for it, when the descriptor completes. -/
def Obligations.ReduceScalarRuns : Prop :=
  ∀ (g : Eng) (bs : List Byte) (s s2 : State) (o : Opnd) (cs : List Nat), let l := latch s g bs; let s1 := issueNow g l s
    CanIssue 0x31 true g bs s → (checkReduce g l).go s = (.ok (), s) → l.nseg = 1 → segBlock s1 g l = 0 →
    (opnd s1 g l 0 false).go s1 = (.ok o, s1) → (reduceElems g l o).go s1 = (.ok cs, s2) → s2.engs = s1.engs →
    let r := reduceVal (bits (dW7 l.w) 2 0) o.h.fmt cs; let d := bits (dW7 l.w) 11 8
    ∃ t, exec (.reduceScalar g []) s = .next t ∧
      (engOf t g).cur = some { l with seg := 1, blocked := 0, done := true
                                      res := if bitAt (dW7 l.w) 12 then [(d, r.1), (d + 1, r.2)] else [(d, r.1)] }

/-- R89, R90: a KERNEL whose code becomes resident enters its first invocation: the pair runs in user state at the entry point, index 0,
with its stack pointer at the top of scratch, a4 at the mailbox and every vector and floating-point register clear. -/
def Obligations.KernelStarts : Prop :=
  ∀ (g : Eng) (bs : List Byte) (s s2 : State) (w : WickRef) (o : Opnd), let l := latch s g bs; let s1 := issueNow g l s
    CanIssue 0x30 true g bs s → (checkKernel g l).go s = (.ok (), s) → wickRef s1 g = some w → codeOpnd s1 g l = some o → 0 < l.nseg →
    (makeResident w g o).go s1 = (.ok (), s2) → segBlock s2 g l = 0 →
    ∃ t, exec (.kernel g []) s = .next t ∧ (wOf t w).inKernel = true ∧ (wOf t w).inv = 0 ∧
      xr (wOf t w) 2 = BitVec.ofNat 64 (scratchTop l) ∧ xr (wOf t w) 14 = 0x1F000 ∧ xr (wOf t w) 15 = 0 ∧ xr (wOf t w) 1 = 0 ∧
      (wOf t w).f = [] ∧ (wOf t w).v = [] ∧ (wOf t w).vl = 0 ∧ (wOf t w).dirty = [] ∧ (engOf t g).cur = some { l with blocked := 0 }


/-! ### Fetch, completion and FIFOs -/

/-- R114: an engine with room in its prefetch buffer takes the next descriptor of its stream from the Instruction Store; one whose
CRC or store word is bad is not taken, and raises 0x2080. -/
def Obligations.FetchTakesDescriptor : Prop :=
  ∀ (g : Eng) (s : State), canFetch s g = true → let p := fetchPos (engOf s g)
    (fetchFails s g p = false →
      ∃ t, exec (.descriptorFetch g []) s = .next t ∧
        engOf t g = { engOf s g with prefetch := (engOf s g).prefetch ++ [(p, fetchBytes s g p)] } ∧
        t = { s with engs := t.engs } ∧ ∀ k, k ≠ g → engOf t k = engOf s k) ∧
    (fetchFails s g p = true →
      ∃ t, exec (.descriptorFetch g []) s = .next t ∧
        t.recov.faults = s.recov.faults ++ [⟨0x2080, s.run.step, .eng g, some (2, istoreAddr s g p)⟩] ∧
        t = { s with out := .report 0x2080 (engPage s g) :: s.out, recov := t.recov })

/-- R101, R121, R152: a descriptor that is due completes: its scalar results are written, both SIGNALs are added to their flags, the engine is
free and after HALT halted; the job goes on while an engine of it has not halted. R123, R384: a TAP that visits an element appends its entry to
the Ledger when it completes, while the Ledger has room. -/
def Obligations.DescriptorCompletes : Prop :=
  (∀ (g k : Eng) (l : Latched) (s : State), dueDesc s g = some l → dOp l.w ≠ 0x61 →
    k ≠ g → (engOf s k).present = true → (engOf s k).pushed = false → (engOf s k).halted = false →
    let add := fun sc i => (if waitScope (nth l.w 3) = sc ∧ waitIdx (nth l.w 3) = i then sigInc (nth l.w 3) else 0) +
      (if waitScope (nth l.w 4) = sc ∧ waitIdx (nth l.w 4) = i then sigInc (nth l.w 4) else 0)
    (∀ sc i, (sc = 0 ∨ sc = 1) → 0 < add sc i → flagGet s g.st sc i + add sc i ≤ 65535) →
    ∃ t, exec (.descriptorComplete g) s = .next t ∧ (engOf t g).cur = none ∧
      (engOf t g).halted = ((engOf s g).halted || dOp l.w = 0x7F) ∧
      (engOf t g).s = l.res.foldl (fun r e => tput r e.1 e.2) (engOf s g).s ∧ (engOf t g).p = (engOf s g).p ∧
      (∀ sc i, (sc = 0 ∨ sc = 1) → flagGet t g.st sc i = flagGet s g.st sc i + add sc i) ∧
      t.sram = s.sram ∧ t.dram = s.dram ∧ t.regs = s.regs ∧ t.life = s.life) ∧
  (∀ (g k : Eng) (l : Latched) (s : State), dueDesc s g = some l → dOp l.w = 0x61 → nestCount (levels l.w) ≠ 0 → s.led.taps.length < 4096 →
    sigInc (nth l.w 3) = 0 → sigInc (nth l.w 4) = 0 →
    k ≠ g → (engOf s k).present = true → (engOf s k).pushed = false → (engOf s k).halted = false →
    ∃ t, exec (.descriptorComplete g) s = .next t ∧ (engOf t g).cur = none ∧
      t.led.taps = s.led.taps ++ [tapEntry (writeScalars g l.res s) g l])

/-- R133: when the FIFO that a descriptor waits on is ready, its next segment runs, takes the entries it pops and makes the one it pushes
visible; with the last segment the descriptor is done. R133: a pop moves the head of a FIFO by one entry, a push its tail, and neither touches
another FIFO, a flag or a handle. -/
def Obligations.FifosMove : Prop :=
  (∀ (g : Eng) (l : Latched) (s s2 : State), let s1 := putEng g { engOf s g with waiting := none } s
    ∀ (c : Instr) (k : Nat), (c, k) ∈ [(.fifoPush g [], 2), (.fifoPop g [], 1)] → fifoReady s g k = some l →
    ∀ (op : Nat) (body : Latched → M Unit),
      (op, body) ∈ [(0x20, copyBody g []), (0x61, copyBody g []), (0x21, indexBody g []), (0x22, indexBody g []), (0x23, fillBody g []),
        (0x31, reduceBody g []), (0x60, verifyBody g [])] →
      dOp l.w = op → l.nseg = l.seg + 1 → segBlock s1 g l = 0 → (body l).go s1 = (.ok (), s2) →
      ∃ t, exec c s = .next t ∧
        (engOf t g).cur = some { l with seg := l.seg + 1, blocked := 0, done := true
                                        res := ((engOf s2 g).cur.map Latched.res).getD l.res } ∧
        t = { s2 with engs := t.engs, stations := (moveEntries g l s2).stations }) ∧
  (∀ (st i : Nat) (s : State),
    fifoOf (fifoPopped st i s) st i = ⟨(fifoOf s st i).head + 1, (fifoOf s st i).tail⟩ ∧
    fifoOf (fifoPushed st i s) st i = ⟨(fifoOf s st i).head, (fifoOf s st i).tail + 1⟩ ∧
    (∀ j, j ≠ i → fifoOf (fifoPopped st i s) st j = fifoOf s st j ∧ fifoOf (fifoPushed st i s) st j = fifoOf s st j) ∧
    (∀ h, handleOf (fifoPopped st i s) st h = handleOf s st h ∧ handleOf (fifoPushed st i s) st h = handleOf s st h) ∧
    (∀ sc j, flagGet (fifoPopped st i s) st sc j = flagGet s st sc j ∧ flagGet (fifoPushed st i s) st sc j = flagGet s st sc j))

/-- R122: a waiting WAIT_WATCH is done when the Watch reaches its target, and the Watch never goes back. -/
def Obligations.WatchTargetReached : Prop :=
  ∀ (g : Eng) (l : Latched) (s : State), pendingWatch s g = some l →
    ∃ t, exec (.waitWatchTarget g) s = .next t ∧ t.watch = max s.watch l.target ∧
      engOf t g = { engOf s g with cur := some { l with done := true, blocked := 0 }, waiting := none } ∧
      t = { s with watch := t.watch, engs := t.engs } ∧ ∀ k, k ≠ g → engOf t k = engOf s k

/-! ### Wick pairs -/

/-- R94: tly.red, tly.add, tly.mul and tly.sh give the residue modulo 2^61 − 1 of the register, the sum, the product and the shifted value,
the registers read as signed and the shift count as unsigned modulo 61; x0 discards it; no other register of the pair changes. -/
def Obligations.TallyArithmetic : Prop :=
  ∀ (w : WickRef) (rd rs1 rs2 : Fin 32) (s : State) (gl : Eng × Latched), inKernel s w = some gl → let k := wOf s w
    ∀ (c : Instr) (v : Int),
      (c, v) ∈ [(Instr.tlyRed ⟨w, []⟩ rd rs1, (xr k rs1).toInt), (.tlyAdd ⟨w, []⟩ rd rs1 rs2, (xr k rs1).toInt + (xr k rs2).toInt),
        (.tlyMul ⟨w, []⟩ rd rs1 rs2, (xr k rs1).toInt * (xr k rs2).toInt),
        (.tlySh ⟨w, []⟩ rd rs1 rs2, (xr k rs1).toInt * 2 ^ ((xr k rs2).toNat % 61))] →
      ∃ t, exec c s = .next t ∧
        xr (wOf t w) rd = (if rd.val = 0 then 0 else BitVec.ofNat 64 (v % (2 ^ 61 - 1)).toNat) ∧
        (∀ r, r ≠ rd → xr (wOf t w) r = xr k r) ∧ wOf t w = { k with x := (wOf t w).x, pc := k.pc + 4 } ∧
        t = { s with wicks := t.wicks, regs := t.regs, led := t.led } ∧ ∀ v, v ≠ w → wOf t v = wOf s v

/-- R94, R95: tly.tile gives the block Tally of the tile at rs1, tly.chk checks the tile and writes no register, and tly.beta gives the sum
modulo 2^61 − 1 of the residues of the finite elements times 2^150. -/
def Obligations.TallyMemory : Prop :=
  ∀ (w : WickRef) (rd rs1 rs2 rs3 : Fin 32) (s : State) (g : Eng) (l : Latched), inKernel s w = some (g, l) →
    let k := wOf s w; let s0 := chk 3 false s; let c := (xr k rs2).toNat; let n := bits c 15 0; let fmt := bits c 20 16
    (∀ v s1, (tileTally w g l (xr k rs1).toNat).go s0 = (.ok v, s1) →
      ∃ t, exec (.tlyTile w rd rs1 []) s = .next t ∧ xr (wOf t w) rd = (if rd.val = 0 then 0 else BitVec.ofNat 64 v) ∧
        (wOf t w).pc = k.pc + 4 ∧ t.sram = s1.sram ∧ t.dram = s1.dram) ∧
    (∀ s1, (chkRun w 0 rs1 g l).go s0 = (.ok (), s1) →
      ∃ t, exec (.tlyChk w 0 rs1 []) s = .next t ∧ wOf t w = { wOf s1 w with pc := k.pc + 4 } ∧ t.sram = s1.sram ∧ t.dram = s1.dram) ∧
    (∀ bs s1 sc s2, 1 ≤ n → n ≤ 1024 → 1 ≤ fmt → fmt ≤ 15 → (bitAt c 21 = true → isMx fmt = true) →
      (kLoad w g l (xr k rs1).toNat (ceilDiv (n * elemBits fmt) 8)).go s0 = (.ok bs, s1) →
      (if isMx fmt then (kLoad w g l (xr k rs3).toNat (ceilDiv n (if bitAt c 21 then 16 else 32))).go s1 = (.ok sc, s2)
        else sc = [] ∧ s2 = s1) →
      ∃ t, exec (.tlyBeta w rd rs1 rs2 rs3 []) s = .next t ∧
        xr (wOf t w) rd = (if rd.val = 0 then 0 else
          BitVec.ofNat 64 (((List.range n).map fun i => alpha150 (betaElem fmt (bitAt c 21) bs sc i)).sum % (2 ^ 61 - 1)).toNat) ∧
        (wOf t w).pc = k.pc + 4)

/-- R97 to R100: a vector form at SEW 32 acts on elements 0 to vl − 1: crv.ev, rng.u32, rng.f32, cvt.in and cvt.out write vd; red.max, red.min,
red.amax, red.amin, red.sum and cvt.mxs write rd. R94: a vector form with SEW other than 32 or with vill set is an illegal instruction: the
kernel traps with 0x2071, the pair stops, and its registers stay. -/
def Obligations.VectorForms : Prop :=
  (∀ (w : WickRef) (vd rd vs2 rs1 rs2 : Fin 32) (s : State) (gl : Eng × Latched), inKernel s w = some gl →
    let k := wOf s w; let xs := velems k vs2.val; let c := (xr k rs1).toNat; let a := (xr k rs1)
    vecOk k = true →
    (∀ (i : Instr) (n : Nat) (vs : List Nat),
      (i, n, vs) ∈ [(Instr.crvEv ⟨w, []⟩ vd vs2 rs1, 32, xs.map fun x => match tget? k.curves (c % 16) with
          | some b => curveEval b x
          | none => 0),
        (.rngU32 ⟨w, []⟩ vd rs1 rs2, 32, (List.range k.vl).map fun j => rngWord k.xsseed (xr k rs2 + BitVec.ofNat 64 j) c s.run.step),
        (.rngF32 ⟨w, []⟩ vd rs1 rs2, 32,
          (List.range k.vl).map fun j => rngFloat (rngWord k.xsseed (xr k rs2 + BitVec.ofNat 64 j) c s.run.step))] →
      ∃ t, exec i s = .next t ∧ wOf t w = { vputAll vd.val n vs k with pc := k.pc + 4 }) ∧
    (∀ (i : Instr) (v : W64),
      (i, v) ∈ [(Instr.redMax ⟨w, []⟩ rd vs2, BitVec.ofNat 64 (((redExt true xs).map Prod.snd).getD 0xFF800000)),
        (.redMin ⟨w, []⟩ rd vs2, BitVec.ofNat 64 (((redExt false xs).map Prod.snd).getD 0x7F800000)),
        (.redAmax ⟨w, []⟩ rd vs2 rs1, ((redExt true xs).map fun e => a + BitVec.ofNat 64 e.1).getD (BitVec.allOnes 64)),
        (.redAmin ⟨w, []⟩ rd vs2 rs1, ((redExt false xs).map fun e => a + BitVec.ofNat 64 e.1).getD (BitVec.allOnes 64)),
        (.redSum ⟨w, []⟩ rd vs2, BitVec.ofNat 64 (redSumOf xs))] →
      ∃ t, exec i s = .next t ∧ wOf t w = { xw rd v k with pc := k.pc + 4 }) ∧
    (cvtOk c = true → cvtFmtOk c = true →
      (∃ t, exec (.cvtIn ⟨w, []⟩ vd vs2 rs1) s = .next t ∧ wOf t w =
        { vputAll vd.val 32 ((List.range k.vl).map fun j => cvtInElem c (vpacked k vs2.val j (elemBits (bits c 4 0)))) k with
          pc := k.pc + 4 }) ∧
      (∃ t, exec (.cvtOut ⟨w, []⟩ vd vs2 rs1) s = .next t ∧
        wOf t w = { vputAll vd.val (elemBits (bits c 4 0)) (xs.map (cvtOutElem c)) k with pc := k.pc + 4 }) ∧
      (isMx (bits c 4 0) = true → k.vl ≤ (if bitAt c 8 then 16 else 32) →
        ∃ t, exec (.cvtMxs ⟨w, []⟩ rd vs2 rs1) s = .next t ∧
          wOf t w = { xw rd (BitVec.ofNat 64 (mxScale (bits c 4 0) (xs.map fp32))) k with pc := k.pc + 4 }))) ∧
  (∀ (w : WickRef) (vd rd vs2 rs1 rs2 : Fin 32) (s : State) (g : Eng) (l : Latched), inKernel s w = some (g, l) →
    vecOk (wOf s w) = false →
    ∀ i ∈ [Instr.crvEv ⟨w, []⟩ vd vs2 rs1, .rngU32 ⟨w, []⟩ vd rs1 rs2, .rngF32 ⟨w, []⟩ vd rs1 rs2, .redMax ⟨w, []⟩ rd vs2, .redMin ⟨w, []⟩ rd vs2,
      .redAmax ⟨w, []⟩ rd vs2 rs1, .redAmin ⟨w, []⟩ rd vs2 rs1, .redSum ⟨w, []⟩ rd vs2, .cvtIn ⟨w, []⟩ vd vs2 rs1, .cvtOut ⟨w, []⟩ vd vs2 rs1,
      .cvtMxs ⟨w, []⟩ rd vs2 rs1],
      ∃ t, exec i s = .next t ∧ (engOf t g).stopped = true ∧ (wOf t w).inKernel = false ∧ (wOf t w).x = (wOf s w).x ∧
        (wOf t w).v = (wOf s w).v ∧ (wOf t w).pc = (wOf s w).pc ∧ t.recov.faults.map FaultRec.code = s.recov.faults.map FaultRec.code ++ [0x2071])

/-- R80 to R82: a pair runs the instruction at its pc. One of the standard sets that reads no memory and is no CSR access commits the registers
that its plan gives, and nothing else in the module changes; ADD is one such, written out. When a core commits something else than the other the
pair raises 0x2002 and stops, and no register, pc or byte of memory changes. -/
def Obligations.StandardInstruction : Prop :=
  (∀ (w : WickRef) (s : State) (g : Eng) (l : Latched) (n len word : Nat) (p : RvPlan) (r : Rv) (vec : Bool),
    inKernel s w = some (g, l) → let k := wOf s w
    fetched k = some (n, len) → ¬(len = 4 ∧ n = 0x73) → (len = 4 → decodeXseltar w n [] = none) →
    (len = 2 ∧ rvExpand n = some word ∨ len = 4 ∧ word = n) → isCsr word = false →
    rvPlan s.free (fun a => regionOf w.st a = .none) word k.pc.toNat { toRv k with pc := (k.pc.toNat + len) % 2 ^ 64 } = some p →
    p.loads = [] → p.act [] = .done r [] vec →
    ∃ t, exec (.wickInstruction w [] false false []) s = .next t ∧ wOf t w = withRv r k ∧ (∀ v, v ≠ w → wOf t v = wOf s v) ∧
      t = { s with wicks := t.wicks, regs := t.regs, led := t.led, free := t.free }) ∧
  (∀ (w : WickRef) (rd rs1 rs2 : Fin 32) (s : State) (gl : Eng × Latched), inKernel s w = some gl → let k := wOf s w
    fetched k = some (0x33 + 2 ^ 7 * rd.val + 2 ^ 15 * rs1.val + 2 ^ 20 * rs2.val, 4) →
    ∃ t, exec (.wickInstruction w [] false false []) s = .next t ∧ xr (wOf t w) rd = (if rd.val = 0 then 0 else xr k rs1 + xr k rs2) ∧
      (∀ q, q ≠ rd → xr (wOf t w) q = xr k q) ∧ (wOf t w).pc = k.pc + 4 ∧ (wOf t w).f = k.f ∧ (wOf t w).v = k.v ∧ (wOf t w).fcsr = k.fcsr ∧
      t.sram = s.sram ∧ t.dram = s.dram) ∧
  (∀ (w : WickRef) (s : State) (g : Eng) (l : Latched) (n len : Nat) (c0 c1 : Bool), inKernel s w = some (g, l) → fetched (wOf s w) = some (n, len) →
    (c0 || c1) = true → ∃ t, exec (.wickInstruction w [] c0 c1 []) s = .next t ∧ wOf t w = { wOf s w with inKernel := false } ∧
      (engOf t g).stopped = true ∧ t.sram = s.sram ∧ t.dram = s.dram ∧
      t.recov.faults.map FaultRec.code = s.recov.faults.map FaultRec.code ++ [0x2002])

/-- R92: ecall with a7 = 0 ends the invocation after its dirty tiles are sealed, and with the last one the kernel's descriptor is done;
a7 = 1 aborts the kernel with 0x2072, and any other a7 is trap 8, 0x2071. -/
def Obligations.EcallByA7 : Prop :=
  ∀ (w : WickRef) (s : State) (g : Eng) (l : Latched), inKernel s w = some (g, l) → let s0 := chk 3 false s; let a7 := xr (wOf s w) 17
    (∀ s1, a7 = 0 → (sealSet w g l).go s0 = (.ok (), s1) → l.nseg ≤ l.seg + 1 →
      ∃ t, exec (.ecall w []) s = .next t ∧ (engOf t g).cur = some { l with seg := l.seg + 1, done := true, blocked := 0 } ∧
        (wOf t w).inKernel = false ∧ t.sram = s1.sram ∧ t.dram = s1.dram) ∧
    (a7 = 1 → ∃ t, exec (.ecall w []) s = .next t ∧ (engOf t g).stopped = true ∧ (wOf t w).inKernel = false ∧
      t.recov.faults.map FaultRec.code = s.recov.faults.map FaultRec.code ++ [0x2072]) ∧
    (a7 ≠ 0 → a7 ≠ 1 → ∃ t, exec (.ecall w []) s = .next t ∧ (engOf t g).stopped = true ∧ (wOf t w).inKernel = false ∧
      t.recov.faults.map FaultRec.code = s.recov.faults.map FaultRec.code ++ [0x2071])

/-- R103, R104: a 64-byte vector store to the start of a window whose engine's stream is pushed enters its queue while fewer than eight
descriptors wait there; a full queue stalls the store, which enters when an entry frees. -/
def Obligations.PushStoreEnqueues : Prop :=
  ∀ (w : WickRef) (addr off : Nat) (data : List Byte) (s : State) (gl : Eng × Latched) (k : Eng),
    (inKernel s w = some gl → regionOf w.st addr = .push off → pushTarget s w.st off = .eng k → data.length = 64 → off % 0x1000 = 0 →
      (engOf s k).pushed = true →
      ((engOf s k).queue.length < 8 →
        ∃ t, exec (.pushStore ⟨w, []⟩ addr data true) s = .next t ∧ (engOf t k).queue = (engOf s k).queue ++ [data] ∧
          (wOf t w).pc = (wOf s w).pc + 4 ∧ t.sram = s.sram) ∧
      (8 ≤ (engOf s k).queue.length →
        ∃ t, exec (.pushStore ⟨w, []⟩ addr data true) s = .next t ∧ (wOf t w).stalled = some (k, data) ∧ t.engs = s.engs)) ∧
    (stalledPush s w = some (k, data) →
      ∃ t, exec (.pushQueueRoom w) s = .next t ∧ (engOf t k).queue = (engOf s k).queue ++ [data] ∧ (wOf t w).stalled = none ∧
        t = { s with engs := t.engs, wicks := t.wicks })


/-! ### Units -/

/-- R74, R107: a powered spare's test interval, or a write of START while the page is served, puts it to the test; a test that passes makes it a
tested spare and counts, and one that fails marks it dark, with its bit in the Dark map, and makes every LOADED bank STALE. R76, R461, R462: a
gated unit that finishes waking is awake, and an idle one that reaches PWR_GATE_DELAY is power-gated. -/
def Obligations.SparesAndGating : Prop :=
  (∀ (u : UnitRef) (s : State), let v := unitOf s u
    (v.role = .spare → sparePowered s = true →
      ∃ t, exec (.spareKatTimer u) s = .next t ∧ t.watch = max s.watch (v.katAt + katInterval s u) ∧
        unitOf t u = { v with role := .test, katRunning := true, katAt := t.watch } ∧
        t = { s with watch := t.watch, lanterns := t.lanterns, wicks := t.wicks }) ∧
    (v.role = .spare → paused s = false → s.life ≠ .off → railsOff s = false →
      ∃ t, exec (.katStart u) s = .next t ∧ unitOf t u = { v with role := .test, katRunning := true, katAt := s.watch } ∧
        t = { s with lanterns := t.lanterns, wicks := t.wicks }) ∧
    (v.role = .test → v.katRunning = true →
      (∃ t, exec (.spareKatComplete u true) s = .next t ∧
        unitOf t u = { v with role := .spare, katRunning := false, katPassed := true, katCount := (v.katCount + 1) % 2 ^ 16 } ∧
        t = { s with lanterns := t.lanterns, wicks := t.wicks }) ∧
      (∃ t, exec (.spareKatComplete u false) s = .next t ∧ (unitOf t u).role = .dark ∧ (unitOf t u).logical = none ∧
        bitAt (regGet t (darkReg (uStn u))) (darkBit u) = true ∧ .report (katCode u).1 (unitPage u) ∈ t.out ∧
        ∀ b, (bankOf s b).st = .loaded → (bankOf t b).st = .stale))) ∧
  (∀ (u : UnitRef) (s : State),
    ((unitOf s u).waking = true →
      ∃ t, exec (.engineWakeDone u) s = .next t ∧
        unitOf t u = { unitOf s u with gate := .awake, waking := false, idleSince := s.watch } ∧
        t = { s with lanterns := t.lanterns, wicks := t.wicks, engs := t.engs }) ∧
    (mayGate s u = true →
      ∃ t, exec (.powerGateDelayExpiry u) s = .next t ∧ unitOf t u = { unitOf s u with gate := .powerGated } ∧
        t.watch = max s.watch ((unitOf s u).idleSince + gateDelay s) ∧
        t = { s with watch := t.watch, lanterns := t.lanterns, wicks := t.wicks }))

/-- R71, R75, R82: the test of a faulting unit: a pass clears it; a failure gives its logical number to a tested spare of its Station, which
becomes ENABLED, and the unit is dark; with no tested spare the job ends in FAULTED. -/
def Obligations.FaultingUnitTest : Prop :=
  ∀ (u v : UnitRef) (s : State), (unitOf s u).suspect = true → s.life = .held →
    let s1 := putUnit u { katDone false (unitOf s u) with suspect := false } s
    (∃ t, exec (.faultKatComplete u true) s = .next t ∧ (unitOf t u).suspect = false ∧ (unitOf t u).katPassed = true ∧
      (unitOf t u).role = (unitOf s u).role ∧ t = { s with lanterns := t.lanterns, wicks := t.wicks }) ∧
    (testedSpare s1 u = some v → v ≠ u →
      ∃ t, exec (.faultKatComplete u false) s = .next t ∧ (unitOf t v).role = .enabled ∧
        (unitOf t v).logical = some ((unitOf s u).logical.getD 0) ∧ (unitOf t u).role = .dark ∧ (unitOf t u).logical = none ∧
        t.life = .held ∧ u ∈ t.recov.swapped) ∧
    (testedSpare s1 u = none →
      ∃ t, exec (.faultKatComplete u false) s = .next t ∧ t.life = .faulted ∧
        t.recov.terminal = some (noSpareCode u, s.fab.part.rank))

/-! ### Steps -/

/-- R169, R171, R274: when the Watch reaches S(k + 1) and step k has ended here, step k + 1 begins at S(k + 1): every stream is released
and no memory changes; while an engine has not ended its step, the step overruns with 0x2022, once, and goes on. -/
def Obligations.StepBoundaryAdvances : Prop :=
  ∀ s : State, s.life = .running → let s1 := watchTo (ceilDiv (nextStart1024 s) 1024) s
    (forkUnissued s1 = false → stepEndedHere s1 = true → endsHere s1 = false → forkMissing s1 = false → forkTooLate s1 = false →
      ∃ t, exec .stepBoundary s = .next t ∧ t.run.step = s.run.step + 1 ∧ t.run.start = nextStart1024 s ∧
        t.watch = max s.watch (ceilDiv (nextStart1024 s) 1024) ∧ t.run.forkId = none ∧
        (s.run.forkId = none → t.run.rec_ = s.run.rec_ + 1) ∧
        (∀ g, (engOf t g).stepEnded = false ∧ (engOf t g).issues = [] ∧ (engOf t g).p = (engOf s g).p) ∧
        (∀ k, (sbOf t k).turn = 0 ∧ (sbOf t k).count = 0) ∧ t.life = .running ∧ t.sram = s.sram ∧ t.dram = s.dram ∧ t.recov.faults = s.recov.faults) ∧
    (∀ g, forkUnissued s1 = false → stepEndedHere s1 = false → firstLate s1 = some g →
      (s.recov.faults.any fun f => f.code = 0x2022 && f.step = s.run.step) = false →
      ∃ t, exec .stepBoundary s = .next t ∧ t.run = s.run ∧ t.recov.faults = s.recov.faults ++ [⟨0x2022, s.run.step, .eng g, none⟩] ∧
        t.engs = s.engs ∧ t.life = .running)

/-- R352, R353: at C(k) the copier copies the checkpoint set and the step is being committed; when the copy is done the commit gate opens.
R175: the watchdog raises 0x2020 as a fault of the current step. -/
def Obligations.StepCommits : Prop :=
  ∀ s : State,
    (∀ s2 s3, canCommit s = true → let s1 := watchTo (commitAt s) s
      (((copyTiles (ckTensors s1)).take 1).forM copyOne).go s1 = (.ok (), s2) →
      (((copyTiles (ckTensors s1)).drop 1).forM copyOne).go s2 = (.ok (), s3) → s3.fab.comparing = false →
      ∃ t, exec (.stepCommit []) s = .next t ∧ t.recov.copying = some s.recov.committed ∧
        t.recov.replaying = s3.recov.replaying.filter (· != s.recov.committed) ∧ t.sram = s3.sram ∧ t.dram = s3.dram ∧ t.engs = s3.engs) ∧
    (∀ k, s.recov.copying = some k → s.life = .running →
      exec .checkpointCopyDone s = .next { s with recov := { s.recov with copying := none, committed := k + 1 } }) ∧
    (∀ g, wdCounts s g = true →
      ∃ t, exec (.deadlockWatchdog g) s = .next t ∧ t.recov.faults = s.recov.faults ++ [⟨0x2020, s.run.step, .eng g, none⟩] ∧
        t.watch = max s.watch ((engOf s g).wdFrom + wdLimit s g.st) ∧ t.sram = s.sram ∧ t.dram = s.dram ∧ t.life = s.life)

/-! ### Memory -/

/-- R183, R185: what is written to SRAM or DRAM reads back, no other byte changes, and the ECC marks of the words written whole go. -/
def Obligations.MemoryReadsBack : Prop :=
  ∀ (a : Nat) (bs : List Byte) (s : State), memoriesWf s = true →
    rdN (pokeMem 0 a bs s).sram a bs.length = bs ∧ (pokeMem 0 a bs s).dram = s.dram ∧
    rdN (pokeMem 1 a bs s).dram a bs.length = bs ∧ (pokeMem 1 a bs s).sram = s.sram ∧
    (∀ x, x < a ∨ a + bs.length ≤ x → rd (pokeMem 0 a bs s).sram x = rd s.sram x ∧ rd (pokeMem 1 a bs s).dram x = rd s.dram x) ∧
    (∀ w, a ≤ w → w + 8 ≤ a + bs.length → nget (pokeMem 0 a bs s).sramEcc w = 0) ∧
    (∀ w, a ≤ w → w + 64 ≤ a + bs.length → tget [] (pokeMem 1 a bs s).dramEcc w = [])

/-- R183: an SRAM word with one bad bit is delivered, corrected and counted; with two it is not delivered, and raises 0x2090. -/
def Obligations.SramCodeWord : Prop :=
  ∀ (a : Nat) (s : State), let w := a / 8 * 8
    (nget s.sramEcc w = 0 → sramWord false a s = (true, s)) ∧
    (nget s.sramEcc w = 1 → (sramWord false a s).1 = true ∧ nget (sramWord false a s).2.sramEcc w = 0 ∧
      (sramWord false a s).2.sram = s.sram ∧
      nget (stnOf (sramWord false a s).2 (sramStn w)).scrub.perBank (sramBank w) = nget (stnOf s (sramStn w)).scrub.perBank (sramBank w) + 1) ∧
    (2 ≤ nget s.sramEcc w → (sramWord false a s).1 = false ∧ .report 0x2090 (pgSram (sramStn w)) ∈ (sramWord false a s).2.out ∧
      (sramWord false a s).2.sram = s.sram ∧ (sramWord false a s).2.sramEcc = s.sramEcc)

/-- R184: the scrubber reads a line in which no word has more than one bad bit: the pass moves on by one line, no byte changes, and the line
waits for its write-back when a word was corrected. R184, R186, R187: a write-back clears its line's single-bit errors, a scrub period ends with
a new pass (notice 0x0030 when the last was not finished), a patrol reads a clean line of its channel and writes back the ones it corrected before, a line with one bad symbol waits, a refresh is stamped with its Watch, and a
temperature is recorded. -/
def Obligations.MemoryUpkeep : Prop :=
  (∀ (st : Fin 16) (s : State), canScrub s st = true → let a := scrubLine s st; let c := (stnOf s st).scrub
    (∀ i, i < 8 → nget s.sramEcc (a + 8 * i) ≤ 1) →
    ∃ t, exec (.sramScrubRead st []) s = .next t ∧ (stnOf t st).scrub.left = c.left - 1 ∧
      (stnOf t st).scrub.line = (c.line + 1) % scrubLines ∧ t.sram = s.sram ∧ t.dram = s.dram ∧ t.sramEcc = s.sramEcc ∧
      ((∃ i, i < 8 ∧ nget s.sramEcc (a + 8 * i) = 1) → a ∈ (stnOf t st).scrub.pending)) ∧
  (∀ s : State,
    (∀ (st : Fin 16) (l : Nat) (r : List Nat), (stnOf s st).scrub.pending = l :: r →
      ∃ t, exec (.scrubWriteback st) s = .next t ∧ l ∉ (stnOf t st).scrub.pending ∧
        (∀ e ∈ t.sramEcc, ¬(e.2 = 1 ∧ e.1 / 64 * 64 = l)) ∧ t.sram = s.sram) ∧
    (∀ st : Fin 16, railsOff s = false →
      ∃ t, exec (.scrubPeriodEnd st) s = .next t ∧ (stnOf t st).scrub.left = 0x100000 ∧ (stnOf t st).scrub.perBank = [] ∧
        (0 < (stnOf s st).scrub.left → .report 0x0030 (pgSram st) ∈ t.out)) ∧
    (∀ ch : Fin 256, canPatrol s ch = true →
      tget [] s.dramEcc (chanLine ch (nget (dramOf s (ch.val / 16)).patrol (ch.val % 16)) / 64 * 64) = [] →
      ∃ t, exec (.dramPatrolRead ch []) s = .next t ∧ nget (dramOf t (ch.val / 16)).patrol (ch.val % 16) =
        (nget (dramOf s (ch.val / 16)).patrol (ch.val % 16) + 1) % 0x800000 ∧ t.dram = s.dram ∧
        ∀ c, tget [] t.dramEcc c = if dramChan c = ch.val ∧ c ∈ (dramOf s (ch.val / 16)).pending then [] else tget [] s.dramEcc c) ∧
    (∀ (ch : Fin 256) (y : Nat), canPatrol s ch = true →
      let c := chanLine ch (nget (dramOf s (ch.val / 16)).patrol (ch.val % 16)) / 64 * 64
      tget [] s.dramEcc c = [y] → dramChan c = ch.val → retiredSym s ch ≠ some y → c ∉ (dramOf s (ch.val / 16)).pending →
      ∃ t, exec (.dramPatrolRead ch []) s = .next t ∧ c ∈ (dramOf t (ch.val / 16)).pending ∧ tget [] t.dramEcc c = [y] ∧ t.dram = s.dram) ∧
    (∀ ch : Fin 256, railsOff s = false → (dramOf s (ch.val / 16)).selfRefresh = false →
      ∃ t, exec (.dramRefresh ch) s = .next t ∧ nget (dramOf t (ch.val / 16)).refreshed (ch.val % 16) = t.watch ∧
        t.watch = max s.watch (refreshAt s ch) ∧ t.dram = s.dram) ∧
    (∀ (g : Fin 16) (c : Nat), railsOff s = false →
      ∃ t, exec (.dramTemperatureRead g c) s = .next t ∧ (dramOf t g).temp = c % 256 ∧ t = { s with kpr := { s.kpr with dram := t.kpr.dram } }))

/-! ### Faults and replay -/

/-- R355, R357: the oldest detected fault reaches the hold unit: at the first hold of a job that can replay, the module is HELD, every engine
stops, and the rollback targets the step that the hold names. R357, R359: the rollback ends when the primaries are restored; at the replay origin
O_r, when everything is ready and within the limit, the module runs again from the target step, whose start is O_r. -/
def Obligations.HoldAndReplay : Prop :=
  (∀ (s : State) (code step : Nat) (r : List FaultRec), s.recov.faults = ⟨code, step, .chip, none⟩ :: r → s.life = .running → s.recov.holds = [] →
    isTerminal code = false → code ≠ 0x0050 → s.recov.replaying.contains step = false → replayOff s = false →
    (findNat (routerBad s) 16 0 = none) →
    ∃ t, exec .faultReport s = .next t ∧ t.life = .held ∧ t.recov.faults = r ∧ t.recov.holds = [⟨step, code, s.fab.part.rank⟩] ∧
      t.recov.target = some step ∧ (∀ g, (engOf t g).cur = none ∧ (engOf t g).stopped = false) ∧ t.sram = s.sram ∧ t.dram = s.dram) ∧
  (∀ s : State, s.life = .held →
    (∀ s1, s.recov.restoring = true → (restorePairs (ckTensors s)).go s = (.ok (), s1) →
      exec (.rollbackComplete []) s = .next { s1 with recov := { s1.recov with restoring := false, rolledBack := true } }) ∧
    (∀ o, s.recov.origin = some o → let s1 := watchTo o s
      notSwitched s = false → replayReady s = true → overLimit s1 = false →
      ∃ t, exec .replayOrigin s = .next t ∧ t.life = .running ∧ t.run.start = o * 1024 ∧ t.recov.holds = [] ∧ t.recov.origin = none ∧
        t.recov.replaying = (s.recov.target.getD s.run.step) :: s.recov.replaying ∧ t.watch = max s.watch o ∧
        t.sram = s.sram ∧ t.dram = s.dram))

/-- R363, R366, R370, R371: a Station PLL that loses lock loses its Station, and the job with it; a mismatch of the Keeper's cores halts the Keeper,
drives FOG_N low and ends in FAULTED; the detour test starts its counts again and leaves no notice when every link passes. -/
def Obligations.ModuleFailures : Prop :=
  ∀ s : State,
    (∀ st : Fin 16, railsOff s = false → inJob s = true →
      ∃ t, exec (.stationPllLoss st) s = .next t ∧ (stnOf t st).dark = true ∧ t.life = .faulted ∧
        t.recov.terminal = some (0x20A4, s.fab.part.rank)) ∧
    (s.life ≠ .off → ∃ t, exec .keeperCompareMismatch s = .next t ∧ t.life = .faulted ∧ t.jobs.halted = true ∧
      (inJob s = false → bitAt (regGet t (pageBase pgRcv + 0x60)) 0 = true ∧ .report 0x20A6 pgRcv ∈ t.out)) ∧
    (s.life = .running ∨ s.life = .held → (∀ r ∈ detourRecs s s.run.bank, ∀ l ∈ detourLinks s r, detourLinkOk s l = true) →
      ∃ t, exec .detourLinkTest s = .next t ∧ t.out = s.out ∧ t.regs = s.regs ∧
        t.watch = max s.watch (s.recov.linkTestAt + bits (regGet s (pageBase pgRcv + 0x54)) 11 0 * 1000000000) ∧
        ∀ l, (linkOf t l).frames = 0 ∧ (linkOf t l).fec = 0 ∧ (linkOf t l).st = (linkOf s l).st)


/-! ### Links -/

/-- R267 to R269, R298, R304 to R307: in a control Flash of an UP link with room in its replay buffer, one CONTROL frame leaves: it takes the
next SEQ, enters the replay buffer, and goes on the wire sealed under the link's key or closed by its CRC. In a link that trains, a TRAIN frame
leaves at the next Flash of the global grid. R269, R304, R309: in a retry Flash with no hold and no fork value to send, the oldest entry that has
to go again goes again under its SEQ, and is counted; with nothing to send a LINK frame leaves, which takes no SEQ and no entry. -/
def Obligations.ReservedFlashes : Prop :=
  (∀ (l : LinkNo) (s : State), railsOff s = false → let k := linkOf s l
    (∀ f, k.st = .up → nextFlash s l = some f → f.cut = false → isControlFlash f.num = true → k.buf.length < 1024 →
      ∃ t e, exec (.flashStart l) s = .next t ∧ (linkOf t l).buf = k.buf ++ [e] ∧ e.seq = k.seq ∧ e.kind = .control ∧ e.again = false ∧
        e.header = withSeq (ctlHeader false (ctlPid s l)) k.seq ∧ (linkOf t l).seq = (k.seq + 1) % 4096 ∧
        t.out.head? = some (.wire l (let body := headerBytes e.header ++ slice e.payload 0 256
          let c := if k.sealed then sealFrame k.keyTx (dirTx s l) k.sentUnder body else (body, leBytes 4 (crc32 body))
          frameWire c.1 c.2)) ∧
        t.watch = max s.watch f.start ∧ t.sram = s.sram ∧ t.dram = s.dram ∧ t.life = s.life) ∧
    (inTraining k = true →
      ∃ t, exec (.flashStart l) s = .next t ∧
        t.out.head? = some (if k.st = .detect ∨ k.st = .equalise then .train l (linkCode k.st) else .wire l (trainWire k.msg k.msgAt)) ∧
        linkOf t l = { k with flashAt := (linkOf t l).flashAt, msgAt := (k.msgAt + 1) % max 1 (ceilDiv k.msg.length 256) } ∧ t.watch ≤ (linkOf t l).flashAt ∧ s.watch ≤ t.watch ∧
        t = { s with watch := t.watch, out := t.out, fab := { s.fab with links := t.fab.links } })) ∧
  (∀ (l : LinkNo) (s : State) (f : FlashAt), railsOff s = false → (linkOf s l).st = .up → nextFlash s l = some f → f.cut = false →
    isControlFlash f.num = false → isRetryFlash f.num = true → holdDue s l = none → forkDue s l = none → let k := linkOf s l
    (∀ e, againOf k false = some e →
      ∃ t fr, exec (.flashStart l) s = .next t ∧ t.out.head? = some (.wire l fr) ∧ (linkOf t l).seq = k.seq ∧
        (linkOf t l).buf = k.buf.map (fun x => if x.seq = e.seq then { x with again := false } else x) ∧
        regGet t (lnkReg l 0x88) = satInc (regGet s (lnkReg l 0x88)) ∧ t.life = s.life ∧ t.sram = s.sram ∧ t.dram = s.dram) ∧
    (againOf k false = none → freshLate s l = [] →
      ∃ t fr, exec (.flashStart l) s = .next t ∧ t.out.head? = some (.wire l fr) ∧ (linkOf t l).seq = k.seq ∧ (linkOf t l).buf = k.buf ∧
        (linkOf t l).nak = none ∧ t.regs = s.regs ∧ t.life = s.life ∧ t.sram = s.sram ∧ t.dram = s.dram))

/-- R268, R280, R288, R289, R303: in a schedulable Flash of a RUNNING partition the SEND's flit of that Flash leaves its departure buffer; in
one that no occupancy takes, a queued Bulk flit leaves while the partner signals ON, each with the next SEQ and an entry of the replay buffer. -/
def Obligations.SchedulableFlash : Prop :=
  ∀ (l : LinkNo) (s : State) (f : FlashAt), railsOff s = false → (linkOf s l).st = .up → (linkOf s l).buf.length < 1008 →
    let k := linkOf s l
    (∀ (st : Fin 16) (d : DepFlit), nextFlash s l = some f → f.cut = false → isReserved f.num = false → f.part = true → s.life = .running →
      departing s l f.num = some (st, d) → (linkOf (pruneOcc l f s) l).occ.any (occOverlap f.ticks f.start) = false →
      ∃ t e fr, exec (.flashStart l) s = .next t ∧ t.out.head? = some (.wire l fr) ∧ (linkOf t l).buf = k.buf ++ [e] ∧
        e.kind = .scheduled ∧ e.payload = d.payload ∧ e.seq = k.seq ∧
        e.header = withSeq (schedHeader s.run.gen d.origin 0 d.stag d.index d.tally) k.seq ∧
        (portOf t st).dep = (portOf s st).dep.filter (· != d) ∧ t.sram = s.sram ∧ t.dram = s.dram) ∧
    (∀ (b : BulkFlit) (r : List BulkFlit), bulkFlash s l = some f → k.offIn = false → againOf k true = none → k.bulkQ = b :: r →
      ∃ t fr, exec (.bulkForward l) s = .next t ∧ .wire l fr ∈ t.out ∧
        (linkOf t l).buf = k.buf ++ [⟨k.seq, .bulk, s.run.gen, withSeq b.header k.seq, b.payload, false⟩] ∧
        (linkOf t l).seq = (k.seq + 1) % 4096 ∧ t.watch = max s.watch f.start ∧
        ((∀ j : Nat, j < 96 → (linkOf s j).rxBulk = []) → t.sram = s.sram ∧ t.dram = s.dram))

/-- R280, R282, R284: the Port engine fetches a SEND's next flit into the departure buffer, with the transfer's Tally in its last flit; a flit
not fetched 4 ticks before its slot is 0x2010: the SEND stops at it and none of its later flits leave; the earlier ones do. R283 to R285: a held flit becomes available at
its release Watch; a RECV takes the next flit of its tag, in transfer order; with the last one it is done when the Tally agrees, and stops with
0x2012 when it does not. -/
def Obligations.PortBuffers : Prop :=
  (∀ (st : Fin 16) (s : State) (l : Latched) (x : Slot) (due : Nat), sendOf s st = some l → nextSlot s st l = some (x, due) →
    let g := portEng st
    (∀ a s0 bs s1, canDepFetch s st = true → (opnd s g l 0 false).go s = (.ok a, s0) →
      (sendPayload g l a l.flits).go s0 = (.ok bs, s1) →
      let t' := transferAdd l.tally l.flits bs
      ∃ t, exec (.departureBufferFetch st []) s = .next t ∧
        (portOf t st).dep = (portOf s1 st).dep ++ [⟨physLink s (phLink x.2), x.1, due, phStag x.2, l.flits,
          if l.flits + 1 = (sendSlots s st (dW7 l.w)).length then t' % tallyP else 0, bs⟩] ∧
        (engOf t g).cur = some { l with flits := l.flits + 1, tally := t' } ∧ t = { s1 with engs := t.engs, fab := t.fab, regs := t.regs }) ∧
    (∃ t, exec (.departureDeadline st) s = .next t ∧ t.watch = max s.watch (due - 4) ∧ (portOf t st).dep = (portOf s st).dep ∧
      (engOf t g).stopped = true ∧ t.recov.faults.map FaultRec.code = s.recov.faults.map FaultRec.code ++ [0x2010] ∧
      t.sram = s.sram ∧ t.dram = s.dram)) ∧
  (∀ (st : Fin 16) (s : State) (f : LandFlit), let p := portOf s st; let g := portEng st
    (nextRelease p.land = some f →
      ∃ t, exec (.flitRelease st) s = .next t ∧ t.watch = max s.watch f.release ∧
        portOf t st = { p with land := p.land.map fun x => if x = f then { x with free := true } else x } ∧
        t = { s with watch := t.watch, fab := { s.fab with ports := t.fab.ports } }) ∧
    (∀ l s1, recvOf s st = some l → flitFor s st l = some f → recvRoom s st l = true →
      let s0 := putPort st { p with land := p.land.filter (· != f) } s; let t' := transferAdd l.tally l.flits f.payload
      (recvBody g [] l f.payload).go s0 = (.ok (), s1) →
      (l.flits + 1 ≠ rvFlits (dW7 l.w) →
        ∃ t, exec (.recvFlit st []) s = .next t ∧ (engOf t g).cur = some { l with flits := l.flits + 1, tally := t' } ∧
          t = { s1 with engs := t.engs }) ∧
      (∀ s2, l.flits + 1 = rvFlits (dW7 l.w) → (recvLast g l f t').go s1 = (.ok (), s2) →
        t' % tallyP = f.tally ∧ ∃ t, exec (.recvFlit st []) s = .next t ∧ t = { s2 with engs := t.engs } ∧
          (engOf t g).cur = some { l with flits := l.flits + 1, tally := t', done := true, blocked := 0 }) ∧
      (l.flits + 1 = rvFlits (dW7 l.w) → t' % tallyP ≠ f.tally →
        ∃ t, exec (.recvFlit st []) s = .next t ∧ (engOf t g).stopped = true ∧
          t.recov.faults.map FaultRec.code = s1.recov.faults.map FaultRec.code ++ [0x2012] ∧ t.sram = s1.sram ∧ t.dram = s1.dram)))

/-- R21, R277, R285, R303, R308, R312: what an UP link does with a DATA frame that opens: a duplicate is counted and dropped; a Scheduled flit
on time is delivered to the landing buffer that its Phrase names; a Bulk flit goes to its output queue, or here, when it is a whole message,
to its endpoint. -/
def Obligations.DataFrames : Prop :=
  ∀ (l : LinkNo) (fr : Frame) (s s1 : State) (h : Nat) (p : List Byte), railsOff s = false → (linkOf s l).st = .up →
    openFrame l fr s = (some (h, p), s1) →
    (takeSeq (hSeq h) (linkOf s1 l) = none → ∀ c : Instr, c = .scheduledFrameRx l fr ∧ isSched h = true ∨ c = .bulkFrameRx l fr ∧ isBulk h = true →
      exec c s = .next (regPut (lnkReg l 0x8C) (satInc (regGet s1 (lnkReg l 0x8C))) s1)) ∧
    (∀ k, takeSeq (hSeq h) (linkOf s1 l) = some k → let s2 := putLink l k s1
      (∀ ph, isSched h = true → isMember s2 l = true → s2.life = .running → hGen h = s2.run.gen % 4 → phraseFor s2 l h = some ph →
        onTime s2 h (leftAt s2 l) = true → ((linkOf s2 l).staged.filter fun w => decide (s2.watch < w)).length < 24 →
        phForwards ph = false → (portOf s2 (physStn s2 (phStation ph))).land.length < 512 →
        ∃ t d, exec (.scheduledFrameRx l fr) s = .next t ∧
          (portOf t (physStn s2 (phStation ph))).land = (portOf s2 (physStn s2 (phStation ph))).land ++ [d] ∧
          d.payload = p ∧ d.stag = hStag h ∧ d.index = hIndex h ∧ d.tally = hTally h ∧ d.origin = hOrigin h ∧
          d.release = (if strictOn s2 then max (releaseAt s2 h) (landsAt s2 (leftAt s2 l)) else landsAt s2 (leftAt s2 l)) ∧
          (d.free = true ↔ d.release ≤ s2.watch) ∧ t.sram = s2.sram ∧ t.dram = s2.dram) ∧
      (isBulk h = true → hDest h < 390625 → hBchan h ≤ 3 → k.rxBulk = [] →
        (∀ o, bulkRoute s2 (hDest h) = some o → (linkOf s2 o).bulkQ.length < 128 →
          ∃ t, exec (.bulkFrameRx l fr) s = .next t ∧ (linkOf t o).bulkQ = (linkOf s2 o).bulkQ ++ [⟨h, p⟩] ∧ (linkOf t l).rxBulk = [] ∧
            t = { s2 with fab := { s2.fab with links := t.fab.links } }) ∧
        (bulkRoute s2 (hDest h) = none → hBIndex h = 0 → hLast h = true → (hSrc h, hMsgid h) ∉ s2.fab.bulkDone →
          (∀ m ∈ s2.fab.bulk, ¬(m.src = hSrc h ∧ m.msgid = hMsgid h)) →
          ∃ t, exec (.bulkFrameRx l fr) s = .next t ∧ t.out = .bulk (hBchan h) (hSrc h) (p.take (hLen h)) :: s2.out ∧
            t.sram = s2.sram ∧ t.dram = (if hBchan h = 1 then bulkFill (p.take (hLen h)) s2 else s2).dram ∧ t.life = s2.life)))

/-- R301, R304, R307 to R309, R313: an ACK block that requests nothing frees the entries up to its ACKSEQ and carries the partner's OFF, in a
LINK frame and in a CONTROL frame sent again with no hold and no fork value; one that requests entries marks them to go again. -/
def Obligations.AckBlocks : Prop :=
  ∀ (l : LinkNo) (fr : Frame) (s s1 : State) (h : Nat) (p : List Byte), railsOff s = false → (linkOf s l).st = .up →
    openFrame l fr s = (some (h, p), s1) → let blk := field p 0x40 8
    (∀ c k, (c = Instr.linkFrameRx l fr ∧ hKind h = 2 ∧ k = linkOf s1 l) ∨
        (c = .controlFrameRx l fr ∧ hKind h = 1 ∧ hReplay h = true ∧ bitAt (field p 0 1) 0 = false ∧ bitAt (field p 0x10 1) 0 = false ∧
          takeSeq (hSeq h) (linkOf s1 l) = some k) →
      (bits blk 28 25 = 0 →
        ∃ t, exec c s = .next t ∧ (linkOf t l).offIn = bitAt blk 29 ∧ (linkOf t l).expect = k.expect ∧ (linkOf t l).got = k.got ∧
          (linkOf t l).buf = (if bitAt blk 12 = true ∧ (∃ e, k.buf.head? = some e ∧ ahead (bits blk 11 0) (e.seq + 4095) = true)
            then k.buf.filter fun x => ahead x.seq (bits blk 11 0) else k.buf) ∧
          t = { s1 with fab := { s1.fab with links := t.fab.links } }) ∧
      (bitAt blk 12 = false → bits (regGet s1 (lnkReg l 0x44)) 15 0 = 0 →
        ∃ t, exec c s = .next t ∧
          (linkOf t l).buf = (k.buf.map fun x => if (x.seq + 4096 - bits blk 24 13) % 4096 < bits blk 28 25 then { x with again := true } else x) ∧
          (linkOf t l).offIn = bitAt blk 29 ∧ t = { s1 with fab := { s1.fab with links := t.fab.links } }))

/-- R314 to R317, R271: a link trains: a DETECT link locks at a rate that RATE_MAX allows; EQUALISE settles on the rate or the next lower one, and
fails with 0x4011 below the last; AUTH sends and takes a HELLO, a chain and a signature over the transcript, with the keys of a sealed link; a TRAIN frame ends POSITION; the measured delay brings the
link UP with SEQ from 0; 100 ms of training end in DOWN; and a DOWN link tries again after its backoff. -/
def Obligations.LinkTrains : Prop :=
  ∀ (l : LinkNo) (s : State), let k := linkOf s l
    (∀ (r : Fin 3) (n : List Byte), k.st = .detect → bits (lnkCtl s l) 2 1 ≤ r →
      exec (.signalLock l r n) s = .next (putLink l { k with st := .equalise, rate := r } s)) ∧
    (∀ e n : Nat, k.st = .equalise →
      (0 < n → e * 1000000 ≤ n → ∃ t, exec (.equaliseRateDone l e n) s = .next t ∧ (linkOf t l).st = .auth ∧
        (linkOf t l).helloSent = helloBytes (ownHello s l) (freshBytes s 4) ∧ (linkOf t l).msg = helloBytes (ownHello s l) (freshBytes s 4) ∧ (linkOf t l).msgAt = 0 ∧
        (linkOf t l).rate = k.rate ∧ t = { s with free := t.free, fab := { s.fab with links := t.fab.links } }) ∧
      (¬(0 < n ∧ e * 1000000 ≤ n) → k.rate < 2 → exec (.equaliseRateDone l e n) s = .next (putLink l { k with rate := k.rate + 1 } s)) ∧
      (¬(0 < n ∧ e * 1000000 ≤ n) → 2 ≤ k.rate → ∃ t, exec (.equaliseRateDone l e n) s = .next t ∧ (linkOf t l).st = .down ∧ .report 0x4011 (pgLnk l) ∈ t.out)) ∧
    (∀ (h : Hello) (nonce : List Byte), k.st = .auth → k.helloGot = none → (h.sealCapable = true ∨ bitAt (lnkCtl s l) 3 = false) →
      ∃ t, exec (.linkHello l h nonce) s = .next t ∧ (linkOf t l).claimed = chipAt h.pos ∧ (linkOf t l).partnerPos = h.pos ∧
        (linkOf t l).helloGot = some (helloBytes h nonce) ∧
        (linkOf t l).sealed = (h.sealCapable && (h.sealRequire || bitAt (lnkCtl s l) 3)) ∧ (linkOf t l).st = .auth ∧
        (linkOf t l).msg = s.kpr.flash.identity ++ s.kpr.sec.ownerCert.getD [] ++ (linkOf t l).kemKey ∧
        (linkOf t l).kemKey = (if (linkOf t l).sealed && isInitiator t l then Config.kemPublic (linkOf t l).kemNo else []) ∧
        t = { s with free := t.free, fab := { s.fab with links := t.fab.links } }) ∧
    (∀ c o kem, k.st = .auth → k.helloGot.isSome = true → k.chainKey = none → ∃ t, exec (.linkCertChain l ⟨c, kem⟩ o) s = .next t ∧
      (∀ key, Config.chainKey c = some key → ownerPolicyOk s key o = true →
        (linkOf t l).st = .auth ∧ (linkOf t l).chainKey = some key ∧ t = { s with fab := { s.fab with links := t.fab.links } } ∧
        (isInitiator s l = true → t = putLink l { k with chainKey := some key } s) ∧
        (isInitiator s l = false → k.sealed = true → (linkOf t l).kemKey = kem ∧ (linkOf t l).kemCipher = Config.kemEncaps kem k.kemNo ∧
          (linkOf t l).shared = Config.kemSecret kem k.kemNo) ∧
        (isInitiator s l = false → daymarkOff s = false → (linkOf t l).msg =
          (if k.sealed then (linkOf t l).kemCipher else []) ++ Config.dsaSign s.kpr.fuses.seed (transcriptOf t l 2))) ∧
      ((∀ key, Config.chainKey c = some key → ownerPolicyOk s key o = false) → (linkOf t l).st = .fenced ∧ .report 0x4001 (pgLnk l) ∈ t.out)) ∧
    (∀ c z h kem key, k.st = .auth → k.chainKey = some key → daymarkOff s = false → k.partnerPos = expectPos s l → let s1 := takeCipher l kem s
      ∃ t, exec (.linkTranscriptSignature l c z h kem) s = .next t ∧
        if Config.dsaVerify key (transcriptOf s1 l (partnerRole s1 l)) (c ++ z ++ h) then
          (linkOf t l).st = .position ∧ (linkOf t l).partner = some k.claimed ∧ t = { s with fab := { s.fab with links := t.fab.links } } ∧
            (linkOf t l).transcript = transcriptOf s1 l 1 ∧
            (k.sealed = true → (linkOf t l).keyTx = sealKey (linkOf s1 l).shared (linkOf t l).transcript (dirTx s l) ∧
              (linkOf t l).keyRx = sealKey (linkOf s1 l).shared (linkOf t l).transcript (dirRx s l))
        else (linkOf t l).st = .fenced ∧ .report 0x4001 (pgLnk l) ∈ t.out) ∧
    (∀ f, railsOff s = false → k.st = .position → trainOk f = true → ∃ t, exec (.trainFrameRx l f) s = .next t ∧ (linkOf t l).st = .delay) ∧
    (∀ n, k.st = .delay → ∃ t, exec (.delayMeasureDone l n) s = .next t ∧ (linkOf t l).st = .up ∧
      (linkOf t l).delay = n + (if k.sealed then 5 else 0) ∧ (linkOf t l).seq = 0 ∧ (linkOf t l).buf = [] ∧ (linkOf t l).expect = 0) ∧
    (trainingNow k = true → ∃ t, exec (.trainingTimeout l) s = .next t ∧ (linkOf t l).st = .down ∧ .report 0x4011 (pgLnk l) ∈ t.out ∧
      t.watch = max s.watch (k.trainBegan + 100000000) ∧ (linkOf t l).backoff = min (2 * k.backoff) 1000000000) ∧
    (railsOff s = false → s.fab.posOk = true → k.st = .down → k.cable = true → bitAt (lnkCtl s l) 0 = true →
      ∃ t, exec (.linkDownRetry l) s = .next t ∧ (linkOf t l).st = .detect ∧ t.watch = max s.watch k.retryAt)

/-- R311, R318 to R321: an UP link that loses its signal goes to RESUME, keeps its replay buffer and starts its GRACE; a fresh nonce goes out when
the signal is back, a right proof brings it UP with every entry to go again, a wrong one to full training; GRACE that expires flushes the
entries with 0x4010; an ack timeout sends every entry again, and the third in a row takes the link out of UP. -/
def Obligations.LinkLossAndResume : Prop :=
  ∀ (l : LinkNo) (s : State), let k := linkOf s l
    (k.st = .up → ∃ t, exec (.lossOfSignal l) s = .next t ∧ (linkOf t l).st = .resume ∧ (linkOf t l).buf = k.buf ∧
      (linkOf t l).graceAt = some (s.watch + graceTicks s l)) ∧
    (k.st = .resume → (∀ (r : Fin 3) (n : List Byte),
        exec (.signalLock l r n) s = .next (putLink l { k with nonceSent := slice n 0 32, msg := slice n 0 32, msgAt := 0 } s)) ∧
      (∀ n p d, k.nonceSent ≠ [] → s.watch ≤ k.graceAt.getD 0 → let ns := bothNonces s l n
        let own := Out.wire l (trainWire (k.nonceSent ++ proofOf s l (ownRole s l) ns) 0)
        (p = proofOf s l (partnerRole s l) ns → ∃ t, exec (.resumeProof l n p d) s = .next t ∧ (linkOf t l).st = .up ∧
          (linkOf t l).buf = (k.buf.map fun e => { e with again := true }) ∧ (linkOf t l).seq = k.seq ∧ (linkOf t l).expect = k.expect ∧
          (linkOf t l).delay = d + (if k.sealed then 5 else 0) ∧ own ∈ t.out ∧ .report 0x0060 (pgLnk l) ∈ t.out) ∧
        (p ≠ proofOf s l (partnerRole s l) ns → ∃ t, exec (.resumeProof l n p d) s = .next t ∧ (linkOf t l).st = .down ∧ (linkOf t l).buf = [] ∧
          own ∈ t.out)) ∧
      ∃ t, exec (.graceExpiry l) s = .next t ∧ (linkOf t l).st = .down ∧ (linkOf t l).buf = [] ∧
        ((∀ j : Nat, j < 96 → (linkOf s j).rxBulk = []) → s.fab.outbox = [] → s.fab.comparing = false → (linkOf t l).bulkQ = []) ∧
        .report 0x4010 (pgLnk l) ∈ t.out ∧ t.watch = max s.watch (k.graceAt.getD 0)) ∧
    (k.st = .up → k.buf ≠ [] →
      (k.timeouts + 1 ≠ 3 → ∃ t, exec (.ackTimeout l) s = .next t ∧ (linkOf t l).buf = (k.buf.map fun e => { e with again := true }) ∧
        (linkOf t l).timeouts = k.timeouts + 1 ∧ (linkOf t l).st = .up ∧ t.watch = max s.watch (k.ackAt + ackTicks s l)) ∧
      (k.timeouts + 1 = 3 → ∃ t, exec (.ackTimeout l) s = .next t ∧ (linkOf t l).st = .resume ∧ (linkOf t l).buf = k.buf))

/-- R314, R319, R321, R492: UNFENCE sends a FENCED link to DOWN, RETRAIN any other; both are refused with 0x2040 on a member link in ARMED,
RUNNING and HELD; and a cable's arrival starts the training of its DOWN links, its removal ends in no link UP. -/
def Obligations.LinkRegisterActions : Prop :=
  ∀ (l : LinkNo) (s : State), let k := linkOf s l
    (paused s = false → railsOff s = false → linkBusy s l = false →
      (k.st = .fenced → s.fab.posOk = true → ∃ t, exec (.unfence l) s = .next t ∧ (linkOf t l).st = .down ∧ (linkOf t l).retryAt = s.watch ∧
        t = { s with fab := { s.fab with links := t.fab.links } }) ∧
      (k.st ≠ .fenced → ∃ t, exec (.retrain l) s = .next t ∧ (linkOf t l).st = .down ∧ (linkOf t l).buf = [] ∧ (linkOf t l).retryAt = s.watch)) ∧
    (paused s = false → railsOff s = false → linkBusy s l = true →
      ∀ c ∈ [Instr.unfence l, .retrain l], ∃ t, exec c s = .next t ∧ .report 0x2040 pgPci ∈ t.out ∧ linkOf t l = k) ∧
    (∀ conn : Fin 12, l.val / 8 = conn.val → s.life ≠ .off →
      (k.st = .down → railsOff s = false → s.fab.posOk = true → bitAt (lnkCtl s l) 0 = true →
        ∃ t, exec (.cablePresentChange conn true) s = .next t ∧ (linkOf t l).st = .detect ∧ (linkOf t l).cable = true ∧
          .pin ("CBL_3V3 " ++ toString conn.val) 1 ∈ t.out) ∧
      ∃ t, exec (.cablePresentChange conn false) s = .next t ∧ (linkOf t l).st ≠ .up ∧ (linkOf t l).cable = false ∧
        .pin ("CBL_3V3 " ++ toString conn.val) 0 ∈ t.out ∧ (∀ j : LinkNo, j.val / 8 ≠ conn.val →
          (linkOf t j).st = (linkOf s j).st ∧ (linkOf t j).cable = (linkOf s j).cable ∧ (linkOf t j).buf = (linkOf s j).buf ∧
            (linkOf t j).seq = (linkOf s j).seq))


/-! ### Partitions and time -/

/-- R252 to R255: a valid record starts a formation; the head Keeper sends FORMED when the last matching report arrives, which makes every LOADED
bank STALE at each member, and ABORT when one differs or FORM_MS expires; dissolving leaves no partition and makes LOADED banks STALE. -/
def Obligations.PartitionForms : Prop :=
  ∀ s : State, let p := s.fab.part
    (∀ (c : CmdRec) (r : List Byte), AdminReady c 8 [] s → inRL s = true → p.st = .none → r.length = 144 →
      (recordOk s r = true → (rankOf (prShape r) (prSelf s r) ≠ 0 ∨ 1 < prSize r) →
        ∃ t, exec (.partitionForm c r) s = .next t ∧ t.fab.part.st = .forming ∧ t.fab.part.record = r ∧ t.fab.part.hash = sha3 r ∧
          t.fab.part.pid = prPid r ∧ t.fab.part.rank = rankOf (prShape r) (prSelf s r) ∧ t.fab.part.sector = sectorBytes s r ∧
          t.fab.part.deadline = s.watch + prFormMs r * 1000000 ∧ t.jobs.formCmd = some (cmdOrigin c s)) ∧
      (recordOk s r = false → ∃ t, exec (.partitionForm c r) s = .next t ∧ Completed c 0x3001 s t ∧ t.fab = s.fab)) ∧
    (∀ (rank pid : Nat) (hash : List Byte), headForming s = true → rank < p.chips → rank ∉ p.reports →
      (pid = p.pid → hash = p.hash → (∃ x ∈ otherRanks p, x ≠ rank ∧ x ∉ p.reports) →
        exec (.formationReport rank pid hash) s = .next (putPart { p with reports := rank :: p.reports } s)) ∧
      ((∀ x ∈ otherRanks p, x = rank ∨ x ∈ p.reports) → pid = p.pid → hash = p.hash → p.differed = none →
        ∃ t, exec (.formationReport rank pid hash) s = .next t ∧ t.fab.part.st = .formed ∧ (∀ x ∈ otherRanks p, .msg x "FORMED" [] ∈ t.out) ∧
          ∀ b, (bankOf s b).st = .loaded → (bankOf t b).st = .stale) ∧
      ((∀ x ∈ otherRanks p, x = rank ∨ x ∈ p.reports) → (pid ≠ p.pid ∨ hash ≠ p.hash) →
        ∃ t, exec (.formationReport rank pid hash) s = .next t ∧ t.fab.part.st = .none ∧ (∀ x ∈ otherRanks p, .msg x "ABORT" [] ∈ t.out) ∧
          .report 0x3005 pgKpr ∈ t.out)) ∧
    (headForming s = true → ∃ t, exec .formationTimeout s = .next t ∧ t.fab.part.st = .none ∧ .report 0x3005 pgKpr ∈ t.out ∧
      t.watch = max s.watch p.deadline ∧ ∀ x ∈ otherRanks p, .msg x "ABORT" [] ∈ t.out) ∧
    (memberForming s = true →
      (∃ t, exec .formedMessage s = .next t ∧ t.fab.part = { p with st := .formed } ∧ ∀ b, (bankOf s b).st = .loaded → (bankOf t b).st = .stale) ∧
      ∃ t, exec .formationAbort s = .next t ∧ t.fab.part.st = .none ∧ ∀ b, (bankOf s b).st = .loaded → (bankOf t b).st = .stale) ∧
    (∀ c : CmdRec, AdminReady c 0 [] s → inRL s = true → p.st ≠ .none →
      ∃ t, exec (.partitionDissolve c) s = .next t ∧ t.fab.part.st = .none ∧ Completed c 0 s t ∧ ∀ b, (bankOf s b).st = .loaded → (bankOf t b).st = .stale)

/-- R330 to R332, R337 to R343: the reference pulse and a waiting step of the Watch; a domain that times out is invalid, and the other takes over
when it is eligible; the PPS and TOD inputs set the seconds of a grandmaster and raise 0x3020 when they stop; PPS_OUT and TOD_TX mark each
second; REVERT returns to the preferred domain; and a write of TIM_TOD_SEC waits for the next second. -/
def Obligations.FabricTime : Prop :=
  ∀ s : State, let x := s.fab.time
    ((x.stepBy = none → exec .watchReferencePulse s = .next { s with watch := roundUp s.watch 1000 }) ∧
      ∀ n, x.stepBy = some n → mayStep s = true → ∃ t, exec .watchReferencePulse s = .next t ∧ t.fab.time.stepBy = none ∧
        t.fab.time.target = 0 ∧ t.watch = ((roundUp s.watch 1000 : Int) + n).toNat % 2 ^ 64) ∧
    (∀ b : Bool, (domOf s b).valid = true →
      ∃ t, exec (.domainTimeout b) s = .next t ∧ (domOf t b).valid = false ∧ (domOf t b).syncs = [] ∧ (domOf t b).eligible = false ∧
        (x.actB = b → (domOf s (!b)).eligible = true → t.fab.time.actB = !b ∧ .report 0x0070 pgTim ∈ t.out) ∧
        ((domOf s (!b)).eligible = false → (domOf s (!b)).valid = false → t.fab.time.servo = if x.servo = .free then .free else .holdover)) ∧
    (∃ t, exec .ppsInEdge s = .next t ∧ t.fab.time.ppsAt = some s.watch ∧ t.fab.time.ppsValid = (x.ppsValid || decide (3 ≤ t.fab.time.ppsRun)) ∧
      t.fab.time.ppsRun = if (∃ p, x.ppsAt = some p ∧ 999900000 ≤ s.watch - p ∧ s.watch - p ≤ 1000100000) then x.ppsRun + 1 else 1) ∧
    (∀ p, x.ppsAt = some p → x.ppsValid = true → ∃ t, exec .ppsTimeout s = .next t ∧ t.fab.time.ppsValid = false ∧
      t.watch = max s.watch (p + 1100000000) ∧ (gmDomain s ≠ 0 → .report 0x3020 pgTim ∈ t.out)) ∧
    (∀ m, gmDomain s ≠ 0 → (∃ t, exec (.todMessageRx m) s = .next t ∧ t = { s with fab := { s.fab with time := t.fab.time } } ∧
      (todOk m = true → todInTime s = true → t.fab.time.anchorSec = field m 4 6 ∧ t.fab.time.anchorNs = 0 ∧ t.fab.time.utc = fieldInt m 0xA 2 ∧
        some t.fab.time.anchorW = x.ppsAt ∧ t.fab.time.leap = bits (field m 3 1) 2 1 ∧ t.fab.time.todAt = some s.watch) ∧
      ((todOk m = false ∨ todInTime s = false) → t.fab.time = { x with todBad := satInc x.todBad }))) ∧
    (gmDomain s ≠ 0 → x.todLost = false → ∃ t, exec .todTimeout s = .next t ∧ t.fab.time = { x with todLost := true } ∧ .report 0x3020 pgTim ∈ t.out) ∧
    (x.ppsHigh = none → x.todDue = none → ∃ t, exec .ppsOutPulse s = .next t ∧ t.watch = nextSecond s ∧ t.fab.time.ppsHigh = some t.watch ∧
      t.fab.time.todDue = some t.watch ∧ (bitAt (timCtl s) 4 = true → t.out = .pin "PPS_OUT" 1 :: s.out) ∧
      ∀ v, x.secWrite = some v → t.fab.time.anchorSec = v % 2 ^ 48 ∧ t.fab.time.anchorW = t.watch ∧ t.fab.time.secWrite = none) ∧
    (∀ w, x.ppsHigh = some w → ∃ t, exec .ppsOutEnd s = .next t ∧ t.fab.time = { x with ppsHigh := none } ∧ t.watch = max s.watch (w + 100000000) ∧
      (bitAt (timCtl s) 4 = true → t.out = .pin "PPS_OUT" 0 :: s.out)) ∧
    (∀ w, x.todDue = some w → ∃ t, exec .todTxSend s = .next t ∧ t.fab.time = { x with todDue := none } ∧ t.watch = max s.watch (w + 10000000) ∧
      (bitAt (timCtl s) 5 = true → t.out = .reply "TOD_TX" (todMessage s w) :: s.out)) ∧
    (paused s = false → railsOff s = false →
      (let b := bitAt (timCtl s) 2; b ≠ x.actB → (domOf s b).eligible = true →
        ∃ t, exec .timeRevert s = .next t ∧ t.fab.time.actB = b ∧ t.fab.time.target = meanOff (domOf s b) ∧ .report 0x0070 pgTim ∈ t.out) ∧
      (∀ v, pageLocked s pgTim = false → gmDomain s ≠ 0 → (x.todAt = none ∨ x.todLost = true) →
        exec (.todSecWrite v) s = .next (putTime { x with secWrite := some (v % 2 ^ 48) } s)))

/-! ### Jobs -/

/-- R344, R345, R351, R405, R409: a job record is checked and waits; it is dispatched to every member by PREPARE, each replies, and a chip on its own
is ARMED at once for the L of R344; a record that waits in a state that takes none completes with 0x2040 (R417); the switch ends; and at L
the chip runs from step 0, or is HELD with 0x3023 when its switch is not complete. -/
def Obligations.JobsLaunch : Prop :=
  ∀ s : State,
    (∀ (q : Fin 64) (r : List Byte) (ps bs : Option (List Byte)), canTake s q = true → refusesJobs s = false →
      (jobRefusal s r ps bs = none →
        ∃ t, exec (.jobRecord q r ps bs) s = .next t ∧ t = { s with jobs := t.jobs } ∧
          t.jobs.waiting = s.jobs.waiting ++ [jobOf q (headIndex s q) r (ps.getD []) (bs.getD [])] ∧
          (queueOf t q).sqHead = (headIndex s q + 1) % ringSize s q) ∧
      (∀ k, jobRefusal s r ps bs = some k → ∃ t, exec (.jobRecord q r ps bs) s = .next t ∧ t.jobs.waiting = s.jobs.waiting ∧
        (queueOf t q).comps = (queueOf s q).comps ++ [compRecord k 0 0 (headIndex s q) (jId r) 0 0 0 0 0 0])) ∧
    (∀ j, nextJob s = some j → mayDispatch s = true → let b := jBank j.record
      (bankOf s b).st = .loaded → (bankOf s b).img.isSome = true → launchRefusal s j = none → jLeading j.record = false →
      (otherRanks s.fab.part ≠ [] → ∃ t, exec .jobDispatch s = .next t ∧ t.jobs.active = some (newActive j true) ∧ t.life = .loaded ∧
        t.jobs.waiting = s.jobs.waiting.erase j ∧ ∀ x ∈ otherRanks s.fab.part, .msg x "PREPARE" (prepareBytes j (bankOf s b).fq []) ∈ t.out) ∧
      (otherRanks s.fab.part = [] → s.fab.part.st ≠ .formed → linksDownHere s b = [] → ∃ t a, exec .jobDispatch s = .next t ∧ t.life = .armed ∧
        t.jobs.active = some a ∧ a.job = j ∧ a.launch = some (chooseL s b (switchTicks s j)) ∧ a.switching = true ∧ t.run.bank = b)) ∧
    (∀ j, nextJob s = some j → refusesJobs s = true → s.jobs.halted = false → paused s = false →
      ∃ t, exec .jobDispatch s = .next t ∧ t.jobs.waiting = s.jobs.waiting.erase j ∧ t.jobs.active = s.jobs.active ∧
        (queueOf t j.queue).comps = (queueOf s j.queue).comps ++ [compRecord 0x2040 0 0 j.sqIndex (jId j.record) 0 0 0 0 0 0]) ∧
    (∀ m, takesPrepare s m = true → s.fab.part.rank ≠ 0 → (bankOf s (jBank m.record)).st = .loaded → (bankOf s (jBank m.record)).img.isSome = true →
      let j := jobOf 0 0 m.record m.patches m.buffers
      (writesFit s j = true → withheld s = false → ∃ t a, exec (.prepare m) s = .next t ∧ t.jobs.active = some a ∧ a.job = j ∧ a.own = false ∧
        a.launch = none ∧ a.replies = [] ∧ a.fq = max (bankOf s (jBank m.record)).fq m.fq ∧
        t.out.head? = some (.msg 0 "PREPARE_REPLY" (replyBytes (ownReply s j)))) ∧
      (writesFit s j = false → ∃ t, exec (.prepare m) s = .next t ∧ t.jobs.active = none ∧
        t.out.head? = some (.msg 0 "PREPARE_REPLY" (replyBytes { ownReply s j with refused := 0x1009 })))) ∧
    (∀ r a x, takesReply s r = true → s.jobs.active = some a → x ∈ otherRanks s.fab.part → x ≠ r.rank → (∀ y ∈ a.replies, y.rank ≠ x) →
      exec (.prepareReply r) s = .next (putActive (some { a with replies := insReply r a.replies }) s)) ∧
    (∀ a im pl s1, switchPending s = true → s.jobs.active = some a → (bankOf s (jBank a.job.record)).img = some im →
      (bankOf s (jBank a.job.record)).placement = some pl →
      (switchMem (!bound s a.job) (moorOf s (jMooring a.job.record)) im pl).go (switchRegs a im pl s) = (.ok (), s1) →
      ∃ t, exec (.switchComplete []) s = .next t ∧ t.jobs.active = some { a with switched := true } ∧ t.sram = s1.sram ∧ t.dram = s1.dram ∧
        t.run.bound = some (jBank a.job.record, some (jMooring a.job.record))) ∧
    (∀ a l h s1, s.life = .armed → s.jobs.active = some a → a.launch = some l → (bufHash a.job 0).go (watchTo l s) = (.ok h, s1) →
      (a.switched = true → a.lateLaunch = false → ∃ t, exec .launchWatch s = .next t ∧ t.life = .running ∧ t.run.step = 0 ∧
        t.run.start = l * 1024 ∧ t.run.grid = l ∧ t.watch = max s.watch l ∧ (∀ g, (engOf t g).stepEnded = false) ∧ t.sram = s1.sram ∧
        t.dram = s1.dram ∧ t.jobs.active = some (launchHashes s1 a h)) ∧
      ((a.switched = false ∨ a.lateLaunch = true) → ∃ t, exec .launchWatch s = .next t ∧ t.life = .held ∧ .report 0x3023 pgTim ∈ t.out ∧
        (replayOff s = false → t.recov.holds = [⟨0, 0x3023, s.fab.part.rank⟩] ∧ t.recov.target = some 0)))

/-- R367 to R370, R408, R411, R415: END_JOB fixes the end step and tells the members; a host DMA copy ends or times out with 0x20B1; DRAINING ends
in LOADED with a PENDING record in the Ledger store; and a Leading pair is set, cleared, launched at the counterpart's L, compared
entry by entry, and FAULTED with 0x20A2 when it diverges. -/
def Obligations.JobsEnd : Prop :=
  ∀ s : State,
    (∀ (c : CmdRec) (a : Active), AdminReady c 8 [] s → runOrHeld s = true → s.jobs.active = some a → jId a.job.record = field c.args 0 8 →
      (s.fab.part.st ≠ .formed ∨ s.fab.part.rank = 0) → s.recov.noReplay = none →
      ∃ t, exec (.endJob c) s = .next t ∧ t.run = { s.run with endStep := some (pickEnd s) } ∧ t.life = s.life ∧
        t.jobs.endCmds = s.jobs.endCmds ++ [(field c.args 0 8, cmdOrigin c s)] ∧
        ∀ x ∈ otherRanks s.fab.part, .msg x "END_JOB_STEP" (leBytes 4 (pickEnd s)) ∈ t.out) ∧
    (∀ k, runOrHeld s = true → s.fab.part.st = .formed → s.fab.part.rank ≠ 0 →
      exec (.endJobStepMessage k) s = .next { s with run := { s.run with endStep := some k } }) ∧
    (∀ a d data, nextDma s = some (a, d) →
      (∀ s1, d.out = false → (writeMem d.space d.addr (slice data 0 d.len)).go (putActive (some a) s) = (.ok (), s1) →
        exec (.hostDmaComplete data) s = .next s1) ∧
      (∀ bs s1, d.out = true → (readMem d.space d.addr d.len).go (putActive (some a) s) = (.ok bs, s1) →
        exec (.hostDmaComplete data) s = .next (emit (.hostWrite d.host bs) s1)) ∧
      (∀ f s1, (dmaCopy d data).go (putActive (some a) s) = (.error f, s1) →
        ∃ t p, exec (.hostDmaComplete data) s = .next t ∧ t.life = .faulted ∧ .report 0x2091 p ∈ t.out) ∧
      (s.life = .draining → ∃ t, exec .hostDmaTimeout s = .next t ∧ t.jobs.active = some { a with dmaFailed := true } ∧
        .report 0x20B1 pgPci ∈ t.out ∧ t.watch = max s.watch (d.started + 50000000)) ∧
      (s.life = .armed → ∃ t, exec .hostDmaTimeout s = .next t ∧ t.life = .loaded ∧ t.jobs.active = none ∧ .report 0x20B1 pgPci ∈ t.out)) ∧
    (∀ a, memoriesWf s = true → s.life = .draining → nextDma s = none → s.jobs.active = some a → s.fab.comparing = false → daymarkOff s = false →
      ∃ t e, exec .drainComplete s = .next t ∧ t.life = .loaded ∧ t.jobs.active = none ∧ t.run.endStep = none ∧
        t.jobs.ended = s.jobs.ended ++ [e] ∧ e.jobId = jId a.job.record ∧ e.signed = false ∧ slotState t e.slot = 1 ∧ t.sram = s.sram) ∧
    (∀ (c : CmdRec) (r o : List Byte), AdminReady c 8 [] s → inRL s = true →
      (leadingOk s r o = true → ∃ t, exec (.leadingSet c r o) s = .next t ∧ Completed c 0 s t ∧
        t.fab = { s.fab with leading := some r, pairLink := pairLinkOf s r o }) ∧
      (leadingOk s r o = false → ∃ t, exec (.leadingSet c r o) s = .next t ∧ Completed c 0x3030 s t ∧ t.fab = s.fab)) ∧
    (∀ c : CmdRec, AdminReady c 0 [] s → inRL s = true → ∃ t, exec (.leadingClear c) s = .next t ∧ Completed c 0 s t ∧
      t.fab = { s.fab with leading := none, pairLink := none, comparing := false, leadOwn := [], leadTheirs := [] }) ∧
    (∀ l, higherPid s = true → s.fab.part.rank = 0 → s.jobs.active = none →
      exec (.leadingLaunchMessage l) s = .next { s with fab := { s.fab with leadLaunch := some l } }) ∧
    (∀ es, s.fab.comparing = true → let m := leadMatch s.fab.leadOwn (s.fab.leadTheirs ++ es)
      m.diff = none → m.own.length < 131072 → m.theirs.length < 131072 →
      exec (.leadingEntriesRx es) s = .next { s with fab := { s.fab with leadOwn := m.own, leadTheirs := m.theirs } }) ∧
    (∀ e o, s.fab.comparing = true → inJob s = true → ∃ t, exec (.divergenceMessage e o) s = .next t ∧ t.life = .faulted ∧
      t.fab.comparing = false ∧ t.recov.terminal = some (0x20A2, s.fab.part.rank) ∧ .report 0x20A2 pgRcv ∈ t.out)

/-- R387 to R390, R437: a record that was held back gets a PENDING slot; a member certificate that is signed goes into the slot, which becomes
SIGNED, and from a member to its head Keeper; the head Keeper gathers them, and after a second without one raises 0x5020; with the Daymark
withheld the slot is INCOMPLETE, but for a signature in progress when a debug scope opened (R438), which completes. -/
def Obligations.LedgerStore : Prop :=
  ∀ s : State, memoriesWf s = true → s.jobs.halted = false →
    (∀ e sig, s.jobs.ended.find? (fun x => !x.signed) = some e →
      let c := certBytes s 1 e.recHash e.recLen e.pid e.jobId sig
      (daymarkOff s = false → ∃ t, exec (.ledgerSignComplete sig) s = .next t ∧ slotState t e.slot = 2 ∧
        rdN t.dram (slotAddr e.slot + 0x3C000) c.length = c ∧ t.sram = s.sram ∧
        (notHeadOf e = true → .msg 0 "MEMBER_CERT" c ∈ t.out ∧ ∀ x ∈ t.jobs.ended, x.slot ≠ e.slot)) ∧
      (s.kpr.fuses.kill = false → e.begun = true → ∃ t, exec (.ledgerSignComplete sig) s = .next t ∧ slotState t e.slot = 2) ∧
      (daymarkOff s = true → s.kpr.fuses.kill = true ∨ e.begun = false →
        ∃ t, exec (.ledgerSignComplete sig) s = .next t ∧ slotState t e.slot = 3 ∧ ∀ x ∈ t.jobs.ended, x.slot ≠ e.slot)) ∧
    (∀ rank cert sig e, certFor s rank cert = some e → let e1 := { e with certs := tput e.certs rank cert }
      (gathered e1 = false → exec (.memberCertRx rank cert sig) s = .next (setEnded e1 s)) ∧
      (gathered e1 = true → daymarkOff s = false → ∃ t, exec (.memberCertRx rank cert sig) s = .next t ∧
        rd t.dram (slotAddr e.slot + 1) = 1 ∧ ∀ x ∈ t.jobs.ended, x.slot ≠ e.slot)) ∧
    (∀ e, gathering s = some e → ∃ t, exec .certGatherTimeout s = .next t ∧ .report 0x5020 pgLdg ∈ t.out ∧
      t.watch = max s.watch (e.endedAt + 1000000000) ∧ t.dram = s.dram) ∧
    (∀ e r, s.life ≠ .running → s.jobs.deferred = [(e, r)] → daymarkOff s = false →
      ∃ t i, exec .ledgerDeferredWrite s = .next t ∧ t.jobs.deferred = [] ∧ slotState t i = 1 ∧ t.jobs.ended = s.jobs.ended ++ [{ e with slot := i }])


/-! ### The host interface -/

/-- R400, R403, R404: doorbells move the tail and the head of an enabled pair, or halt it with 0x20B4; a completion is written at CQ_TAIL with its PHASE and its vector is sent; and a pair starts at index 0 when it is enabled. -/
def Obligations.HostQueues : Prop :=
  ∀ s : State, paused s = false → s.life ≠ .off →
    (∀ (q : Fin 65) (v : W32), let k := queueOf s q
      (v.toNat < 4096 → k.enabled = true → k.error = false →
        (tailOk s q v.toNat = true → exec (.sqTailDoorbell q v) s = .next (putQueue q { k with sqTail := v.toNat } s)) ∧
        (headOk s q v.toNat = true → exec (.cqHeadDoorbell q v) s = .next (putQueue q { k with cqHead := v.toNat } s)) ∧
        (tailOk s q v.toNat = false → ∃ t, exec (.sqTailDoorbell q v) s = .next t ∧ queueOf t q = { k with error := true } ∧ .report 0x20B4 pgPci ∈ t.out) ∧
        (headOk s q v.toNat = false → ∃ t, exec (.cqHeadDoorbell q v) s = .next t ∧ queueOf t q = { k with error := true } ∧ .report 0x20B4 pgPci ∈ t.out)) ∧
      (k.enabled = false → qConfigOk v.toNat = true → ∃ t, exec (.queueEnable q v) s = .next t ∧
        queueOf t q = { queueReset with enabled := true, comps := k.comps } ∧ t = { s with jobs := t.jobs, regs := t.regs }) ∧
      (queueBusy s q = false → ∃ t, exec (.queueDisable q v) s = .next t ∧ (queueOf t q).enabled = false ∧ t = { s with jobs := t.jobs, regs := t.regs }) ∧
      (queueBusy s q = true → ∃ t, exec (.queueDisable q v) s = .next t ∧ .report 0x2040 pgPci ∈ t.out ∧ t.jobs = s.jobs)) ∧
    (∀ (q : Fin 65) (c : List Byte) (r : List (List Byte)), let k := queueOf s q
      k.comps = c :: r → cqRoom s q = true → s.jobs.halted = false →
      ∃ t, exec (.completionPost q) s = .next t ∧
        t.out = .msix (qVector s q) :: .hostWrite (cqBase s q + 64 * k.cqTail) (stampComp k c) :: s.out ∧
        (queueOf t q).comps = r ∧ (queueOf t q).cqTail = (k.cqTail + 1) % ringSize s q ∧
        (queueOf t q).phase = (if k.cqTail + 1 = ringSize s q then !k.phase else k.phase) ∧ (queueOf t q).sqReported = k.sqHead)

/-- R397, R398, R470 to R476, R479, R480: BAR2 reads and writes device memory, but for what R24, R181 and R203 bar; a BAR0 read returns the register and
latches the high word of a wide one; a write of the low word of a wide register waits for its high word, and one of a 32-bit register goes by the
access codes of its fields; and EVENT, EVENT_ENABLE,
EVENT_SET and LOCK of a page act on its EVENT bits and its lock alone. -/
def Obligations.HostMemoryAndRegisters : Prop :=
  ∀ s : State, paused s = false → railsOff s = false →
    (∀ off len bs s1, off + len ≤ bar2Size s → dramServed s = true → (readWindow (windowAt s off) len true).go s = (.ok bs, s1) →
      exec (.bar2Read off len []) s = .next (emit (.data bs) s1)) ∧
    (∀ off data s1, let w := windowAt s off
      data ≠ [] → off + data.length ≤ bar2Size s → w + data.length ≤ dramSize → writeBarred s (1, w, data.length) = false →
      (writeMem 1 w data).go s = (.ok (), s1) → exec (.bar2Write off data []) s = .next s1) ∧
    (∀ off data, let w := windowAt s off
      data ≠ [] → off + data.length ≤ bar2Size s → w + data.length ≤ dramSize → writeBarred s (1, w, data.length) = true →
      ∃ t, exec (.bar2Write off data []) s = .next t ∧ .report 0x2040 pgPci ∈ t.out ∧ t.sram = s.sram ∧ t.dram = s.dram) ∧
    (∀ a, a % 4 = 0 → a ≠ todNsAt → a ≠ todSecAt →
      (wideWord a = none → exec (.lowWordRead a 4) s = .next (emit (.data (leBytes 4 (readWord s a))) s)) ∧
      (wideWord a = some 0 → exec (.lowWordRead a 4) s =
        .next (emit (.data (leBytes 4 (readWord s a))) { s with latched := tput s.latched (a + 4) (readWord s (a + 4)) }))) ∧
    (∀ a p d i v, a % 4 = 0 → pageAt a = some p → regFind (regsOf (pageKind p).1) (a % 0x1000) = some (d, i, 0) → d.wide = true →
      exec (.registerWrite a 4 v) s = .next { s with staged := tput s.staged a (v % 2 ^ 32) }) ∧
    (∀ a p d i v, a % 4 = 0 → pageAt a = some p → regFind (regsOf (pageKind p).1) (a % 0x1000) = some (d, i, 0) → d.wide = false →
      d.off ∉ [0x18, 0x1C, 0x20, 0x30] → (pageKind p).1 ∈ [.kpr, .kprSec, .kprUpd, .kprRcv, .stnSram, .stnClk, .xch, .drm, .fus] →
      exec (.registerWrite a 4 v) s = .next (writeReg p a d (v % 2 ^ 32) s)) ∧
    (∀ (p : PageNo) (b v : W32), let e := pageBase p + 0x18; let m := eventMask p
      (∃ t, exec (.eventClear p b v) s = .next t ∧ t = { s with regs := t.regs, out := t.out } ∧
        regGet t e = Nat.lor (Nat.land (regGet s e) (Nat.xor b.toNat 0xFFFFFFFF)) (Nat.land (Nat.land v.toNat b.toNat) m)) ∧
      (∃ t, exec (.eventSet p b) s = .next t ∧ t = { s with regs := t.regs, out := t.out } ∧
        regGet t e = Nat.lor (regGet s e) (Nat.land b.toNat m) ∧ ∀ a, a ≠ e → regGet t a = regGet s a) ∧
      (∃ t, exec (.eventEnableWrite p v) s = .next t ∧ t = { s with regs := t.regs, out := t.out } ∧ regGet t (e + 4) = Nat.land v.toNat m ∧
        ∀ a, a ≠ e + 4 → regGet t a = regGet s a) ∧
      (∃ t, exec (.pageLock p) s = .next t ∧ t = { s with regs := t.regs } ∧ pageLocked t p = true ∧ ∀ a, a ≠ pageBase p + 0x30 → regGet t a = regGet s a))

/-- R77, R144, R145, R173, R177, R378, R417, R460, R481: what a register's action does: ENGINE_RESET clears an engine and keeps its registers; FREEZE and RESUME
of a Station and an engine at a break; a parameter write; STRICT; and OPP while every bank is FREE; in a state that does not allow them they
are refused with 0x2040. -/
def Obligations.RegisterActions : Prop :=
  ∀ s : State, paused s = false → railsOff s = false →
    (∀ g, engineWriteOk s = true → ∃ t, exec (.engineReset g) s = .next t ∧
      engOf t g = { engReset with present := (engOf s g).present, pushed := (engOf s g).pushed, p := (engOf s g).p, s := (engOf s g).s } ∧
      (∀ k, k ≠ g → engOf t k = engOf s k) ∧ t.sram = s.sram ∧ t.dram = s.dram ∧ t.life = s.life) ∧
    (∀ st : Fin 16,
      (∃ t, exec (.stationFreeze st true) s = .next t ∧ isFrozen t st = true ∧
        (stnOf t st).pausedAt = some ((stnOf s st).pausedAt.getD s.watch) ∧ t = { s with regs := t.regs, stations := t.stations }) ∧
      (∃ t, exec (.stationFreeze st false) s = .next t ∧ isFrozen t st = false ∧ (stnOf t st).frozen = false ∧
        t = { s with regs := t.regs, stations := t.stations, engs := t.engs } ∧ ∀ g, (engOf t g).pos = (engOf s g).pos)) ∧
    (∀ g k, (engOf s g).atBreak = some k → ∃ t, exec (.engineResume g) s = .next t ∧
      engOf t g = { engOf s g with atBreak := none, resumed := true, wdFrom := (engOf t g).wdFrom } ∧
      (∀ h, h ≠ g → engOf t h = { engOf s h with wdFrom := (engOf t h).wdFrom }) ∧ t = { s with engs := t.engs, stations := t.stations }) ∧
    (∀ (st : Fin 16) (v : W64), engineWriteOk s = true → let sel := regGet s (pageBase (pgParam st) + 0x40); let g := engAt st (bits sel 4 0)
      (engOf s g).present = true → bitAt sel 5 = false →
      exec (.paramWrite st v) s = .next (putEng g { engOf s g with p := tput (engOf s g).p (bits sel 11 6) v } s)) ∧
    (inKRL s = true → ∀ b : Bool, ∃ t, exec (.strictWrite b) s = .next t ∧ strictOn t = b ∧ (b = true → t.kpr.pwr.kt = 0 ∧ ∀ n : Nat, n < 16 → (clkOf t n).k = 0) ∧
      t = { s with regs := t.regs, kpr := t.kpr }) ∧
    (∀ v, v ≤ 3 → banksFree s = true → pageLocked s pgPwr = false →
      exec (.oppWrite v) s = .next (regPut (pageBase pgPwr + 0x10) v s)) ∧
    (∀ c, ((∃ g, c = Instr.engineReset g) ∨ ∃ st v, c = .paramWrite st v) ∧ engineWriteOk s = false ∨ (∃ b, c = .strictWrite b) ∧ inKRL s = false →
      ∃ t, exec c s = .next t ∧ .report 0x2040 pgPci ∈ t.out ∧ t = { s with regs := t.regs, out := t.out })

/-! ### Banks and Moorings -/

/-- R207, R208, R410: LOAD_IMAGE opens a bank for its image; an image that passes every check is LOADED; one that fails
leaves the bank FREE with its code; a load held back by Strict Timing goes on; RELEASE_BANK frees a bank, and TENSOR_ADDR answers with the
tensor's place. -/
def Obligations.BankCommands : Prop :=
  ∀ s : State,
    (∀ c : CmdRec, AdminReady c 16 [1, 2, 3, 4, 5, 6, 7] s → inLoadStates s = true → let b := field c.args 0 1
      b < 16 → (bankOf s b).st ≠ .loading → bankNamed s b = false → b ∉ endedBanks s →
      ∃ t, exec (.loadImage c) s = .next t ∧ (bankOf t b).st = .loading ∧ (bankOf t b).hostPtr = field c.args 8 8 ∧
        tget? t.jobs.bankCmd b = some (cmdOrigin c s) ∧ (∀ k, k ≠ b → bankOf t k = bankOf s k)) ∧
    (∀ (b : Fin 16) (img : List Byte), (bankOf s b).st = .loading → (bankOf s b).strictHeld = false → strictHolds s = false →
      ∃ t, exec (.imageFetchComplete b (some img)) s = .next t ∧ (∀ k, k ≠ b.val → bankOf t k = bankOf s k) ∧
        match loadResult s b img with
        | .ok (im, fq, p) => (bankOf t b).st = (if (bankOf s b).staleOnLoad then .stale else .loaded) ∧ (bankOf t b).img = some im ∧
            (bankOf t b).placement = some p ∧ (bankOf t b).fq = fq ∧ (bankOf t b).bytes = slice img 0 (imgSize img)
        | .error r => (bankOf t b).st = .free ∧ .report r.code pgKpr ∈ t.out) ∧
    (∀ b : Fin 16, (bankOf s b).strictHeld = true → s.life ≠ .running →
      exec (.loadStrictRelease b) s = .next (putBank b { bankOf s b with strictHeld := false } s)) ∧
    (∀ c : CmdRec, AdminReady c 1 [] s → inBankStates s = true → let b := field c.args 0 1
      b < 16 → bankNamed s b = false → (bankOf s b).st ≠ .loading →
      ∃ t, exec (.releaseBank c) s = .next t ∧ bankOf t b = bankReset ∧ Completed c 0 s t ∧ ∀ k, k ≠ b → bankOf t k = bankOf s k) ∧
    (∀ c : CmdRec, AdminReady c 4 [1] s → inAddrStates s = true → let k := bankOf s (field c.args 0 1)
      field c.args 0 1 < 16 → (k.st = .loaded ∨ k.st = .stale) →
      ∀ r, tensorResult k (field c.args 2 2) = some r → ∃ t, exec (.tensorAddr c) s = .next t ∧ Completed c 0 s t ∧
        (c.resultPtr ≠ 0 → r ≠ [] → t.out = .hostWrite c.resultPtr (resultBlock r) :: s.out))

/-- R193 to R195, R410: MOORING_OPEN allocates the extent of an EMPTY Mooring, SEAL starts its verification, which ends in READY or FAILED, a
verification held back by Strict Timing goes on, and RELEASE makes the Mooring EMPTY. -/
def Obligations.MooringCommands : Prop :=
  ∀ s : State,
    (∀ (c : CmdRec) (im : Image) (pl : Placement) (off : Nat), AdminReady c 2 [] s → inBankStates s = true → let m := field c.args 0 1; let k := bankOf s (field c.args 1 1)
      m < 64 → field c.args 1 1 < 16 → (moorOf s m).st = .empty → (k.st = .loaded ∨ k.st = .stale) → k.img = some im → k.placement = some pl →
      allocExtent s none (moorNeed im) = some off →
      ∃ t, exec (.mooringOpen c) s = .next t ∧ Completed c 0 s t ∧
        moorOf t m = { moorReset with st := .filling, off := off, len := moorNeed im, img := some im, phys := pl.stations.map PlacedSt.phys }) ∧
    (∀ c : CmdRec, AdminReady c 1 [] s → inBankStates s = true → let m := field c.args 0 1
      m < 64 →
      ((moorOf s m).st = .filling → ∃ t, exec (.mooringSeal c) s = .next t ∧
        moorOf t m = { moorOf s m with st := .verifying, strictHeld := strictOn s && s.life = .running } ∧ tget? t.jobs.moorCmd m = some (cmdOrigin c s)) ∧
      (moorNamed s m = false → ∃ t, exec (.mooringRelease c) s = .next t ∧ moorOf t m = moorReset ∧ Completed c 0 s t)) ∧
    (∀ (m : Fin 64) (im : Image), (moorOf s m).st = .verifying → (moorOf s m).strictHeld = false → strictHolds s = false → (moorOf s m).img = some im →
      (∀ s1, (moorVerify (moorOf s m) im).go s = (.ok (), s1) → ∃ t, exec (.mooringVerifyComplete m) s = .next t ∧
        moorOf t m = { moorOf s m with st := .ready } ∧ t.dram = s1.dram) ∧
      (∀ f s1, (moorVerify (moorOf s m) im).go s = (.error f, s1) → ∃ t, exec (.mooringVerifyComplete m) s = .next t ∧
        moorOf t m = { moorOf s m with st := .failed } ∧ (f.code = 0x1073 → .report 0x1073 pgKpr ∈ t.out) ∧
        (f.code ≠ 0x1073 → ∃ p, .report 0x2091 p ∈ t.out))) ∧
    (∀ m : Fin 64, (moorOf s m).strictHeld = true → s.life ≠ .running →
      exec (.mooringVerifyResume m) s = .next (putMoor m { moorOf s m with strictHeld := false } s))

/-! ### Security -/

/-- R412, R424, R430, R434, R435: the SPDM responder answers with its version, its chain, a signed challenge and its measurements; GET_NONCE gives a nonce
for 60 s, after which it is gone; and a command over MCTP completes in its reply. -/
def Obligations.Attestation : Prop :=
  ∀ s : State, keeperUp s = true → romRecovery s = false →
    exec .spdmGetVersion s = .next (emit (.reply "SPDM VERSION" [0x13]) s) ∧
    (∀ slot c m, slotChain s slot = some c → exec (.spdmGetCertificate slot) s = .next (emit (.reply "SPDM CERTIFICATE" c) s) ∧
      (daymarkOff s = false → exec (.spdmChallenge slot m) s = .next (emit (.reply "SPDM CHALLENGE_AUTH" (attest s m)) s)) ∧
      (daymarkOff s = true → ∃ t, exec (.spdmChallenge slot m) s = .next t ∧ .report 0x5031 pgSec ∈ t.out ∧
        t.out.head? = some (.reply "SPDM ERROR Unspecified" (leBytes 2 0x5031)))) ∧
    (∀ i m b, measAsked s i = some b → exec (.spdmGetMeasurements i false m) s = .next (emit (.reply "SPDM MEASUREMENTS" b) s) ∧
      (daymarkOff s = false → exec (.spdmGetMeasurements i true m) s = .next (emit (.reply "SPDM MEASUREMENTS" (b ++ attest s (m ++ b))) s))) ∧
    (∀ r n, getNonceOk r = true → ∃ t, exec (.getNonce r n) s = .next t ∧ t.kpr.sec = { s.kpr.sec with nonce := some (slice n 0 32, s.watch + 60000000000) } ∧
      t = { s with kpr := t.kpr, out := t.out }) ∧
    (∀ n, s.kpr.sec.nonce = some n → ∃ t, exec .nonceExpiry s = .next t ∧ t.kpr.sec = { s.kpr.sec with nonce := none } ∧ t.watch = max s.watch n.2) ∧
    (∀ r a, argsOk (slice r 1 7) (slice r 0x18 104) 0 [] = true →
      (field r 0 1 = 0x01 → s.life = .keep → tripBars s = none → ∃ t, exec (.mctpCommand r a) s = .next t ∧ t.life = restLife s ∧
        t.out.head? = some (.reply "mctp" (compRecord 0 0 0 0 (field r 8 8) 0 0 0 0 0 0))) ∧
      (field r 0 1 = 0x33 → inRL s = true → ∃ t, exec (.mctpCommand r a) s = .next t ∧ t.fab.leading = none ∧ t.fab.comparing = false ∧
        t.out = .reply "mctp" (compRecord 0 0 0 0 (field r 8 8) 0 0 0 0 0 0) :: s.out))

/-- R430 to R433, R436, R437: a signed request that passes every check consumes its nonce and has its effect: ENROL and RELEASE blow one OWNER_EPOCH fuse;
keys, policy, certificate and lock change as asked; and DEBUG_UNLOCK opens its scopes. One that fails changes none of them. -/
def Obligations.OwnerRequests : Prop :=
  ∀ (r : List Byte) (s : State), keeperUp s = true → romRecovery s = false → let c := { s.kpr.sec with nonce := none }
    let blank := { c with recordBad := false, tagOk := true, policy := 0, lock := false, ownerCert := none }
    let enrolled := { blank with owned := true, epoch := s.kpr.fuses.epoch + 1, keys := [payloadKey r] }
    let released := { blank with owned := false, epoch := 0, keys := [] }
    let done := fun (t : State) (sec : Sec) (epoch : Nat) =>
      (rqFails s r = none → t.kpr = { s.kpr with sec := sec, fuses := { s.kpr.fuses with epoch := epoch } } ∧ t = { s with kpr := t.kpr, out := t.out }) ∧
        ∀ k, rqFails s r = some k → t.kpr = { s.kpr with sec := c } ∧ t.life = s.life
    (∀ i op sec, (i, op, sec) ∈ [(Instr.enrol r, 0x01, enrolled), (.release r, 0x08, released)] → rqOp r = op →
      ∃ t, exec i s = .next t ∧ done t sec (s.kpr.fuses.epoch + 1)) ∧
    (∀ i op sec, (i, op, sec) ∈ [(Instr.addKey r, 0x02, { c with keys := c.keys ++ [payloadKey r] }), (.revokeKey r, 0x03, { c with keys := keysWithout s r }),
        (.setPolicy r, 0x04, { c with policy := field (rqPayload r) 0 4 }), (.setOwnerCert r, 0x05, { c with ownerCert := some (rqPayload r) }),
        (.lock r, 0x06, { c with lock := true }), (.unlock r, 0x07, { c with lock := false })] → rqOp r = op →
      ∃ t, exec i s = .next t ∧ done t sec s.kpr.fuses.epoch) ∧
    (rqOp r = 0x10 → ∃ t, exec (.debugUnlock r) s = .next t ∧
      (rqFails s r = none → t.kpr.sec = { c with debugOpen := Nat.lor c.debugOpen (field (rqPayload r) 0 4) } ∧
        (runOrHeld s = true → (bitAt (field (rqPayload r) 0 4) 1 = true ∨ bitAt (field (rqPayload r) 0 4) 2 = true) → t.life = .faulted)) ∧
      ∀ k, rqFails s r = some k → t.kpr = { s.kpr with sec := c } ∧ t.life = s.life)

/-- R441 to R450: an update runs from RequestUpdate through its transfer, its check, the flash writes and activation to its trial; health confirmed ends it in
the state it left, with its fuses burned; timeouts, cancelling and a failed trial end it by abandoning it or by a restart into FALLBACK. -/
def Obligations.FirmwareUpdate : Prop :=
  ∀ s : State, let u := s.kpr.upd
    (∀ n, pldmUp s = true → s.life ≠ .updating → updateCheck s = none → ∃ t, exec (.requestUpdate n) s = .next t ∧ t.life = .updating ∧
      t.kpr.upd.phase = .requested ∧ t.kpr.upd.left = s.life ∧ t.kpr.upd.maxTransfer = n) ∧
    (∀ n, pldmUp s = true → u.phase = .requested → ∃ t, exec (.updateComponent n) s = .next t ∧ t.kpr.upd = { u with phase := .transfer, size := n, lastAt := s.watch }) ∧
    (∀ d, pldmUp s = true → u.phase = .transfer → u.bytes.length < u.size →
      (d.length = nextAsk u → ∃ t, exec (.firmwareDataResponse true d) s = .next t ∧ t.kpr.upd = { u with bytes := u.bytes ++ d, fails := 0, lastAt := s.watch }) ∧
      (u.fails < 3 → ∃ t, exec (.firmwareDataResponse false d) s = .next t ∧ t.kpr.upd = { u with fails := u.fails + 1, lastAt := s.watch }) ∧
      (3 ≤ u.fails → ∃ t, exec (.firmwareDataResponse false d) s = .next t ∧ t.kpr.upd.phase = .closed ∧ .report 0x6006 pgUpd ∈ t.out)) ∧
    (∀ c, c = Instr.firmwareDataTimeout ∧ waitsAgent u = true ∨ (c = .cancelUpdate ∨ c = .cancelUpdateComponent) ∧ pldmUp s = true ∧ beforeApply u = true →
      ∃ t, exec c s = .next t ∧ t.kpr.upd.phase = .closed ∧ t.kpr.upd.rec_ = .idle ∧ .report 0x6006 pgUpd ∈ t.out ∧ (s.life = .updating → t.life = u.left)) ∧
    (∀ b, pldmUp s = true → u.phase = .transfer → u.size = u.bytes.length → romRecovery s = false →
      ∃ t, exec (.transferComplete b) s = .next t ∧
        (∀ k, stagedCheck s b = some k → t.kpr.upd.phase = .closed ∧ t.kpr.upd.rec_ = .idle ∧ .report k.1 pgUpd ∈ t.out) ∧
        (stagedCheck s b = none → t.kpr.upd.staged = some b ∧
          if sha3 s.kpr.flash.fallback.manifest = sha3 s.kpr.boot.bundle.manifest
          then t.kpr.upd.rec_ = .writing ∧ t.kpr.upd.phase = .writeActive ∧ t.kpr.flash.active = noBundle
          else t.kpr.upd.rec_ = .copying ∧ t.kpr.upd.phase = .writeFallback ∧ t.kpr.flash = s.kpr.flash)) ∧
    (∀ b, u.staged = some b → romRecovery s = false →
      (u.phase = .writeFallback → ∃ t, exec (.flashWriteStepDone true) s = .next t ∧ t.kpr.flash = { s.kpr.flash with fallback := s.kpr.boot.bundle, active := noBundle } ∧
        t.kpr.upd.rec_ = .writing ∧ t.kpr.upd.phase = .writeActive) ∧
      (u.phase = .writeActive → ∃ t, exec (.flashWriteStepDone true) s = .next t ∧ t.kpr.flash = { s.kpr.flash with active := b } ∧
        t.kpr.upd.rec_ = .written ∧ t.kpr.upd.phase = .applied)) ∧
    (u.rec_ = .written → u.phase = .applied →
      (pldmUp s = true → activateCheck s = none → ∃ t, exec .activateFirmware s = .next t ∧ t.kpr.upd.rec_ = .trial ∧ t.kpr.upd.trialAt = some 0 ∧ t.watch = 0) ∧
      (∃ t, exec .activateTimeout s = .next t ∧ t.kpr.upd.rec_ = .reverting ∧ t.watch = 0)) ∧
    (inTrial s = true →
      (∃ t, exec (.healthConfirmed true) s = .next t ∧ t.kpr.upd.rec_ = .idle ∧ (s.life = .updating → t.life = u.left) ∧
        t.kpr.fuses = burnFuses s.kpr.flash.active s.kpr.fuses ∧ .report 0x00C0 pgUpd ∈ t.out) ∧
      (∃ t, exec (.healthConfirmed false) s = .next t ∧ t.kpr.upd.rec_ = .reverting) ∧
      ∃ t, exec .trialTimeout s = .next t ∧ t.kpr.upd.rec_ = .reverting ∧ t.watch = 0) ∧
    (u.rec_ = .reverting → ∃ t, exec .revertCopyDone s = .next t ∧ t.kpr.flash.active = s.kpr.flash.fallback ∧ t.kpr.upd.rec_ = .idle ∧
      .report 0x6010 pgUpd ∈ t.out ∧ (s.life = .updating → t.life = u.left))

/-! ### Power and resets -/

/-- R325, R415, R454 to R456, R458, R459, R463, R464, R466, R467: POWER_UP and POWER_DOWN; the two feeds; single-feed operation with notice 0x00D1; power and temperature
readings, which trip the job into FAULTED with its rails off; a droop, which stretches the clock outside Strict Timing, and its end, from which
the clock returns by a sixteenth at a time; and a power failure, which ends in OFF with SRAM, DRAM and the Ledger
store lost. -/
def Obligations.PowerAndFeeds : Prop :=
  ∀ s : State, let p := s.kpr.pwr
    (∀ c : CmdRec, AdminReady c 0 [] s →
      (s.life = .keep → tripBars s = none → ∃ t, exec (.powerUp c) s = .next t ∧ t.life = restLife s ∧ Completed c 0 s t ∧ t.kpr.pwr.railsOff = false ∧
        t.sram = s.sram ∧ t.dram = s.dram) ∧
      ((s.life = .ready ∨ s.life = .loaded) → ∃ t, exec (.powerDown c) s = .next t ∧ t.life = .keep ∧ Completed c 0 s t ∧ t.sram = [] ∧ t.banks = [] ∧
        t.moorings = [] ∧ t.fab.part.st = .none)) ∧
    (s.life ≠ .off → ∀ a b : Nat,
      (a < 46000 → inRange b = true → exec (.feedADrop a b) s = .next (putPwr { p with mvA := a, mvB := b, onB := true } s)) ∧
      (p.onB = true → 47000 < a → exec (.feedAReturn a) s = .next (putPwr { p with mvA := a, onB := false } s)) ∧
      (p.single = false → (inRange a = false ∨ inRange b = false) → ∃ t, exec (.singleFeedEnter a b) s = .next t ∧
        t.kpr.pwr = { p with mvA := a, mvB := b, single := true } ∧ .report 0x00D1 pgPwr ∈ t.out) ∧
      (p.single = true → inRange a = true → inRange b = true → exec (.singleFeedExit a b) s = .next (putPwr { p with mvA := a, mvB := b, single := false } s)) ∧
      (a < 44000 → b < 44000 → ∃ t, exec (.powerFail a b) s = .next t ∧ t.life = .off ∧ t.sram = [] ∧ t.dram = [] ∧ t.banks = [] ∧ t.moorings = [] ∧
        t.kpr.pwr.brownout = true ∧ t.kpr.fuses = s.kpr.fuses ∧ t.kpr.flash = s.kpr.flash)) ∧
    (s.life ≠ .off → ∀ w : Nat, let hot := powerTrips (takePower w s)
      (hot = false → ∃ t, exec (.powerSample w) s = .next t ∧ t.kpr.pwr.readings.head? = some (t.watch, w) ∧ s.watch ≤ t.watch ∧ t.life = s.life ∧
        (strictOn s = true → t.kpr.pwr.kt = 0) ∧ (strictOn s = false → capOf p.band < w → t.kpr.pwr.kt = min 4 (p.kt + 1))) ∧
      (hot = true → p.trip = none → inJob s = true → ∃ t, exec (.powerSample w) s = .next t ∧ t.life = .faulted ∧ t.kpr.pwr.railsOff = true ∧
        .report 0x7020 pgPwr ∈ t.out)) ∧
    (s.life ≠ .off → p.trip = none → p.band = 0 → ∀ (st : Fin 16) (j d : Nat), j ≤ 95 → d ≤ 85 →
      ∃ t, exec (.temperatureSample j st d) s = .next t ∧ t.kpr.pwr.tj = j ∧ t.kpr.pwr.td = d ∧ t.kpr.pwr.hot = st ∧ t.kpr.pwr.band = 0 ∧
        t.kpr.pwr.trip = none ∧ t.watch = max s.watch (p.tempAt + 1000000)) ∧
    (p.trip = none → inJob s = true → ∀ (st : Fin 16) (j d : Nat), 110 ≤ j →
      ∃ t, exec (.temperatureSample j st d) s = .next t ∧ t.life = .faulted ∧ t.kpr.pwr.railsOff = true ∧ .report 0x7010 pgPwr ∈ t.out) ∧
    (railsOff s = false → ∀ st : Fin 16,
      (∃ t, exec (.droopDetect st) s = .next t ∧ regGet t (pageBase (pgClk st) + 0x40) = satInc (regGet s (pageBase (pgClk st) + 0x40)) ∧
        (clkOf t st).k = if strictOn s then (clkOf s st).k else 4) ∧
      ∃ t, exec (.droopRelease st) s = .next t ∧ (clkOf t st).droops = false ∧
        (clkOf t st).k = if s.kpr.forwarded = true ∧ ∃ n : Nat, n < 16 ∧ n ≠ st.val ∧ (clkOf s n).droops = true then (clkOf s st).k else (clkOf s st).k - 1)

/-- R395, R415, R416, R436, R456, R481, R495, R496, R499: power applied and every warm reset lead to KEEP with the Watch at 0, the fuses, the flash and the owner record
kept; a pin's release ends its reset; the alert response answers with the module's address; and a JTAG instruction
whose scope is shut acts as BYPASS. -/
def Obligations.ResetsAndPins : Prop :=
  ∀ s : State,
    (s.life = .off → ∀ x, ∃ t, exec (.powerApplied x) s = .next t ∧ t.life = .keep ∧ t.watch = 0 ∧ t.kpr.sec.debugOpen = 0 ∧ t.kpr.sec.nonce = none ∧
      t.banks = [] ∧ t.fab.pos = [x.d0.val, x.d1.val, x.d2.val, x.d3.val]) ∧
    (s.life ≠ .off → s.kpr.upd.rec_ = .idle → ∀ c,
      (c = Instr.functionLevelReset ∨ (∃ b, c = .warmResetPin b ∧ s.kpr.pins.perst = false ∧ s.kpr.pins.warm = false) ∨ ∃ r, c = .resetWarm r ∧ AdminReady r 0 [] s) →
      ∃ t, exec c s = .next t ∧ t.life = .keep ∧ t.watch = 0 ∧ t.engs = [] ∧ t.sram = [] ∧ t.jobs.active = none ∧ t.jobs.waiting = [] ∧
        t.kpr.fuses = s.kpr.fuses ∧ t.kpr.flash = s.kpr.flash ∧ t.kpr.sec.keys = s.kpr.sec.keys ∧ t.kpr.sec.debugOpen = s.kpr.sec.debugOpen ∧
        ∀ b, (bankOf s b).st = .loaded → (bankOf t b).st = .stale) ∧
    (∀ (b : Bool) (z : Fin 9), (if b then s.kpr.pins.perst else s.kpr.pins.warm) = true → ∃ t, exec (.resetRelease ⟨b, z⟩) s = .next t ∧
      (if b then t.kpr.pins.perst else t.kpr.pins.warm) = false ∧ t = { s with kpr := { s.kpr with pins := t.kpr.pins } } ∧
      ((if b then s.kpr.pins.warm else s.kpr.pins.perst) = false → t.kpr.pins.pciRate = 4 ∧ t.kpr.pins.pciWidth = 8 ∧ bar2Size t = 2 ^ (30 + z.val))) ∧
    (smbAlert s = true → exec .smbusAlertResponse s = .next (emit (.reply "SMBus" [0x4D]) s)) ∧
    exec .tapReset s = .next (setTap 0 s) ∧
    (∃ t, exec (.jtagInstruction .idcode) s = .next t ∧ t.out = .reply "TDO" (leBytes 4 (idcode s)) :: s.out ∧ t.kpr.pins.tap = 0) ∧
    (∀ g, bitAt s.kpr.sec.debugOpen 1 = true → exec (.jtagInstruction (.engineHalt g)) s = .next (putEng g { engOf s g with stopped := true } s)) ∧
    (∀ op, op = .bypass ∨ ((op = .sample ∨ op = .preload ∨ op = .extest) ∧ bitAt s.kpr.sec.debugOpen 0 = false) ∨
        ((∃ g, op = .engineHalt g ∨ op = .engineState g) ∧ bitAt s.kpr.sec.debugOpen 1 = false) ∨ (op = .keeper ∧ bitAt s.kpr.sec.debugOpen 2 = false) →
      exec (.jtagInstruction op) s = .next (emit (.reply "TDO" [0]) (setTap 1 s)))


/-! ### Rules stated whole -/

/-- R401: a host flag doorbell is applied only in RUNNING and HELD and only to a host flag of the image; else it is dropped with 0x2040; one that
would take the flag past 65,535 is not applied and raises 0x20B2, and the job goes on; and one that is applied sets HOST_FED. -/
def Obligations.HostFlagDoorbells : Prop :=
  ∀ (i : Fin 64) (v : W32) (s : State), paused s = false → s.life ≠ .off → 48 ≤ i.val → 0 < v.toNat → v.toNat < 65536 →
    let applies := (s.life = .running ∨ s.life = .held) ∧ bitAt s.hostMask i = true
    (applies → nget s.chipFlags i + v.toNat ≤ 65535 →
      ∃ t, exec (.hostFlagDoorbell i v) s = .next t ∧ nget t.chipFlags i = nget s.chipFlags i + v.toNat ∧
        (∀ j, j ≠ i.val → nget t.chipFlags j = nget s.chipFlags j) ∧ t.led = { s.led with hostFed := true } ∧
        t = { s with chipFlags := t.chipFlags, ck0 := t.ck0, ck1 := t.ck1, led := t.led }) ∧
    (applies → 65535 < nget s.chipFlags i + v.toNat →
      ∃ t, exec (.hostFlagDoorbell i v) s = .next t ∧ .report 0x20B2 pgPci ∈ t.out ∧ t = { s with regs := t.regs, out := t.out }) ∧
    (¬applies →
      ∃ t, exec (.hostFlagDoorbell i v) s = .next t ∧ .report 0x2040 pgPci ∈ t.out ∧ t = { s with regs := t.regs, out := t.out })

/-- R428: entering RMA kills the Daymark for good: no step brings it back; the module still boots and runs jobs, but it authenticates no link, signs no
certificate, and answers a challenge with an error. -/
def Obligations.RmaEndsDaymark : Prop :=
  ∀ s : State,
    (s.life ≠ .off → s.kpr.fuses.lifecycle ≤ 3 → exec .rmaEntry s = .next (putFuses { s.kpr.fuses with kill := true, lifecycle := 3 } s)) ∧
    (s.kpr.fuses.kill = true →
      (∀ t, step s = .next t → t.kpr.fuses.kill = true ∧ (s.kpr.fuses.lifecycle = 3 → 3 ≤ t.kpr.fuses.lifecycle)) ∧
      (s.life = .off → ∀ x, ∃ t, exec (.powerApplied x) s = .next t ∧ t.life = .keep) ∧
      (∀ a l h s1, s.life = .armed → s.jobs.active = some a → a.launch = some l → a.switched = true → a.lateLaunch = false →
        (bufHash a.job 0).go (watchTo l s) = (.ok h, s1) → ∃ t, exec .launchWatch s = .next t ∧ t.life = .running) ∧
      (∀ (l : LinkNo) (c z h kem key : List Byte), (linkOf s l).st = .auth → (linkOf s l).chainKey = some key →
        ∃ t, exec (.linkTranscriptSignature l c z h kem) s = .next t ∧ (linkOf t l).st = .fenced) ∧
      (∀ e sig, memoriesWf s = true → s.jobs.halted = false → s.jobs.ended.find? (fun x => !x.signed) = some e →
        ∃ t, exec (.ledgerSignComplete sig) s = .next t ∧ slotState t e.slot = 3) ∧
      (∀ sig rank cert e, s.jobs.halted = false → certFor s rank cert = some e →
        exec (.memberCertRx rank cert sig) s = .next (setEnded { e with certs := tput e.certs rank cert } s)) ∧
      (∀ slot c m, keeperUp s = true → romRecovery s = false → slotChain s slot = some c →
        ∃ t, exec (.spdmChallenge slot m) s = .next t ∧ t.out.head? = some (.reply "SPDM ERROR Unspecified" (leBytes 2 0x5031))))

/-- R470: BAR0 holds 442 pages; a read of an address that lies in no page, or at which its page has no register, returns 0, and a write to it is
ignored and raises no event. -/
def Obligations.ReservedAddresses : Prop :=
  (∀ p : PageNo, pageAt (pageBase p) = some p.val) ∧ (∀ a p, pageAt a = some p → p < 442) ∧
    ∀ (a : Nat) (s : State), a % 4 = 0 → (pageAt a = none ∨ ∃ p, pageAt a = some p ∧ regFind (regsOf (pageKind p).1) (a % 0x1000) = none) →
      (paused s = false → exec (.lowWordRead a 4) s = .next (emit (.data [0, 0, 0, 0]) s)) ∧ ∀ v, exec (.registerWrite a 4 v) s = .next s
end

