-- ==== Sys2Proof/Laws/Mem.lean ====
section
/-! SUPPORT. Memory: what a write changes, and that every memory operation keeps the canonical form. -/

namespace Sys2Proof.Machine

theorem rd_nil (a : Nat) : rd [] a = 0 := rfl

/-- A canonical memory from `lo` upward lists nothing below `lo`. -/
theorem rd_below {lo a : Nat} {m : Mem} (h : Mem.wfFrom lo m = true) (ha : a < lo) : rd m a = 0 := by
  induction m generalizing lo with
  | nil => rfl
  | cons c m ih =>
    obtain ⟨j, v⟩ := c
    simp only [Mem.wfFrom, Bool.and_eq_true, decide_eq_true_eq] at h
    have : j ≠ a := by omega
    simp only [rd, this, if_false]
    exact ih h.2 (by omega)

theorem wfFrom_mono {lo hi : Nat} {m : Mem} (h : Mem.wfFrom hi m = true) (hl : lo ≤ hi) : Mem.wfFrom lo m = true := by
  cases m with
  | nil => rfl
  | cons c m =>
    obtain ⟨j, v⟩ := c
    simp only [Mem.wfFrom, Bool.and_eq_true, decide_eq_true_eq] at h ⊢
    exact ⟨⟨by omega, h.1.2⟩, h.2⟩

/-- Writing a byte keeps the canonical form. -/
theorem wr_wfFrom {lo a : Nat} {m : Mem} {b : Byte} (h : Mem.wfFrom lo m = true) (ha : lo ≤ a) : Mem.wfFrom lo (wr m a b) = true := by
  induction m generalizing lo with
  | nil =>
    unfold wr
    split
    · rfl
    · rename_i hb
      simp only [Mem.wfFrom, Bool.and_eq_true, decide_eq_true_eq, bne_iff_ne]
      exact ⟨⟨ha, hb⟩, trivial⟩
  | cons c m ih =>
    obtain ⟨j, v⟩ := c
    have h0 := h
    simp only [Mem.wfFrom, Bool.and_eq_true, decide_eq_true_eq, bne_iff_ne] at h
    unfold wr
    split
    · rename_i hlt
      split
      · exact h0
      · rename_i hb
        simp only [Mem.wfFrom, Bool.and_eq_true, decide_eq_true_eq, bne_iff_ne]
        exact ⟨⟨ha, hb⟩, ⟨by omega, h.1.2⟩, h.2⟩
    · split
      · rename_i hj
        subst hj
        split
        · exact wfFrom_mono h.2 (by omega)
        · rename_i hb
          simp only [Mem.wfFrom, Bool.and_eq_true, decide_eq_true_eq, bne_iff_ne]
          exact ⟨⟨ha, hb⟩, h.2⟩
      · simp only [Mem.wfFrom, Bool.and_eq_true, decide_eq_true_eq, bne_iff_ne]
        exact ⟨h.1, ih h.2 (by omega)⟩

theorem wr_wf {m : Mem} (a : Nat) (b : Byte) (h : Mem.wf m = true) : Mem.wf (wr m a b) = true := wr_wfFrom h (Nat.zero_le a)

theorem wrN_wf {m : Mem} (a : Nat) (bs : List Byte) (h : Mem.wf m = true) : Mem.wf (wrN m a bs) = true := by
  induction bs generalizing m a with
  | nil => exact h
  | cons b bs ih => exact ih (a + 1) (wr_wf a b h)

/-- A byte written reads back. -/
theorem rd_wr_same {m : Mem} (a : Nat) (b : Byte) {lo : Nat} (h : Mem.wfFrom lo m = true) : rd (wr m a b) a = b := by
  induction m generalizing lo with
  | nil =>
    unfold wr
    split
    · rename_i hb; simp [rd, hb]
    · simp [rd]
  | cons c m ih =>
    obtain ⟨j, v⟩ := c
    simp only [Mem.wfFrom, Bool.and_eq_true, decide_eq_true_eq] at h
    unfold wr
    split
    · rename_i hlt
      split
      · rename_i hb
        have : j ≠ a := by omega
        simp only [rd, this, if_false]
        rw [hb]
        exact rd_below h.2 (by omega)
      · simp [rd]
    · split
      · rename_i hj
        subst hj
        split
        · rename_i hb
          rw [hb]
          exact rd_below h.2 (by omega)
        · simp [rd]
      · rename_i hj
        simp only [rd, hj, if_false]
        exact ih h.2

/-- Every other byte stays. -/
theorem rd_wr_other {m : Mem} {a c : Nat} (b : Byte) (hac : c ≠ a) : rd (wr m a b) c = rd m c := by
  induction m with
  | nil =>
    unfold wr
    split
    · rfl
    · simp [rd, hac.symm]
  | cons x m ih =>
    obtain ⟨j, v⟩ := x
    unfold wr
    split
    · split
      · rfl
      · simp [rd, hac.symm]
    · split
      · rename_i hj
        subst hj
        have : ¬ j = c := fun e => hac e.symm
        split
        · simp [rd, this]
        · simp [rd, this]
      · simp only [rd]
        rw [ih]

/-- A byte outside the written ones stays. -/
theorem rd_wrN_other {m : Mem} {a c : Nat} (bs : List Byte) (h : c < a ∨ a + bs.length ≤ c) : rd (wrN m a bs) c = rd m c := by
  induction bs generalizing m a with
  | nil => rfl
  | cons b bs ih =>
    simp only [List.length_cons] at h
    simp only [wrN]
    rw [ih (by omega), rd_wr_other b (by omega)]

/-- A written byte reads back. -/
theorem rd_wrN_same {m : Mem} {a i : Nat} {bs : List Byte} (h : Mem.wf m = true) (hi : i < bs.length) :
    rd (wrN m a bs) (a + i) = bs[i] := by
  induction bs generalizing m a i with
  | nil => exact absurd hi (Nat.not_lt_zero i)
  | cons b bs ih =>
    simp only [wrN]
    cases i with
    | zero =>
      rw [Nat.add_zero, rd_wrN_other bs (by omega)]
      exact rd_wr_same a b h
    | succ i =>
      have e : a + (i + 1) = a + 1 + i := by omega
      rw [e, ih (wr_wf a b h) (by simpa using hi)]
      rfl

/-- Bytes written read back. -/
theorem rdN_wrN {m : Mem} (a : Nat) (bs : List Byte) (h : Mem.wf m = true) : rdN (wrN m a bs) a bs.length = bs := by
  have key : ∀ (k : Nat) (c : Nat) (M : Mem) (cs : List Byte), cs.length = k → (∀ i (hi : i < cs.length), rd M (c + i) = cs[i]) →
      rdN M c k = cs := by
    intro k
    induction k with
    | zero => intro c M cs hk _; rw [List.length_eq_zero_iff.mp hk]; rfl
    | succ k ih =>
      intro c M cs hk hr
      cases cs with
      | nil => simp at hk
      | cons x xs =>
        have h0 := hr 0 (by simp)
        simp only [Nat.add_zero, List.getElem_cons_zero] at h0
        simp only [rdN, h0]
        rw [ih (c + 1) M xs (by simpa using hk) (fun i hi => by
          have := hr (i + 1) (by simpa using hi)
          have e : c + 1 + i = c + (i + 1) := by omega
          rw [e]
          simpa using this)]
  exact key bs.length a (wrN m a bs) bs rfl fun i hi => rd_wrN_same h hi

/-- Memory read outside the written bytes stays. -/
theorem rdN_wrN_other {m : Mem} {a c n : Nat} (bs : List Byte) (h : c + n ≤ a ∨ a + bs.length ≤ c) :
    rdN (wrN m a bs) c n = rdN m c n := by
  induction n generalizing c with
  | zero => rfl
  | succ n ih => simp only [rdN]; rw [rd_wrN_other bs (by omega), ih (by omega)]

end Sys2Proof.Machine
end

