-- ==== Sys2Proof/Laws/Kept.lean ====
section
/-! SUPPORT. The rules that carry Safety.Kept through the shapes in which the operations are written. -/

namespace Sys2Proof.Machine

theorem fusesRise_refl (f : Fuses) : fusesRise f f := ⟨id, fun _ => id, Nat.le_refl _, Nat.le_refl _, Nat.le_refl _⟩

theorem fusesRise_trans {f g h : Fuses} (a : fusesRise f g) (b : fusesRise g h) : fusesRise f h :=
  ⟨b.1 ∘ a.1, fun i => b.2.1 i ∘ a.2.1 i, a.2.2.1.trans b.2.2.1, a.2.2.2.1.trans b.2.2.2.1, a.2.2.2.2.trans b.2.2.2.2⟩

theorem Kept.refl (s : State) : Kept s s := ⟨rfl, rfl, rfl, fusesRise_refl _, id⟩

theorem Kept.trans {s t u : State} (a : Kept s t) (b : Kept t u) : Kept s u :=
  ⟨b.pending.trans a.pending, b.identity.trans a.identity, b.stepping.trans a.stepping, fusesRise_trans a.fuses b.fuses,
    b.memories ∘ a.memories⟩

/-- A state that agrees with x where Kept looks. -/
theorem Kept.like {s x t : State} (h : Kept s x) (a : t.pending = x.pending) (b : t.kpr.fuses = x.kpr.fuses)
    (c : t.kpr.stepping = x.kpr.stepping) (d : t.sram = x.sram) (e : t.dram = x.dram) (f : t.istore = x.istore) (g : t.wicks = x.wicks) :
    Kept s t :=
  h.trans ⟨a, by rw [dieIdentity, dieIdentity, b], c, b ▸ fusesRise_refl _, by rw [memoriesWf, memoriesWf, d, e, f, g]; exact id⟩

theorem Kept.upd {s x : State} (h : Kept s x) (watch free out life regs latched staged sramEcc dramEcc istoreBad symCount stations
    lanterns engs chipFlags hostMask sb banks moorings run ck0 ck1 recov fab led jobs) :
    Kept s ⟨x.pending, watch, free, out, life, regs, latched, staged, x.sram, x.dram, x.istore, sramEcc, dramEcc, istoreBad, symCount,
      stations, lanterns, x.wicks, engs, chipFlags, hostMask, sb, banks, moorings, run, ck0, ck1, recov, fab, led, jobs, x.kpr⟩ :=
  h.like rfl rfl rfl rfl rfl rfl rfl

theorem Kept.updKpr {s x : State} (h : Kept s x) (watch free out life regs latched staged sramEcc dramEcc istoreBad symCount stations
    lanterns engs chipFlags hostMask sb banks moorings run ck0 ck1 recov fab led jobs flash boot sec upd pwr clk dram pins pauseUntil
    forwarded) :
    Kept s ⟨x.pending, watch, free, out, life, regs, latched, staged, x.sram, x.dram, x.istore, sramEcc, dramEcc, istoreBad, symCount,
      stations, lanterns, x.wicks, engs, chipFlags, hostMask, sb, banks, moorings, run, ck0, ck1, recov, fab, led, jobs,
      ⟨x.kpr.fuses, flash, boot, sec, upd, pwr, clk, dram, pins, pauseUntil, forwarded, x.kpr.stepping⟩⟩ :=
  h.like rfl rfl rfl rfl rfl rfl rfl

/-- Memories and pairs change, and stay canonical. -/
theorem Kept.updMem {s x : State} (h : Kept s x) {sram dram istore wicks} (watch free out life regs latched staged sramEcc dramEcc
    istoreBad symCount stations lanterns engs chipFlags hostMask sb banks moorings run ck0 ck1 recov fab led jobs flash boot sec upd pwr clk
    ds pins pauseUntil forwarded)
    (a : Mem.wf x.sram = true → Mem.wf sram = true) (b : Mem.wf x.dram = true → Mem.wf dram = true)
    (c : Mem.wf x.istore = true → Mem.wf istore = true) (d : wicksWf x.wicks = true → wicksWf wicks = true) :
    Kept s ⟨x.pending, watch, free, out, life, regs, latched, staged, sram, dram, istore, sramEcc, dramEcc, istoreBad, symCount,
      stations, lanterns, wicks, engs, chipFlags, hostMask, sb, banks, moorings, run, ck0, ck1, recov, fab, led, jobs,
      ⟨x.kpr.fuses, flash, boot, sec, upd, pwr, clk, ds, pins, pauseUntil, forwarded, x.kpr.stepping⟩⟩ :=
  h.trans ⟨rfl, rfl, rfl, fusesRise_refl _, by
    simp only [memoriesWf, Bool.and_eq_true]
    exact fun m => ⟨⟨⟨a m.1.1.1, b m.1.1.2⟩, c m.1.2⟩, d m.2⟩⟩

theorem wicksWf_tput {ws : Tbl Wick} {k : Nat} {w : Wick} (h : wicksWf ws = true) (hw : Mem.wf w.lmem = true) :
    wicksWf (tput ws k w) = true := by
  induction ws with
  | nil => simp [tput, wicksWf, hw]
  | cons e ws ih =>
    obtain ⟨j, v⟩ := e
    simp only [wicksWf, List.all_cons, Bool.and_eq_true] at h ih ⊢
    unfold tput
    split
    · simp only [List.all_cons, Bool.and_eq_true]; exact ⟨hw, h.1, h.2⟩
    · split
      · simp only [List.all_cons, Bool.and_eq_true]; exact ⟨hw, h.2⟩
      · simp only [List.all_cons, Bool.and_eq_true]; exact ⟨h.1, ih h.2⟩

theorem wicksWf_tget {ws : Tbl Wick} {d : Wick} (k : Nat) (h : wicksWf ws = true) (hd : Mem.wf d.lmem = true) :
    Mem.wf (tget d ws k).lmem = true := by
  induction ws with
  | nil => exact hd
  | cons e ws ih =>
    obtain ⟨j, v⟩ := e
    simp only [wicksWf, List.all_cons, Bool.and_eq_true] at h ih
    unfold tget
    split
    · exact h.1
    · exact ih h.2

theorem wicksWf_tmap {ws : Tbl Wick} {f : Nat → Wick → Wick} (hf : ∀ k w, (f k w).lmem = w.lmem) (h : wicksWf ws = true) :
    wicksWf (tmap f ws) = true := by
  induction ws with
  | nil => rfl
  | cons e ws ih =>
    obtain ⟨j, v⟩ := e
    simp only [wicksWf, tmap, List.all_cons, Bool.and_eq_true, hf] at h ih ⊢
    exact ⟨h.1, ih h.2⟩

theorem Kept.ite {s a b : State} {c : Prop} [Decidable c] (ha : c → Kept s a) (hb : ¬c → Kept s b) : Kept s (if c then a else b) := by
  split
  · rename_i h; exact ha h
  · rename_i h; exact hb h

theorem Kept.foldl {β : Type} {s i : State} {f : State → β → State} {l : List β} (hf : ∀ t x, Kept t (f t x)) (h : Kept s i) :
    Kept s (l.foldl f i) := by
  induction l generalizing i with
  | nil => exact h
  | cons x l ih => exact ih (h.trans (hf i x))

/-- A fold over a pair whose second half is the state. -/
theorem Kept.foldlSnd {α β : Type} {s : State} {i : α × State} {f : α × State → β → α × State} {l : List β}
    (hf : ∀ r x, Kept r.2 (f r x).2) (h : Kept s i.2) : Kept s (l.foldl f i).2 := by
  induction l generalizing i with
  | nil => exact h
  | cons x l ih => exact ih (h.trans (hf i x))

theorem Kept.iterN {s i : State} {f : Nat → State → State} {n k : Nat} (hf : ∀ j t, Kept t (f j t)) (h : Kept s i) :
    Kept s (iterN f n k i) := by
  induction n generalizing i k with
  | zero => exact h
  | succ n ih => exact ih (h.trans (hf k i))

theorem Kept.snd {α : Type} {s t : State} {p : α × State} {r : α} (e : p = (r, t)) (h : Kept s p.2) : Kept s t := by
  subst e
  exact h

/-! ### Computations that can fail -/

/-- A computation keeps what every command keeps, whether it ends or fails. -/
def KM {α : Type} (m : M α) : Prop := ∀ s, Kept s (m.go s).2

theorem Kept.go {α : Type} {m : M α} {s t : State} {r : Except Fail α} (e : m.go s = (r, t)) (h : KM m) : Kept s t := Kept.snd e (h s)

theorem KM.pure {α : Type} (a : α) : KM (pure a : M α) := fun s => Kept.refl s
theorem KM.get : KM (get : M State) := fun s => Kept.refl s
theorem KM.throw {α : Type} (f : Fail) : KM (throw f : M α) := fun s => Kept.refl s
theorem KM.modify {f : State → State} (h : ∀ s, Kept s (f s)) : KM (modify f : M PUnit) := h
theorem KM.set {f : State} (h : ∀ s, Kept s f) : KM (set f : M PUnit) := h

theorem KM.bind {α β : Type} {m : M α} {k : α → M β} (hm : KM m) (hk : ∀ a, KM (k a)) : KM (m >>= k) := by
  intro s
  have h1 := hm s
  have e : (m >>= k).go s = match m.go s with
      | (.ok a, t) => (k a).go t
      | (.error f, t) => (.error f, t) := by
    simp only [M.go, ExceptT.run_bind, StateT.run_bind]
    cases m.run.run s with
    | mk r t => cases r <;> rfl
  rw [e]
  cases h : m.go s with
  | mk r t =>
    rw [h] at h1
    cases r with
    | ok a => exact h1.trans (hk a t)
    | error f => exact h1

/-- A computation that takes the state, puts a later one in its place and goes on. -/
theorem km_update {α : Type} {f : State → State} {k : State → PUnit → M α} (hf : ∀ s, Kept s (f s)) (hk : ∀ s u, KM (k s u)) :
    KM (do let s ← get; let u ← (set (f s) : M PUnit); k s u) := fun s => (hf s).trans (hk s ⟨⟩ (f s))

theorem KM.seqRight {α β : Type} {m : M α} {k : M β} (hm : KM m) (hk : KM k) : KM (do let _ ← m; k) := KM.bind hm fun _ => hk

theorem KM.ite {α : Type} {a b : M α} {c : Prop} [Decidable c] (ha : c → KM a) (hb : ¬c → KM b) : KM (if c then a else b) := by
  split
  · rename_i h; exact ha h
  · rename_i h; exact hb h

theorem KM.map {α β : Type} {m : M α} (f : α → β) (hm : KM m) : KM (f <$> m) := by
  have := KM.bind (k := fun a => (Pure.pure (f a) : M β)) hm fun a => KM.pure (f a)
  exact this

theorem KM.guarded {α : Type} {m : M α} {k : Fail → M α} (hm : KM m) (hk : ∀ f, KM (k f)) : KM (tryCatch m k) := by
  intro s
  have h1 := hm s
  have e : (tryCatch m k).go s = match m.go s with
      | (Except.ok a, t) => (Except.ok a, t)
      | (Except.error f, t) => (k f).go t := by
    simp only [M.go, tryCatch, tryCatchThe, MonadExceptOf.tryCatch, ExceptT.tryCatch]
    change StateT.run (m.run >>= _) s = _
    rw [StateT.run_bind]
    cases m.run.run s with
    | mk r t => cases r <;> rfl
  rw [e]
  cases h : m.go s with
  | mk r t =>
    rw [h] at h1
    cases r with
    | ok a => exact h1
    | error f => exact h1.trans (hk f t)

theorem KM.forM {α : Type} {l : List α} {f : α → M PUnit} (h : ∀ x, KM (f x)) : KM (l.forM f) := by
  induction l with
  | nil => exact KM.pure _
  | cons x l ih => exact KM.bind (h x) fun _ => ih

theorem KM.mapM {α β : Type} {l : List α} {f : α → M β} (h : ∀ x, KM (f x)) : KM (l.mapM f) := by
  induction l with
  | nil => rw [List.mapM_nil]; exact KM.pure _
  | cons x l ih =>
    rw [List.mapM_cons]
    exact KM.bind (h x) fun _ => KM.bind ih fun _ => KM.pure _

theorem KM.foldlM {α β : Type} {l : List α} {f : β → α → M β} {b : β} (h : ∀ y x, KM (f y x)) : KM (l.foldlM f b) := by
  induction l generalizing b with
  | nil => exact KM.pure _
  | cons x l ih => exact KM.bind (h b x) fun _ => ih

/-- A pair put back with the local memory of one in the table. -/
theorem Kept.wicks {s : State} {ws : Tbl Wick} (h : wicksWf s.wicks = true → wicksWf ws = true) : Kept s { s with wicks := ws } :=
  ⟨rfl, rfl, rfl, fusesRise_refl _, by
    simp only [memoriesWf, Bool.and_eq_true]
    exact fun m => ⟨m.1, h m.2⟩⟩

end Sys2Proof.Machine
end

