-- ==== Sys2Proof/Laws/KeptOps.lean ====
section
/-! SUPPORT. What every command keeps (Safety.Kept), carried through the operations on memory and registers, flags, issue and control descriptors: one lemma per operation. -/

namespace Sys2Proof.Machine

/-! ### Ops -/

theorem emit_kept (a0) (s : State) : Kept s (emit a0 s) := by
  unfold emit
  refine Kept.upd ?_ ..
  exact Kept.refl _

theorem report_kept (a0) (a1) (s : State) : Kept s (report a0 a1 s) := by
  unfold report
  exact emit_kept ..

theorem bumpFree_kept (s : State) : Kept s (bumpFree s) := by
  unfold bumpFree
  refine Kept.upd ?_ ..
  exact Kept.refl _

theorem regPut_kept (a0) (a1) (s : State) : Kept s (regPut a0 a1 s) := by
  unfold regPut
  refine Kept.upd ?_ ..
  exact Kept.refl _

theorem regCount_kept (a0) (s : State) : Kept s (regCount a0 s) := by
  unfold regCount
  exact regPut_kept ..

theorem regAdd64_kept (a0) (a1) (s : State) : Kept s (regAdd64 a0 a1 s) := by
  unfold regAdd64
  dsimp only
  refine Kept.trans ?_ (regPut_kept ..)
  exact regPut_kept ..

theorem regPut64_kept (a0) (a1) (s : State) : Kept s (regPut64 a0 a1 s) := by
  unfold regPut64
  refine Kept.trans ?_ (regPut_kept ..)
  exact regPut_kept ..

theorem afterSummary_kept (a0) (a1) (s : State) : Kept s (afterSummary a0 a1 s) := by
  unfold afterSummary
  refine Kept.ite (fun _ => ?_) fun _ => ?_
  · exact emit_kept ..
  · exact Kept.refl _

theorem setEvent_kept (a0) (a1) (a2) (a3) (a4) (s : State) : Kept s (setEvent a0 a1 a2 a3 a4 s) := by
  unfold setEvent
  dsimp only
  refine Kept.trans ?_ (afterSummary_kept ..)
  refine Kept.trans ?_ (regPut_kept ..)
  refine Kept.ite (fun _ => ?_) fun _ => ?_
  · refine Kept.trans ?_ (regPut_kept ..)
    refine Kept.trans ?_ (regPut_kept ..)
    exact regPut_kept ..
  · exact Kept.refl _

theorem raise_kept (a0) (a1) (a2) (a3) (a4) (a5) (s : State) : Kept s (raise a0 a1 a2 a3 a4 a5 s) := by
  unfold raise
  refine Kept.trans ?_ (setEvent_kept ..)
  exact report_kept ..

theorem conflict_kept (a0) (a1) (s : State) : Kept s (conflict a0 a1 s) := by
  unfold conflict
  exact raise_kept ..

theorem hostWrite_kept (p a) {act : State → State} (h : ∀ t, Kept t (act t)) (s : State) : Kept s (hostWrite p a act s) := by
  unfold hostWrite
  split
  · exact Kept.refl _
  · split
    · exact conflict_kept ..
    · exact h _

theorem chk_kept (a0) (a1) (s : State) : Kept s (chk a0 a1 s) := by
  unfold chk
  dsimp only
  refine Kept.upd ?_ ..
  exact Kept.refl _

theorem chkFail_kept (a0) (s : State) : Kept s (chkFail a0 s) := by
  unfold chkFail
  refine Kept.upd ?_ ..
  exact Kept.refl _

theorem chkEcc_kept (a0) (s : State) : Kept s (chkEcc a0 s) := by
  unfold chkEcc
  dsimp only
  refine Kept.upd ?_ ..
  exact Kept.refl _

theorem assertFog_kept (a0) (s : State) : Kept s (assertFog a0 s) := by
  unfold assertFog
  dsimp only
  refine Kept.ite (fun _ => ?_) fun _ => ?_
  · exact Kept.refl _
  · refine Kept.trans ?_ (emit_kept ..)
    refine Kept.trans ?_ (emit_kept ..)
    exact regPut_kept ..

theorem releaseFog_kept (s : State) : Kept s (releaseFog s) := by
  unfold releaseFog
  dsimp only
  refine Kept.ite (fun _ => ?_) fun _ => ?_
  · refine Kept.trans ?_ (emit_kept ..)
    exact regPut_kept ..
  · exact Kept.refl _

theorem detect_kept (a0) (a1) (a2) (s : State) : Kept s (detect a0 a1 a2 s) := by
  unfold detect
  refine Kept.upd ?_ ..
  exact Kept.refl _

theorem putEng_kept (a0) (a1) (s : State) : Kept s (putEng a0 a1 s) := by
  unfold putEng
  refine Kept.upd ?_ ..
  exact Kept.refl _

theorem putStn_kept (a0) (a1) (s : State) : Kept s (putStn a0 a1 s) := by
  unfold putStn
  refine Kept.upd ?_ ..
  exact Kept.refl _

theorem putLan_kept (a0) (a1) (a2) (s : State) : Kept s (putLan a0 a1 a2 s) := by
  unfold putLan
  refine Kept.upd ?_ ..
  exact Kept.refl _

theorem wickOf_wf {s : State} (n p) (h : memoriesWf s = true) : Mem.wf (wickOf s n p).lmem = true := by
  simp only [memoriesWf, Bool.and_eq_true] at h
  exact wicksWf_tget _ h.2 rfl

theorem Kept.wick {s x : State} (h : Kept s x) (n p) : memoriesWf s = true → Mem.wf (wickOf x n p).lmem = true :=
  fun m => wickOf_wf n p (h.memories m)

theorem putWick_kept {s x : State} (n p) {w : Wick} (h : Kept s x) (hw : memoriesWf s = true → Mem.wf w.lmem = true) :
    Kept s (putWick n p w x) := by
  refine ⟨h.pending, h.identity, h.stepping, h.fuses, fun m => ?_⟩
  have hx := h.memories m
  simp only [memoriesWf, Bool.and_eq_true] at hx
  simp only [putWick, memoriesWf, Bool.and_eq_true]
  exact ⟨hx.1, wicksWf_tput hx.2 (hw m)⟩

theorem putDramSt_kept (a0) (a1) (s : State) : Kept s (putDramSt a0 a1 s) := by
  unfold putDramSt
  dsimp only
  refine Kept.updKpr ?_ ..
  exact Kept.refl _

theorem putBank_kept (a0) (a1) (s : State) : Kept s (putBank a0 a1 s) := by
  unfold putBank
  refine Kept.upd ?_ ..
  exact Kept.refl _

theorem putMoor_kept (a0) (a1) (s : State) : Kept s (putMoor a0 a1 s) := by
  unfold putMoor
  refine Kept.upd ?_ ..
  exact Kept.refl _

theorem raiseEng_kept (a0) (a1) (a2) (a3) (a4) (s : State) : Kept s (raiseEng a0 a1 a2 a3 a4 s) := by
  unfold raiseEng
  (split <;> try dsimp only)
  · refine Kept.trans ?_ (raise_kept ..)
    refine Kept.ite (fun _ => ?_) fun _ => ?_
    · refine Kept.trans ?_ (regPut64_kept ..)
      exact regPut64_kept ..
    · exact Kept.refl _
  · exact report_kept ..

theorem failM_kept {α : Type} (a0) (a1) (a2) (a3) : KM (failM a0 a1 a2 a3 : M α) := KM.throw _

theorem sramCorrected_kept (a0) (a1) (s : State) : Kept s (sramCorrected a0 a1 s) := by
  unfold sramCorrected
  dsimp only
  refine Kept.ite (fun _ => ?_) fun _ => ?_
  · refine Kept.trans ?_ (bumpFree_kept ..)
    refine Kept.trans ?_ (raise_kept ..)
    refine Kept.trans ?_ (chkEcc_kept ..)
    refine Kept.trans ?_ (regCount_kept ..)
    exact putStn_kept ..
  · refine Kept.trans ?_ (chkEcc_kept ..)
    refine Kept.trans ?_ (regCount_kept ..)
    exact putStn_kept ..

theorem sramWord_kept (a0) (a1) (s : State) : Kept s (sramWord a0 a1 s).2 := by
  unfold sramWord
  dsimp only
  (split <;> try dsimp only)
  · exact Kept.refl _
  · (split <;> try dsimp only)
    · refine Kept.trans ?_ (sramCorrected_kept ..)
      refine Kept.upd ?_ ..
      exact Kept.refl _
    · refine Kept.trans ?_ (bumpFree_kept ..)
      refine Kept.trans ?_ (raise_kept ..)
      refine Kept.trans ?_ (regCount_kept ..)
      exact chkEcc_kept ..

theorem dramCorrected_kept (a0) (a1) (a2) (s : State) : Kept s (dramCorrected a0 a1 a2 s) := by
  unfold dramCorrected
  dsimp only
  refine Kept.ite (fun _ => ?_) fun _ => ?_
  · refine Kept.trans ?_ (raise_kept ..)
    refine Kept.trans ?_ (regPut_kept ..)
    refine Kept.trans ?_ (regCount_kept ..)
    refine Kept.upd ?_ ..
    exact chkEcc_kept ..
  · refine Kept.trans ?_ (regCount_kept ..)
    refine Kept.upd ?_ ..
    exact chkEcc_kept ..

theorem awaitPatrol_kept (a0) (s : State) : Kept s (awaitPatrol a0 s) := by
  unfold awaitPatrol
  dsimp only
  exact putDramSt_kept ..

theorem dramWord_kept (a0) (a1) (s : State) : Kept s (dramWord a0 a1 s).2 := by
  unfold dramWord
  dsimp only
  (split <;> try dsimp only)
  · exact Kept.refl _
  · refine Kept.trans ?_ (dramCorrected_kept ..)
    refine Kept.ite (fun _ => ?_) fun _ => ?_
    · exact awaitPatrol_kept ..
    · exact Kept.refl _
  · refine Kept.trans ?_ (raise_kept ..)
    exact chkEcc_kept ..

theorem noSource_kept (a0) (a1) (s : State) : Kept s (noSource a0 a1 s) := by
  unfold noSource
  refine Kept.ite (fun _ => ?_) fun _ => ?_
  · dsimp only
    refine Kept.trans ?_ (raise_kept ..)
    split
    · exact putMoor_kept ..
    · exact Kept.refl _
  · exact raise_kept ..

theorem sramCheck_kept (a0 a1) : KM (sramCheck a0 a1) := by
  induction a0 generalizing a1 with
  | zero => exact KM.pure _
  | succ n ih =>
    unfold sramCheck
    refine km_update (fun _ => sramWord_kept ..) fun _ _ => ?_
    split
    · exact ih _
    · exact failM_kept _ _ _ _

theorem dramCheck_kept (a0 a1) : KM (dramCheck a0 a1) := by
  induction a0 generalizing a1 with
  | zero => exact KM.pure _
  | succ n ih =>
    unfold dramCheck
    refine km_update (fun _ => dramWord_kept ..) fun _ _ => ?_
    split
    · exact ih _
    · exact failM_kept _ _ _ _

theorem readMem_kept (a0) (a1) (a2) : KM (readMem a0 a1 a2) := by
  unfold readMem
  refine KM.ite (fun _ => ?_) fun _ => ?_
  · exact KM.pure _
  · refine KM.ite (fun _ => ?_) fun _ => ?_
    · refine KM.bind ?_ fun _ => ?_
      · exact dramCheck_kept _ _
      · refine KM.bind ?_ fun _ => ?_
        · exact KM.get
        · exact KM.pure _
    · refine KM.bind ?_ fun _ => ?_
      · exact sramCheck_kept _ _
      · refine KM.bind ?_ fun _ => ?_
        · exact KM.get
        · exact KM.pure _

theorem mergeCheck_kept (a0) (a1) : KM (mergeCheck a0 a1) := by
  unfold mergeCheck
  dsimp only
  refine KM.ite (fun _ => ?_) fun _ => ?_
  · refine KM.ite (fun _ => ?_) fun _ => ?_
    · exact KM.pure _
    · exact sramCheck_kept _ _
  · refine KM.bind ?_ fun _ => ?_
    · exact sramCheck_kept _ _
    · refine KM.ite (fun _ => ?_) fun _ => ?_
      · exact KM.pure _
      · exact sramCheck_kept _ _

theorem dropWritebacks_kept (a0) (a1) (s : State) : Kept s (dropWritebacks a0 a1 s) := by
  unfold dropWritebacks
  dsimp only
  refine Kept.ite (fun _ => ?_) fun _ => ?_
  · exact Kept.refl _
  · exact putStn_kept ..

theorem pokeMem_kept (a0 a1) (a2) (s : State) : Kept s (pokeMem a0 a1 a2 s) := by
  unfold pokeMem
  split
  · exact Kept.updMem (Kept.refl s) _ _ _ _ _ _ _ _ _ _ _ _ _ _ _ _ _ _ _ _ _ _ _ _ _ _ _ _ _ _ _ _ _ _ _ _ id (wrN_wf _ _) id id
  · refine Kept.trans ?_ (dropWritebacks_kept ..)
    exact Kept.updMem (Kept.refl s) _ _ _ _ _ _ _ _ _ _ _ _ _ _ _ _ _ _ _ _ _ _ _ _ _ _ _ _ _ _ _ _ _ _ _ _ (wrN_wf _ _) id id id

theorem writeMem_kept (a0) (a1) (a2) : KM (writeMem a0 a1 a2) := by
  unfold writeMem
  refine KM.ite (fun _ => ?_) fun _ => ?_
  · exact KM.pure _
  · dsimp only
    refine KM.ite (fun _ => ?_) fun _ => ?_
    · refine KM.modify fun _ => ?_
      exact pokeMem_kept ..
    · refine KM.bind ?_ fun _ => ?_
      · exact mergeCheck_kept _ _
      · refine KM.modify fun _ => ?_
        exact pokeMem_kept ..

theorem verifyTile_kept (a0) (a1) (a2) (a3) (a4) : KM (verifyTile a0 a1 a2 a3 a4) := by
  unfold verifyTile
  refine KM.bind ?_ fun _ => ?_
  · exact KM.get
  · split
    · exact KM.pure _
    · refine KM.bind ?_ fun _ => ?_
      · exact readMem_kept _ _ _
      · refine KM.bind ?_ fun _ => ?_
        · exact readMem_kept _ _ _
        · refine KM.bind ?_ fun _ => ?_
          · refine KM.modify fun _ => ?_
            exact chk_kept ..
          · refine KM.ite (fun _ => ?_) fun _ => ?_
            · exact KM.pure _
            · exact failM_kept _ _ _ _

theorem sealTile_kept (a0) (a1) (a2) (a3) (a4) : KM (sealTile a0 a1 a2 a3 a4) := by
  unfold sealTile
  refine KM.bind ?_ fun _ => ?_
  · exact KM.get
  · split
    · exact KM.pure _
    · refine KM.bind ?_ fun _ => ?_
      · exact readMem_kept _ _ _
      · dsimp only
        refine KM.bind ?_ fun _ => ?_
        · exact writeMem_kept _ _ _
        · exact KM.pure _

theorem strike_kept (a0) (s : State) : Kept s (strike a0 s) := by
  unfold strike
  split <;> try dsimp only
  · exact Kept.upd (Kept.refl s) ..
  · exact Kept.upd (Kept.refl s) ..
  · exact Kept.upd (Kept.refl s) ..
  · exact Kept.updMem (Kept.refl s) _ _ _ _ _ _ _ _ _ _ _ _ _ _ _ _ _ _ _ _ _ _ _ _ _ _ _ _ _ _ _ _ _ _ _ _ (wr_wf _ _) id id id
  · exact Kept.updMem (Kept.refl s) _ _ _ _ _ _ _ _ _ _ _ _ _ _ _ _ _ _ _ _ _ _ _ _ _ _ _ _ _ _ _ _ _ _ _ _ id (wr_wf _ _) id id
  · exact putStn_kept ..
  · exact Kept.refl s

theorem strikes_kept (a0) (s : State) : Kept s (strikes a0 s) := by
  unfold strikes
  refine Kept.foldl (fun _ _ => ?_) ?_
  · exact strike_kept ..
  · exact Kept.refl _

/-! ### Flags -/

theorem flagPut_kept (a0) (a1) (a2) (a3) (s : State) : Kept s (flagPut a0 a1 a2 a3 s) := by
  unfold flagPut
  refine Kept.ite (fun _ => ?_) fun _ => ?_
  · dsimp only
    exact putStn_kept ..
  · refine Kept.upd ?_ ..
    exact Kept.refl _

theorem waitTake_kept (a0) (a1) (s : State) : Kept s (waitTake a0 a1 s) := by
  unfold waitTake
  refine Kept.ite (fun _ => ?_) fun _ => ?_
  · exact Kept.refl _
  · exact flagPut_kept ..

theorem waitsTake_kept (a0) (a1) (s : State) : Kept s (waitsTake a0 a1 s) := by
  unfold waitsTake
  refine Kept.trans ?_ (waitTake_kept ..)
  exact waitTake_kept ..

theorem signalOne_kept (a0) (a1) (s : State) : Kept s (signalOne a0 a1 s).2 := by
  unfold signalOne
  split
  · dsimp only
    exact Kept.refl _
  · dsimp only
    split
    · dsimp only
      exact Kept.refl _
    · dsimp only
      exact flagPut_kept ..

theorem putSb_kept (a0) (a1) (s : State) : Kept s (putSb a0 a1 s) := by
  unfold putSb
  refine Kept.upd ?_ ..
  exact Kept.refl _

theorem sbTake_kept (a0) (s : State) : Kept s (sbTake a0 s) := by
  unfold sbTake
  dsimp only
  exact putSb_kept ..

theorem sbDone_kept (a0) (s : State) : Kept s (sbDone a0 s) := by
  unfold sbDone
  dsimp only
  exact putSb_kept ..

theorem sbDrop_kept (a0) (s : State) : Kept s (sbDrop a0 s) := by
  unfold sbDrop
  dsimp only
  exact putSb_kept ..

theorem putFifo_kept (a0) (a1) (a2) (s : State) : Kept s (putFifo a0 a1 a2 s) := by
  unfold putFifo
  dsimp only
  exact putStn_kept ..

theorem fifoPopped_kept (a0) (a1) (s : State) : Kept s (fifoPopped a0 a1 s) := by
  unfold fifoPopped
  dsimp only
  exact putFifo_kept ..

theorem fifoPushed_kept (a0) (a1) (s : State) : Kept s (fifoPushed a0 a1 s) := by
  unfold fifoPushed
  dsimp only
  exact putFifo_kept ..

theorem settlePause_kept (a0) (s : State) : Kept s (settlePause a0 s) := by
  unfold settlePause
  dsimp only
  refine Kept.ite (fun _ => ?_) fun _ => ?_
  · exact putStn_kept ..
  · (split <;> try dsimp only)
    · exact Kept.refl _
    · refine Kept.foldl (fun _ _ => ?_) ?_
      · exact putEng_kept ..
      · exact putStn_kept ..

/-! ### Issue -/

theorem breakCount_kept (a0) (a1) (s : State) : Kept s (breakCount a0 a1 s) := by
  unfold breakCount
  dsimp only
  refine Kept.foldl (fun _ _ => ?_) ?_
  · refine Kept.ite (fun _ => ?_) fun _ => ?_
    · exact regPut_kept ..
    · exact Kept.refl _
  · exact Kept.refl _

theorem stopAtBreak_kept (a0) (a1) (a2) (s : State) : Kept s (stopAtBreak a0 a1 a2 s) := by
  unfold stopAtBreak
  dsimp only
  refine Kept.trans ?_ (raise_kept ..)
  refine Kept.trans ?_ (settlePause_kept ..)
  refine Kept.ite (fun _ => ?_) fun _ => ?_
  · refine Kept.trans ?_ (putStn_kept ..)
    exact putEng_kept ..
  · exact putEng_kept ..

theorem setWaiting_kept (a0) (a1) (a2) (s : State) : Kept s (setWaiting a0 a1 a2 s) := by
  unfold setWaiting
  exact putEng_kept ..

theorem startWake_kept (a0) (s : State) : Kept s (startWake a0 s) := by
  unfold startWake
  refine Kept.ite (fun _ => ?_) fun _ => ?_
  · split
    · dsimp only
      refine Kept.ite (fun _ => ?_) fun _ => ?_
      · exact Kept.refl _
      · exact putLan_kept ..
    · exact Kept.refl _
  · refine Kept.ite (fun _ => ?_) fun _ => ?_
    · split
      · dsimp only
        refine Kept.ite (fun _ => ?_) fun _ => ?_
        · exact Kept.refl _
        · refine putWick_kept _ _ ?_ ?_
          · exact Kept.refl _
          · refine Kept.wick ?_ _ _
            exact Kept.refl _
      · exact Kept.refl _
    · exact Kept.refl _

theorem issueNow_kept (a0) (a1) (s : State) : Kept s (issueNow a0 a1 s) := by
  unfold issueNow
  dsimp only
  refine Kept.trans ?_ (putEng_kept ..)
  refine Kept.trans ?_ (breakCount_kept ..)
  refine Kept.foldl (fun _ _ => ?_) ?_
  · exact sbTake_kept ..
  · exact waitsTake_kept ..

/-- The state of an attempt to issue. -/
def Issue.state : Issue → State
  | .no t => t
  | .bad _ t => t
  | .ok _ t => t

theorem tryIssue_kept (a0 a1) {cls} (hc : ∀ l, KM (cls l)) (a4) (s : State) : Kept s (tryIssue a0 a1 cls a4 s).state := by
  unfold tryIssue
  try dsimp only
  repeat' (first
    | (with_reducible exact Kept.refl _)
    | (change Kept s s; exact Kept.refl _)
    | (change Kept s (setWaiting ..); exact setWaiting_kept ..)
    | (change Kept s (stopAtBreak ..); exact stopAtBreak_kept ..)
    | (change Kept s (startWake ..); exact startWake_kept ..)
    | (split <;> try dsimp only))
  · rename_i h; exact Kept.go h (hc _)
  · rename_i h; exact (Kept.go h (hc _)).trans (issueNow_kept ..)

theorem engFail_kept (a0) (a1) (a2) (a3) (s : State) : Kept s (engFail a0 a1 a2 a3 s) := by
  unfold engFail
  dsimp only
  refine Kept.trans ?_ (detect_kept ..)
  refine Kept.trans ?_ (putEng_kept ..)
  refine Kept.ite (fun _ => ?_) fun _ => ?_
  · refine Kept.trans ?_ (regCount_kept ..)
    refine Kept.ite (fun _ => ?_) fun _ => ?_
    · exact raiseEng_kept ..
    · refine Kept.trans ?_ (raiseEng_kept ..)
      exact raiseEng_kept ..
  · refine Kept.ite (fun _ => ?_) fun _ => ?_
    · refine Kept.trans ?_ (regCount_kept ..)
      refine Kept.ite (fun _ => ?_) fun _ => ?_
      · exact raiseEng_kept ..
      · refine Kept.trans ?_ (raiseEng_kept ..)
        exact raiseEng_kept ..
    · refine Kept.ite (fun _ => ?_) fun _ => ?_
      · exact raiseEng_kept ..
      · refine Kept.trans ?_ (raiseEng_kept ..)
        exact raiseEng_kept ..

theorem issueBad_kept (a0) (a1) (s : State) : Kept s (issueBad a0 a1 s) := by
  unfold issueBad
  dsimp only
  exact engFail_kept ..

theorem runBad_kept (a0) (a1) (a2) (s : State) : Kept s (runBad a0 a1 a2 s) := by
  unfold runBad
  exact engFail_kept ..

theorem setCur_kept (a0) (a1) (s : State) : Kept s (setCur a0 a1 s) := by
  unfold setCur
  exact putEng_kept ..

theorem finish_kept (a0) (a1) (s : State) : Kept s (finish a0 a1 s) := by
  unfold finish
  exact setCur_kept ..

theorem issueThen_kept (a0 a1) {cls} {run : Latched → State → State} (hc : ∀ l, KM (cls l)) (hr : ∀ l t, Kept t (run l t)) (a4)
    (s : State) : Kept s (issueThen a0 a1 cls run a4 s) := by
  unfold issueThen
  have h := tryIssue_kept a0 a1 hc a4 s
  cases e : tryIssue a0 a1 cls a4 s with
  | no t => rw [e] at h; exact h
  | bad f t => rw [e] at h; exact h.trans (issueBad_kept ..)
  | ok l t => rw [e] at h; exact h.trans (hr l t)

theorem noCheck_kept (a0) : KM (noCheck a0) := by
  unfold noCheck
  exact KM.pure _

/-! ### Control -/

theorem runNop_kept (a0) (a1) (s : State) : Kept s (runNop a0 a1 s) := by
  unfold runNop
  refine Kept.ite (fun _ => ?_) fun _ => ?_
  · exact finish_kept ..
  · refine Kept.trans ?_ (startWake_kept ..)
    exact setCur_kept ..

theorem execNop_kept (a0) {s t : State} (h : execNop a0 s = .next t) : Kept s t := by
  unfold execNop at h
  injection h with h
  subst h
  refine Kept.trans ?_ (issueThen_kept _ _ (fun _ => ?_) (fun _ _ => ?_) _ _)
  · exact Kept.refl _
  · exact noCheck_kept _
  · exact runNop_kept ..

theorem execHalt_kept (a0) {s t : State} (h : execHalt a0 s = .next t) : Kept s t := by
  unfold execHalt at h
  injection h with h
  subst h
  refine Kept.trans ?_ (issueThen_kept _ _ (fun _ => ?_) (fun _ _ => ?_) _ _)
  · exact Kept.refl _
  · exact noCheck_kept _
  · exact finish_kept ..

theorem jumpTo_kept (a0) (a1) (s : State) : Kept s (jumpTo a0 a1 s) := by
  unfold jumpTo
  exact putEng_kept ..

theorem runBranch_kept (a0) (a1) (s : State) : Kept s (runBranch a0 a1 s) := by
  unfold runBranch
  dsimp only
  refine Kept.ite (fun _ => ?_) fun _ => ?_
  · refine Kept.trans ?_ (jumpTo_kept ..)
    exact finish_kept ..
  · exact finish_kept ..

theorem execBranch_kept (a0) {s t : State} (h : execBranch a0 s = .next t) : Kept s t := by
  unfold execBranch at h
  injection h with h
  subst h
  refine Kept.trans ?_ (issueThen_kept _ _ (fun _ => ?_) (fun _ _ => ?_) _ _)
  · exact Kept.refl _
  · exact noCheck_kept _
  · exact runBranch_kept ..

theorem runLoopback_kept (a0) (a1) (s : State) : Kept s (runLoopback a0 a1 s) := by
  unfold runLoopback
  dsimp only
  refine Kept.ite (fun _ => ?_) fun _ => ?_
  · refine Kept.trans ?_ (jumpTo_kept ..)
    refine Kept.trans ?_ (finish_kept ..)
    exact putEng_kept ..
  · refine Kept.trans ?_ (finish_kept ..)
    exact putEng_kept ..

theorem execLoopback_kept (a0) {s t : State} (h : execLoopback a0 s = .next t) : Kept s t := by
  unfold execLoopback at h
  injection h with h
  subst h
  refine Kept.trans ?_ (issueThen_kept _ _ (fun _ => ?_) (fun _ _ => ?_) _ _)
  · exact Kept.refl _
  · exact noCheck_kept _
  · exact runLoopback_kept ..

theorem checkSetparam_kept (a0) (a1) : KM (checkSetparam a0 a1) := by
  unfold checkSetparam
  refine KM.bind ?_ fun _ => ?_
  · exact KM.get
  · dsimp only
    split
    · refine KM.ite (fun _ => ?_) fun _ => ?_
      · exact KM.pure _
      · exact failM_kept _ _ _ _
    · exact failM_kept _ _ _ _

theorem runSetparam_kept (a0) (a1) (s : State) : Kept s (runSetparam a0 a1 s) := by
  unfold runSetparam
  dsimp only
  refine Kept.trans ?_ (finish_kept ..)
  exact putEng_kept ..

theorem execSetparam_kept (a0) {s t : State} (h : execSetparam a0 s = .next t) : Kept s t := by
  unfold execSetparam at h
  injection h with h
  subst h
  refine Kept.trans ?_ (issueThen_kept _ _ (fun _ => ?_) (fun _ _ => ?_) _ _)
  · exact Kept.refl _
  · exact checkSetparam_kept _ _
  · exact runSetparam_kept ..

theorem runWaitWatch_kept (a0) (a1) (s : State) : Kept s (runWaitWatch a0 a1 s) := by
  unfold runWaitWatch
  dsimp only
  refine Kept.ite (fun _ => ?_) fun _ => ?_
  · exact finish_kept ..
  · refine Kept.trans ?_ (setWaiting_kept ..)
    exact setCur_kept ..

theorem execWaitWatch_kept (a0) {s t : State} (h : execWaitWatch a0 s = .next t) : Kept s t := by
  unfold execWaitWatch at h
  injection h with h
  subst h
  refine Kept.trans ?_ (issueThen_kept _ _ (fun _ => ?_) (fun _ _ => ?_) _ _)
  · exact Kept.refl _
  · exact noCheck_kept _
  · exact runWaitWatch_kept ..

theorem watchTo_kept (a0) (s : State) : Kept s (watchTo a0 s) := by
  unfold watchTo
  refine Kept.upd ?_ ..
  exact Kept.refl _

theorem waitReached_kept (a0) (a1) (s : State) : Kept s (waitReached a0 a1 s) := by
  unfold waitReached
  dsimp only
  refine Kept.trans ?_ (putEng_kept ..)
  refine Kept.trans ?_ (finish_kept ..)
  exact watchTo_kept ..

theorem execWaitWatchTarget_kept (a0) {s t : State} (h : execWaitWatchTarget a0 s = .next t) : Kept s t := by
  unfold execWaitWatchTarget at h
  injection h with h
  subst h
  split
  · exact waitReached_kept ..
  · exact Kept.refl _

theorem runStepEnd_kept (a0) (a1) (s : State) : Kept s (runStepEnd a0 a1 s) := by
  unfold runStepEnd
  exact putEng_kept ..

theorem execStepEnd_kept (a0) {s t : State} (h : execStepEnd a0 s = .next t) : Kept s t := by
  unfold execStepEnd at h
  injection h with h
  subst h
  refine Kept.trans ?_ (issueThen_kept _ _ (fun _ => ?_) (fun _ _ => ?_) _ _)
  · exact Kept.refl _
  · exact noCheck_kept _
  · exact runStepEnd_kept ..

theorem runFork_kept (a0) (a1) (s : State) : Kept s (runFork a0 a1 s) := by
  unfold runFork
  dsimp only
  refine Kept.trans ?_ (putEng_kept ..)
  refine Kept.upd ?_ ..
  exact Kept.refl _

theorem execFork_kept (a0) {s t : State} (h : execFork a0 s = .next t) : Kept s t := by
  unfold execFork at h
  injection h with h
  subst h
  refine Kept.trans ?_ (issueThen_kept _ _ (fun _ => ?_) (fun _ _ => ?_) _ _)
  · exact Kept.refl _
  · exact noCheck_kept _
  · exact runFork_kept ..

theorem strikeStore_kept (a0) (a1) (s : State) : Kept s (strikeStore a0 a1 s) := by
  unfold strikeStore
  refine Kept.ite (fun _ => ?_) fun _ => ?_
  · refine Kept.upd ?_ ..
    exact Kept.refl _
  · exact Kept.refl _

theorem fetchDesc_kept (a0) (a1) (s : State) : Kept s (fetchDesc a0 a1 s) := by
  unfold fetchDesc
  dsimp only
  refine Kept.ite (fun _ => ?_) fun _ => ?_
  · refine Kept.trans ?_ (detect_kept ..)
    refine Kept.trans ?_ (report_kept ..)
    exact strikeStore_kept ..
  · refine Kept.trans ?_ (putEng_kept ..)
    exact strikeStore_kept ..

theorem execDescriptorFetch_kept (a0) (a1) {s t : State} (h : execDescriptorFetch a0 a1 s = .next t) : Kept s t := by
  unfold execDescriptorFetch at h
  injection h with h
  subst h
  refine Kept.ite (fun _ => ?_) fun _ => ?_
  · exact fetchDesc_kept ..
  · exact Kept.refl _

end Sys2Proof.Machine
end

