-- ==== Sys2Proof/Laws/KeptCompute.lean ====
section
/-! SUPPORT. What every command keeps (Safety.Kept), carried through operands, Lantern, Wick memory and Tender descriptors: one lemma per operation. -/

namespace Sys2Proof.Machine

/-! ### Xfer -/

theorem opnd_kept (s : State) (a1) (a2) (a3) (a4) : KM (opnd s a1 a2 a3 a4) := by
  unfold opnd
  split
  · exact failM_kept _ _ _ _
  · dsimp only
    exact KM.pure _

theorem auxOpnd_kept (s : State) (a1) (a2) : KM (auxOpnd s a1 a2) := by
  unfold auxOpnd
  split
  · exact failM_kept _ _ _ _
  · exact KM.pure _

theorem verifyRange_kept (a0) (a1) (a2) (a3) (a4) : KM (verifyRange a0 a1 a2 a3 a4) := by
  unfold verifyRange
  refine KM.forM fun _ => ?_
  exact verifyTile_kept _ _ _ _ _

theorem logLead_kept (a0) (a1) (s : State) : Kept s (logLead a0 a1 s) := by
  unfold logLead
  refine Kept.upd ?_ ..
  exact Kept.refl _

theorem sealOne_kept (a0) (a1) (a2) (a3) : KM (sealOne a0 a1 a2 a3) := by
  unfold sealOne
  refine KM.bind ?_ fun _ => ?_
  · exact sealTile_kept _ _ _ _ _
  · split
    · exact KM.pure _
    · refine KM.modify fun _ => ?_
      exact logLead_kept ..

theorem sealAll_kept (a0) (a1) (a2) (a3) : KM (sealAll a0 a1 a2 a3) := by
  unfold sealAll
  refine KM.forM fun _ => ?_
  exact sealOne_kept _ _ _ _

theorem readBits_kept (a0) (a1) (a2) (a3) (a4) : KM (readBits a0 a1 a2 a3 a4) := by
  unfold readBits
  dsimp only
  refine KM.bind ?_ fun _ => ?_
  · exact verifyRange_kept _ _ _ _ _
  · refine KM.bind ?_ fun _ => ?_
    · exact readMem_kept _ _ _
    · exact KM.pure _

theorem writeBits_kept (a0) (a1) (a2) (a3) : KM (writeBits a0 a1 a2 a3) := by
  unfold writeBits
  dsimp only
  refine KM.ite (fun _ => ?_) fun _ => ?_
  · exact KM.pure _
  · refine KM.ite (fun _ => ?_) fun _ => ?_
    · refine KM.bind ?_ fun _ => ?_
      · exact writeMem_kept _ _ _
      · exact KM.pure _
    · refine KM.bind ?_ fun _ => ?_
      · exact readMem_kept _ _ _
      · refine KM.bind ?_ fun _ => ?_
        · exact writeMem_kept _ _ _
        · exact KM.pure _

theorem moveEntries_kept (a0) (a1) (s : State) : Kept s (moveEntries a0 a1 s) := by
  unfold moveEntries
  dsimp only
  refine Kept.ite (fun _ => ?_) fun _ => ?_
  · refine Kept.trans ?_ (fifoPushed_kept ..)
    refine Kept.foldl (fun _ _ => ?_) ?_
    · exact fifoPopped_kept ..
    · exact Kept.refl _
  · refine Kept.foldl (fun _ _ => ?_) ?_
    · exact fifoPopped_kept ..
    · exact Kept.refl _

theorem runSegs_kept {body} (hb : ∀ l, KM (body l)) (g n l) (s : State) : Kept s (runSegs body g n l s) := by
  induction n generalizing l s with
  | zero => exact finish_kept ..
  | succ n ih =>
    unfold runSegs
    dsimp only
    split
    · refine Kept.trans ?_ (setWaiting_kept ..)
      exact setCur_kept ..
    · split
      · rename_i h; exact (Kept.go h (hb _)).trans (runBad_kept ..)
      · rename_i h
        refine Kept.trans ?_ (ih ..)
        exact (Kept.go h (hb _)).trans (moveEntries_kept ..)

theorem runFrom_kept {body} (hb : ∀ l, KM (body l)) (g l) (s : State) : Kept s (runFrom body g l s) := runSegs_kept hb ..

theorem galleryGate_kept (a0) : KM (galleryGate a0) := by
  unfold galleryGate
  split
  · exact KM.pure _
  · refine KM.bind ?_ fun _ => ?_
    · refine KM.modify fun _ => ?_
      dsimp only
      exact putStn_kept ..
    · exact failM_kept _ _ _ _

/-! ### Lantern -/

theorem putSet_kept (a0) (a1) (s : State) : Kept s (putSet a0 a1 s) := by
  unfold putSet
  split
  · exact putLan_kept ..
  · exact Kept.refl _

theorem headerOk_kept (a0) (a1) (a2) : KM (headerOk a0 a1 a2) := by
  unfold headerOk
  refine KM.bind ?_ fun _ => ?_
  · exact KM.get
  · split
    · split
      · refine KM.bind ?_ fun _ => ?_
        · exact readMem_kept _ _ _
        · dsimp only
          exact KM.pure _
      · exact KM.pure _
    · exact KM.pure _

theorem checkLan_kept (a0) (a1) : KM (checkLan a0 a1) := by
  unfold checkLan
  refine KM.bind ?_ fun _ => ?_
  · exact KM.get
  · dsimp only
    refine KM.ite (fun _ => ?_) fun _ => ?_
    · exact failM_kept _ _ _ _
    · refine KM.ite (fun _ => ?_) fun _ => ?_
      · exact failM_kept _ _ _ _
      · refine KM.ite (fun _ => ?_) fun _ => ?_
        · exact KM.pure _
        · refine KM.bind ?_ fun _ => ?_
          · exact headerOk_kept _ _ _
          · refine KM.ite (fun _ => ?_) fun _ => ?_
            · exact failM_kept _ _ _ _
            · refine KM.ite (fun _ => ?_) fun _ => ?_
              · exact failM_kept _ _ _ _
              · exact KM.pure _

theorem rawBits_kept (a0) (a1) (a2) : KM (rawBits a0 a1 a2) := by
  unfold rawBits
  refine KM.bind ?_ fun _ => ?_
  · exact readMem_kept _ _ _
  · exact KM.pure _

theorem lanElem_kept (a0) (a1) (a2) : KM (lanElem a0 a1 a2) := by
  unfold lanElem
  refine KM.ite (fun _ => ?_) fun _ => ?_
  · exact KM.pure _
  · refine KM.bind ?_ fun _ => ?_
    · exact rawBits_kept _ _ _
    · refine KM.ite (fun _ => ?_) fun _ => ?_
      · refine KM.bind ?_ fun _ => ?_
        · exact rawBits_kept _ _ _
        · exact KM.pure _
      · refine KM.ite (fun _ => ?_) fun _ => ?_
        · refine KM.bind ?_ fun _ => ?_
          · exact rawBits_kept _ _ _
          · exact KM.pure _
        · exact KM.pure _

theorem withAux_kept (a0) (a1) : KM (withAux a0 a1) := by
  unfold withAux
  refine KM.ite (fun _ => ?_) fun _ => ?_
  · refine KM.bind ?_ fun _ => ?_
    · exact KM.get
    · exact auxOpnd_kept _ _ _
  · exact KM.pure _

theorem weightAt_kept (a0) (a1) (a2) (a3) : KM (weightAt a0 a1 a2 a3) := by
  unfold weightAt
  refine KM.bind ?_ fun _ => ?_
  · exact KM.get
  · split
    · exact KM.pure _
    · refine KM.bind ?_ fun _ => ?_
      · exact readMem_kept _ _ _
      · dsimp only
        refine KM.ite (fun _ => ?_) fun _ => ?_
        · exact KM.pure _
        · refine KM.bind ?_ fun _ => ?_
          · exact readMem_kept _ _ _
          · exact KM.pure _

theorem addBlocks_kept (a0) (a1) (a2) (a3) (a4) (a5) (a6) (a7) (a8) : KM (addBlocks a0 a1 a2 a3 a4 a5 a6 a7 a8) := by
  unfold addBlocks
  refine KM.bind ?_ fun _ => ?_
  · refine KM.mapM fun _ => ?_
    refine KM.mapM fun _ => ?_
    exact lanElem_kept _ _ _
  · refine KM.bind ?_ fun _ => ?_
    · refine KM.mapM fun _ => ?_
      refine KM.mapM fun _ => ?_
      exact lanElem_kept _ _ _
    · dsimp only
      refine KM.bind ?_ fun _ => ?_
      · refine KM.mapM fun _ => ?_
        refine KM.mapM fun _ => ?_
        exact weightAt_kept _ _ _ _
      · exact KM.pure _

theorem addBias_kept (a0) (a1) (a2) : KM (addBias a0 a1 a2) := by
  unfold addBias
  refine KM.bind ?_ fun _ => ?_
  · refine KM.mapM fun _ => ?_
    exact lanElem_kept _ _ _
  · dsimp only
    exact KM.pure _

theorem captureLR_kept (a0) (a1) (a2) (s : State) : Kept s (captureLR a0 a1 a2 s) := by
  unfold captureLR
  dsimp only
  refine Kept.ite (fun _ => ?_) fun _ => ?_
  · refine Kept.trans ?_ (regPut64_kept ..)
    exact regPut64_kept ..
  · exact Kept.refl _

theorem captureTallies_kept (a0) (a1) (a2) (s : State) : Kept s (captureTallies a0 a1 a2 s) := by
  unfold captureTallies
  (split <;> try dsimp only)
  · exact Kept.refl _
  · exact captureLR_kept ..

theorem touchTile_kept (a0) (a1) : KM (touchTile a0 a1) := by
  unfold touchTile
  refine KM.ite (fun _ => ?_) fun _ => ?_
  · exact dramCheck_kept _ _
  · exact sramCheck_kept _ _

theorem fetchTile_kept (a0) (a1) (a2) : KM (fetchTile a0 a1 a2) := by
  unfold fetchTile
  refine KM.bind ?_ fun _ => ?_
  · exact touchTile_kept _ _
  · refine KM.guarded ?_ fun _ => ?_
    · exact verifyTile_kept _ _ _ _ _
    · dsimp only
      refine KM.ite (fun _ => ?_) fun _ => ?_
      · refine KM.bind ?_ fun _ => ?_
        · refine KM.modify fun _ => ?_
          exact captureTallies_kept ..
        · exact KM.throw _
      · exact KM.throw _

theorem fetchTiles_kept (a0) (a1) (a2) : KM (fetchTiles a0 a1 a2) := by
  unfold fetchTiles
  refine KM.forM fun _ => ?_
  exact fetchTile_kept _ _ _

theorem fetchOperand_kept (a0) (a1) (a2) (a3) : KM (fetchOperand a0 a1 a2 a3) := by
  unfold fetchOperand
  refine KM.bind ?_ fun _ => ?_
  · exact fetchTiles_kept _ _ _
  · dsimp only
    refine KM.ite (fun _ => ?_) fun _ => ?_
    · exact fetchTiles_kept _ _ _
    · refine KM.ite (fun _ => ?_) fun _ => ?_
      · exact fetchTiles_kept _ _ _
      · exact KM.pure _

theorem fetchVector_kept (a0) (a1) (a2) (a3) : KM (fetchVector a0 a1 a2 a3) := by
  unfold fetchVector
  refine KM.bind ?_ fun _ => ?_
  · exact KM.get
  · (split <;> try dsimp only)
    · exact KM.pure _
    · refine KM.bind ?_ fun _ => ?_
      · exact readMem_kept _ _ _
      · refine KM.forM fun _ => ?_
        exact touchTile_kept _ _

theorem checkRow_kept (a0) (a1) (a2) (a3) : KM (checkRow a0 a1 a2 a3) := by
  unfold checkRow
  refine KM.forM fun _ => ?_
  refine KM.bind ?_ fun _ => ?_
  · refine KM.modify fun _ => ?_
    exact regAdd64_kept ..
  · dsimp only
    refine KM.bind ?_ fun _ => ?_
    · refine KM.modify fun _ => ?_
      exact chk_kept ..
    · refine KM.ite (fun _ => ?_) fun _ => ?_
      · exact KM.pure _
      · refine KM.bind ?_ fun _ => ?_
        · refine KM.modify fun _ => ?_
          exact captureLR_kept ..
        · exact failM_kept _ _ _ _

theorem writeRow_kept (a0) (a1) (a2) (a3) (a4) : KM (writeRow a0 a1 a2 a3 a4) := by
  unfold writeRow
  dsimp only
  refine KM.ite (fun _ => ?_) fun _ => ?_
  · refine KM.bind ?_ fun _ => ?_
    · exact writeBits_kept _ _ _ _
    · refine KM.bind ?_ fun _ => ?_
      · exact writeBits_kept _ _ _ _
      · exact KM.pure _
  · refine KM.bind ?_ fun _ => ?_
    · exact writeBits_kept _ _ _ _
    · exact KM.pure _

theorem outRow_kept (a0) (a1) (a2) (a3) (a4) (a5) (a6) (a7) (a8) : KM (outRow a0 a1 a2 a3 a4 a5 a6 a7 a8) := by
  unfold outRow
  refine KM.bind ?_ fun _ => ?_
  · exact checkRow_kept _ _ _ _
  · refine KM.ite (fun _ => ?_) fun _ => ?_
    · refine KM.bind ?_ fun _ => ?_
      · refine KM.modify fun _ => ?_
        refine Kept.trans ?_ (captureLR_kept ..)
        exact chkFail_kept ..
      · exact failM_kept _ _ _ _
    · exact writeRow_kept _ _ _ _ _

theorem roundOut_kept (a0) (a1) (a2) (a3) (a4) (a5) (a6) : KM (roundOut a0 a1 a2 a3 a4 a5 a6) := by
  unfold roundOut
  dsimp only
  refine KM.ite (fun _ => ?_) fun _ => ?_
  · refine KM.bind ?_ fun _ => ?_
    · exact KM.get
    · refine KM.bind ?_ fun _ => ?_
      · exact auxOpnd_kept _ _ _
      · refine KM.bind ?_ fun _ => ?_
        · refine KM.mapM fun _ => ?_
          exact outRow_kept _ _ _ _ _ _ _ _ _
        · refine KM.bind ?_ fun _ => ?_
          · exact sealAll_kept _ _ _ _
          · exact sealAll_kept _ _ _ _
  · refine KM.bind ?_ fun _ => ?_
    · exact KM.pure _
    · refine KM.bind ?_ fun _ => ?_
      · refine KM.mapM fun _ => ?_
        exact outRow_kept _ _ _ _ _ _ _ _ _
      · refine KM.bind ?_ fun _ => ?_
        · exact sealAll_kept _ _ _ _
        · exact sealAll_kept _ _ _ _

theorem tagTile_kept {α : Type} (a0 a1) {x : M α} (h : KM x) : KM (tagTile a0 a1 x) := KM.guarded h fun _ => KM.throw _

theorem matmulTile_kept (a0) (a1) (a2) : KM (matmulTile a0 a1 a2) := by
  unfold matmulTile
  refine KM.bind ?_ fun _ => ?_
  · exact KM.get
  · dsimp only
    refine KM.bind ?_ fun _ => ?_
    · exact opnd_kept _ _ _ _ _
    · refine KM.bind ?_ fun _ => ?_
      · exact opnd_kept _ _ _ _ _
      · refine KM.bind ?_ fun _ => ?_
        · exact opnd_kept _ _ _ _ _
        · refine KM.bind ?_ fun _ => ?_
          · exact withAux_kept _ _
          · refine KM.bind ?_ fun _ => ?_
            · exact withAux_kept _ _
            · refine KM.bind ?_ fun _ => ?_
              · refine KM.modify fun _ => ?_
                exact putSet_kept ..
              · refine KM.ite (fun _ => ?_) fun _ => ?_
                · refine KM.bind ?_ fun _ => ?_
                  · exact opnd_kept _ _ _ _ _
                  · refine KM.bind ?_ fun _ => ?_
                    · exact fetchTiles_kept _ _ _
                    · refine KM.bind ?_ fun _ => ?_
                      · exact addBias_kept _ _ _
                      · refine KM.bind ?_ fun _ => ?_
                        · exact fetchOperand_kept _ _ _ _
                        · refine KM.bind ?_ fun _ => ?_
                          · exact fetchOperand_kept _ _ _ _
                          · refine KM.bind ?_ fun _ => ?_
                            · exact fetchVector_kept _ _ _ _
                            · refine KM.bind ?_ fun _ => ?_
                              · refine KM.foldlM fun _ _ => ?_
                                exact addBlocks_kept _ _ _ _ _ _ _ _ _
                              · refine KM.bind ?_ fun _ => ?_
                                · refine KM.modify fun _ => ?_
                                  refine Kept.trans ?_ (regAdd64_kept ..)
                                  exact putSet_kept ..
                                · refine KM.ite (fun _ => ?_) fun _ => ?_
                                  · exact KM.pure _
                                  · refine KM.bind ?_ fun _ => ?_
                                    · exact roundOut_kept _ _ _ _ _ _ _
                                    · refine KM.modify fun _ => ?_
                                      exact putSet_kept ..
                · refine KM.bind ?_ fun _ => ?_
                  · exact KM.pure _
                  · refine KM.bind ?_ fun _ => ?_
                    · exact fetchOperand_kept _ _ _ _
                    · refine KM.bind ?_ fun _ => ?_
                      · exact fetchOperand_kept _ _ _ _
                      · refine KM.bind ?_ fun _ => ?_
                        · exact fetchVector_kept _ _ _ _
                        · refine KM.bind ?_ fun _ => ?_
                          · refine KM.foldlM fun _ _ => ?_
                            exact addBlocks_kept _ _ _ _ _ _ _ _ _
                          · refine KM.bind ?_ fun _ => ?_
                            · refine KM.modify fun _ => ?_
                              refine Kept.trans ?_ (regAdd64_kept ..)
                              exact putSet_kept ..
                            · refine KM.ite (fun _ => ?_) fun _ => ?_
                              · exact KM.pure _
                              · refine KM.bind ?_ fun _ => ?_
                                · exact roundOut_kept _ _ _ _ _ _ _
                                · refine KM.modify fun _ => ?_
                                  exact putSet_kept ..

theorem matmulBody_kept (a0) (a1) (a2) (a3) : KM (matmulBody a0 a1 a2 a3) := by
  unfold matmulBody
  refine tagTile_kept _ _ ?_
  refine KM.bind ?_ fun _ => ?_
  · exact galleryGate_kept _
  · exact matmulTile_kept _ _ _

theorem mergeRecord_kept (a0) (a1) (a2) : KM (mergeRecord a0 a1 a2) := by
  unfold mergeRecord
  dsimp only
  refine KM.ite (fun _ => ?_) fun _ => ?_
  · exact failM_kept _ _ _ _
  · refine KM.ite (fun _ => ?_) fun _ => ?_
    · exact failM_kept _ _ _ _
    · exact KM.pure _

theorem mergeAll_kept (a0) (a1) (a2) : KM (mergeAll a0 a1 a2) := by
  unfold mergeAll
  refine KM.bind ?_ fun _ => ?_
  · exact KM.get
  · refine KM.bind ?_ fun _ => ?_
    · exact opnd_kept _ _ _ _ _
    · dsimp only
      refine KM.foldlM fun _ _ => ?_
      refine KM.bind ?_ fun _ => ?_
      · refine KM.forM fun _ => ?_
        exact fetchTile_kept _ _ _
      · refine KM.bind ?_ fun _ => ?_
        · exact readMem_kept _ _ _
        · exact mergeRecord_kept _ _ _

theorem drainBody_kept (a0) (a1) (a2) (a3) : KM (drainBody a0 a1 a2 a3) := by
  unfold drainBody
  refine tagTile_kept _ _ ?_
  refine KM.bind ?_ fun _ => ?_
  · exact galleryGate_kept _
  · refine KM.bind ?_ fun _ => ?_
    · exact KM.get
    · dsimp only
      (split <;> try dsimp only)
      · exact failM_kept _ _ _ _
      · refine KM.bind ?_ fun _ => ?_
        · exact opnd_kept _ _ _ _ _
        · refine KM.ite (fun _ => ?_) fun _ => ?_
          · refine KM.bind ?_ fun _ => ?_
            · exact mergeAll_kept _ _ _
            · refine KM.bind ?_ fun _ => ?_
              · refine KM.modify fun _ => ?_
                exact putSet_kept ..
              · refine KM.ite (fun _ => ?_) fun _ => ?_
                · refine KM.bind ?_ fun _ => ?_
                  · exact writeMem_kept _ _ _
                  · refine KM.bind ?_ fun _ => ?_
                    · exact sealAll_kept _ _ _ _
                    · refine KM.modify fun _ => ?_
                      exact putSet_kept ..
                · refine KM.bind ?_ fun _ => ?_
                  · exact roundOut_kept _ _ _ _ _ _ _
                  · refine KM.modify fun _ => ?_
                    exact putSet_kept ..
          · refine KM.bind ?_ fun _ => ?_
            · exact KM.pure _
            · refine KM.bind ?_ fun _ => ?_
              · refine KM.modify fun _ => ?_
                exact putSet_kept ..
              · refine KM.ite (fun _ => ?_) fun _ => ?_
                · refine KM.bind ?_ fun _ => ?_
                  · exact writeMem_kept _ _ _
                  · refine KM.bind ?_ fun _ => ?_
                    · exact sealAll_kept _ _ _ _
                    · refine KM.modify fun _ => ?_
                      exact putSet_kept ..
                · refine KM.bind ?_ fun _ => ?_
                  · exact roundOut_kept _ _ _ _ _ _ _
                  · refine KM.modify fun _ => ?_
                    exact putSet_kept ..

theorem execMatmul_kept (a0) (a1) {s t : State} (h : execMatmul a0 a1 s = .next t) : Kept s t := by
  unfold execMatmul at h
  injection h with h
  subst h
  refine Kept.trans ?_ (issueThen_kept _ _ (fun _ => ?_) (fun _ _ => ?_) _ _)
  · exact strikes_kept ..
  · exact checkLan_kept _ _
  · refine Kept.trans ?_ (runFrom_kept (fun _ => ?_) _ _ _)
    · exact Kept.refl _
    · exact matmulBody_kept _ _ _ _

theorem execMatmulChain_kept (a0) (a1) {s t : State} (h : execMatmulChain a0 a1 s = .next t) : Kept s t := by
  unfold execMatmulChain at h
  injection h with h
  subst h
  refine Kept.trans ?_ (issueThen_kept _ _ (fun _ => ?_) (fun _ _ => ?_) _ _)
  · exact strikes_kept ..
  · exact checkLan_kept _ _
  · refine Kept.trans ?_ (runFrom_kept (fun _ => ?_) _ _ _)
    · exact Kept.refl _
    · exact matmulBody_kept _ _ _ _

theorem execAccDrain_kept (a0) (a1) {s t : State} (h : execAccDrain a0 a1 s = .next t) : Kept s t := by
  unfold execAccDrain at h
  injection h with h
  subst h
  refine Kept.trans ?_ (issueThen_kept _ _ (fun _ => ?_) (fun _ _ => ?_) _ _)
  · exact strikes_kept ..
  · exact checkLan_kept _ _
  · refine Kept.trans ?_ (runFrom_kept (fun _ => ?_) _ _ _)
    · exact Kept.refl _
    · exact drainBody_kept _ _ _ _

/-! ### WickMem -/

theorem Kept.wickW {s x : State} (h : Kept s x) (w) : memoriesWf s = true → Mem.wf (wOf x w).lmem = true := h.wick _ _

theorem imp_wrN_wf {P : Prop} {m : Mem} (a bs) (h : P → Mem.wf m = true) : P → Mem.wf (wrN m a bs) = true := fun p => wrN_wf _ _ (h p)

theorem putW_kept {s x : State} (w) {k : Wick} (h : Kept s x) (hw : memoriesWf s = true → Mem.wf k.lmem = true) :
    Kept s (putW w k x) := putWick_kept _ _ h hw

theorem readTile_kept (a0) (a1) (a2) (a3) : KM (readTile a0 a1 a2 a3) := by
  unfold readTile
  refine KM.bind ?_ fun _ => ?_
  · exact KM.get
  · dsimp only
    refine KM.ite (fun _ => ?_) fun _ => ?_
    · exact KM.pure _
    · split
      · exact KM.pure _
      · refine KM.bind ?_ fun _ => ?_
        · exact verifyTile_kept _ _ _ _ _
        · refine KM.modify fun _ => ?_
          refine putW_kept _ ?_ ?_
          · exact Kept.refl _
          · refine Kept.wickW ?_ _
            exact Kept.refl _

theorem sealDirty_kept (a0) (a1) (a2) : KM (sealDirty a0 a1 a2) := by
  unfold sealDirty
  refine KM.bind ?_ fun _ => ?_
  · exact KM.get
  · split
    · exact KM.pure _
    · exact sealOne_kept _ _ _ _

theorem sealSet_kept (a0) (a1) (a2) : KM (sealSet a0 a1 a2) := by
  unfold sealSet
  refine KM.bind ?_ fun _ => ?_
  · exact KM.get
  · refine KM.bind ?_ fun _ => ?_
    · refine KM.forM fun _ => ?_
      exact sealDirty_kept _ _ _
    · refine KM.modify fun _ => ?_
      dsimp only
      refine putW_kept _ ?_ ?_
      · exact Kept.refl _
      · refine Kept.wickW ?_ _
        exact Kept.refl _

theorem dirtyTile_kept (a0) (a1) (a2) (a3) : KM (dirtyTile a0 a1 a2 a3) := by
  unfold dirtyTile
  refine KM.bind ?_ fun _ => ?_
  · exact KM.get
  · dsimp only
    refine KM.ite (fun _ => ?_) fun _ => ?_
    · exact KM.pure _
    · refine KM.ite (fun _ => ?_) fun _ => ?_
      · refine KM.bind ?_ fun _ => ?_
        · exact sealSet_kept _ _ _
        · refine KM.modify fun _ => ?_
          refine putW_kept _ ?_ ?_
          · exact Kept.refl _
          · refine Kept.wickW ?_ _
            exact Kept.refl _
      · refine KM.modify fun _ => ?_
        refine putW_kept _ ?_ ?_
        · exact Kept.refl _
        · refine Kept.wickW ?_ _
          exact Kept.refl _

theorem accessFault_kept (a0) : KM (accessFault a0) := by
  unfold accessFault
  exact failM_kept _ _ _ _

theorem trapM_kept (a0) (a1) : KM (trapM a0 a1) := by
  unfold trapM
  exact failM_kept _ _ _ _

theorem loadTiles_kept (a0) (a1) (a2) (a3) (a4) (a5) : KM (loadTiles a0 a1 a2 a3 a4 a5) := by
  unfold loadTiles
  refine KM.guarded ?_ fun _ => ?_
  · refine KM.forM fun _ => ?_
    exact readTile_kept _ _ _ _
  · exact KM.throw _

theorem kLoad_kept (a0) (a1) (a2) (a3) (a4) : KM (kLoad a0 a1 a2 a3 a4) := by
  unfold kLoad
  refine KM.bind ?_ fun _ => ?_
  · exact KM.get
  · refine KM.ite (fun _ => ?_) fun _ => ?_
    · exact KM.pure _
    · refine KM.ite (fun _ => ?_) fun _ => ?_
      · refine KM.bind ?_ fun _ => ?_
        · exact trapM_kept _ _
        · exact KM.pure _
      · (split <;> try dsimp only)
        · refine KM.ite (fun _ => ?_) fun _ => ?_
          · refine KM.bind ?_ fun _ => ?_
            · exact accessFault_kept _
            · exact KM.pure _
          · exact KM.pure _
        · exact KM.pure _
        · refine KM.bind ?_ fun _ => ?_
          · exact loadTiles_kept _ _ _ _ _ _
          · refine KM.ite (fun _ => ?_) fun _ => ?_
            · refine KM.bind ?_ fun _ => ?_
              · exact accessFault_kept _
              · exact readMem_kept _ _ _
            · exact readMem_kept _ _ _
        · refine KM.bind ?_ fun _ => ?_
          · exact accessFault_kept _
          · exact KM.pure _

theorem kStore_kept (a0) (a1) (a2) (a3) (a4) : KM (kStore a0 a1 a2 a3 a4) := by
  unfold kStore
  refine KM.bind ?_ fun _ => ?_
  · exact KM.get
  · refine KM.ite (fun _ => ?_) fun _ => ?_
    · exact KM.pure _
    · refine KM.ite (fun _ => ?_) fun _ => ?_
      · exact trapM_kept _ _
      · (split <;> try dsimp only)
        · refine KM.ite (fun _ => ?_) fun _ => ?_
          · refine KM.bind ?_ fun _ => ?_
            · exact accessFault_kept _
            · refine KM.modify fun _ => ?_
              refine putW_kept _ ?_ ?_
              · exact Kept.refl _
              · refine imp_wrN_wf _ _ ?_
                refine Kept.wickW ?_ _
                exact Kept.refl _
          · refine KM.modify fun _ => ?_
            refine putW_kept _ ?_ ?_
            · exact Kept.refl _
            · refine imp_wrN_wf _ _ ?_
              refine Kept.wickW ?_ _
              exact Kept.refl _
        · refine KM.ite (fun _ => ?_) fun _ => ?_
          · refine KM.bind ?_ fun _ => ?_
            · exact accessFault_kept _
            · refine KM.bind ?_ fun _ => ?_
              · refine KM.forM fun _ => ?_
                exact dirtyTile_kept _ _ _ _
              · exact writeMem_kept _ _ _
          · refine KM.bind ?_ fun _ => ?_
            · refine KM.forM fun _ => ?_
              exact dirtyTile_kept _ _ _ _
            · exact writeMem_kept _ _ _
        · exact accessFault_kept _

theorem checkKernel_kept (a0) (a1) : KM (checkKernel a0 a1) := by
  unfold checkKernel
  refine KM.bind ?_ fun _ => ?_
  · exact KM.get
  · dsimp only
    (split <;> try dsimp only)
    · exact failM_kept _ _ _ _
    · refine KM.ite (fun _ => ?_) fun _ => ?_
      · exact failM_kept _ _ _ _
      · refine KM.ite (fun _ => ?_) fun _ => ?_
        · exact failM_kept _ _ _ _
        · refine KM.bind ?_ fun _ => ?_
          · exact verifyRange_kept _ _ _ _ _
          · refine KM.bind ?_ fun _ => ?_
            · exact readMem_kept _ _ _
            · refine KM.ite (fun _ => ?_) fun _ => ?_
              · exact KM.pure _
              · exact failM_kept _ _ _ _

theorem makeResident_kept (a0) (a1) (a2) : KM (makeResident a0 a1 a2) := by
  unfold makeResident
  refine KM.bind ?_ fun _ => ?_
  · exact KM.get
  · dsimp only
    (split <;> try dsimp only)
    · refine KM.modify fun _ => ?_
      refine putW_kept _ ?_ ?_
      · exact Kept.refl _
      · refine Kept.wickW ?_ _
        exact Kept.refl _
    · refine KM.bind ?_ fun _ => ?_
      · exact verifyRange_kept _ _ _ _ _
      · refine KM.bind ?_ fun _ => ?_
        · exact readMem_kept _ _ _
        · refine KM.modify fun _ => ?_
          refine putW_kept _ ?_ ?_
          · exact Kept.refl _
          · refine imp_wrN_wf _ _ ?_
            refine Kept.wickW ?_ _
            exact Kept.refl _

theorem runtimeRun_kept (a0) (s : State) : Kept s (runtimeRun a0 s) := by
  unfold runtimeRun
  refine Kept.trans ?_ (bumpFree_kept ..)
  exact regAdd64_kept ..

theorem enter_kept (a0) (a1) (a2) (s : State) : Kept s (enter a0 a1 a2 s) := by
  unfold enter
  dsimp only
  refine Kept.trans ?_ (runtimeRun_kept ..)
  refine putW_kept _ ?_ ?_
  · exact Kept.refl _
  · refine imp_wrN_wf _ _ ?_
    refine imp_wrN_wf _ _ ?_
    refine Kept.wickW ?_ _
    exact Kept.refl _

theorem nextInvocation_kept (a0) (a1) (a2) (s : State) : Kept s (nextInvocation a0 a1 a2 s) := by
  unfold nextInvocation
  refine Kept.ite (fun _ => ?_) fun _ => ?_
  · refine Kept.trans ?_ (finish_kept ..)
    refine putW_kept _ ?_ ?_
    · exact Kept.refl _
    · refine Kept.wickW ?_ _
      exact Kept.refl _
  · dsimp only
    refine Kept.ite (fun _ => ?_) fun _ => ?_
    · refine Kept.trans ?_ (setWaiting_kept ..)
      refine Kept.trans ?_ (setCur_kept ..)
      refine putW_kept _ ?_ ?_
      · exact Kept.refl _
      · refine Kept.wickW ?_ _
        exact Kept.refl _
    · refine Kept.trans ?_ (enter_kept ..)
      exact setCur_kept ..

theorem wickFail_kept (a0) (a1) (a2) (a3) (s : State) : Kept s (wickFail a0 a1 a2 a3 s) := by
  unfold wickFail
  dsimp only
  refine Kept.ite (fun _ => ?_) fun _ => ?_
  · refine Kept.trans ?_ (regPut64_kept ..)
    refine Kept.trans ?_ (regPut64_kept ..)
    refine Kept.trans ?_ (runBad_kept ..)
    refine putW_kept _ ?_ ?_
    · exact Kept.refl _
    · refine Kept.wickW ?_ _
      exact Kept.refl _
  · refine Kept.trans ?_ (runBad_kept ..)
    refine putW_kept _ ?_ ?_
    · exact Kept.refl _
    · refine Kept.wickW ?_ _
      exact Kept.refl _

theorem localGate_kept (a0) : KM (localGate a0) := by
  unfold localGate
  refine KM.ite (fun _ => ?_) fun _ => ?_
  · refine KM.bind ?_ fun _ => ?_
    · refine KM.modify fun _ => ?_
      exact chkEcc_kept ..
    · exact failM_kept _ _ _ _
  · exact KM.pure _

theorem runKernel_kept (a0) (a1) (a2) (s : State) : Kept s (runKernel a0 a1 a2 s) := by
  unfold runKernel
  (split <;> try dsimp only)
  · (split <;> try dsimp only)
    · refine Kept.trans ?_ (runBad_kept ..)
      rename_i h; refine Kept.go h ?_
      refine KM.bind ?_ fun _ => ?_
      · exact galleryGate_kept _
      · refine KM.bind ?_ fun _ => ?_
        · exact localGate_kept _
        · exact makeResident_kept _ _ _
    · refine Kept.trans ?_ (nextInvocation_kept ..)
      rename_i h; refine Kept.go h ?_
      refine KM.bind ?_ fun _ => ?_
      · exact galleryGate_kept _
      · refine KM.bind ?_ fun _ => ?_
        · exact localGate_kept _
        · exact makeResident_kept _ _ _
  · exact finish_kept ..

theorem execKernel_kept (a0) (a1) {s t : State} (h : execKernel a0 a1 s = .next t) : Kept s t := by
  unfold execKernel at h
  injection h with h
  subst h
  refine Kept.trans ?_ (issueThen_kept _ _ (fun _ => ?_) (fun _ _ => ?_) _ _)
  · exact strikes_kept ..
  · exact checkKernel_kept _ _
  · exact runKernel_kept ..

theorem reduceElems_kept (a0) (a1) (a2) : KM (reduceElems a0 a1 a2) := by
  unfold reduceElems
  refine KM.mapM fun _ => ?_
  exact readBits_kept _ _ _ _ _

theorem commitGate_kept (a0) : KM (commitGate a0) := by
  unfold commitGate
  refine KM.bind ?_ fun _ => ?_
  · refine KM.modify fun _ => ?_
    exact chk_kept ..
  · refine KM.ite (fun _ => ?_) fun _ => ?_
    · exact failM_kept _ _ _ _
    · refine KM.ite (fun _ => ?_) fun _ => ?_
      · refine KM.bind ?_ fun _ => ?_
        · refine KM.modify fun _ => ?_
          exact chkEcc_kept ..
        · exact failM_kept _ _ _ _
      · exact KM.pure _

theorem reduceBody_kept (a0) (a1) (a2) : KM (reduceBody a0 a1 a2) := by
  unfold reduceBody
  refine KM.bind ?_ fun _ => ?_
  · exact galleryGate_kept _
  · refine KM.bind ?_ fun _ => ?_
    · exact KM.get
    · refine KM.bind ?_ fun _ => ?_
      · exact opnd_kept _ _ _ _ _
      · refine KM.bind ?_ fun _ => ?_
        · exact reduceElems_kept _ _ _
        · refine KM.bind ?_ fun _ => ?_
          · exact commitGate_kept _
          · dsimp only
            refine KM.modify fun _ => ?_
            exact setCur_kept ..

theorem runReduce_kept (a0) (a1) (a2) (s : State) : Kept s (runReduce a0 a1 a2 s) := by
  unfold runReduce
  refine Kept.ite (fun _ => ?_) fun _ => ?_
  · dsimp only
    split
    · refine Kept.trans ?_ (runBad_kept ..)
      refine Kept.trans ?_ (Kept.go (by assumption) ?_)
      · exact Kept.refl _
      · exact commitGate_kept _
    · refine Kept.trans ?_ (finish_kept ..)
      refine Kept.trans ?_ (Kept.go (by assumption) ?_)
      · exact Kept.refl _
      · exact commitGate_kept _
  · refine Kept.trans ?_ (runFrom_kept (fun _ => ?_) _ _ _)
    · exact Kept.refl _
    · exact reduceBody_kept _ _ _

theorem checkReduce_kept (a0) (a1) : KM (checkReduce a0 a1) := by
  unfold checkReduce
  refine KM.bind ?_ fun _ => ?_
  · exact KM.get
  · dsimp only
    refine KM.ite (fun _ => ?_) fun _ => ?_
    · exact failM_kept _ _ _ _
    · exact KM.pure _

theorem execReduceScalar_kept (a0) (a1) {s t : State} (h : execReduceScalar a0 a1 s = .next t) : Kept s t := by
  unfold execReduceScalar at h
  injection h with h
  subst h
  refine Kept.trans ?_ (issueThen_kept _ _ (fun _ => ?_) (fun _ _ => ?_) _ _)
  · exact strikes_kept ..
  · exact checkReduce_kept _ _
  · exact runReduce_kept ..

/-! ### Frame -/

theorem putLink_kept (a0) (a1) (s : State) : Kept s (putLink a0 a1 s) := by
  unfold putLink
  refine Kept.upd ?_ ..
  exact Kept.refl _

theorem putPort_kept (a0) (a1) (s : State) : Kept s (putPort a0 a1 s) := by
  unfold putPort
  refine Kept.upd ?_ ..
  exact Kept.refl _

/-! ### Tender -/

theorem tndCount_kept (a0) (a1) : KM (tndCount a0 a1) := by
  unfold tndCount
  refine KM.modify fun _ => ?_
  refine Kept.ite (fun _ => ?_) fun _ => ?_
  · exact regAdd64_kept ..
  · exact Kept.refl _

theorem moveRun_kept (a0) (a1) (a2) (a3) (a4) (a5) (a6) : KM (moveRun a0 a1 a2 a3 a4 a5 a6) := by
  unfold moveRun
  refine KM.bind ?_ fun _ => ?_
  · exact readBits_kept _ _ _ _ _
  · refine KM.bind ?_ fun _ => ?_
    · exact writeBits_kept _ _ _ _
    · refine KM.bind ?_ fun _ => ?_
      · exact tndCount_kept _ _
      · exact KM.pure _

theorem copyBody_kept (a0) (a1) (a2) : KM (copyBody a0 a1 a2) := by
  unfold copyBody
  refine KM.bind ?_ fun _ => ?_
  · exact galleryGate_kept _
  · refine KM.bind ?_ fun _ => ?_
    · exact KM.get
    · refine KM.bind ?_ fun _ => ?_
      · exact opnd_kept _ _ _ _ _
      · refine KM.bind ?_ fun _ => ?_
        · exact opnd_kept _ _ _ _ _
        · refine KM.bind ?_ fun _ => ?_
          · refine KM.foldlM fun _ _ => ?_
            exact moveRun_kept _ _ _ _ _ _ _
          · exact sealAll_kept _ _ _ _

theorem readIndex_kept (a0) (a1) (a2) (a3) (a4) : KM (readIndex a0 a1 a2 a3 a4) := by
  unfold readIndex
  exact readBits_kept _ _ _ _ _

theorem indexed_kept (a0) (a1) (a2) (a3) : KM (indexed a0 a1 a2 a3) := by
  unfold indexed
  dsimp only
  refine KM.ite (fun _ => ?_) fun _ => ?_
  · exact failM_kept _ _ _ _
  · exact KM.pure _

theorem indexBody_kept (a0) (a1) (a2) : KM (indexBody a0 a1 a2) := by
  unfold indexBody
  refine KM.bind ?_ fun _ => ?_
  · exact galleryGate_kept _
  · refine KM.bind ?_ fun _ => ?_
    · exact KM.get
    · refine KM.bind ?_ fun _ => ?_
      · exact opnd_kept _ _ _ _ _
      · refine KM.bind ?_ fun _ => ?_
        · exact opnd_kept _ _ _ _ _
        · refine KM.bind ?_ fun _ => ?_
          · exact opnd_kept _ _ _ _ _
          · dsimp only
            refine KM.bind ?_ fun _ => ?_
            · refine KM.foldlM fun _ _ => ?_
              refine KM.bind ?_ fun _ => ?_
              · exact readIndex_kept _ _ _ _ _
              · refine KM.ite (fun _ => ?_) fun _ => ?_
                · refine KM.bind ?_ fun _ => ?_
                  · exact indexed_kept _ _ _ _
                  · refine KM.ite (fun _ => ?_) fun _ => ?_
                    · refine KM.bind ?_ fun _ => ?_
                      · exact KM.pure _
                      · exact moveRun_kept _ _ _ _ _ _ _
                    · refine KM.bind ?_ fun _ => ?_
                      · exact indexed_kept _ _ _ _
                      · exact moveRun_kept _ _ _ _ _ _ _
                · refine KM.bind ?_ fun _ => ?_
                  · exact KM.pure _
                  · refine KM.ite (fun _ => ?_) fun _ => ?_
                    · refine KM.bind ?_ fun _ => ?_
                      · exact KM.pure _
                      · exact moveRun_kept _ _ _ _ _ _ _
                    · refine KM.bind ?_ fun _ => ?_
                      · exact indexed_kept _ _ _ _
                      · exact moveRun_kept _ _ _ _ _ _ _
            · exact sealAll_kept _ _ _ _

theorem fillBody_kept (a0) (a1) (a2) : KM (fillBody a0 a1 a2) := by
  unfold fillBody
  refine KM.bind ?_ fun _ => ?_
  · exact galleryGate_kept _
  · refine KM.bind ?_ fun _ => ?_
    · exact KM.get
    · refine KM.bind ?_ fun _ => ?_
      · exact opnd_kept _ _ _ _ _
      · dsimp only
        refine KM.bind ?_ fun _ => ?_
        · refine KM.mapM fun _ => ?_
          refine KM.bind ?_ fun _ => ?_
          · exact writeBits_kept _ _ _ _
          · refine KM.bind ?_ fun _ => ?_
            · exact tndCount_kept _ _
            · exact KM.pure _
        · exact sealAll_kept _ _ _ _

theorem verifyBody_kept (a0) (a1) (a2) : KM (verifyBody a0 a1 a2) := by
  unfold verifyBody
  refine KM.bind ?_ fun _ => ?_
  · exact galleryGate_kept _
  · refine KM.bind ?_ fun _ => ?_
    · exact KM.get
    · refine KM.bind ?_ fun _ => ?_
      · exact opnd_kept _ _ _ _ _
      · refine KM.forM fun _ => ?_
        dsimp only
        exact verifyRange_kept _ _ _ _ _

theorem execCopy_kept (a0) (a1) {s t : State} (h : execCopy a0 a1 s = .next t) : Kept s t := by
  unfold execCopy at h
  injection h with h
  subst h
  refine Kept.trans ?_ (issueThen_kept _ _ (fun _ => ?_) (fun _ _ => ?_) _ _)
  · exact strikes_kept ..
  · exact noCheck_kept _
  · refine Kept.trans ?_ (runFrom_kept (fun _ => ?_) _ _ _)
    · exact Kept.refl _
    · exact copyBody_kept _ _ _

theorem execGather_kept (a0) (a1) {s t : State} (h : execGather a0 a1 s = .next t) : Kept s t := by
  unfold execGather at h
  injection h with h
  subst h
  refine Kept.trans ?_ (issueThen_kept _ _ (fun _ => ?_) (fun _ _ => ?_) _ _)
  · exact strikes_kept ..
  · exact noCheck_kept _
  · refine Kept.trans ?_ (runFrom_kept (fun _ => ?_) _ _ _)
    · exact Kept.refl _
    · exact indexBody_kept _ _ _

theorem execScatter_kept (a0) (a1) {s t : State} (h : execScatter a0 a1 s = .next t) : Kept s t := by
  unfold execScatter at h
  injection h with h
  subst h
  refine Kept.trans ?_ (issueThen_kept _ _ (fun _ => ?_) (fun _ _ => ?_) _ _)
  · exact strikes_kept ..
  · exact noCheck_kept _
  · refine Kept.trans ?_ (runFrom_kept (fun _ => ?_) _ _ _)
    · exact Kept.refl _
    · exact indexBody_kept _ _ _

theorem execFill_kept (a0) (a1) {s t : State} (h : execFill a0 a1 s = .next t) : Kept s t := by
  unfold execFill at h
  injection h with h
  subst h
  refine Kept.trans ?_ (issueThen_kept _ _ (fun _ => ?_) (fun _ _ => ?_) _ _)
  · exact strikes_kept ..
  · exact noCheck_kept _
  · refine Kept.trans ?_ (runFrom_kept (fun _ => ?_) _ _ _)
    · exact Kept.refl _
    · exact fillBody_kept _ _ _

theorem execTallyVerify_kept (a0) (a1) {s t : State} (h : execTallyVerify a0 a1 s = .next t) : Kept s t := by
  unfold execTallyVerify at h
  injection h with h
  subst h
  refine Kept.trans ?_ (issueThen_kept _ _ (fun _ => ?_) (fun _ _ => ?_) _ _)
  · exact strikes_kept ..
  · exact noCheck_kept _
  · refine Kept.trans ?_ (runFrom_kept (fun _ => ?_) _ _ _)
    · exact Kept.refl _
    · exact verifyBody_kept _ _ _

end Sys2Proof.Machine
end

