-- ==== Sys2Proof/Laws/KeptWick.lean ====
section
/-! SUPPORT. What every command keeps (Safety.Kept), carried through Port descriptors, Wick commits and completions: one lemma per operation. -/

namespace Sys2Proof.Machine

/-! ### Port -/

theorem runSend_kept (a0) (a1) (s : State) : Kept s (runSend a0 a1 s) := by
  unfold runSend
  dsimp only
  exact setCur_kept ..

theorem execSend_kept (a0) (a1) {s t : State} (h : execSend a0 a1 s = .next t) : Kept s t := by
  unfold execSend at h
  injection h with h
  subst h
  refine Kept.trans ?_ (issueThen_kept _ _ (fun _ => ?_) (fun _ _ => ?_) _ _)
  · exact strikes_kept ..
  · exact noCheck_kept _
  · exact runSend_kept ..

theorem sendPayload_kept (a0) (a1) (a2) (a3) : KM (sendPayload a0 a1 a2 a3) := by
  unfold sendPayload
  dsimp only
  refine KM.bind ?_ fun _ => ?_
  · refine KM.mapM fun _ => ?_
    exact readBits_kept _ _ _ _ _
  · exact KM.pure _

theorem noteSlack_kept (a0) (a1) (s : State) : Kept s (noteSlack a0 a1 s) := by
  unfold noteSlack
  dsimp only
  refine Kept.ite (fun _ => ?_) fun _ => ?_
  · exact regPut_kept ..
  · exact Kept.refl _

theorem depFetch_kept (a0) (a1) (s : State) : Kept s (depFetch a0 a1 s) := by
  unfold depFetch
  dsimp only
  (split <;> try dsimp only)
  · exact Kept.refl _
  · (split <;> try dsimp only)
    · exact Kept.refl _
    · (split <;> try dsimp only)
      · refine Kept.trans ?_ (runBad_kept ..)
        rename_i h; refine Kept.go h ?_
        refine KM.bind ?_ fun _ => ?_
        · exact galleryGate_kept _
        · refine KM.bind ?_ fun _ => ?_
          · exact KM.get
          · refine KM.bind ?_ fun _ => ?_
            · exact opnd_kept _ _ _ _ _
            · exact sendPayload_kept _ _ _ _
      · refine Kept.trans ?_ (noteSlack_kept ..)
        refine Kept.trans ?_ (putPort_kept ..)
        refine Kept.trans ?_ (setCur_kept ..)
        rename_i h; refine Kept.go h ?_
        refine KM.bind ?_ fun _ => ?_
        · exact galleryGate_kept _
        · refine KM.bind ?_ fun _ => ?_
          · exact KM.get
          · refine KM.bind ?_ fun _ => ?_
            · exact opnd_kept _ _ _ _ _
            · exact sendPayload_kept _ _ _ _

theorem execDepartureBufferFetch_kept (a0) (a1) {s t : State} (h : execDepartureBufferFetch a0 a1 s = .next t) : Kept s t := by
  unfold execDepartureBufferFetch at h
  injection h with h
  subst h
  refine Kept.ite (fun _ => ?_) fun _ => ?_
  · refine Kept.trans ?_ (depFetch_kept ..)
    exact strikes_kept ..
  · exact Kept.refl _

theorem missDeadline_kept (a0) (a1) (a2) (s : State) : Kept s (missDeadline a0 a1 a2 s) := by
  unfold missDeadline
  exact runBad_kept ..

theorem execDepartureDeadline_kept (a0) {s t : State} (h : execDepartureDeadline a0 s = .next t) : Kept s t := by
  unfold execDepartureDeadline at h
  injection h with h
  subst h
  split
  · exact Kept.refl _
  · split
    · exact Kept.refl _
    · refine Kept.trans ?_ (missDeadline_kept ..)
      exact watchTo_kept ..

theorem flitLeft_kept (a0) (a1) (s : State) : Kept s (flitLeft a0 a1 s) := by
  unfold flitLeft
  dsimp only
  split
  · refine Kept.trans ?_ (regAdd64_kept ..)
    exact putPort_kept ..
  · refine Kept.ite (fun _ => ?_) fun _ => ?_
    · refine Kept.trans ?_ (finish_kept ..)
      refine Kept.ite (fun _ => ?_) fun _ => ?_
      · refine Kept.trans ?_ (fifoPopped_kept ..)
        refine Kept.trans ?_ (regAdd64_kept ..)
        exact putPort_kept ..
      · refine Kept.trans ?_ (regAdd64_kept ..)
        exact putPort_kept ..
    · refine Kept.trans ?_ (setCur_kept ..)
      refine Kept.trans ?_ (regAdd64_kept ..)
      exact putPort_kept ..

theorem deliver_kept (a0) (a1) (a2) (s : State) : Kept s (deliver a0 a1 a2 s) := by
  unfold deliver
  dsimp only
  refine Kept.ite (fun _ => ?_) fun _ => ?_
  · refine Kept.trans ?_ (detect_kept ..)
    exact raise_kept ..
  · refine Kept.ite (fun _ => ?_) fun _ => ?_
    · refine Kept.upd ?_ ..
      refine Kept.trans ?_ (regCount_kept ..)
      refine Kept.ite (fun _ => ?_) fun _ => ?_
      · refine Kept.trans ?_ (regPut_kept ..)
        refine Kept.trans ?_ (regAdd64_kept ..)
        exact putPort_kept ..
      · refine Kept.trans ?_ (regAdd64_kept ..)
        exact putPort_kept ..
    · refine Kept.ite (fun _ => ?_) fun _ => ?_
      · refine Kept.trans ?_ (regPut_kept ..)
        refine Kept.trans ?_ (regAdd64_kept ..)
        exact putPort_kept ..
      · refine Kept.trans ?_ (regAdd64_kept ..)
        exact putPort_kept ..

theorem releaseFlit_kept (a0) (a1) (s : State) : Kept s (releaseFlit a0 a1 s) := by
  unfold releaseFlit
  dsimp only
  exact putPort_kept ..

theorem execFlitRelease_kept (a0) {s t : State} (h : execFlitRelease a0 s = .next t) : Kept s t := by
  unfold execFlitRelease at h
  injection h with h
  subst h
  split
  · exact Kept.refl _
  · refine Kept.trans ?_ (releaseFlit_kept ..)
    exact watchTo_kept ..

theorem runRecv_kept (a0) (a1) (s : State) : Kept s (runRecv a0 a1 s) := by
  unfold runRecv
  exact setCur_kept ..

theorem execRecv_kept (a0) (a1) {s t : State} (h : execRecv a0 a1 s = .next t) : Kept s t := by
  unfold execRecv at h
  injection h with h
  subst h
  refine Kept.trans ?_ (issueThen_kept _ _ (fun _ => ?_) (fun _ _ => ?_) _ _)
  · exact strikes_kept ..
  · exact noCheck_kept _
  · exact runRecv_kept ..

theorem recvElem_kept (a0) (a1) (a2) (a3) (a4) (a5) : KM (recvElem a0 a1 a2 a3 a4 a5) := by
  unfold recvElem
  dsimp only
  exact writeBits_kept _ _ _ _

theorem recvWrite_kept (a0) (a1) (a2) (a3) : KM (recvWrite a0 a1 a2 a3) := by
  unfold recvWrite
  dsimp only
  refine KM.forM fun _ => ?_
  refine KM.bind ?_ fun _ => ?_
  · exact recvElem_kept _ _ _ _ _ _
  · exact KM.pure _

theorem recvBody_kept (a0) (a1) (a2) (a3) : KM (recvBody a0 a1 a2 a3) := by
  unfold recvBody
  refine KM.bind ?_ fun _ => ?_
  · exact galleryGate_kept _
  · refine KM.bind ?_ fun _ => ?_
    · exact KM.get
    · refine KM.bind ?_ fun _ => ?_
      · exact opnd_kept _ _ _ _ _
      · refine KM.ite (fun _ => ?_) fun _ => ?_
        · exact KM.pure _
        · refine KM.ite (fun _ => ?_) fun _ => ?_
          · refine KM.bind ?_ fun _ => ?_
            · exact writeBits_kept _ _ _ _
            · refine KM.bind ?_ fun _ => ?_
              · exact sealAll_kept _ _ _ _
              · refine KM.modify fun _ => ?_
                exact fifoPushed_kept ..
          · exact recvWrite_kept _ _ _ _

theorem recvLast_kept (a0) (a1) (a2) (a3) : KM (recvLast a0 a1 a2 a3) := by
  unfold recvLast
  refine KM.bind ?_ fun _ => ?_
  · refine KM.modify fun _ => ?_
    exact chk_kept ..
  · refine KM.ite (fun _ => ?_) fun _ => ?_
    · exact failM_kept _ _ _ _
    · refine KM.ite (fun _ => ?_) fun _ => ?_
      · exact KM.pure _
      · refine KM.bind ?_ fun _ => ?_
        · exact KM.get
        · refine KM.bind ?_ fun _ => ?_
          · exact opnd_kept _ _ _ _ _
          · refine KM.bind ?_ fun _ => ?_
            · exact sealAll_kept _ _ _ _
            · refine KM.ite (fun _ => ?_) fun _ => ?_
              · refine KM.modify fun _ => ?_
                exact fifoPushed_kept ..
              · exact KM.pure _

theorem recvTake_kept (a0) (a1) (a2) (a3) (s : State) : Kept s (recvTake a0 a1 a2 a3 s) := by
  unfold recvTake
  dsimp only
  split
  · refine Kept.trans ?_ (runBad_kept ..)
    refine Kept.trans ?_ (Kept.go (by assumption) ?_)
    · exact putPort_kept ..
    · refine KM.bind ?_ fun _ => ?_
      · exact recvBody_kept _ _ _ _
      · refine KM.ite (fun _ => ?_) fun _ => ?_
        · exact recvLast_kept _ _ _ _
        · exact KM.pure _
  · refine Kept.ite (fun _ => ?_) fun _ => ?_
    · refine Kept.trans ?_ (finish_kept ..)
      refine Kept.trans ?_ (Kept.go (by assumption) ?_)
      · exact putPort_kept ..
      · refine KM.bind ?_ fun _ => ?_
        · exact recvBody_kept _ _ _ _
        · refine KM.ite (fun _ => ?_) fun _ => ?_
          · exact recvLast_kept _ _ _ _
          · exact KM.pure _
    · refine Kept.trans ?_ (setCur_kept ..)
      refine Kept.trans ?_ (Kept.go (by assumption) ?_)
      · exact putPort_kept ..
      · refine KM.bind ?_ fun _ => ?_
        · exact recvBody_kept _ _ _ _
        · refine KM.ite (fun _ => ?_) fun _ => ?_
          · exact recvLast_kept _ _ _ _
          · exact KM.pure _

theorem execRecvFlit_kept (a0) (a1) {s t : State} (h : execRecvFlit a0 a1 s = .next t) : Kept s t := by
  unfold execRecvFlit at h
  injection h with h
  subst h
  split
  · exact Kept.refl _
  · split
    · exact Kept.refl _
    · refine Kept.ite (fun _ => ?_) fun _ => ?_
      · refine Kept.trans ?_ (recvTake_kept ..)
        exact strikes_kept ..
      · exact Kept.refl _

/-! ### Wick -/

theorem commitChecks_kept (a0 a1 a2 a3) (s : State) {t : State}
    (h : commitChecks a0 a1 a2 a3 s = .ok t ∨ commitChecks a0 a1 a2 a3 s = .error t) : Kept s t := by
  unfold commitChecks at h
  split at h
  · rcases h with h | h
    · exact absurd h (by simp)
    · injection h with h; subst h
      exact (chk_kept ..).trans (wickFail_kept ..)
  · split at h
    · rcases h with h | h
      · exact absurd h (by simp)
      · injection h with h; subst h
        exact ((chk_kept ..).trans (chkEcc_kept ..)).trans (wickFail_kept ..)
    · rcases h with h | h
      · injection h with h; subst h
        exact chk_kept ..
      · exact absurd h (by simp)

theorem xw_lmem (i v k) : (xw i v k).lmem = k.lmem := by
  unfold xw
  split <;> rfl

theorem vputElem_lmem (r n j v k) : (vputElem r n j v k).lmem = k.lmem := by
  unfold vputElem
  dsimp only
  split <;> rfl

theorem foldl_lmem {β : Type} {f : Wick → β → Wick} (hf : ∀ k x, (f k x).lmem = k.lmem) (l : List β) (k : Wick) :
    (l.foldl f k).lmem = k.lmem := by
  induction l generalizing k with
  | nil => rfl
  | cons x l ih => exact (ih _).trans (hf k x)

theorem vputAll_lmem (r n vs k) : (vputAll r n vs k).lmem = k.lmem := foldl_lmem (fun _ _ => vputElem_lmem ..) ..

theorem csrPut_lmem (c v k) : (csrPut c v k).lmem = k.lmem := by
  unfold csrPut
  repeat' split
  all_goals rfl

theorem wickRetire_kept (a0) (s : State) : Kept s (wickRetire a0 s) := by
  unfold wickRetire
  exact regAdd64_kept ..

theorem wickRun_kept (w us) {x : Eng → Latched → M Unit} (hx : ∀ g l, KM (x g l)) (s : State) : Kept s (wickRun w us x s) := by
  unfold wickRun
  split
  · exact Kept.refl s
  · split
    · rename_i h
      exact (strikes_kept ..).trans (commitChecks_kept _ _ _ _ _ (.inr h))
    · rename_i h
      have h1 := (strikes_kept us s).trans (commitChecks_kept _ _ _ _ _ (.inl h))
      split
      · rename_i h2
        refine (h1.trans (Kept.go h2 ?_)).trans (wickFail_kept ..)
        exact KM.bind (galleryGate_kept _) fun _ => hx _ _
      · rename_i h2
        refine (h1.trans (Kept.go h2 ?_)).trans (wickRetire_kept ..)
        exact KM.bind (galleryGate_kept _) fun _ => hx _ _

theorem wickMod_kept (w) {f : Wick → Wick} (hf : ∀ k, (f k).lmem = k.lmem) : KM (wickMod w f) := by
  refine KM.modify fun s => putW_kept w (Kept.refl s) fun m => ?_
  rw [hf]
  exact (Kept.refl s).wickW w m

theorem wickNext_kept (w us) {x : Eng → Latched → M Unit} (hx : ∀ g l, KM (x g l)) (s : State) : Kept s (wickNext w us x s) := by
  unfold wickNext
  refine wickRun_kept _ _ (fun g l => ?_) s
  refine KM.bind (hx g l) fun _ => ?_
  exact wickMod_kept _ fun k => show (advance 4 k).lmem = k.lmem from rfl

theorem illegal_kept : KM (illegal) := by
  unfold illegal
  exact trapM_kept _ _

theorem vecRun_kept (w us) {f : State → Wick → Wick} (hf : ∀ t k, (f t k).lmem = k.lmem) (s : State) : Kept s (vecRun w us f s) := by
  unfold vecRun
  refine wickNext_kept _ _ (fun _ _ => KM.bind KM.get fun t => ?_) s
  split
  · exact wickMod_kept _ (hf t)
  · exact illegal_kept

theorem cvtRun_kept (w us rs1) {f : Nat → State → Wick → Wick} (hf : ∀ c t k, (f c t k).lmem = k.lmem) (s : State) :
    Kept s (cvtRun w us rs1 f s) := by
  unfold cvtRun
  refine wickNext_kept _ _ (fun _ _ => KM.bind KM.get fun t => ?_) s
  dsimp only
  split
  · exact illegal_kept
  · exact KM.bind (wickMod_kept _ (hf _ t)) fun _ => KM.modify fun _ => Kept.upd (Kept.refl _) ..

theorem enqueue_kept (a0) (a1) (s : State) : Kept s (enqueue a0 a1 s) := by
  unfold enqueue
  dsimp only
  exact putEng_kept ..

theorem pushRun_kept (a0) (a1) (a2) (a3) : KM (pushRun a0 a1 a2 a3) := by
  unfold pushRun
  refine KM.bind ?_ fun _ => ?_
  · exact KM.get
  · split
    · exact failM_kept _ _ _ _
    · exact failM_kept _ _ _ _
    · refine KM.ite (fun _ => ?_) fun _ => ?_
      · exact failM_kept _ _ _ _
      · refine KM.ite (fun _ => ?_) fun _ => ?_
        · exact failM_kept _ _ _ _
        · refine KM.ite (fun _ => ?_) fun _ => ?_
          · refine wickMod_kept _ (fun _ => ?_)
            exact rfl
          · refine KM.modify fun _ => ?_
            exact enqueue_kept ..

theorem execPushStore_kept (a0) (a1) (a2) (a3) {s t : State} (h : execPushStore a0 a1 a2 a3 s = .next t) : Kept s t := by
  unfold execPushStore at h
  injection h with h
  subst h
  (split <;> try dsimp only)
  · refine wickNext_kept _ _ ?_ _
    intro _ _
    exact pushRun_kept _ _ _ _
  · exact Kept.refl _

theorem execPushQueueRoom_kept (a0) {s t : State} (h : execPushQueueRoom a0 s = .next t) : Kept s t := by
  unfold execPushQueueRoom at h
  injection h with h
  subst h
  split
  · refine Kept.trans ?_ (enqueue_kept ..)
    refine putW_kept _ ?_ ?_
    · exact Kept.refl _
    · refine Kept.wickW ?_ _
      exact Kept.refl _
  · exact Kept.refl _

theorem runStore_kept (a0) (a1) (a2) (a3) (a4) : KM (runStore a0 a1 a2 a3 a4) := by
  unfold runStore
  (split <;> try dsimp only)
  · exact pushRun_kept _ _ _ _
  · exact kStore_kept _ _ _ _ _

theorem endInvocation_kept (a0) (a1) (a2) (s : State) : Kept s (endInvocation a0 a1 a2 s) := by
  unfold endInvocation
  split
  · refine Kept.trans ?_ (wickFail_kept ..)
    refine Kept.trans ?_ (Kept.go (by assumption) ?_)
    · exact Kept.refl _
    · exact sealSet_kept _ _ _
  · dsimp only
    refine Kept.trans ?_ (nextInvocation_kept ..)
    refine Kept.trans ?_ (moveEntries_kept ..)
    refine Kept.trans ?_ (regAdd64_kept ..)
    refine Kept.trans ?_ (Kept.go (by assumption) ?_)
    · exact Kept.refl _
    · exact sealSet_kept _ _ _

theorem ecallRun_kept (a0) (a1) (a2) (s : State) : Kept s (ecallRun a0 a1 a2 s) := by
  unfold ecallRun
  dsimp only
  refine Kept.ite (fun _ => ?_) fun _ => ?_
  · exact endInvocation_kept ..
  · refine Kept.ite (fun _ => ?_) fun _ => ?_
    · exact wickFail_kept ..
    · exact wickFail_kept ..

theorem ecallStep_kept (a0) (a1) (s : State) : Kept s (ecallStep a0 a1 s) := by
  unfold ecallStep
  split
  · exact Kept.refl s
  · split
    · rename_i h
      exact (strikes_kept ..).trans (commitChecks_kept _ _ _ _ _ (.inr h))
    · rename_i h
      have h1 := (strikes_kept a1 s).trans (commitChecks_kept _ _ _ _ _ (.inl h))
      split
      · rename_i h2
        exact (h1.trans (Kept.go h2 (galleryGate_kept _))).trans (wickFail_kept ..)
      · rename_i h2
        exact (h1.trans (Kept.go h2 (galleryGate_kept _))).trans (ecallRun_kept ..)

theorem execEcall_kept (a0) (a1) {s t : State} (h : execEcall a0 a1 s = .next t) : Kept s t := by
  unfold execEcall at h
  injection h with h
  subst h
  exact ecallStep_kept ..

theorem scalarRun_kept (a0) (a1) (a2) (a3) (s : State) : Kept s (scalarRun a0 a1 a2 a3 s) := by
  unfold scalarRun
  refine wickNext_kept _ _ ?_ _
  intro _ _
  refine wickMod_kept _ ?_
  intro _
  exact xw_lmem ..

theorem execTlyRed_kept (a0) (a1) (a2) {s t : State} (h : execTlyRed a0 a1 a2 s = .next t) : Kept s t := by
  unfold execTlyRed at h
  injection h with h
  subst h
  exact scalarRun_kept ..

theorem execTlyAdd_kept (a0) (a1) (a2) (a3) {s t : State} (h : execTlyAdd a0 a1 a2 a3 s = .next t) : Kept s t := by
  unfold execTlyAdd at h
  injection h with h
  subst h
  exact scalarRun_kept ..

theorem execTlyMul_kept (a0) (a1) (a2) (a3) {s t : State} (h : execTlyMul a0 a1 a2 a3 s = .next t) : Kept s t := by
  unfold execTlyMul at h
  injection h with h
  subst h
  exact scalarRun_kept ..

theorem execTlySh_kept (a0) (a1) (a2) (a3) {s t : State} (h : execTlySh a0 a1 a2 a3 s = .next t) : Kept s t := by
  unfold execTlySh at h
  injection h with h
  subst h
  exact scalarRun_kept ..

theorem tileTally_kept (a0) (a1) (a2) (a3) : KM (tileTally a0 a1 a2 a3) := by
  unfold tileTally
  dsimp only
  split
  · refine KM.bind ?_ fun _ => ?_
    · exact KM.get
    · split
      · refine KM.bind ?_ fun _ => ?_
        · exact accessFault_kept _
        · exact KM.pure _
      · refine KM.bind ?_ fun _ => ?_
        · exact readTile_kept _ _ _ _
        · refine KM.bind ?_ fun _ => ?_
          · exact readMem_kept _ _ _
          · exact KM.pure _
  · refine KM.bind ?_ fun _ => ?_
    · exact trapM_kept _ _
    · exact KM.pure _
  · refine KM.bind ?_ fun _ => ?_
    · exact accessFault_kept _
    · exact KM.pure _

theorem execTlyTile_kept (a0) (a1) (a2) (a3) {s t : State} (h : execTlyTile a0 a1 a2 a3 s = .next t) : Kept s t := by
  unfold execTlyTile at h
  injection h with h
  subst h
  refine wickNext_kept _ _ ?_ _
  intro _ _
  refine KM.bind ?_ fun _ => ?_
  · exact KM.get
  · refine KM.bind ?_ fun _ => ?_
    · exact tileTally_kept _ _ _ _
    · refine wickMod_kept _ ?_
      intro _
      exact xw_lmem ..

theorem chkRun_kept (a0) (a1) (a2) (a3) (a4) : KM (chkRun a0 a1 a2 a3 a4) := by
  unfold chkRun
  refine KM.ite (fun _ => ?_) fun _ => ?_
  · exact illegal_kept
  · refine KM.bind ?_ fun _ => ?_
    · exact KM.get
    · dsimp only
      split
      · refine KM.ite (fun _ => ?_) fun _ => ?_
        · refine KM.bind ?_ fun _ => ?_
          · exact accessFault_kept _
          · refine KM.ite (fun _ => ?_) fun _ => ?_
            · refine KM.bind ?_ fun _ => ?_
              · exact sealDirty_kept _ _ _
              · refine KM.bind ?_ fun _ => ?_
                · refine wickMod_kept _ (fun _ => ?_)
                  exact rfl
                · refine KM.bind ?_ fun _ => ?_
                  · refine wickMod_kept _ (fun _ => ?_)
                    exact rfl
                  · exact readTile_kept _ _ _ _
            · refine KM.bind ?_ fun _ => ?_
              · refine wickMod_kept _ (fun _ => ?_)
                exact rfl
              · exact readTile_kept _ _ _ _
        · refine KM.ite (fun _ => ?_) fun _ => ?_
          · refine KM.bind ?_ fun _ => ?_
            · exact sealDirty_kept _ _ _
            · refine KM.bind ?_ fun _ => ?_
              · refine wickMod_kept _ (fun _ => ?_)
                exact rfl
              · refine KM.bind ?_ fun _ => ?_
                · refine wickMod_kept _ (fun _ => ?_)
                  exact rfl
                · exact readTile_kept _ _ _ _
          · refine KM.bind ?_ fun _ => ?_
            · refine wickMod_kept _ (fun _ => ?_)
              exact rfl
            · exact readTile_kept _ _ _ _
      · exact trapM_kept _ _
      · exact accessFault_kept _

theorem execTlyChk_kept (a0) (a1) (a2) (a3) {s t : State} (h : execTlyChk a0 a1 a2 a3 s = .next t) : Kept s t := by
  unfold execTlyChk at h
  injection h with h
  subst h
  refine wickNext_kept _ _ ?_ _
  intro _ _
  exact chkRun_kept _ _ _ _ _

theorem betaRun_kept (a0) (a1) (a2) (a3) (a4) (a5) (a6) : KM (betaRun a0 a1 a2 a3 a4 a5 a6) := by
  unfold betaRun
  refine KM.bind ?_ fun _ => ?_
  · exact KM.get
  · dsimp only
    refine KM.ite (fun _ => ?_) fun _ => ?_
    · refine KM.bind ?_ fun _ => ?_
      · refine wickMod_kept _ (fun _ => ?_)
        exact xw_lmem ..
      · refine KM.modify fun _ => ?_
        exact bumpFree_kept ..
    · refine KM.bind ?_ fun _ => ?_
      · exact kLoad_kept _ _ _ _ _
      · refine KM.ite (fun _ => ?_) fun _ => ?_
        · refine KM.bind ?_ fun _ => ?_
          · exact kLoad_kept _ _ _ _ _
          · refine wickMod_kept _ (fun _ => ?_)
            exact xw_lmem ..
        · refine KM.bind ?_ fun _ => ?_
          · exact KM.pure _
          · refine wickMod_kept _ (fun _ => ?_)
            exact xw_lmem ..

theorem execTlyBeta_kept (a0) (a1) (a2) (a3) (a4) (a5) {s t : State} (h : execTlyBeta a0 a1 a2 a3 a4 a5 s = .next t) : Kept s t := by
  unfold execTlyBeta at h
  injection h with h
  subst h
  refine wickNext_kept _ _ ?_ _
  intro _ _
  exact betaRun_kept _ _ _ _ _ _ _

theorem execCrvEv_kept (a0) (a1) (a2) (a3) {s t : State} (h : execCrvEv a0 a1 a2 a3 s = .next t) : Kept s t := by
  unfold execCrvEv at h
  injection h with h
  subst h
  refine vecRun_kept _ _ ?_ _
  intro _ _
  exact vputAll_lmem ..

theorem execRngU32_kept (a0) (a1) (a2) (a3) {s t : State} (h : execRngU32 a0 a1 a2 a3 s = .next t) : Kept s t := by
  unfold execRngU32 at h
  injection h with h
  subst h
  refine vecRun_kept _ _ ?_ _
  intro _ _
  exact vputAll_lmem ..

theorem execRngF32_kept (a0) (a1) (a2) (a3) {s t : State} (h : execRngF32 a0 a1 a2 a3 s = .next t) : Kept s t := by
  unfold execRngF32 at h
  injection h with h
  subst h
  refine vecRun_kept _ _ ?_ _
  intro _ _
  exact vputAll_lmem ..

theorem redRun_kept (a0) (a1) (a2) (a3) (a4) (s : State) : Kept s (redRun a0 a1 a2 a3 a4 s) := by
  unfold redRun
  refine vecRun_kept _ _ ?_ _
  intro _ _
  exact xw_lmem ..

theorem execRedMax_kept (a0) (a1) (a2) {s t : State} (h : execRedMax a0 a1 a2 s = .next t) : Kept s t := by
  unfold execRedMax at h
  injection h with h
  subst h
  exact redRun_kept ..

theorem execRedMin_kept (a0) (a1) (a2) {s t : State} (h : execRedMin a0 a1 a2 s = .next t) : Kept s t := by
  unfold execRedMin at h
  injection h with h
  subst h
  exact redRun_kept ..

theorem execRedAmax_kept (a0) (a1) (a2) (a3) {s t : State} (h : execRedAmax a0 a1 a2 a3 s = .next t) : Kept s t := by
  unfold execRedAmax at h
  injection h with h
  subst h
  exact redRun_kept ..

theorem execRedAmin_kept (a0) (a1) (a2) (a3) {s t : State} (h : execRedAmin a0 a1 a2 a3 s = .next t) : Kept s t := by
  unfold execRedAmin at h
  injection h with h
  subst h
  exact redRun_kept ..

theorem execRedSum_kept (a0) (a1) (a2) {s t : State} (h : execRedSum a0 a1 a2 s = .next t) : Kept s t := by
  unfold execRedSum at h
  injection h with h
  subst h
  exact redRun_kept ..

theorem execCvtIn_kept (a0) (a1) (a2) (a3) {s t : State} (h : execCvtIn a0 a1 a2 a3 s = .next t) : Kept s t := by
  unfold execCvtIn at h
  injection h with h
  subst h
  refine cvtRun_kept _ _ _ ?_ _
  intro _ _ _
  (split <;> try dsimp only)
  · exact vputAll_lmem ..
  · exact vputAll_lmem ..

theorem execCvtOut_kept (a0) (a1) (a2) (a3) {s t : State} (h : execCvtOut a0 a1 a2 a3 s = .next t) : Kept s t := by
  unfold execCvtOut at h
  injection h with h
  subst h
  refine cvtRun_kept _ _ _ ?_ _
  intro _ _ _
  (split <;> try dsimp only)
  · exact vputAll_lmem ..
  · exact vputAll_lmem ..

theorem execCvtMxs_kept (a0) (a1) (a2) (a3) {s t : State} (h : execCvtMxs a0 a1 a2 a3 s = .next t) : Kept s t := by
  unfold execCvtMxs at h
  injection h with h
  subst h
  refine cvtRun_kept _ _ _ ?_ _
  intro _ _ _
  (split <;> try dsimp only)
  · (split <;> try dsimp only)
    · exact xw_lmem ..
    · exact xw_lmem ..
  · (split <;> try dsimp only)
    · exact xw_lmem ..
    · exact xw_lmem ..

/-! ### Complete -/

theorem writeScalars_kept (a0) (a1) (s : State) : Kept s (writeScalars a0 a1 s) := by
  unfold writeScalars
  dsimp only
  exact putEng_kept ..

theorem signalOverflow_kept (a0) (a1) (a2) (s : State) : Kept s (signalOverflow a0 a1 a2 s) := by
  unfold signalOverflow
  dsimp only
  refine Kept.trans ?_ (detect_kept ..)
  refine Kept.trans ?_ (putEng_kept ..)
  exact raise_kept ..

theorem nowIdle_kept (a0) (s : State) : Kept s (nowIdle a0 s) := by
  unfold nowIdle
  refine Kept.ite (fun _ => ?_) fun _ => ?_
  · split
    · dsimp only
      exact putLan_kept ..
    · exact Kept.refl _
  · refine Kept.ite (fun _ => ?_) fun _ => ?_
    · split
      · dsimp only
        refine putWick_kept _ _ ?_ ?_
        · exact Kept.refl _
        · refine Kept.wick ?_ _ _
          exact Kept.refl _
      · exact Kept.refl _
    · exact Kept.refl _

theorem retire_kept (a0) (a1) (s : State) : Kept s (retire a0 a1 s) := by
  unfold retire
  dsimp only
  refine Kept.trans ?_ (nowIdle_kept ..)
  refine Kept.trans ?_ (putEng_kept ..)
  refine Kept.foldl (fun _ _ => ?_) ?_
  · exact sbDone_kept ..
  · exact Kept.refl _

theorem tapDone_kept (a0) (a1) (s : State) : Kept s (tapDone a0 a1 s) := by
  unfold tapDone
  refine Kept.ite (fun _ => ?_) fun _ => ?_
  · exact Kept.refl _
  · refine Kept.ite (fun _ => ?_) fun _ => ?_
    · refine Kept.upd ?_ ..
      exact Kept.refl _
    · refine Kept.trans ?_ (raise_kept ..)
      refine Kept.upd ?_ ..
      exact Kept.refl _

theorem complete_kept (a0) (a1) (s : State) : Kept s (complete a0 a1 s) := by
  unfold complete
  dsimp only
  refine Kept.ite (fun _ => ?_) fun _ => ?_
  · refine Kept.trans ?_ (signalOverflow_kept ..)
    refine Kept.trans ?_ (signalOne_kept ..)
    refine Kept.trans ?_ (tapDone_kept ..)
    exact writeScalars_kept ..
  · refine Kept.ite (fun _ => ?_) fun _ => ?_
    · refine Kept.trans ?_ (signalOverflow_kept ..)
      refine Kept.trans ?_ (signalOne_kept ..)
      refine Kept.trans ?_ (signalOne_kept ..)
      refine Kept.trans ?_ (tapDone_kept ..)
      exact writeScalars_kept ..
    · refine Kept.trans ?_ (retire_kept ..)
      refine Kept.trans ?_ (signalOne_kept ..)
      refine Kept.trans ?_ (signalOne_kept ..)
      refine Kept.trans ?_ (tapDone_kept ..)
      exact writeScalars_kept ..

theorem execTap_kept (a0) (a1) {s t : State} (h : execTap a0 a1 s = .next t) : Kept s t := by
  unfold execTap at h
  injection h with h
  subst h
  refine Kept.trans ?_ (issueThen_kept _ _ (fun _ => ?_) (fun _ _ => ?_) _ _)
  · exact strikes_kept ..
  · exact noCheck_kept _
  · refine Kept.trans ?_ (runFrom_kept (fun _ => ?_) _ _ _)
    · exact Kept.refl _
    · exact copyBody_kept _ _ _

theorem resumeDesc_kept (a0) (a1) (a2) (s : State) : Kept s (resumeDesc a0 a1 a2 s) := by
  unfold resumeDesc
  dsimp only
  refine Kept.ite (fun _ => ?_) fun _ => ?_
  · refine Kept.trans ?_ (runFrom_kept (fun _ => ?_) _ _ _)
    · exact Kept.refl _
    · exact matmulBody_kept _ _ _ _
  · refine Kept.ite (fun _ => ?_) fun _ => ?_
    · refine Kept.trans ?_ (runFrom_kept (fun _ => ?_) _ _ _)
      · exact Kept.refl _
      · exact drainBody_kept _ _ _ _
    · refine Kept.ite (fun _ => ?_) fun _ => ?_
      · refine Kept.trans ?_ (runFrom_kept (fun _ => ?_) _ _ _)
        · exact Kept.refl _
        · exact copyBody_kept _ _ _
      · refine Kept.ite (fun _ => ?_) fun _ => ?_
        · refine Kept.trans ?_ (runFrom_kept (fun _ => ?_) _ _ _)
          · exact Kept.refl _
          · exact indexBody_kept _ _ _
        · refine Kept.ite (fun _ => ?_) fun _ => ?_
          · refine Kept.trans ?_ (runFrom_kept (fun _ => ?_) _ _ _)
            · exact Kept.refl _
            · exact fillBody_kept _ _ _
          · refine Kept.ite (fun _ => ?_) fun _ => ?_
            · refine Kept.trans ?_ (runFrom_kept (fun _ => ?_) _ _ _)
              · exact Kept.refl _
              · exact reduceBody_kept _ _ _
            · refine Kept.ite (fun _ => ?_) fun _ => ?_
              · refine Kept.trans ?_ (runFrom_kept (fun _ => ?_) _ _ _)
                · exact Kept.refl _
                · exact verifyBody_kept _ _ _
              · refine Kept.ite (fun _ => ?_) fun _ => ?_
                · split
                  · exact nextInvocation_kept ..
                  · exact Kept.refl _
                · exact Kept.refl _

theorem fifoGo_kept (a0) (a1) (a2) (s : State) : Kept s (fifoGo a0 a1 a2 s) := by
  unfold fifoGo
  refine Kept.trans ?_ (resumeDesc_kept ..)
  exact putEng_kept ..

theorem execFifoPush_kept (a0) (a1) {s t : State} (h : execFifoPush a0 a1 s = .next t) : Kept s t := by
  unfold execFifoPush at h
  injection h with h
  subst h
  split
  · refine Kept.trans ?_ (fifoGo_kept ..)
    exact strikes_kept ..
  · exact Kept.refl _

theorem execFifoPop_kept (a0) (a1) {s t : State} (h : execFifoPop a0 a1 s = .next t) : Kept s t := by
  unfold execFifoPop at h
  injection h with h
  subst h
  split
  · refine Kept.trans ?_ (fifoGo_kept ..)
    exact strikes_kept ..
  · exact Kept.refl _

theorem csrWrite_kept (a0) (a1) (a2) (a3) (s : State) : Kept s (csrWrite a0 a1 a2 a3 s) := by
  unfold csrWrite
  refine Kept.ite (fun _ => ?_) fun _ => ?_
  · dsimp only
    exact putEng_kept ..
  · refine putW_kept _ (Kept.refl _) fun m => ?_
    rw [csrPut_lmem]
    exact (Kept.refl s).wickW a0 m

theorem csrRun_kept (a0) (a1) (a2) : KM (csrRun a0 a1 a2) := by
  unfold csrRun
  refine KM.bind KM.get fun _ => ?_
  dsimp only
  split
  · exact illegal_kept
  · refine KM.ite (fun _ => illegal_kept) fun _ => ?_
    refine KM.ite (fun _ => ?_) fun _ => wickMod_kept _ fun _ => rfl
    exact KM.bind (KM.modify fun _ => csrWrite_kept ..) fun _ => wickMod_kept _ fun _ => rfl

theorem planRun_kept (a0) (a1) (a2) (a3) : KM (planRun a0 a1 a2 a3) := by
  unfold planRun
  refine KM.bind (KM.mapM fun _ => ?_) fun _ => ?_
  · exact KM.bind (kLoad_kept _ _ _ _ _) fun _ => KM.pure _
  · split
    · exact trapM_kept _ _
    · exact KM.bind (KM.forM fun _ => runStore_kept _ _ _ _ _) fun _ => wickMod_kept _ fun _ => rfl

theorem stdRun_kept (a0) (a1) (a2) (a3) (a4) : KM (stdRun a0 a1 a2 a3 a4) := by
  unfold stdRun
  refine KM.bind ?_ fun _ => ?_
  · exact KM.get
  · dsimp only
    (split <;> try dsimp only)
    · exact illegal_kept
    · refine KM.ite (fun _ => ?_) fun _ => ?_
      · exact csrRun_kept _ _ _
      · (split <;> try dsimp only)
        · exact illegal_kept
        · refine KM.bind ?_ fun _ => ?_
          · exact planRun_kept _ _ _ _
          · refine KM.ite (fun _ => ?_) fun _ => ?_
            · refine KM.modify fun _ => ?_
              refine Kept.upd ?_ ..
              exact Kept.refl _
            · exact KM.pure _

theorem xseltarRun_kept (a0) {s t : State} (h : xseltarRun a0 s = .next t) : Kept s t := by
  unfold xseltarRun at h
  split at h
  · exact execTlyRed_kept _ _ _ h
  · exact execTlyAdd_kept _ _ _ _ h
  · exact execTlyMul_kept _ _ _ _ h
  · exact execTlySh_kept _ _ _ _ h
  · exact execTlyTile_kept _ _ _ _ h
  · exact execTlyChk_kept _ _ _ _ h
  · exact execTlyBeta_kept _ _ _ _ _ _ h
  · exact execCrvEv_kept _ _ _ _ h
  · exact execRngU32_kept _ _ _ _ h
  · exact execRngF32_kept _ _ _ _ h
  · exact execRedMax_kept _ _ _ h
  · exact execRedMin_kept _ _ _ h
  · exact execRedAmax_kept _ _ _ _ h
  · exact execRedAmin_kept _ _ _ _ h
  · exact execRedSum_kept _ _ _ h
  · exact execCvtIn_kept _ _ _ _ h
  · exact execCvtOut_kept _ _ _ _ h
  · exact execCvtMxs_kept _ _ _ _ h
  · injection h with h
    exact h ▸ Kept.refl _

theorem wickAt_kept (a0) (a1) {s t : State} (h : wickAt a0 a1 s = .next t) : Kept s t := by
  unfold wickAt at h
  split at h
  · injection h with h
    subst h
    exact wickRun_kept _ _ (fun _ _ => trapM_kept _ _) _
  · split at h
    · injection h with h
      subst h
      exact ecallStep_kept ..
    · split at h
      · exact xseltarRun_kept _ h
      · injection h with h
        subst h
        exact wickRun_kept _ _ (fun _ _ => stdRun_kept _ _ _ _ _) _

theorem execWickInstruction_kept (a0) (a1) (a2) (a3) (a4) {s t : State} (h : execWickInstruction a0 a1 a2 a3 a4 s = .next t) : Kept s t :=
  wickAt_kept _ _ h

end Sys2Proof.Machine
end

