-- ==== Sys2Proof/Laws/KeptUnits.lean ====
section
/-! SUPPORT. What every command keeps (Safety.Kept), carried through units, the end of a job, time, the register pages, admin commands and the partition: one lemma per operation. -/

namespace Sys2Proof.Machine

/-! ### Units -/

theorem putUnit_kept (a0) (a1) (s : State) : Kept s (putUnit a0 a1 s) := by
  unfold putUnit
  split
  · exact putLan_kept ..
  · refine putWick_kept _ _ ?_ ?_
    · exact Kept.refl _
    · refine Kept.wick ?_ _ _
      exact Kept.refl _

theorem staleBanks_kept (s : State) : Kept s (staleBanks s) := by
  unfold staleBanks
  refine Kept.upd ?_ ..
  exact Kept.refl _

theorem markDark_kept (a0) (a1) (s : State) : Kept s (markDark a0 a1 s) := by
  unfold markDark
  exact regPut_kept ..

theorem darken_kept (a0) (s : State) : Kept s (darken a0 s) := by
  unfold darken
  refine Kept.trans ?_ (staleBanks_kept ..)
  refine Kept.trans ?_ (markDark_kept ..)
  exact putUnit_kept ..

theorem katBegin_kept (a0) (s : State) : Kept s (katBegin a0 s) := by
  unfold katBegin
  exact putUnit_kept ..

theorem execSpareKatTimer_kept (a0) {s t : State} (h : execSpareKatTimer a0 s = .next t) : Kept s t := by
  unfold execSpareKatTimer at h
  injection h with h
  subst h
  refine Kept.ite (fun _ => ?_) fun _ => ?_
  · refine Kept.trans ?_ (katBegin_kept ..)
    exact watchTo_kept ..
  · exact Kept.refl _

theorem execKatStart_kept (a0) {s t : State} (h : execKatStart a0 s = .next t) : Kept s t := by
  unfold execKatStart at h
  injection h with h
  subst h
  refine Kept.trans ?_ (hostWrite_kept _ _ (fun _ => ?_) _)
  · exact Kept.refl _
  · refine Kept.ite (fun _ => ?_) fun _ => ?_
    · exact katBegin_kept ..
    · exact Kept.refl _

theorem enableUnit_kept (a0) (s : State) : Kept s (enableUnit a0 s) := by
  unfold enableUnit
  exact regPut_kept ..

theorem spareKatEnd_kept (a0) (a1) (s : State) : Kept s (spareKatEnd a0 a1 s) := by
  unfold spareKatEnd
  dsimp only
  refine Kept.ite (fun _ => ?_) fun _ => ?_
  · exact putUnit_kept ..
  · refine Kept.trans ?_ (darken_kept ..)
    refine Kept.trans ?_ (raise_kept ..)
    exact putUnit_kept ..

theorem execSpareKatComplete_kept (a0) (a1) {s t : State} (h : execSpareKatComplete a0 a1 s = .next t) : Kept s t := by
  unfold execSpareKatComplete at h
  injection h with h
  subst h
  refine Kept.ite (fun _ => ?_) fun _ => ?_
  · exact spareKatEnd_kept ..
  · exact Kept.refl _

theorem wakeUnit_kept (a0) (s : State) : Kept s (wakeUnit a0 s) := by
  unfold wakeUnit
  dsimp only
  split
  · exact putUnit_kept ..
  · split
    · refine Kept.trans ?_ (finish_kept ..)
      exact putUnit_kept ..
    · exact putUnit_kept ..

theorem execEngineWakeDone_kept (a0) {s t : State} (h : execEngineWakeDone a0 s = .next t) : Kept s t := by
  unfold execEngineWakeDone at h
  injection h with h
  subst h
  refine Kept.ite (fun _ => ?_) fun _ => ?_
  · exact wakeUnit_kept ..
  · exact Kept.refl _

theorem powerGate_kept (a0) (s : State) : Kept s (powerGate a0 s) := by
  unfold powerGate
  dsimp only
  refine Kept.trans ?_ (putUnit_kept ..)
  exact watchTo_kept ..

theorem execPowerGateDelayExpiry_kept (a0) {s t : State} (h : execPowerGateDelayExpiry a0 s = .next t) : Kept s t := by
  unfold execPowerGateDelayExpiry at h
  injection h with h
  subst h
  refine Kept.ite (fun _ => ?_) fun _ => ?_
  · exact powerGate_kept ..
  · exact Kept.refl _

theorem remapPlacement_kept (a0) (a1) (a2) (s : State) : Kept s (remapPlacement a0 a1 a2 s) := by
  unfold remapPlacement
  dsimp only
  split
  · exact Kept.refl _
  · exact putBank_kept ..

theorem ledEvent_kept (a0) (a1) (a2) (a3) (a4) (a5) (s : State) : Kept s (ledEvent a0 a1 a2 a3 a4 a5 s) := by
  unfold ledEvent
  refine Kept.ite (fun _ => ?_) fun _ => ?_
  · dsimp only
    refine Kept.upd ?_ ..
    exact Kept.refl _
  · refine Kept.trans ?_ (raise_kept ..)
    refine Kept.upd ?_ ..
    exact Kept.refl _

theorem carryCurves_kept (a0) (a1) (s : State) : Kept s (carryCurves a0 a1 s) := by
  unfold carryCurves
  split
  · refine putWick_kept _ _ ?_ ?_
    · exact Kept.refl _
    · refine Kept.wick ?_ _ _
      exact Kept.refl _
  · exact Kept.refl _

theorem swapIn_kept (a0) (a1) (s : State) : Kept s (swapIn a0 a1 s) := by
  unfold swapIn
  dsimp only
  refine Kept.trans ?_ (ledEvent_kept ..)
  refine Kept.upd ?_ ..
  refine Kept.trans ?_ (emit_kept ..)
  refine Kept.trans ?_ (regCount_kept ..)
  refine Kept.trans ?_ (raise_kept ..)
  refine Kept.trans ?_ (darken_kept ..)
  refine Kept.trans ?_ (putUnit_kept ..)
  refine Kept.trans ?_ (enableUnit_kept ..)
  refine Kept.trans ?_ (putUnit_kept ..)
  refine Kept.trans ?_ (carryCurves_kept ..)
  exact remapPlacement_kept ..

/-! ### JobEnd -/

theorem putQueue_kept (a0) (a1) (s : State) : Kept s (putQueue a0 a1 s) := by
  unfold putQueue
  refine Kept.upd ?_ ..
  exact Kept.refl _

theorem postComp_kept (a0) (a1) (s : State) : Kept s (postComp a0 a1 s) := by
  unfold postComp
  refine Kept.ite (fun _ => ?_) fun _ => ?_
  · exact Kept.refl _
  · dsimp only
    exact putQueue_kept ..

theorem cmdDone_kept (a0) (a1) (a2) (s : State) : Kept s (cmdDone a0 a1 a2 s) := by
  unfold cmdDone
  dsimp only
  refine Kept.ite (fun _ => ?_) fun _ => ?_
  · exact emit_kept ..
  · refine Kept.trans ?_ (postComp_kept ..)
    refine Kept.ite (fun _ => ?_) fun _ => ?_
    · exact emit_kept ..
    · exact Kept.refl _

theorem cmdConflict_kept (a0) (s : State) : Kept s (cmdConflict a0 s) := by
  unfold cmdConflict
  refine Kept.trans ?_ (cmdDone_kept ..)
  exact conflict_kept ..

theorem refuseJob_kept (a0) (a1) (a2) (s : State) : Kept s (refuseJob a0 a1 a2 s) := by
  unfold refuseJob
  refine Kept.ite (fun _ => ?_) fun _ => ?_
  · exact postComp_kept ..
  · exact Kept.refl _

theorem bufHash_kept (a0) (a1) : KM (bufHash a0 a1) := by
  unfold bufHash
  refine KM.bind ?_ fun _ => ?_
  · exact KM.get
  · refine KM.bind ?_ fun _ => ?_
    · refine KM.mapM fun _ => ?_
      (split <;> try dsimp only)
      · refine KM.bind ?_ fun _ => ?_
        · exact readMem_kept _ _ _
        · exact KM.pure _
      · exact KM.pure _
    · exact KM.pure _

theorem putSlotState_kept (a0) (a1) (s : State) : Kept s (putSlotState a0 a1 s) := by
  unfold putSlotState
  exact pokeMem_kept ..

theorem storeRecord_kept (a0) (a1) (s : State) : Kept s (storeRecord a0 a1 s).2 := by
  unfold storeRecord
  dsimp only
  refine Kept.trans ?_ (regPut_kept ..)
  refine Kept.trans ?_ (pokeMem_kept ..)
  refine Kept.ite (fun _ => ?_) fun _ => ?_
  · exact raise_kept ..
  · exact Kept.refl _

theorem postJob_kept (a0) (a1) (s : State) : Kept s (postJob a0 a1 s) := by
  unfold postJob
  split
  · exact postComp_kept ..
  · exact Kept.refl _

theorem noteWithheld_kept (s : State) : Kept s (noteWithheld s) := by
  unfold noteWithheld
  refine Kept.ite (fun _ => ?_) fun _ => ?_
  · exact Kept.refl _
  · exact raise_kept ..

theorem bookRecord_kept (a0) (a1) (s : State) : Kept s (bookRecord a0 a1 s) := by
  unfold bookRecord
  dsimp only
  refine Kept.ite (fun _ => ?_) fun _ => ?_
  · refine Kept.trans ?_ (postJob_kept ..)
    refine Kept.trans ?_ (putSlotState_kept ..)
    refine Kept.trans ?_ (noteWithheld_kept ..)
    exact storeRecord_kept ..
  · refine Kept.upd ?_ ..
    exact storeRecord_kept ..

theorem writeLedger_kept (a0) (s : State) : Kept s (writeLedger a0 s) := by
  unfold writeLedger
  dsimp only
  refine Kept.ite (fun _ => ?_) fun _ => ?_
  · refine Kept.upd ?_ ..
    exact Kept.refl _
  · exact bookRecord_kept ..

theorem answerEnds_kept (a0) (s : State) : Kept s (answerEnds a0 s) := by
  unfold answerEnds
  dsimp only
  refine Kept.foldl (fun _ _ => ?_) ?_
  · exact cmdDone_kept ..
  · refine Kept.upd ?_ ..
    exact Kept.refl _

theorem stopAll_kept (s : State) : Kept s (stopAll s) := by
  unfold stopAll
  refine Kept.updMem ?_ (a := ?_) (b := ?_) (c := ?_) (d := ?_) ..
  · exact Kept.refl _
  · exact id
  · exact id
  · exact id
  · exact wicksWf_tmap fun _ _ => rfl

theorem finishDrain_kept (a0) (s : State) : Kept s (finishDrain a0 s) := by
  unfold finishDrain
  dsimp only
  refine Kept.trans ?_ (answerEnds_kept ..)
  refine Kept.upd ?_ ..
  exact writeLedger_kept ..

theorem sendHold_kept (a0) (s : State) : Kept s (sendHold a0 s) := by
  unfold sendHold
  refine Kept.upd ?_ ..
  exact Kept.refl _

theorem faulted_kept (a0) (a1) (a2) (s : State) : Kept s (faulted a0 a1 a2 s) := by
  unfold faulted
  dsimp only
  split
  · refine Kept.trans ?_ (assertFog_kept ..)
    refine Kept.upd ?_ ..
    refine Kept.trans ?_ (ledEvent_kept ..)
    refine Kept.trans ?_ (stopAll_kept ..)
    exact sendHold_kept ..
  · refine Kept.trans ?_ (answerEnds_kept ..)
    refine Kept.trans ?_ (writeLedger_kept ..)
    refine Kept.upd ?_ ..
    refine Kept.trans ?_ (assertFog_kept ..)
    refine Kept.upd ?_ ..
    refine Kept.trans ?_ (ledEvent_kept ..)
    refine Kept.trans ?_ (stopAll_kept ..)
    exact sendHold_kept ..

theorem dataLost_kept (a0) (s : State) : Kept s (dataLost a0 s) := by
  unfold dataLost
  refine Kept.trans ?_ (faulted_kept ..)
  (split <;> try dsimp only)
  · exact noSource_kept ..
  · exact report_kept ..

theorem startDrain_kept (a0) (a1) (a2) (a3) (s : State) : Kept s (startDrain a0 a1 a2 a3 s) := by
  unfold startDrain
  (split <;> try dsimp only)
  · exact Kept.refl _
  · (split <;> try dsimp only)
    · refine Kept.upd ?_ ..
      rename_i h; refine Kept.trans ?_ (Kept.go h (bufHash_kept _ _))
      refine Kept.upd ?_ ..
      exact stopAll_kept ..
    · refine Kept.trans ?_ (dataLost_kept ..)
      rename_i h; refine Kept.trans ?_ (Kept.go h (bufHash_kept _ _))
      refine Kept.upd ?_ ..
      exact stopAll_kept ..

theorem checkLast_kept (s : State) : Kept s (checkLast s) := by
  unfold checkLast
  refine Kept.ite (fun _ => ?_) fun _ => ?_
  · exact startDrain_kept ..
  · exact Kept.refl _

theorem execDescriptorComplete_kept (a0) {s t : State} (h : execDescriptorComplete a0 s = .next t) : Kept s t := by
  unfold execDescriptorComplete at h
  injection h with h
  subst h
  split
  · refine Kept.trans ?_ (checkLast_kept ..)
    exact complete_kept ..
  · exact Kept.refl _

/-! ### Time -/

theorem putTime_kept (a0) (s : State) : Kept s (putTime a0 s) := by
  unfold putTime
  refine Kept.upd ?_ ..
  exact Kept.refl _

theorem putDom_kept (a0) (a1) (s : State) : Kept s (putDom a0 a1 s) := by
  unfold putDom
  exact putTime_kept ..

theorem timEvent_kept (a0) (a1) (a2) (a3) (s : State) : Kept s (timEvent a0 a1 a2 a3 s) := by
  unfold timEvent
  exact raise_kept ..

theorem slew_kept (s : State) : Kept s (slew s) := by
  unfold slew
  refine Kept.trans ?_ (bumpFree_kept ..)
  exact putTime_kept ..

theorem toLocked_kept (a0) (s : State) : Kept s (toLocked a0 s) := by
  unfold toLocked
  refine Kept.trans ?_ (timEvent_kept ..)
  exact putTime_kept ..

theorem lockLost_kept (a0) (s : State) : Kept s (lockLost a0 s) := by
  unfold lockLost
  dsimp only
  refine Kept.ite (fun _ => ?_) fun _ => ?_
  · refine Kept.trans ?_ (detect_kept ..)
    refine Kept.trans ?_ (timEvent_kept ..)
    exact putTime_kept ..
  · refine Kept.trans ?_ (timEvent_kept ..)
    exact putTime_kept ..

theorem acquireSync_kept (a0) (a1) (s : State) : Kept s (acquireSync a0 a1 s) := by
  unfold acquireSync
  refine Kept.ite (fun _ => ?_) fun _ => ?_
  · exact putTime_kept ..
  · dsimp only
    refine Kept.ite (fun _ => ?_) fun _ => ?_
    · refine Kept.trans ?_ (toLocked_kept ..)
      exact slew_kept ..
    · refine Kept.trans ?_ (putTime_kept ..)
      exact slew_kept ..

theorem servoSync_kept (a0) (s : State) : Kept s (servoSync a0 s) := by
  unfold servoSync
  dsimp only
  split
  · exact putTime_kept ..
  · exact acquireSync_kept ..
  · refine Kept.ite (fun _ => ?_) fun _ => ?_
    · exact lockLost_kept ..
    · refine Kept.trans ?_ (slew_kept ..)
      exact putTime_kept ..
  · refine Kept.ite (fun _ => ?_) fun _ => ?_
    · exact toLocked_kept ..
    · refine Kept.ite (fun _ => ?_) fun _ => ?_
      · exact lockLost_kept ..
      · exact slew_kept ..

theorem switchDomain_kept (a0) (s : State) : Kept s (switchDomain a0 s) := by
  unfold switchDomain
  dsimp only
  refine Kept.trans ?_ (timEvent_kept ..)
  refine Kept.trans ?_ (regPut_kept ..)
  refine Kept.trans ?_ (putTime_kept ..)
  exact putDom_kept ..

theorem yieldTo_kept (a0) (a1) (s : State) : Kept s (yieldTo a0 a1 s) := by
  unfold yieldTo
  dsimp only
  refine Kept.ite (fun _ => ?_) fun _ => ?_
  · refine Kept.trans ?_ (timEvent_kept ..)
    exact putDom_kept ..
  · exact Kept.refl _

theorem putOffset_kept (a0) (a1) (s : State) : Kept s (putOffset a0 a1 s) := by
  unfold putOffset
  dsimp only
  exact regPut_kept ..

theorem adoptInterim_kept (a0) (s : State) : Kept s (adoptInterim a0 s) := by
  unfold adoptInterim
  dsimp only
  refine Kept.ite (fun _ => ?_) fun _ => ?_
  · refine Kept.trans ?_ (toLocked_kept ..)
    refine Kept.trans ?_ (regPut_kept ..)
    refine Kept.trans ?_ (putTime_kept ..)
    exact putDom_kept ..
  · refine Kept.trans ?_ (regPut_kept ..)
    refine Kept.trans ?_ (putTime_kept ..)
    exact putDom_kept ..

theorem domainLost_kept (a0) (s : State) : Kept s (domainLost a0 s) := by
  unfold domainLost
  dsimp only
  refine Kept.ite (fun _ => ?_) fun _ => ?_
  · refine Kept.trans ?_ (switchDomain_kept ..)
    exact putDom_kept ..
  · refine Kept.ite (fun _ => ?_) fun _ => ?_
    · exact putDom_kept ..
    · refine Kept.ite (fun _ => ?_) fun _ => ?_
      · refine Kept.trans ?_ (timEvent_kept ..)
        refine Kept.trans ?_ (putTime_kept ..)
        exact putDom_kept ..
      · refine Kept.trans ?_ (putTime_kept ..)
        exact putDom_kept ..

theorem execDomainTimeout_kept (a0) {s t : State} (h : execDomainTimeout a0 s = .next t) : Kept s t := by
  unfold execDomainTimeout at h
  injection h with h
  subst h
  dsimp only
  refine Kept.ite (fun _ => ?_) fun _ => ?_
  · refine Kept.trans ?_ (domainLost_kept ..)
    exact watchTo_kept ..
  · exact Kept.refl _

theorem timeRevert_kept (s : State) : Kept s (timeRevert s) := by
  unfold timeRevert
  dsimp only
  refine Kept.ite (fun _ => ?_) fun _ => ?_
  · exact switchDomain_kept ..
  · exact Kept.refl _

theorem execTimeRevert_kept {s t : State} (h : execTimeRevert s = .next t) : Kept s t := by
  unfold execTimeRevert at h
  injection h with h
  subst h
  refine Kept.trans ?_ (hostWrite_kept _ _ (fun _ => ?_) _)
  · exact Kept.refl _
  · exact timeRevert_kept ..

theorem tick_kept (s : State) : Kept s (tick s) := by
  unfold tick
  exact watchTo_kept ..

theorem applyStep_kept (s : State) : Kept s (applyStep s) := by
  unfold applyStep
  (split <;> try dsimp only)
  · exact Kept.refl _
  · refine Kept.ite (fun _ => ?_) fun _ => ?_
    · refine Kept.updKpr ?_ ..
      refine Kept.trans ?_ (putTime_kept ..)
      exact putTime_kept ..
    · exact putTime_kept ..

theorem execWatchReferencePulse_kept {s t : State} (h : execWatchReferencePulse s = .next t) : Kept s t := by
  unfold execWatchReferencePulse at h
  injection h with h
  subst h
  refine Kept.trans ?_ (applyStep_kept ..)
  refine Kept.upd ?_ ..
  exact Kept.refl _

theorem anchorAt_kept (a0) (a1) (s : State) : Kept s (anchorAt a0 a1 s) := by
  unfold anchorAt
  exact putTime_kept ..

theorem ppsEdge_kept (s : State) : Kept s (ppsEdge s) := by
  unfold ppsEdge
  dsimp only
  refine Kept.ite (fun _ => ?_) fun _ => ?_
  · refine Kept.trans ?_ (slew_kept ..)
    refine Kept.trans ?_ (regPut64_kept ..)
    refine Kept.trans ?_ (anchorAt_kept ..)
    refine Kept.trans ?_ (regPut64_kept ..)
    exact putTime_kept ..
  · refine Kept.trans ?_ (regPut64_kept ..)
    exact putTime_kept ..

theorem execPpsInEdge_kept {s t : State} (h : execPpsInEdge s = .next t) : Kept s t := by
  unfold execPpsInEdge at h
  injection h with h
  subst h
  exact ppsEdge_kept ..

theorem ppsLost_kept (s : State) : Kept s (ppsLost s) := by
  unfold ppsLost
  dsimp only
  refine Kept.ite (fun _ => ?_) fun _ => ?_
  · refine Kept.trans ?_ (timEvent_kept ..)
    exact putTime_kept ..
  · exact putTime_kept ..

theorem execPpsTimeout_kept {s t : State} (h : execPpsTimeout s = .next t) : Kept s t := by
  unfold execPpsTimeout at h
  injection h with h
  subst h
  split
  · refine Kept.ite (fun _ => ?_) fun _ => ?_
    · refine Kept.trans ?_ (ppsLost_kept ..)
      exact watchTo_kept ..
    · exact Kept.refl _
  · exact Kept.refl _

theorem todTake_kept (a0) (s : State) : Kept s (todTake a0 s) := by
  unfold todTake
  dsimp only
  refine Kept.trans ?_ (putTime_kept ..)
  exact anchorAt_kept ..

theorem execTodMessageRx_kept (a0) {s t : State} (h : execTodMessageRx a0 s = .next t) : Kept s t := by
  unfold execTodMessageRx at h
  injection h with h
  subst h
  refine Kept.ite (fun _ => ?_) fun _ => ?_
  · exact Kept.refl _
  · refine Kept.ite (fun _ => ?_) fun _ => ?_
    · exact todTake_kept ..
    · exact putTime_kept ..

theorem execTodTimeout_kept {s t : State} (h : execTodTimeout s = .next t) : Kept s t := by
  unfold execTodTimeout at h
  injection h with h
  subst h
  dsimp only
  refine Kept.ite (fun _ => ?_) fun _ => ?_
  · exact Kept.refl _
  · refine Kept.trans ?_ (timEvent_kept ..)
    refine Kept.trans ?_ (putTime_kept ..)
    exact watchTo_kept ..

theorem applySec_kept (s : State) : Kept s (applySec s) := by
  unfold applySec
  split
  · exact Kept.refl _
  · dsimp only
    refine Kept.trans ?_ (putTime_kept ..)
    exact anchorAt_kept ..

theorem ppsOut_kept (s : State) : Kept s (ppsOut s) := by
  unfold ppsOut
  dsimp only
  refine Kept.ite (fun _ => ?_) fun _ => ?_
  · refine Kept.trans ?_ (emit_kept ..)
    refine Kept.trans ?_ (putTime_kept ..)
    refine Kept.trans ?_ (applySec_kept ..)
    refine Kept.upd ?_ ..
    exact Kept.refl _
  · refine Kept.trans ?_ (putTime_kept ..)
    refine Kept.trans ?_ (applySec_kept ..)
    refine Kept.upd ?_ ..
    exact Kept.refl _

theorem execPpsOutPulse_kept {s t : State} (h : execPpsOutPulse s = .next t) : Kept s t := by
  unfold execPpsOutPulse at h
  injection h with h
  subst h
  refine Kept.ite (fun _ => ?_) fun _ => ?_
  · exact ppsOut_kept ..
  · exact Kept.refl _

theorem execPpsOutEnd_kept {s t : State} (h : execPpsOutEnd s = .next t) : Kept s t := by
  unfold execPpsOutEnd at h
  injection h with h
  subst h
  split
  · exact Kept.refl _
  · dsimp only
    refine Kept.ite (fun _ => ?_) fun _ => ?_
    · refine Kept.trans ?_ (emit_kept ..)
      refine Kept.trans ?_ (putTime_kept ..)
      exact watchTo_kept ..
    · refine Kept.trans ?_ (putTime_kept ..)
      exact watchTo_kept ..

theorem execTodTxSend_kept {s t : State} (h : execTodTxSend s = .next t) : Kept s t := by
  unfold execTodTxSend at h
  injection h with h
  subst h
  split
  · exact Kept.refl _
  · dsimp only
    refine Kept.ite (fun _ => ?_) fun _ => ?_
    · refine Kept.trans ?_ (emit_kept ..)
      refine Kept.trans ?_ (putTime_kept ..)
      exact watchTo_kept ..
    · refine Kept.trans ?_ (putTime_kept ..)
      exact watchTo_kept ..

theorem regCount16_kept (a0) (s : State) : Kept s (regCount16 a0 s) := by
  unfold regCount16
  exact regPut_kept ..

theorem countLocked_kept (a0) (s : State) : Kept s (countLocked a0 s) := by
  unfold countLocked
  exact regCount16_kept ..

theorem reanchor_kept (s : State) : Kept s (reanchor s) := by
  unfold reanchor
  dsimp only
  exact putTime_kept ..

theorem setTodInc_kept (a0) (s : State) : Kept s (setTodInc a0 s) := by
  unfold setTodInc
  refine Kept.ite (fun _ => ?_) fun _ => ?_
  · exact countLocked_kept ..
  · refine Kept.ite (fun _ => ?_) fun _ => ?_
    · exact Kept.refl _
    · refine Kept.trans ?_ (regPut64_kept ..)
      exact reanchor_kept ..

theorem takeUtc_kept (a0) (a1) (s : State) : Kept s (takeUtc a0 a1 s) := by
  unfold takeUtc
  refine Kept.ite (fun _ => ?_) fun _ => ?_
  · exact putTime_kept ..
  · exact Kept.refl _

theorem syncServo_kept (a0) (a1) (a2) (a3) (s : State) : Kept s (syncServo a0 a1 a2 a3 s) := by
  unfold syncServo
  dsimp only
  refine Kept.ite (fun _ => ?_) fun _ => ?_
  · refine Kept.ite (fun _ => ?_) fun _ => ?_
    · exact adoptInterim_kept ..
    · refine Kept.ite (fun _ => ?_) fun _ => ?_
      · exact servoSync_kept ..
      · exact Kept.refl _
  · refine Kept.ite (fun _ => ?_) fun _ => ?_
    · refine Kept.ite (fun _ => ?_) fun _ => ?_
      · refine Kept.trans ?_ (servoSync_kept ..)
        exact switchDomain_kept ..
      · exact switchDomain_kept ..
    · refine Kept.ite (fun _ => ?_) fun _ => ?_
      · exact Kept.refl _
      · refine Kept.ite (fun _ => ?_) fun _ => ?_
        · exact servoSync_kept ..
        · refine Kept.ite (fun _ => ?_) fun _ => ?_
          · exact putTime_kept ..
          · exact Kept.refl _

theorem domSync_kept (a0) (a1) (s : State) : Kept s (domSync a0 a1 s) := by
  unfold domSync
  dsimp only
  refine Kept.trans ?_ (takeUtc_kept ..)
  refine Kept.trans ?_ (syncServo_kept ..)
  refine Kept.trans ?_ (putOffset_kept ..)
  exact putDom_kept ..

theorem acceptBlk_kept (a0) (a1) (a2) (s : State) : Kept s (acceptBlk a0 a1 a2 s) := by
  unfold acceptBlk
  refine Kept.ite (fun _ => ?_) fun _ => ?_
  · exact Kept.refl _
  · dsimp only
    (split <;> try dsimp only)
    · refine Kept.trans ?_ (yieldTo_kept ..)
      exact putDom_kept ..
    · refine Kept.ite (fun _ => ?_) fun _ => ?_
      · refine Kept.trans ?_ (domSync_kept ..)
        refine Kept.trans ?_ (putDom_kept ..)
        refine Kept.trans ?_ (yieldTo_kept ..)
        exact putDom_kept ..
      · refine Kept.trans ?_ (putDom_kept ..)
        refine Kept.trans ?_ (yieldTo_kept ..)
        exact putDom_kept ..

theorem dropBlk_kept (a0) (a1) (s : State) : Kept s (dropBlk a0 a1 s) := by
  unfold dropBlk
  exact putDom_kept ..

theorem acceptTime_kept (a0) (a1) (s : State) : Kept s (acceptTime a0 a1 s) := by
  unfold acceptTime
  dsimp only
  refine Kept.ite (fun _ => ?_) fun _ => ?_
  · refine Kept.trans ?_ (acceptBlk_kept ..)
    refine Kept.ite (fun _ => ?_) fun _ => ?_
    · exact acceptBlk_kept ..
    · exact dropBlk_kept ..
  · refine Kept.trans ?_ (dropBlk_kept ..)
    refine Kept.ite (fun _ => ?_) fun _ => ?_
    · exact acceptBlk_kept ..
    · exact dropBlk_kept ..

theorem todSecWrite_kept (a0) (s : State) : Kept s (todSecWrite a0 s) := by
  unfold todSecWrite
  refine Kept.ite (fun _ => ?_) fun _ => ?_
  · exact countLocked_kept ..
  · refine Kept.ite (fun _ => ?_) fun _ => ?_
    · exact putTime_kept ..
    · exact Kept.refl _

theorem execTodSecWrite_kept (a0) {s t : State} (h : execTodSecWrite a0 s = .next t) : Kept s t := by
  unfold execTodSecWrite at h
  injection h with h
  subst h
  refine Kept.trans ?_ (hostWrite_kept _ _ (fun _ => ?_) _)
  · exact Kept.refl _
  · exact todSecWrite_kept ..

/-! ### Regs -/

theorem readLatch_kept (a0) (s : State) : Kept s (readLatch a0 s).2 := by
  unfold readLatch
  split
  · dsimp only
    refine Kept.upd ?_ ..
    exact Kept.refl _
  · split
    · dsimp only
      exact Kept.refl _
    · split
      · dsimp only
        refine Kept.upd ?_ ..
        exact Kept.refl _
      · dsimp only
        exact Kept.refl _
      · dsimp only
        exact Kept.refl _

theorem bar0Read_kept (a0) (a1) (s : State) : Kept s (bar0Read a0 a1 s).2 := by
  unfold bar0Read
  split
  · split
    · dsimp only
      exact readLatch_kept ..
    · dsimp only
      refine Kept.trans ?_ (readLatch_kept ..)
      exact readLatch_kept ..
  · dsimp only
    exact readLatch_kept ..

theorem execLowWordRead_kept (a0) (a1) {s t : State} (h : execLowWordRead a0 a1 s = .next t) : Kept s t := by
  unfold execLowWordRead at h
  injection h with h
  subst h
  refine Kept.ite (fun _ => ?_) fun _ => ?_
  · exact emit_kept ..
  · dsimp only
    refine Kept.trans ?_ (emit_kept ..)
    exact bar0Read_kept ..

theorem writeReg_kept (a0) (a1) (a2) (a3) (s : State) : Kept s (writeReg a0 a1 a2 a3 s) := by
  unfold writeReg
  dsimp only
  refine Kept.ite (fun _ => ?_) fun _ => ?_
  · refine Kept.trans ?_ (countLocked_kept ..)
    refine Kept.ite (fun _ => ?_) fun _ => ?_
    · exact regPut64_kept ..
    · exact regPut_kept ..
  · refine Kept.ite (fun _ => ?_) fun _ => ?_
    · exact regPut64_kept ..
    · exact regPut_kept ..

/-! ### Admin -/

theorem advanceHead_kept (a0) (s : State) : Kept s (advanceHead a0 s) := by
  unfold advanceHead
  dsimp only
  exact putQueue_kept ..

theorem cmdGate_kept (a b l hs q) {body : CmdBody} (hb : ∀ o x t, Kept t (body o x t)) (o) (s : State) :
    Kept s (cmdGate a b l hs q body o s) := by
  unfold cmdGate
  refine Kept.ite (fun _ => cmdDone_kept ..) fun _ => Kept.ite (fun _ => cmdDone_kept ..) fun _ => Kept.ite (fun _ => cmdConflict_kept ..)
    fun _ => hb ..

theorem adminRun_kept (c l hs q) {body : CmdBody} (hb : ∀ o x t, Kept t (body o x t)) (s : State) :
    Kept s (adminRun c l hs q body s) := by
  unfold adminRun
  exact Kept.ite (fun _ => (advanceHead_kept ..).trans (cmdGate_kept _ _ _ _ _ hb ..)) fun _ => Kept.refl _

theorem pushBulk_kept (a0) (a1) (s : State) : Kept s (pushBulk a0 a1 s) := by
  unfold pushBulk
  exact putLink_kept ..

theorem drainOut_kept (s : State) : Kept s (drainOut s) := by
  unfold drainOut
  refine Kept.foldl (fun _ _ => ?_) ?_
  · (split <;> try dsimp only)
    · exact Kept.refl _
    · refine Kept.ite (fun _ => ?_) fun _ => ?_
      · exact pushBulk_kept ..
      · refine Kept.upd ?_ ..
        exact Kept.refl _
  · refine Kept.upd ?_ ..
    exact Kept.refl _

theorem sendBytes_kept (a0) (a1) (a2) (s : State) : Kept s (sendBytes a0 a1 a2 s) := by
  unfold sendBytes
  refine Kept.trans ?_ (drainOut_kept ..)
  refine Kept.upd ?_ ..
  exact Kept.refl _

theorem sendMsg_kept (a0) (a1) (a2) (a3) (s : State) : Kept s (sendMsg a0 a1 a2 a3 s) := by
  unfold sendMsg
  refine Kept.trans ?_ (sendBytes_kept ..)
  exact emit_kept ..

/-! ### Partition -/

theorem putPart_kept (a0) (s : State) : Kept s (putPart a0 s) := by
  unfold putPart
  refine Kept.upd ?_ ..
  exact Kept.refl _

theorem noPart_kept (s : State) : Kept s (noPart s) := by
  unfold noPart
  dsimp only
  refine Kept.upd ?_ ..
  exact putPart_kept ..

theorem formDone_kept (a0) (s : State) : Kept s (formDone a0 s) := by
  unfold formDone
  split
  · exact Kept.refl _
  · dsimp only
    refine Kept.trans ?_ (cmdDone_kept ..)
    refine Kept.upd ?_ ..
    exact Kept.refl _

theorem enterFormed_kept (s : State) : Kept s (enterFormed s) := by
  unfold enterFormed
  refine Kept.trans ?_ (formDone_kept ..)
  refine Kept.trans ?_ (staleBanks_kept ..)
  exact putPart_kept ..

theorem toMembersOn_kept (a0) (a1) (a2) (s : State) : Kept s (toMembersOn a0 a1 a2 s) := by
  unfold toMembersOn
  refine Kept.foldl (fun _ _ => ?_) ?_
  · exact sendMsg_kept ..
  · exact Kept.refl _

theorem toMembers_kept (a0) (a1) (s : State) : Kept s (toMembers a0 a1 s) := by
  unfold toMembers
  exact toMembersOn_kept ..

theorem headFormed_kept (s : State) : Kept s (headFormed s) := by
  unfold headFormed
  refine Kept.trans ?_ (enterFormed_kept ..)
  exact toMembersOn_kept ..

theorem headAbort_kept (s : State) : Kept s (headAbort s) := by
  unfold headAbort
  dsimp only
  refine Kept.trans ?_ (staleBanks_kept ..)
  refine Kept.trans ?_ (noPart_kept ..)
  refine Kept.trans ?_ (formDone_kept ..)
  refine Kept.trans ?_ (report_kept ..)
  refine Kept.trans ?_ (emit_kept ..)
  exact toMembersOn_kept ..

theorem headDecide_kept (s : State) : Kept s (headDecide s) := by
  unfold headDecide
  refine Kept.ite (fun _ => ?_) fun _ => ?_
  · refine Kept.ite (fun _ => ?_) fun _ => ?_
    · exact headFormed_kept ..
    · exact headAbort_kept ..
  · exact Kept.refl _

theorem sendReport_kept (a0) (s : State) : Kept s (sendReport a0 s) := by
  unfold sendReport
  dsimp only
  exact sendMsg_kept ..

theorem startForming_kept (a0) (a1) (s : State) : Kept s (startForming a0 a1 s) := by
  unfold startForming
  dsimp only
  refine Kept.ite (fun _ => ?_) fun _ => ?_
  · refine Kept.trans ?_ (headDecide_kept ..)
    (split <;> try dsimp only)
    · refine Kept.trans ?_ (report_kept ..)
      refine Kept.trans ?_ (emit_kept ..)
      refine Kept.trans ?_ (staleBanks_kept ..)
      refine Kept.trans ?_ (putPart_kept ..)
      refine Kept.upd ?_ ..
      exact Kept.refl _
    · refine Kept.trans ?_ (staleBanks_kept ..)
      refine Kept.trans ?_ (putPart_kept ..)
      refine Kept.upd ?_ ..
      exact Kept.refl _
  · refine Kept.trans ?_ (sendReport_kept ..)
    (split <;> try dsimp only)
    · refine Kept.trans ?_ (report_kept ..)
      refine Kept.trans ?_ (emit_kept ..)
      refine Kept.trans ?_ (staleBanks_kept ..)
      refine Kept.trans ?_ (putPart_kept ..)
      refine Kept.upd ?_ ..
      exact Kept.refl _
    · refine Kept.trans ?_ (staleBanks_kept ..)
      refine Kept.trans ?_ (putPart_kept ..)
      refine Kept.upd ?_ ..
      exact Kept.refl _

theorem formingLost_kept (a0) (s : State) : Kept s (formingLost a0 s) := by
  unfold formingLost
  dsimp only
  refine Kept.ite (fun _ => ?_) fun _ => ?_
  · refine Kept.trans ?_ (headAbort_kept ..)
    refine Kept.trans ?_ (report_kept ..)
    refine Kept.trans ?_ (emit_kept ..)
    exact putPart_kept ..
  · refine Kept.trans ?_ (sendReport_kept ..)
    refine Kept.trans ?_ (report_kept ..)
    refine Kept.trans ?_ (emit_kept ..)
    exact putPart_kept ..

theorem cmdForm_kept (a0) (a1) (a2) (s : State) : Kept s (cmdForm a0 a1 a2 s) := by
  unfold cmdForm
  refine Kept.ite (fun _ => ?_) fun _ => ?_
  · exact cmdDone_kept ..
  · refine Kept.ite (fun _ => ?_) fun _ => ?_
    · exact cmdConflict_kept ..
    · refine Kept.ite (fun _ => ?_) fun _ => ?_
      · refine Kept.trans ?_ (cmdDone_kept ..)
        exact report_kept ..
      · exact startForming_kept ..

theorem execPartitionForm_kept (a0) (a1) {s t : State} (h : execPartitionForm a0 a1 s = .next t) : Kept s t := by
  unfold execPartitionForm at h
  injection h with h
  subst h
  refine Kept.trans ?_ (adminRun_kept _ _ _ _ (fun _ _ _ => ?_) _)
  · exact Kept.refl _
  · exact cmdForm_kept ..

theorem takeReport_kept (a0) (a1) (a2) (s : State) : Kept s (takeReport a0 a1 a2 s) := by
  unfold takeReport
  dsimp only
  refine Kept.trans ?_ (headDecide_kept ..)
  exact putPart_kept ..

theorem execFormationReport_kept (a0) (a1) (a2) {s t : State} (h : execFormationReport a0 a1 a2 s = .next t) : Kept s t := by
  unfold execFormationReport at h
  injection h with h
  subst h
  refine Kept.ite (fun _ => ?_) fun _ => ?_
  · exact takeReport_kept ..
  · exact Kept.refl _

theorem execFormationTimeout_kept {s t : State} (h : execFormationTimeout s = .next t) : Kept s t := by
  unfold execFormationTimeout at h
  injection h with h
  subst h
  refine Kept.ite (fun _ => ?_) fun _ => ?_
  · refine Kept.trans ?_ (headAbort_kept ..)
    exact watchTo_kept ..
  · exact Kept.refl _

theorem execFormedMessage_kept {s t : State} (h : execFormedMessage s = .next t) : Kept s t := by
  unfold execFormedMessage at h
  injection h with h
  subst h
  refine Kept.ite (fun _ => ?_) fun _ => ?_
  · exact enterFormed_kept ..
  · exact Kept.refl _

theorem execFormationAbort_kept  {s t : State} (h : execFormationAbort  s = .next t) : Kept s t := by
  unfold execFormationAbort at h
  injection h with h
  subst h
  refine Kept.ite (fun _ => ?_) fun _ => ?_
  · refine Kept.trans ?_ (staleBanks_kept ..)
    refine Kept.trans ?_ (noPart_kept ..)
    exact formDone_kept ..
  · exact Kept.refl _

theorem cmdDissolve_kept (a0) (a1) (s : State) : Kept s (cmdDissolve a0 a1 s) := by
  unfold cmdDissolve
  refine Kept.ite (fun _ => ?_) fun _ => ?_
  · exact cmdDone_kept ..
  · refine Kept.trans ?_ (cmdDone_kept ..)
    refine Kept.trans ?_ (staleBanks_kept ..)
    refine Kept.trans ?_ (noPart_kept ..)
    exact formDone_kept ..

theorem execPartitionDissolve_kept (a0) {s t : State} (h : execPartitionDissolve a0 s = .next t) : Kept s t := by
  unfold execPartitionDissolve at h
  injection h with h
  subst h
  refine Kept.trans ?_ (adminRun_kept _ _ _ _ (fun _ _ _ => ?_) _)
  · exact Kept.refl _
  · exact cmdDissolve_kept ..

end Sys2Proof.Machine
end

