-- ==== Sys2Proof/Laws/KeptPower.lean ====
section
/-! SUPPORT. What every command keeps (Safety.Kept), carried through boot, resets, updates and power: one lemma per operation. -/

namespace Sys2Proof.Machine

/-! ### Boot -/

theorem resetUnits_kept (s : State) : Kept s (resetUnits s) := by
  refine ⟨rfl, rfl, rfl, fusesRise_refl _, fun m => ?_⟩
  simp only [memoriesWf, Bool.and_eq_true] at m
  simp only [resetUnits, memoriesWf, Bool.and_eq_true]
  refine ⟨m.1, ?_⟩
  simp only [wicksWf, List.all_eq_true, List.mem_filterMap]
  rintro e ⟨i, -, h⟩
  split at h
  · exact absurd h (by simp)
  · injection h with h; subst h; rfl

theorem reportAll_kept (a0) (s : State) : Kept s (reportAll a0 s) := by
  unfold reportAll
  refine Kept.foldl (fun _ _ => ?_) ?_
  · exact report_kept ..
  · exact Kept.refl _

theorem putBoot_kept (a0) (s : State) : Kept s (putBoot a0 s) := by
  unfold putBoot
  dsimp only
  refine Kept.updKpr ?_ ..
  exact Kept.refl _

theorem romBoot_kept (a0) (s : State) : Kept s (romBoot a0 s) := by
  unfold romBoot
  refine Kept.trans ?_ (putBoot_kept ..)
  exact reportAll_kept ..

theorem bootStages_kept (s : State) : Kept s (bootStages s) := by
  unfold bootStages
  dsimp only
  split
  · exact romBoot_kept ..
  · split
    · exact romBoot_kept ..
    · refine Kept.trans ?_ (putBoot_kept ..)
      exact reportAll_kept ..

theorem startOwner_kept (s : State) : Kept s (startOwner s) := by
  unfold startOwner
  dsimp only
  refine Kept.ite (fun _ => ?_) fun _ => ?_
  · refine Kept.trans ?_ (raise_kept ..)
    refine Kept.updKpr ?_ ..
    exact Kept.refl _
  · exact Kept.refl _

theorem putUpd_kept (a0) (s : State) : Kept s (putUpd a0 s) := by
  unfold putUpd
  dsimp only
  refine Kept.updKpr ?_ ..
  exact Kept.refl _

theorem putFlash_kept (a0) (s : State) : Kept s (putFlash a0 s) := by
  unfold putFlash
  dsimp only
  refine Kept.updKpr ?_ ..
  exact Kept.refl _

theorem putFuses_kept {f : Fuses} {s : State} (hi : dieIdentity (putFuses f s) = dieIdentity s) (hf : fusesRise s.kpr.fuses f) :
    Kept s (putFuses f s) := ⟨rfl, hi, rfl, hf, id⟩

theorem bitAt_orBit {i j a : Nat} (h : bitAt a i = true) : bitAt (orBit a j) i = true := by
  unfold orBit
  split
  · exact h
  · rename_i hj
    simp only [bitAt, beq_iff_eq] at h hj ⊢
    rcases Nat.lt_trichotomy i j with c | c | c
    · obtain ⟨k, rfl⟩ : ∃ k, j = i + 1 + k := ⟨j - i - 1, by omega⟩
      have e : a + 2 ^ (i + 1 + k) = a + 2 ^ i * (2 * 2 ^ k) := by rw [Nat.pow_add, Nat.pow_succ]; ring
      rw [e, Nat.add_mul_div_left _ _ (Nat.two_pow_pos i)]
      omega
    · subst c; exact absurd h hj
    · obtain ⟨k, rfl⟩ : ∃ k, i = j + 1 + k := ⟨i - j - 1, by omega⟩
      have e : (a + 2 ^ j) / 2 ^ (j + 1 + k) = a / 2 ^ (j + 1 + k) := by
        have d : ∀ b, b / 2 ^ (j + 1 + k) = b / 2 ^ j / 2 / 2 ^ k := by
          intro b; rw [Nat.div_div_eq_div_mul, Nat.div_div_eq_div_mul, Nat.pow_add, Nat.pow_succ, Nat.mul_assoc]
        rw [d, d a, Nat.add_div_right _ (Nat.two_pow_pos j)]
        congr 1
        omega
      rw [e]; exact h

theorem burnFuses_rise (b f) : fusesRise f (burnFuses b f) := by
  refine ⟨id, fun i h => ?_, Nat.le_max_left .., Nat.le_refl _, Nat.le_refl _⟩
  have key : ∀ (l : List Nat) (a : Nat), bitAt a i = true →
      bitAt (l.foldl (fun a i => if bitAt b.revoke i && i != b.keyslot then orBit a i else a) a) i = true := by
    intro l
    induction l with
    | nil => exact fun _ h => h
    | cons x l ih =>
      intro a h
      refine ih _ ?_
      dsimp only
      split
      · exact bitAt_orBit h
      · exact h
  exact key _ _ h

theorem confirmSteps_kept (s : State) : Kept s (confirmSteps s) := by
  unfold confirmSteps
  dsimp only
  refine Kept.trans ?_ (raise_kept ..)
  refine Kept.trans ?_ (regPut_kept ..)
  refine Kept.trans ?_ (putUpd_kept ..)
  refine Kept.trans ?_ (putFlash_kept ..)
  exact putFuses_kept rfl (burnFuses_rise _ _)

theorem recAtStart_kept (s : State) : Kept s (recAtStart s) := by
  unfold recAtStart
  dsimp only
  split
  · exact putUpd_kept ..
  · exact putUpd_kept ..
  · exact putUpd_kept ..
  · exact putUpd_kept ..
  · exact putUpd_kept ..
  · exact putUpd_kept ..
  · exact Kept.refl _

theorem keeperStart_kept (s : State) : Kept s (keeperStart s) := by
  unfold keeperStart
  dsimp only
  refine Kept.ite (fun _ => ?_) fun _ => ?_
  · refine Kept.trans ?_ (confirmSteps_kept ..)
    refine Kept.trans ?_ (startOwner_kept ..)
    refine Kept.trans ?_ (recAtStart_kept ..)
    exact bootStages_kept ..
  · refine Kept.trans ?_ (startOwner_kept ..)
    refine Kept.trans ?_ (recAtStart_kept ..)
    exact bootStages_kept ..

/-! ### Reset -/

theorem dropPending_kept (s : State) : Kept s (dropPending s) := by
  unfold dropPending
  refine Kept.foldl (fun _ _ => ?_) ?_
  · refine Kept.ite (fun _ => ?_) fun _ => ?_
    · exact putSlotState_kept ..
    · exact Kept.refl _
  · exact Kept.refl _

theorem spoilSlots_kept (s : State) : Kept s (spoilSlots s) := by
  unfold spoilSlots
  dsimp only
  refine Kept.trans ?_ (dropPending_kept ..)
  split
  · refine Kept.ite (fun _ => ?_) fun _ => ?_
    · refine Kept.trans ?_ (storeRecord_kept ..)
      refine Kept.foldl (fun _ _ => ?_) ?_
      · exact storeRecord_kept ..
      · exact Kept.refl _
    · refine Kept.foldl (fun _ _ => ?_) ?_
      · exact storeRecord_kept ..
      · exact Kept.refl _
  · refine Kept.foldl (fun _ _ => ?_) ?_
    · exact storeRecord_kept ..
    · exact Kept.refl _

theorem blankChip_kept (s : State) : Kept s (blankChip s) := by
  unfold blankChip
  dsimp only
  refine Kept.trans ?_ (noPart_kept ..)
  refine Kept.upd ?_ ..
  refine Kept.trans ?_ (resetUnits_kept ..)
  refine Kept.updMem ?_ (a := ?_) (b := ?_) (c := ?_) (d := ?_) ..
  · exact Kept.refl _
  · intro _
    exact rfl
  · exact id
  · intro _
    exact rfl
  · exact id

theorem warmReset_kept (s : State) : Kept s (warmReset s) := by
  unfold warmReset
  dsimp only
  refine Kept.ite (fun _ => ?_) fun _ => ?_
  · refine Kept.trans ?_ (keeperStart_kept ..)
    refine Kept.updKpr ?_ ..
    refine Kept.trans ?_ (blankChip_kept ..)
    refine Kept.upd ?_ ..
    refine Kept.trans ?_ (releaseFog_kept ..)
    exact spoilSlots_kept ..
  · refine Kept.trans ?_ (putUpd_kept ..)
    refine Kept.updKpr ?_ ..
    refine Kept.trans ?_ (blankChip_kept ..)
    refine Kept.upd ?_ ..
    refine Kept.trans ?_ (releaseFog_kept ..)
    exact spoilSlots_kept ..

theorem cmdResetWarm_kept (a0) (a1) (s : State) : Kept s (cmdResetWarm a0 a1 s) := by
  unfold cmdResetWarm
  refine Kept.trans ?_ (cmdDone_kept ..)
  exact warmReset_kept ..

theorem execResetWarm_kept (a0) {s t : State} (h : execResetWarm a0 s = .next t) : Kept s t := by
  unfold execResetWarm at h
  injection h with h
  subst h
  refine Kept.trans ?_ (adminRun_kept _ _ _ _ (fun _ _ _ => ?_) _)
  · exact Kept.refl _
  · exact cmdResetWarm_kept ..

theorem execFunctionLevelReset_kept {s t : State} (h : execFunctionLevelReset s = .next t) : Kept s t := by
  unfold execFunctionLevelReset at h
  injection h with h
  subst h
  refine Kept.ite (fun _ => ?_) fun _ => ?_
  · exact warmReset_kept ..
  · exact Kept.refl _

theorem putPins_kept (a0) (s : State) : Kept s (putPins a0 s) := by
  unfold putPins
  dsimp only
  refine Kept.updKpr ?_ ..
  exact Kept.refl _

theorem pinReset_kept (a0) (s : State) : Kept s (pinReset a0 s) := by
  unfold pinReset
  dsimp only
  refine Kept.trans ?_ (putPins_kept ..)
  refine Kept.ite (fun _ => ?_) fun _ => ?_
  · exact Kept.refl _
  · exact warmReset_kept ..

theorem execWarmResetPin_kept (a0) {s t : State} (h : execWarmResetPin a0 s = .next t) : Kept s t := by
  unfold execWarmResetPin at h
  injection h with h
  subst h
  refine Kept.ite (fun _ => ?_) fun _ => ?_
  · exact pinReset_kept ..
  · exact Kept.refl _

theorem pinRelease_kept (a0) (a1) (s : State) : Kept s (pinRelease a0 a1 s) := by
  unfold pinRelease
  dsimp only
  exact putPins_kept ..

theorem execResetRelease_kept (a0) {s t : State} (h : execResetRelease a0 s = .next t) : Kept s t := by
  unfold execResetRelease at h
  injection h with h
  subst h
  refine Kept.ite (fun _ => ?_) fun _ => ?_
  · exact pinRelease_kept ..
  · exact Kept.refl _

theorem clearMarks_kept (s : State) : Kept s (clearMarks s) := by
  unfold clearMarks
  refine Kept.ite (fun _ => ?_) fun _ => ?_
  · refine Kept.foldl (fun _ _ => ?_) ?_
    · exact regPut_kept ..
    · exact Kept.refl _
  · exact Kept.refl _

theorem sampleStraps_kept (a0) (s : State) : Kept s (sampleStraps a0 s) := by
  unfold sampleStraps
  dsimp only
  refine Kept.ite (fun _ => ?_) fun _ => ?_
  · refine Kept.trans ?_ (noPart_kept ..)
    refine Kept.upd ?_ ..
    exact Kept.refl _
  · refine Kept.trans ?_ (report_kept ..)
    refine Kept.foldl (fun _ _ => ?_) ?_
    · exact putLink_kept ..
    · refine Kept.trans ?_ (noPart_kept ..)
      refine Kept.upd ?_ ..
      exact Kept.refl _

theorem coldReset_kept (a0) (s : State) : Kept s (coldReset a0 s) := by
  unfold coldReset
  dsimp only
  refine Kept.ite (fun _ => ?_) fun _ => ?_
  · refine Kept.trans ?_ (raise_kept ..)
    refine Kept.updKpr ?_ ..
    refine Kept.trans ?_ (keeperStart_kept ..)
    refine Kept.trans ?_ (sampleStraps_kept ..)
    refine Kept.updKpr ?_ ..
    refine Kept.trans ?_ (blankChip_kept ..)
    refine Kept.updMem ?_ (a := ?_) (b := ?_) (c := ?_) (d := ?_) ..
    · exact clearMarks_kept ..
    · exact id
    · intro _
      exact rfl
    · exact id
    · exact id
  · refine Kept.trans ?_ (keeperStart_kept ..)
    refine Kept.trans ?_ (sampleStraps_kept ..)
    refine Kept.updKpr ?_ ..
    refine Kept.trans ?_ (blankChip_kept ..)
    refine Kept.updMem ?_ (a := ?_) (b := ?_) (c := ?_) (d := ?_) ..
    · exact clearMarks_kept ..
    · exact id
    · intro _
      exact rfl
    · exact id
    · exact id

theorem execPowerApplied_kept (a0) {s t : State} (h : execPowerApplied a0 s = .next t) : Kept s t := by
  unfold execPowerApplied at h
  injection h with h
  subst h
  refine Kept.ite (fun _ => ?_) fun _ => ?_
  · exact coldReset_kept ..
  · exact Kept.refl _

theorem dropRegs_kept (a0) (s : State) : Kept s (dropRegs a0 s) := by
  unfold dropRegs
  refine Kept.foldl (fun _ _ => ?_) ?_
  · exact sbDone_kept ..
  · exact Kept.refl _

theorem clearLan_kept (a0) (a1) (s : State) : Kept s (clearLan a0 a1 s) := by
  unfold clearLan
  exact putLan_kept ..

theorem clearWick_kept (a0) (a1) (s : State) : Kept s (clearWick a0 a1 s) := by
  unfold clearWick
  refine putWick_kept _ _ ?_ ?_
  · exact Kept.refl _
  · refine Kept.wick ?_ _ _
    exact Kept.refl _

theorem clearUnit_kept (a0) (s : State) : Kept s (clearUnit a0 s) := by
  unfold clearUnit
  refine Kept.ite (fun _ => ?_) fun _ => ?_
  · split
    · exact putLan_kept ..
    · exact Kept.refl _
  · refine Kept.ite (fun _ => ?_) fun _ => ?_
    · split
      · refine putWick_kept _ _ ?_ ?_
        · exact Kept.refl _
        · refine Kept.wick ?_ _ _
          exact Kept.refl _
      · exact Kept.refl _
    · refine Kept.ite (fun _ => ?_) fun _ => ?_
      · exact putPort_kept ..
      · exact Kept.refl _

theorem clearFree_kept (a0) (s : State) : Kept s (clearFree a0 s) := by
  unfold clearFree
  (split <;> try dsimp only)
  · exact clearLan_kept ..
  · exact clearWick_kept ..

theorem resetEng_kept (a0) (s : State) : Kept s (resetEng a0 s) := by
  unfold resetEng
  dsimp only
  refine Kept.trans ?_ (clearUnit_kept ..)
  refine Kept.trans ?_ (putEng_kept ..)
  split
  · exact dropRegs_kept ..
  · exact Kept.refl _

theorem execEngineReset_kept (a0) {s t : State} (h : execEngineReset a0 s = .next t) : Kept s t := by
  unfold execEngineReset at h
  injection h with h
  subst h
  refine Kept.trans ?_ (hostWrite_kept _ _ (fun _ => ?_) _)
  · exact Kept.refl _
  · refine Kept.ite (fun _ => ?_) fun _ => ?_
    · exact resetEng_kept ..
    · exact conflict_kept ..

theorem execRmaEntry_kept {s t : State} (h : execRmaEntry s = .next t) : Kept s t := by
  unfold execRmaEntry at h
  injection h with h
  subst h
  refine Kept.ite (fun _ => putFuses_kept rfl ?_) fun _ => Kept.refl _
  exact ⟨fun _ => rfl, fun _ => id, Nat.le_refl _, Nat.le_refl _, Nat.le_max_left ..⟩

theorem setTap_kept (a0) (s : State) : Kept s (setTap a0 s) := by
  unfold setTap
  exact putPins_kept ..

theorem bscan_kept (a0) (s : State) : Kept s (bscan a0 s) := by
  unfold bscan
  refine Kept.ite (fun _ => ?_) fun _ => ?_
  · refine Kept.trans ?_ (emit_kept ..)
    exact setTap_kept ..
  · refine Kept.trans ?_ (emit_kept ..)
    exact setTap_kept ..

theorem closedScope_kept (s : State) : Kept s (closedScope s) := by
  unfold closedScope
  refine Kept.trans ?_ (emit_kept ..)
  exact setTap_kept ..

theorem execJtagInstruction_kept (a0) {s t : State} (h : execJtagInstruction a0 s = .next t) : Kept s t := by
  cases a0 <;> simp only [execJtagInstruction, Host.Outcome.next.injEq] at h
  case keeper =>
    split at h
    · exact absurd h (by simp)
    · injection h with h; subst h; exact closedScope_kept ..
  all_goals subst h
  · refine Kept.trans ?_ (emit_kept ..)
    exact setTap_kept ..
  · refine Kept.trans ?_ (emit_kept ..)
    exact setTap_kept ..
  · exact bscan_kept ..
  · exact bscan_kept ..
  · exact bscan_kept ..
  · refine Kept.ite (fun _ => ?_) fun _ => ?_
    · exact putEng_kept ..
    · exact closedScope_kept ..
  · refine Kept.ite (fun _ => ?_) fun _ => ?_
    · exact emit_kept ..
    · exact closedScope_kept ..

theorem execTapReset_kept {s t : State} (h : execTapReset s = .next t) : Kept s t := by
  unfold execTapReset at h
  injection h with h
  subst h
  exact setTap_kept ..

theorem execSmbusAlertResponse_kept {s t : State} (h : execSmbusAlertResponse s = .next t) : Kept s t := by
  unfold execSmbusAlertResponse at h
  injection h with h
  subst h
  refine Kept.ite (fun _ => ?_) fun _ => ?_
  · exact emit_kept ..
  · exact Kept.refl _

/-! ### Update -/

theorem pldm_kept (a0) (a1) (s : State) : Kept s (pldm a0 a1 s) := by
  unfold pldm
  exact emit_kept ..

theorem updEvent_kept (a0) (a1) (a2) (a3) (s : State) : Kept s (updEvent a0 a1 a2 a3 s) := by
  unfold updEvent
  exact raise_kept ..

theorem updClose_kept (s : State) : Kept s (updClose s) := by
  unfold updClose
  dsimp only
  refine Kept.trans ?_ (putUpd_kept ..)
  refine Kept.ite (fun _ => ?_) fun _ => ?_
  · refine Kept.upd ?_ ..
    exact staleBanks_kept ..
  · exact staleBanks_kept ..

theorem abandon_kept (s : State) : Kept s (abandon s) := by
  unfold abandon
  refine Kept.trans ?_ (updClose_kept ..)
  exact updEvent_kept ..

theorem restartChip_kept (s : State) : Kept s (restartChip s) := by
  unfold restartChip
  dsimp only
  refine Kept.updKpr ?_ ..
  refine Kept.trans ?_ (staleBanks_kept ..)
  refine Kept.trans ?_ (blankChip_kept ..)
  refine Kept.upd ?_ ..
  exact Kept.refl _

theorem startRevert_kept (a0) (s : State) : Kept s (startRevert a0 s) := by
  unfold startRevert
  dsimp only
  refine Kept.trans ?_ (bootStages_kept ..)
  refine Kept.trans ?_ (restartChip_kept ..)
  exact putUpd_kept ..

theorem refuseUpdate_kept (a0) (s : State) : Kept s (refuseUpdate a0 s) := by
  unfold refuseUpdate
  refine Kept.trans ?_ (updEvent_kept ..)
  exact pldm_kept ..

theorem openUpdate_kept (a0) (s : State) : Kept s (openUpdate a0 s) := by
  unfold openUpdate
  refine Kept.trans ?_ (pldm_kept ..)
  refine Kept.trans ?_ (putUpd_kept ..)
  refine Kept.upd ?_ ..
  exact Kept.refl _

theorem execRequestUpdate_kept (a0) {s t : State} (h : execRequestUpdate a0 s = .next t) : Kept s t := by
  unfold execRequestUpdate at h
  injection h with h
  subst h
  refine Kept.ite (fun _ => ?_) fun _ => ?_
  · exact Kept.refl _
  · refine Kept.ite (fun _ => ?_) fun _ => ?_
    · refine Kept.trans ?_ (updEvent_kept ..)
      exact pldm_kept ..
    · split
      · exact refuseUpdate_kept ..
      · exact openUpdate_kept ..

theorem askData_kept (s : State) : Kept s (askData s) := by
  unfold askData
  exact pldm_kept ..

theorem execUpdateComponent_kept (a0) {s t : State} (h : execUpdateComponent a0 s = .next t) : Kept s t := by
  unfold execUpdateComponent at h
  injection h with h
  subst h
  refine Kept.ite (fun _ => ?_) fun _ => ?_
  · refine Kept.trans ?_ (askData_kept ..)
    exact putUpd_kept ..
  · exact Kept.refl _

theorem stageData_kept (a0) (s : State) : Kept s (stageData a0 s) := by
  unfold stageData
  dsimp only
  refine Kept.ite (fun _ => ?_) fun _ => ?_
  · refine Kept.trans ?_ (askData_kept ..)
    exact putUpd_kept ..
  · exact putUpd_kept ..

theorem retryData_kept (s : State) : Kept s (retryData s) := by
  unfold retryData
  dsimp only
  refine Kept.ite (fun _ => ?_) fun _ => ?_
  · exact abandon_kept ..
  · refine Kept.trans ?_ (askData_kept ..)
    exact putUpd_kept ..

theorem execFirmwareDataResponse_kept (a0) (a1) {s t : State} (h : execFirmwareDataResponse a0 a1 s = .next t) : Kept s t := by
  unfold execFirmwareDataResponse at h
  injection h with h
  subst h
  refine Kept.ite (fun _ => ?_) fun _ => ?_
  · refine Kept.ite (fun _ => ?_) fun _ => ?_
    · exact stageData_kept ..
    · exact retryData_kept ..
  · exact Kept.refl _

theorem execFirmwareDataTimeout_kept {s t : State} (h : execFirmwareDataTimeout s = .next t) : Kept s t := by
  unfold execFirmwareDataTimeout at h
  injection h with h
  subst h
  refine Kept.ite (fun _ => ?_) fun _ => ?_
  · refine Kept.trans ?_ (abandon_kept ..)
    exact watchTo_kept ..
  · exact Kept.refl _

theorem startActive_kept (s : State) : Kept s (startActive s) := by
  unfold startActive
  refine Kept.trans ?_ (putUpd_kept ..)
  exact putFlash_kept ..

theorem startWriting_kept (a0) (s : State) : Kept s (startWriting a0 s) := by
  unfold startWriting
  dsimp only
  refine Kept.ite (fun _ => ?_) fun _ => ?_
  · refine Kept.trans ?_ (startActive_kept ..)
    refine Kept.trans ?_ (pldm_kept ..)
    exact putUpd_kept ..
  · refine Kept.trans ?_ (putUpd_kept ..)
    refine Kept.trans ?_ (pldm_kept ..)
    exact putUpd_kept ..

theorem verifyStaged_kept (a0) (s : State) : Kept s (verifyStaged a0 s) := by
  unfold verifyStaged
  split
  · refine Kept.trans ?_ (updClose_kept ..)
    refine Kept.trans ?_ (updEvent_kept ..)
    exact pldm_kept ..
  · exact startWriting_kept ..

theorem execTransferComplete_kept (a0) {s t : State} (h : execTransferComplete a0 s = .next t) : Kept s t := by
  unfold execTransferComplete at h
  injection h with h
  subst h
  refine Kept.ite (fun _ => ?_) fun _ => ?_
  · exact verifyStaged_kept ..
  · exact Kept.refl _

theorem activeWritten_kept (a0) (s : State) : Kept s (activeWritten a0 s) := by
  unfold activeWritten
  dsimp only
  refine Kept.ite (fun _ => ?_) fun _ => ?_
  · refine Kept.trans ?_ (keeperStart_kept ..)
    refine Kept.trans ?_ (updClose_kept ..)
    exact putFlash_kept ..
  · refine Kept.trans ?_ (pldm_kept ..)
    refine Kept.trans ?_ (putUpd_kept ..)
    exact putFlash_kept ..

theorem flashFailed_kept (s : State) : Kept s (flashFailed s) := by
  unfold flashFailed
  refine Kept.ite (fun _ => ?_) fun _ => ?_
  · exact putUpd_kept ..
  · dsimp only
    refine Kept.ite (fun _ => ?_) fun _ => ?_
    · refine Kept.trans ?_ (updClose_kept ..)
      exact updEvent_kept ..
    · refine Kept.trans ?_ (startRevert_kept ..)
      exact updEvent_kept ..

theorem flashStep_kept (a0) (s : State) : Kept s (flashStep a0 s) := by
  unfold flashStep
  dsimp only
  split
  · refine Kept.ite (fun _ => ?_) fun _ => ?_
    · refine Kept.trans ?_ (startActive_kept ..)
      exact putFlash_kept ..
    · exact flashFailed_kept ..
  · refine Kept.ite (fun _ => ?_) fun _ => ?_
    · exact activeWritten_kept ..
    · exact flashFailed_kept ..
  · exact Kept.refl _

theorem execFlashWriteStepDone_kept (a0) {s t : State} (h : execFlashWriteStepDone a0 s = .next t) : Kept s t := by
  unfold execFlashWriteStepDone at h
  injection h with h
  subst h
  exact flashStep_kept ..

theorem execCancelUpdate_kept  {s t : State} (h : execCancelUpdate  s = .next t) : Kept s t := by
  unfold execCancelUpdate at h
  injection h with h
  subst h
  refine Kept.ite (fun _ => ?_) fun _ => ?_
  · exact Kept.refl _
  · refine Kept.ite (fun _ => ?_) fun _ => ?_
    · exact abandon_kept ..
    · refine Kept.ite (fun _ => ?_) fun _ => ?_
      · exact startRevert_kept ..
      · exact Kept.refl _

theorem execCancelUpdateComponent_kept {s t : State} (h : execCancelUpdateComponent s = .next t) : Kept s t := by
  unfold execCancelUpdateComponent at h
  injection h with h
  subst h
  refine Kept.ite (fun _ => ?_) fun _ => ?_
  · exact abandon_kept ..
  · exact Kept.refl _

theorem activate_kept (s : State) : Kept s (activate s) := by
  unfold activate
  dsimp only
  refine Kept.trans ?_ (putUpd_kept ..)
  refine Kept.trans ?_ (bootStages_kept ..)
  refine Kept.trans ?_ (putUpd_kept ..)
  refine Kept.trans ?_ (restartChip_kept ..)
  exact pldm_kept ..

theorem execActivateFirmware_kept {s t : State} (h : execActivateFirmware s = .next t) : Kept s t := by
  unfold execActivateFirmware at h
  injection h with h
  subst h
  refine Kept.ite (fun _ => ?_) fun _ => ?_
  · split
    · refine Kept.trans ?_ (updEvent_kept ..)
      exact pldm_kept ..
    · exact activate_kept ..
  · exact Kept.refl _

theorem execActivateTimeout_kept {s t : State} (h : execActivateTimeout s = .next t) : Kept s t := by
  unfold execActivateTimeout at h
  injection h with h
  subst h
  refine Kept.ite (fun _ => ?_) fun _ => ?_
  · refine Kept.trans ?_ (startRevert_kept ..)
    exact watchTo_kept ..
  · exact Kept.refl _

theorem confirm_kept (s : State) : Kept s (confirm s) := by
  unfold confirm
  dsimp only
  refine Kept.ite (fun _ => ?_) fun _ => ?_
  · refine Kept.upd ?_ ..
    refine Kept.trans ?_ (confirmSteps_kept ..)
    exact putUpd_kept ..
  · refine Kept.trans ?_ (confirmSteps_kept ..)
    exact putUpd_kept ..

theorem execHealthConfirmed_kept (a0) {s t : State} (h : execHealthConfirmed a0 s = .next t) : Kept s t := by
  unfold execHealthConfirmed at h
  injection h with h
  subst h
  refine Kept.ite (fun _ => ?_) fun _ => ?_
  · refine Kept.ite (fun _ => ?_) fun _ => ?_
    · exact confirm_kept ..
    · refine Kept.trans ?_ (startRevert_kept ..)
      exact bumpFree_kept ..
  · exact Kept.refl _

theorem execTrialTimeout_kept {s t : State} (h : execTrialTimeout s = .next t) : Kept s t := by
  unfold execTrialTimeout at h
  injection h with h
  subst h
  split
  · refine Kept.trans ?_ (startRevert_kept ..)
    exact watchTo_kept ..
  · exact Kept.refl _

theorem revertDone_kept (s : State) : Kept s (revertDone s) := by
  unfold revertDone
  dsimp only
  refine Kept.trans ?_ (updClose_kept ..)
  refine Kept.trans ?_ (updEvent_kept ..)
  refine Kept.trans ?_ (regPut_kept ..)
  exact putFlash_kept ..

theorem execRevertCopyDone_kept {s t : State} (h : execRevertCopyDone s = .next t) : Kept s t := by
  unfold execRevertCopyDone at h
  injection h with h
  subst h
  refine Kept.ite (fun _ => ?_) fun _ => ?_
  · exact revertDone_kept ..
  · exact Kept.refl _

/-! ### Power -/

theorem putPwr_kept (a0) (s : State) : Kept s (putPwr a0 s) := by
  unfold putPwr
  dsimp only
  refine Kept.updKpr ?_ ..
  exact Kept.refl _

theorem gateSpares_kept (s : State) : Kept s (gateSpares s) := by
  unfold gateSpares
  dsimp only
  refine Kept.foldl (fun _ _ => ?_) ?_
  · refine putWick_kept _ _ ?_ ?_
    · refine Kept.ite (fun _ => ?_) fun _ => ?_
      · exact putLan_kept ..
      · exact Kept.refl _
    · refine Kept.wick ?_ _ _
      refine Kept.ite (fun _ => ?_) fun _ => ?_
      · exact putLan_kept ..
      · exact Kept.refl _
  · exact Kept.refl _

theorem settleDram_kept (s : State) : Kept s (settleDram s) := by
  unfold settleDram
  refine Kept.ite (fun _ => ?_) fun _ => ?_
  · refine Kept.updKpr ?_ ..
    exact Kept.refl _
  · exact Kept.refl _

theorem settleLife_kept (s : State) : Kept s (settleLife s) := by
  unfold settleLife
  refine Kept.ite (fun _ => ?_) fun _ => ?_
  · dsimp only
    refine Kept.trans ?_ (settleDram_kept ..)
    refine Kept.ite (fun _ => ?_) fun _ => ?_
    · exact Kept.refl _
    · refine Kept.trans ?_ (gateSpares_kept ..)
      refine Kept.upd ?_ ..
      exact Kept.refl _
  · exact Kept.refl _

theorem wakeDram_kept (s : State) : Kept s (wakeDram s) := by
  unfold wakeDram
  dsimp only
  refine Kept.updKpr ?_ ..
  exact Kept.refl _

theorem tryLink_kept (a0) (s : State) : Kept s (tryLink a0 s) := by
  unfold tryLink
  exact putLink_kept ..

theorem powerUp_kept (s : State) : Kept s (powerUp s) := by
  unfold powerUp
  dsimp only
  refine Kept.foldl (fun _ _ => ?_) ?_
  · refine Kept.ite (fun _ => ?_) fun _ => ?_
    · exact tryLink_kept ..
    · exact Kept.refl _
  · refine Kept.trans ?_ (gateSpares_kept ..)
    refine Kept.updKpr ?_ ..
    exact Kept.refl _

theorem cmdPowerUp_kept (a0) (a1) (s : State) : Kept s (cmdPowerUp a0 a1 s) := by
  unfold cmdPowerUp
  refine Kept.ite (fun _ => ?_) fun _ => ?_
  · exact cmdDone_kept ..
  · split
    · exact cmdDone_kept ..
    · refine Kept.trans ?_ (cmdDone_kept ..)
      exact powerUp_kept ..

theorem execPowerUp_kept (a0) {s t : State} (h : execPowerUp a0 s = .next t) : Kept s t := by
  unfold execPowerUp at h
  injection h with h
  subst h
  refine Kept.trans ?_ (adminRun_kept _ _ _ _ (fun _ _ _ => ?_) _)
  · exact Kept.refl _
  · exact cmdPowerUp_kept ..

theorem cutCommands_kept (s : State) : Kept s (cutCommands s) := by
  unfold cutCommands
  dsimp only
  refine Kept.upd ?_ ..
  refine Kept.foldl (fun _ _ => ?_) ?_
  · exact refuseJob_kept ..
  · refine Kept.foldl (fun _ _ => ?_) ?_
    · exact cmdDone_kept ..
    · exact Kept.refl _

theorem powerDown_kept (s : State) : Kept s (powerDown s) := by
  unfold powerDown
  dsimp only
  refine Kept.updKpr ?_ ..
  refine Kept.trans ?_ (blankChip_kept ..)
  refine Kept.upd ?_ ..
  refine Kept.trans ?_ (cutCommands_kept ..)
  exact formDone_kept ..

theorem cmdPowerDown_kept (a0) (a1) (s : State) : Kept s (cmdPowerDown a0 a1 s) := by
  unfold cmdPowerDown
  refine Kept.trans ?_ (cmdDone_kept ..)
  refine Kept.ite (fun _ => ?_) fun _ => ?_
  · exact Kept.refl _
  · exact powerDown_kept ..

theorem execPowerDown_kept (a0) {s t : State} (h : execPowerDown a0 s = .next t) : Kept s t := by
  unfold execPowerDown at h
  injection h with h
  subst h
  refine Kept.trans ?_ (adminRun_kept _ _ _ _ (fun _ _ _ => ?_) _)
  · exact Kept.refl _
  · exact cmdPowerDown_kept ..

theorem feedADrop_kept (a0) (a1) (s : State) : Kept s (feedADrop a0 a1 s) := by
  unfold feedADrop
  exact putPwr_kept ..

theorem execFeedADrop_kept (a0) (a1) {s t : State} (h : execFeedADrop a0 a1 s = .next t) : Kept s t := by
  unfold execFeedADrop at h
  injection h with h
  subst h
  refine Kept.ite (fun _ => ?_) fun _ => ?_
  · exact feedADrop_kept ..
  · exact Kept.refl _

theorem execFeedAReturn_kept (a0) {s t : State} (h : execFeedAReturn a0 s = .next t) : Kept s t := by
  unfold execFeedAReturn at h
  injection h with h
  subst h
  refine Kept.ite (fun _ => ?_) fun _ => ?_
  · exact putPwr_kept ..
  · exact Kept.refl _

theorem singleEnter_kept (a0) (a1) (s : State) : Kept s (singleEnter a0 a1 s) := by
  unfold singleEnter
  refine Kept.trans ?_ (raise_kept ..)
  exact putPwr_kept ..

theorem execSingleFeedEnter_kept (a0) (a1) {s t : State} (h : execSingleFeedEnter a0 a1 s = .next t) : Kept s t := by
  unfold execSingleFeedEnter at h
  injection h with h
  subst h
  refine Kept.ite (fun _ => ?_) fun _ => ?_
  · exact singleEnter_kept ..
  · exact Kept.refl _

theorem execSingleFeedExit_kept (a0) (a1) {s t : State} (h : execSingleFeedExit a0 a1 s = .next t) : Kept s t := by
  unfold execSingleFeedExit at h
  injection h with h
  subst h
  refine Kept.ite (fun _ => ?_) fun _ => ?_
  · exact putPwr_kept ..
  · exact Kept.refl _

theorem powerFail_kept (a0) (a1) (s : State) : Kept s (powerFail a0 a1 s) := by
  unfold powerFail
  dsimp only
  refine Kept.trans ?_ (putPwr_kept ..)
  refine Kept.upd ?_ ..
  refine Kept.trans ?_ (blankChip_kept ..)
  refine Kept.updMem ?_ (a := ?_) (b := ?_) (c := ?_) (d := ?_) ..
  · refine Kept.trans ?_ (releaseFog_kept ..)
    refine Kept.trans ?_ (stopAll_kept ..)
    exact assertFog_kept ..
  · exact id
  · intro _
    exact rfl
  · exact id
  · exact id

theorem execPowerFail_kept (a0) (a1) {s t : State} (h : execPowerFail a0 a1 s = .next t) : Kept s t := by
  unfold execPowerFail at h
  injection h with h
  subst h
  refine Kept.ite (fun _ => ?_) fun _ => ?_
  · exact powerFail_kept ..
  · exact Kept.refl _

theorem tripRails_kept (s : State) : Kept s (tripRails s) := by
  unfold tripRails
  dsimp only
  refine Kept.updMem ?_ (a := ?_) (b := ?_) (c := ?_) (d := ?_) ..
  · exact Kept.refl _
  · intro _
    exact rfl
  · exact id
  · intro _
    exact rfl
  · exact id

theorem trip_kept (a0) (a1) (a2) (a3) (s : State) : Kept s (trip a0 a1 a2 a3 s) := by
  unfold trip
  dsimp only
  split
  · refine Kept.trans ?_ (tripRails_kept ..)
    refine Kept.trans ?_ (faulted_kept ..)
    refine Kept.trans ?_ (assertFog_kept ..)
    refine Kept.trans ?_ (regCount_kept ..)
    refine Kept.trans ?_ (raise_kept ..)
    exact putPwr_kept ..
  · refine Kept.trans ?_ (tripRails_kept ..)
    refine Kept.trans ?_ (faulted_kept ..)
    refine Kept.trans ?_ (assertFog_kept ..)
    refine Kept.trans ?_ (regCount_kept ..)
    refine Kept.trans ?_ (raise_kept ..)
    exact putPwr_kept ..
  · refine Kept.trans ?_ (tripRails_kept ..)
    refine Kept.trans ?_ (faulted_kept ..)
    refine Kept.trans ?_ (assertFog_kept ..)
    refine Kept.trans ?_ (regCount_kept ..)
    refine Kept.trans ?_ (raise_kept ..)
    exact putPwr_kept ..
  · refine Kept.trans ?_ (tripRails_kept ..)
    refine Kept.trans ?_ (faulted_kept ..)
    refine Kept.trans ?_ (assertFog_kept ..)
    refine Kept.trans ?_ (regCount_kept ..)
    refine Kept.trans ?_ (raise_kept ..)
    exact putPwr_kept ..
  · refine Kept.trans ?_ (assertFog_kept ..)
    refine Kept.trans ?_ (regCount_kept ..)
    refine Kept.trans ?_ (raise_kept ..)
    exact putPwr_kept ..
  · refine Kept.trans ?_ (powerDown_kept ..)
    refine Kept.trans ?_ (assertFog_kept ..)
    refine Kept.trans ?_ (regCount_kept ..)
    refine Kept.trans ?_ (raise_kept ..)
    exact putPwr_kept ..
  · refine Kept.trans ?_ (powerDown_kept ..)
    refine Kept.trans ?_ (assertFog_kept ..)
    refine Kept.trans ?_ (regCount_kept ..)
    refine Kept.trans ?_ (raise_kept ..)
    exact putPwr_kept ..
  · refine Kept.trans ?_ (startRevert_kept ..)
    refine Kept.trans ?_ (assertFog_kept ..)
    refine Kept.trans ?_ (regCount_kept ..)
    refine Kept.trans ?_ (raise_kept ..)
    exact putPwr_kept ..
  · refine Kept.trans ?_ (tripRails_kept ..)
    refine Kept.trans ?_ (assertFog_kept ..)
    refine Kept.trans ?_ (regCount_kept ..)
    refine Kept.trans ?_ (raise_kept ..)
    exact putPwr_kept ..
  · refine Kept.trans ?_ (assertFog_kept ..)
    refine Kept.trans ?_ (regCount_kept ..)
    refine Kept.trans ?_ (raise_kept ..)
    exact putPwr_kept ..

theorem throttle_kept (a0) (s : State) : Kept s (throttle a0 s) := by
  unfold throttle
  dsimp only
  refine Kept.ite (fun _ => ?_) fun _ => ?_
  · refine Kept.ite (fun _ => ?_) fun _ => ?_
    · refine Kept.trans ?_ (raise_kept ..)
      exact putPwr_kept ..
    · exact putPwr_kept ..
  · refine Kept.ite (fun _ => ?_) fun _ => ?_
    · exact putPwr_kept ..
    · refine Kept.ite (fun _ => ?_) fun _ => ?_
      · split
        · exact putPwr_kept ..
        · refine Kept.ite (fun _ => ?_) fun _ => ?_
          · exact putPwr_kept ..
          · exact Kept.refl _
      · exact putPwr_kept ..

theorem takePower_kept (a0) (s : State) : Kept s (takePower a0 s) := by
  unfold takePower
  dsimp only
  refine Kept.trans ?_ (throttle_kept ..)
  refine Kept.trans ?_ (putPwr_kept ..)
  refine Kept.upd ?_ ..
  exact Kept.refl _

theorem execPowerSample_kept (a0) {s t : State} (h : execPowerSample a0 s = .next t) : Kept s t := by
  unfold execPowerSample at h
  injection h with h
  subst h
  refine Kept.ite (fun _ => ?_) fun _ => ?_
  · dsimp only
    refine Kept.ite (fun _ => ?_) fun _ => ?_
    · refine Kept.trans ?_ (trip_kept ..)
      exact takePower_kept ..
    · exact takePower_kept ..
  · exact Kept.refl _

theorem rebandTo_kept (a0) (s : State) : Kept s (rebandTo a0 s) := by
  unfold rebandTo
  dsimp only
  refine Kept.ite (fun _ => ?_) fun _ => ?_
  · refine Kept.trans ?_ (raise_kept ..)
    exact putPwr_kept ..
  · exact putPwr_kept ..

theorem reband_kept (s : State) : Kept s (reband s) := by
  unfold reband
  dsimp only
  refine Kept.ite (fun _ => ?_) fun _ => ?_
  · exact rebandTo_kept ..
  · refine Kept.ite (fun _ => ?_) fun _ => ?_
    · split
      · exact putPwr_kept ..
      · refine Kept.ite (fun _ => ?_) fun _ => ?_
        · exact rebandTo_kept ..
        · exact Kept.refl _
    · exact putPwr_kept ..

theorem takeTemp_kept (a0) (a1) (a2) (s : State) : Kept s (takeTemp a0 a1 a2 s) := by
  unfold takeTemp
  dsimp only
  refine Kept.trans ?_ (reband_kept ..)
  refine Kept.trans ?_ (putPwr_kept ..)
  refine Kept.upd ?_ ..
  exact Kept.refl _

theorem thermalTrip_kept (s : State) : Kept s (thermalTrip s) := by
  unfold thermalTrip
  dsimp only
  refine Kept.ite (fun _ => ?_) fun _ => ?_
  · exact Kept.refl _
  · refine Kept.ite (fun _ => ?_) fun _ => ?_
    · exact trip_kept ..
    · refine Kept.ite (fun _ => ?_) fun _ => ?_
      · exact trip_kept ..
      · exact Kept.refl _

theorem execTemperatureSample_kept (a0) (a1) (a2) {s t : State} (h : execTemperatureSample a0 a1 a2 s = .next t) : Kept s t := by
  unfold execTemperatureSample at h
  injection h with h
  subst h
  refine Kept.ite (fun _ => ?_) fun _ => ?_
  · refine Kept.trans ?_ (thermalTrip_kept ..)
    exact takeTemp_kept ..
  · exact Kept.refl _

theorem oppWrite_kept (a0) (s : State) : Kept s (oppWrite a0 s) := by
  unfold oppWrite
  dsimp only
  refine Kept.ite (fun _ => ?_) fun _ => ?_
  · exact countLocked_kept ..
  · refine Kept.ite (fun _ => ?_) fun _ => ?_
    · exact conflict_kept ..
    · refine Kept.ite (fun _ => ?_) fun _ => ?_
      · exact regPut_kept ..
      · exact Kept.refl _

theorem execOppWrite_kept (a0) {s t : State} (h : execOppWrite a0 s = .next t) : Kept s t := by
  unfold execOppWrite at h
  injection h with h
  subst h
  refine Kept.trans ?_ (hostWrite_kept _ _ (fun _ => ?_) _)
  · exact Kept.refl _
  · exact oppWrite_kept ..

theorem putClk_kept (a0) (a1) (s : State) : Kept s (putClk a0 a1 s) := by
  unfold putClk
  dsimp only
  refine Kept.updKpr ?_ ..
  exact Kept.refl _

theorem setK_kept (a0) (a1) (s : State) : Kept s (setK a0 a1 s) := by
  unfold setK
  dsimp only
  refine Kept.ite (fun _ => ?_) fun _ => ?_
  · exact Kept.refl _
  · refine Kept.trans ?_ (regPut64_kept ..)
    exact putClk_kept ..

theorem droop_kept (a0) (s : State) : Kept s (droop a0 s) := by
  unfold droop
  dsimp only
  refine Kept.ite (fun _ => ?_) fun _ => ?_
  · exact regCount_kept ..
  · refine Kept.foldl (fun _ _ => ?_) ?_
    · exact setK_kept ..
    · refine Kept.trans ?_ (putClk_kept ..)
      exact regCount_kept ..

theorem execDroopDetect_kept (a0) {s t : State} (h : execDroopDetect a0 s = .next t) : Kept s t := by
  unfold execDroopDetect at h
  injection h with h
  subst h
  refine Kept.ite (fun _ => ?_) fun _ => ?_
  · exact Kept.refl _
  · exact droop_kept ..

theorem droopRelease_kept (a0) (s : State) : Kept s (droopRelease a0 s) := by
  unfold droopRelease
  dsimp only
  refine Kept.ite (fun _ => ?_) fun _ => ?_
  · exact putClk_kept ..
  · refine Kept.foldl (fun _ _ => ?_) ?_
    · exact setK_kept ..
    · exact putClk_kept ..

theorem execDroopRelease_kept (a0) {s t : State} (h : execDroopRelease a0 s = .next t) : Kept s t := by
  unfold execDroopRelease at h
  injection h with h
  subst h
  exact droopRelease_kept ..

theorem setStrict_kept (a0) (s : State) : Kept s (setStrict a0 s) := by
  unfold setStrict
  dsimp only
  refine Kept.ite (fun _ => ?_) fun _ => ?_
  · refine Kept.trans ?_ (putPwr_kept ..)
    refine Kept.foldl (fun _ _ => ?_) ?_
    · exact setK_kept ..
    · exact regPut_kept ..
  · exact regPut_kept ..

theorem execStrictWrite_kept (a0) {s t : State} (h : execStrictWrite a0 s = .next t) : Kept s t := by
  unfold execStrictWrite at h
  injection h with h
  subst h
  refine hostWrite_kept _ _ ?_ _
  intro _
  refine Kept.ite (fun _ => ?_) fun _ => ?_
  · exact setStrict_kept ..
  · exact conflict_kept ..

end Sys2Proof.Machine
end

