-- ==== Sys2Proof/Laws/KeptRecovery.lean ====
section
/-! SUPPORT. What every command keeps (Safety.Kept), carried through the care of memory, recovery and steps: one lemma per operation. -/

namespace Sys2Proof.Machine

/-! ### MemCare -/

theorem restoreTile_kept (a0) (a1) : KM (restoreTile a0 a1) := by
  unfold restoreTile
  refine KM.bind ?_ fun _ => ?_
  · exact readMem_kept _ _ _
  · refine KM.modify fun _ => ?_
    exact pokeMem_kept ..

theorem putScrub_kept (a0) (a1) (s : State) : Kept s (putScrub a0 a1 s) := by
  unfold putScrub
  exact putStn_kept ..

theorem sourceLost_kept (a0) (s : State) : Kept s (sourceLost a0 s) := by
  unfold sourceLost
  refine Kept.ite (fun _ => ?_) fun _ => ?_
  · exact detect_kept ..
  · exact noSource_kept ..

theorem repairNow_kept (a0) (s : State) : Kept s (repairNow a0 s) := by
  unfold repairNow
  (split <;> try dsimp only)
  · (split <;> try dsimp only)
    · rename_i h; exact Kept.go h (restoreTile_kept _ _)
    · refine Kept.trans ?_ (sourceLost_kept ..)
      rename_i h; exact Kept.go h (restoreTile_kept _ _)
  · exact Kept.refl _

theorem scrubWord_kept (a0) (s : State) : Kept s (scrubWord a0 s) := by
  unfold scrubWord
  dsimp only
  refine Kept.ite (fun _ => ?_) fun _ => ?_
  · exact Kept.refl _
  · refine Kept.ite (fun _ => ?_) fun _ => ?_
    · refine Kept.trans ?_ (putScrub_kept ..)
      exact sramCorrected_kept ..
    · refine Kept.trans ?_ (repairNow_kept ..)
      exact sramWord_kept ..

theorem scrubRead_kept (a0) (s : State) : Kept s (scrubRead a0 s) := by
  unfold scrubRead
  dsimp only
  refine Kept.trans ?_ (putScrub_kept ..)
  refine Kept.foldl (fun _ _ => ?_) ?_
  · exact scrubWord_kept ..
  · exact Kept.refl _

theorem execSramScrubRead_kept (a0) (a1) {s t : State} (h : execSramScrubRead a0 a1 s = .next t) : Kept s t := by
  unfold execSramScrubRead at h
  injection h with h
  subst h
  refine Kept.ite (fun _ => ?_) fun _ => ?_
  · refine Kept.trans ?_ (scrubRead_kept ..)
    exact strikes_kept ..
  · exact strikes_kept ..

theorem writeBack_kept (a0) (a1) (s : State) : Kept s (writeBack a0 a1 s) := by
  unfold writeBack
  dsimp only
  refine Kept.trans ?_ (putScrub_kept ..)
  refine Kept.upd ?_ ..
  exact Kept.refl _

theorem execScrubWriteback_kept (a0) {s t : State} (h : execScrubWriteback a0 s = .next t) : Kept s t := by
  unfold execScrubWriteback at h
  injection h with h
  subst h
  split
  · exact writeBack_kept ..
  · exact Kept.refl _

theorem scrubEnd_kept (a0) (s : State) : Kept s (scrubEnd a0 s) := by
  unfold scrubEnd
  dsimp only
  refine Kept.ite (fun _ => ?_) fun _ => ?_
  · refine Kept.trans ?_ (raise_kept ..)
    exact putScrub_kept ..
  · exact putScrub_kept ..

theorem execScrubPeriodEnd_kept (a0) {s t : State} (h : execScrubPeriodEnd a0 s = .next t) : Kept s t := by
  unfold execScrubPeriodEnd at h
  injection h with h
  subst h
  refine Kept.ite (fun _ => ?_) fun _ => ?_
  · exact Kept.refl _
  · exact scrubEnd_kept ..

theorem patrolBack_kept (a0) (s : State) : Kept s (patrolBack a0 s) := by
  unfold patrolBack
  dsimp only
  refine Kept.trans ?_ (putDramSt_kept ..)
  refine Kept.upd ?_ ..
  exact Kept.refl _

theorem patrolRead_kept (a0) (s : State) : Kept s (patrolRead a0 s) := by
  unfold patrolRead
  dsimp only
  refine Kept.ite (fun _ => ?_) fun _ => ?_
  · refine Kept.upd ?_ ..
    refine Kept.trans ?_ (putDramSt_kept ..)
    refine Kept.trans ?_ (dramWord_kept ..)
    exact patrolBack_kept ..
  · refine Kept.trans ?_ (putDramSt_kept ..)
    refine Kept.trans ?_ (dramWord_kept ..)
    exact patrolBack_kept ..

theorem execDramPatrolRead_kept (a0) (a1) {s t : State} (h : execDramPatrolRead a0 a1 s = .next t) : Kept s t := by
  unfold execDramPatrolRead at h
  injection h with h
  subst h
  refine Kept.ite (fun _ => ?_) fun _ => ?_
  · refine Kept.trans ?_ (patrolRead_kept ..)
    exact strikes_kept ..
  · exact strikes_kept ..

theorem refresh_kept (a0) (s : State) : Kept s (refresh a0 s) := by
  unfold refresh
  dsimp only
  refine Kept.trans ?_ (putDramSt_kept ..)
  exact watchTo_kept ..

theorem execDramRefresh_kept (a0) {s t : State} (h : execDramRefresh a0 s = .next t) : Kept s t := by
  unfold execDramRefresh at h
  injection h with h
  subst h
  refine Kept.ite (fun _ => ?_) fun _ => ?_
  · exact Kept.refl _
  · exact refresh_kept ..

theorem execDramTemperatureRead_kept (a0) (a1) {s t : State} (h : execDramTemperatureRead a0 a1 s = .next t) : Kept s t := by
  unfold execDramTemperatureRead at h
  injection h with h
  subst h
  refine Kept.ite (fun _ => ?_) fun _ => ?_
  · exact Kept.refl _
  · exact putDramSt_kept ..

/-! ### Recovery -/

theorem putRecov_kept (a0) (s : State) : Kept s (putRecov a0 s) := by
  unfold putRecov
  refine Kept.upd ?_ ..
  exact Kept.refl _

theorem verifyCk_kept (a0) (a1) : KM (verifyCk a0 a1) := by
  unfold verifyCk
  refine KM.bind ?_ fun _ => ?_
  · exact KM.get
  · split
    · exact KM.pure _
    · dsimp only
      exact verifyTile_kept _ _ _ _ _

theorem copyTile_kept (a0) (a1) (a2) : KM (copyTile a0 a1 a2) := by
  unfold copyTile
  refine KM.bind ?_ fun _ => ?_
  · exact readMem_kept _ _ _
  · exact writeMem_kept _ _ _

theorem copyOne_kept (a0) : KM (copyOne a0) := by
  unfold copyOne
  refine KM.bind ?_ fun _ => ?_
  · exact verifyCk_kept _ _
  · exact copyTile_kept _ _ _

theorem copyPairs_kept (a0) : KM (copyPairs a0) := by
  unfold copyPairs
  refine KM.forM fun _ => ?_
  exact copyOne_kept _

theorem resealCk_kept (a0) (a1) : KM (resealCk a0 a1) := by
  unfold resealCk
  refine KM.bind ?_ fun _ => ?_
  · exact KM.get
  · split
    · exact KM.pure _
    · dsimp only
      refine KM.bind ?_ fun _ => ?_
      · exact sealTile_kept _ _ _ _ _
      · exact KM.pure _

theorem restorePairs_kept (a0) : KM (restorePairs a0) := by
  unfold restorePairs
  refine KM.bind ?_ fun _ => ?_
  · refine KM.forM fun _ => ?_
    refine KM.forM fun _ => ?_
    exact copyTile_kept _ _ _
  · refine KM.forM fun _ => ?_
    refine KM.forM fun _ => ?_
    dsimp only
    refine KM.bind ?_ fun _ => ?_
    · exact KM.get
    · refine KM.ite (fun _ => ?_) fun _ => ?_
      · exact verifyCk_kept _ _
      · exact resealCk_kept _ _

theorem putSlot_kept (a0) (a1) (s : State) : Kept s (putSlot a0 a1 s) := by
  unfold putSlot
  refine Kept.ite (fun _ => ?_) fun _ => ?_
  · refine Kept.upd ?_ ..
    exact Kept.refl _
  · refine Kept.upd ?_ ..
    exact Kept.refl _

theorem loadSlot_kept (a0) (s : State) : Kept s (loadSlot a0 s) := by
  unfold loadSlot
  refine Kept.upd ?_ ..
  exact Kept.refl _

theorem wipeAttempt_kept (a0) (s : State) : Kept s (wipeAttempt a0 s) := by
  unfold wipeAttempt
  dsimp only
  refine Kept.upd ?_ ..
  exact stopAll_kept ..

theorem rollback_kept (a0) (s : State) : Kept s (rollback a0 s) := by
  unfold rollback
  dsimp only
  refine Kept.trans ?_ (putRecov_kept ..)
  refine Kept.upd ?_ ..
  split
  · refine Kept.ite (fun _ => ?_) fun _ => ?_
    · refine Kept.trans ?_ (loadSlot_kept ..)
      exact wipeAttempt_kept ..
    · exact wipeAttempt_kept ..
  · exact wipeAttempt_kept ..

theorem adoptDetour_kept (k a b) {s t : State} (h : adoptDetour k a b s = some t) : Kept s t := by
  unfold adoptDetour at h
  split at h
  · exact absurd h (by simp)
  · split at h
    · injection h with h; subst h; exact Kept.refl _
    · split at h
      · injection h with h; subst h; exact putPart_kept ..
      · exact absurd h (by simp)

theorem linkLost_kept (a0) (s : State) : Kept s (linkLost a0 s) := by
  unfold linkLost
  split
  · exact Kept.refl _
  · refine Kept.ite (fun _ => formingLost_kept ..) fun _ => ?_
    refine Kept.ite (fun _ => Kept.refl _) fun _ => ?_
    dsimp only
    split
    · refine Kept.trans ?_ (detect_kept ..)
      exact adoptDetour_kept (h := by assumption) ..
    · refine Kept.trans ?_ (detect_kept ..)
      exact report_kept ..

theorem learnDetour_kept (a0) (s : State) : Kept s (learnDetour a0 s) := by
  unfold learnDetour
  refine Kept.ite (fun _ => ?_) fun _ => ?_
  · exact Kept.refl _
  · dsimp only
    split
    · split
      · exact adoptDetour_kept (h := by assumption) ..
      · refine Kept.trans ?_ (detect_kept ..)
        exact report_kept ..
    · exact Kept.refl _

theorem noteDetours_kept (a0) (a1) (s : State) : Kept s (noteDetours a0 a1 s) := by
  unfold noteDetours
  refine Kept.foldl (fun _ _ => ?_) ?_
  · refine Kept.ite (fun _ => ?_) fun _ => ?_
    · exact Kept.refl _
    · refine Kept.trans ?_ (ledEvent_kept ..)
      exact report_kept ..
  · exact Kept.refl _

theorem secondFault_kept (a0) (s : State) : Kept s (secondFault a0 s) := by
  unfold secondFault
  refine Kept.trans ?_ (faulted_kept ..)
  exact raise_kept ..

theorem heldNoReplay_kept (a0) (s : State) : Kept s (heldNoReplay a0 s) := by
  unfold heldNoReplay
  refine Kept.ite (fun _ => ?_) fun _ => ?_
  · exact Kept.refl _
  · dsimp only
    refine Kept.trans ?_ (putRecov_kept ..)
    refine Kept.upd ?_ ..
    refine Kept.trans ?_ (ledEvent_kept ..)
    refine Kept.trans ?_ (raise_kept ..)
    exact stopAll_kept ..

theorem fixOrigin_kept (s : State) : Kept s (fixOrigin s) := by
  unfold fixOrigin
  refine Kept.ite (fun _ => ?_) fun _ => ?_
  · exact Kept.refl _
  · dsimp only
    refine Kept.trans ?_ (putRecov_kept ..)
    refine Kept.upd ?_ ..
    exact Kept.refl _

theorem newHold_kept (a0) (s : State) : Kept s (newHold a0 s) := by
  unfold newHold
  dsimp only
  refine Kept.ite (fun _ => ?_) fun _ => ?_
  · refine Kept.trans ?_ (rollback_kept ..)
    refine Kept.trans ?_ (learnDetour_kept ..)
    refine Kept.ite (fun _ => ?_) fun _ => ?_
    · refine Kept.trans ?_ (fixOrigin_kept ..)
      exact putRecov_kept ..
    · exact putRecov_kept ..
  · refine Kept.trans ?_ (learnDetour_kept ..)
    refine Kept.ite (fun _ => ?_) fun _ => ?_
    · refine Kept.trans ?_ (fixOrigin_kept ..)
      exact putRecov_kept ..
    · exact putRecov_kept ..

theorem takeHold_kept (a0) (s : State) : Kept s (takeHold a0 s) := by
  unfold takeHold
  refine Kept.ite (fun _ => ?_) fun _ => ?_
  · refine Kept.ite (fun _ => ?_) fun _ => ?_
    · exact faulted_kept ..
    · exact Kept.refl _
  · refine Kept.ite (fun _ => ?_) fun _ => ?_
    · exact Kept.refl _
    · refine Kept.ite (fun _ => ?_) fun _ => ?_
      · exact secondFault_kept ..
      · refine Kept.ite (fun _ => ?_) fun _ => ?_
        · exact heldNoReplay_kept ..
        · exact newHold_kept ..

theorem receiveHold_kept (a0) (s : State) : Kept s (receiveHold a0 s) := by
  unfold receiveHold
  refine Kept.trans ?_ (takeHold_kept ..)
  refine Kept.ite (fun _ => ?_) fun _ => ?_
  · exact sendHold_kept ..
  · exact Kept.refl _

theorem raiseHold_kept (a0) (s : State) : Kept s (raiseHold a0 s) := by
  unfold raiseHold
  refine Kept.trans ?_ (takeHold_kept ..)
  refine Kept.ite (fun _ => ?_) fun _ => ?_
  · exact sendHold_kept ..
  · exact Kept.refl _

theorem wrN_foldl_wf {l : List (Nat × List Byte)} {m : Mem} (h : Mem.wf m = true) :
    Mem.wf (l.foldl (fun m d => wrN m d.1 d.2) m) = true := by
  induction l generalizing m with
  | nil => exact h
  | cons x l ih => exact ih (wrN_wf _ _ h)

theorem rewriteStore_kept (a) (s : State) : Kept s (rewriteStore a s) := by
  unfold rewriteStore
  exact Kept.updMem (Kept.refl _) (a := id) (b := id) (c := wrN_foldl_wf) (d := id) ..

theorem repairTile_kept (a0) (s : State) : Kept s (repairTile a0 s).2 := by
  unfold repairTile
  (split <;> try dsimp only)
  · exact Kept.refl _
  · (split <;> try dsimp only)
    · exact rewriteStore_kept ..
    · (split <;> try dsimp only)
      · (split <;> try dsimp only)
        · (split <;> try dsimp only)
          · rename_i h; exact Kept.go h (restoreTile_kept _ _)
          · refine Kept.trans ?_ (noSource_kept ..)
            rename_i h; exact Kept.go h (restoreTile_kept _ _)
        · exact noSource_kept ..
        · exact Kept.refl _
      · exact Kept.refl _

theorem startFaultKat_kept (a0) (s : State) : Kept s (startFaultKat a0 s) := by
  unfold startFaultKat
  exact putUnit_kept ..

theorem katFor_kept (a0) (s : State) : Kept s (katFor a0 s) := by
  unfold katFor
  split
  · refine Kept.ite (fun _ => ?_) fun _ => ?_
    · exact startFaultKat_kept ..
    · exact Kept.refl _
  · exact Kept.refl _

theorem markLocal_kept (a0) (s : State) : Kept s (markLocal a0 s) := by
  unfold markLocal
  split
  · refine Kept.ite (fun _ => ?_) fun _ => ?_
    · refine putWick_kept _ _ ?_ ?_
      · exact Kept.refl _
      · refine Kept.wick ?_ _ _
        exact Kept.refl _
    · exact Kept.refl _
  · exact Kept.refl _

theorem stationLost_kept (a0) (s : State) : Kept s (stationLost a0 s) := by
  unfold stationLost
  dsimp only
  refine Kept.ite (fun _ => ?_) fun _ => ?_
  · refine Kept.trans ?_ (faulted_kept ..)
    refine Kept.trans ?_ (raise_kept ..)
    refine Kept.trans ?_ (staleBanks_kept ..)
    refine Kept.trans ?_ (markDark_kept ..)
    exact putStn_kept ..
  · refine Kept.trans ?_ (staleBanks_kept ..)
    refine Kept.trans ?_ (markDark_kept ..)
    exact putStn_kept ..

theorem reportFault_kept (a0) (s : State) : Kept s (reportFault a0 s) := by
  unfold reportFault
  dsimp only
  refine Kept.ite (fun _ => ?_) fun _ => ?_
  · refine Kept.trans ?_ (secondFault_kept ..)
    exact markLocal_kept ..
  · split
    · refine Kept.trans ?_ (stationLost_kept ..)
      exact markLocal_kept ..
    · refine Kept.trans ?_ (katFor_kept ..)
      refine Kept.trans ?_ (raiseHold_kept ..)
      split
      · refine Kept.trans ?_ (repairTile_kept ..)
        exact markLocal_kept ..
      · dsimp only
        exact markLocal_kept ..

theorem execFaultReport_kept {s t : State} (h : execFaultReport s = .next t) : Kept s t := by
  unfold execFaultReport at h
  injection h with h
  subst h
  split
  · exact Kept.refl _
  · refine Kept.trans ?_ (reportFault_kept ..)
    exact putRecov_kept ..

theorem restoreDone_kept (a0) (s : State) : Kept s (restoreDone a0 s) := by
  unfold restoreDone
  split
  · refine Kept.trans ?_ (putRecov_kept ..)
    refine Kept.trans ?_ (Kept.go (by assumption) ?_)
    · exact strikes_kept ..
    · exact restorePairs_kept _
  · refine Kept.trans ?_ (detect_kept ..)
    refine Kept.trans ?_ (putRecov_kept ..)
    refine Kept.trans ?_ (Kept.go (by assumption) ?_)
    · exact strikes_kept ..
    · exact restorePairs_kept _

theorem execRollbackComplete_kept (a0) {s t : State} (h : execRollbackComplete a0 s = .next t) : Kept s t := by
  unfold execRollbackComplete at h
  injection h with h
  subst h
  refine Kept.ite (fun _ => ?_) fun _ => ?_
  · exact restoreDone_kept ..
  · exact Kept.refl _

theorem katFailed_kept (a0) (s : State) : Kept s (katFailed a0 s) := by
  unfold katFailed
  split
  · exact swapIn_kept ..
  · refine Kept.trans ?_ (faulted_kept ..)
    refine Kept.trans ?_ (darken_kept ..)
    exact report_kept ..

theorem faultKatEnd_kept (a0) (a1) (s : State) : Kept s (faultKatEnd a0 a1 s) := by
  unfold faultKatEnd
  dsimp only
  refine Kept.ite (fun _ => ?_) fun _ => ?_
  · exact putUnit_kept ..
  · refine Kept.trans ?_ (katFailed_kept ..)
    exact putUnit_kept ..

theorem execFaultKatComplete_kept (a0) (a1) {s t : State} (h : execFaultKatComplete a0 a1 s = .next t) : Kept s t := by
  unfold execFaultKatComplete at h
  injection h with h
  subst h
  refine Kept.ite (fun _ => ?_) fun _ => ?_
  · exact faultKatEnd_kept ..
  · exact Kept.refl _

theorem releaseAll_kept (s : State) : Kept s (releaseAll s) := by
  unfold releaseAll
  refine Kept.upd ?_ ..
  exact Kept.refl _

theorem beginReplay_kept (a0) (a1) (s : State) : Kept s (beginReplay a0 a1 s) := by
  unfold beginReplay
  dsimp only
  refine Kept.trans ?_ (putRecov_kept ..)
  refine Kept.trans ?_ (noteDetours_kept ..)
  refine Kept.upd ?_ ..
  refine Kept.trans ?_ (ledEvent_kept ..)
  refine Kept.trans ?_ (regCount_kept ..)
  refine Kept.trans ?_ (raise_kept ..)
  exact releaseAll_kept ..

theorem atOrigin_kept (a0) (s : State) : Kept s (atOrigin a0 s) := by
  unfold atOrigin
  dsimp only
  refine Kept.ite (fun _ => ?_) fun _ => ?_
  · refine Kept.trans ?_ (faulted_kept ..)
    exact raise_kept ..
  · refine Kept.ite (fun _ => ?_) fun _ => ?_
    · exact secondFault_kept ..
    · refine Kept.ite (fun _ => ?_) fun _ => ?_
      · refine Kept.trans ?_ (faulted_kept ..)
        exact raise_kept ..
      · exact beginReplay_kept ..

theorem execReplayOrigin_kept {s t : State} (h : execReplayOrigin s = .next t) : Kept s t := by
  unfold execReplayOrigin at h
  injection h with h
  subst h
  split
  · refine Kept.ite (fun _ => ?_) fun _ => ?_
    · refine Kept.trans ?_ (atOrigin_kept ..)
      exact watchTo_kept ..
    · exact Kept.refl _
  · exact Kept.refl _

theorem execStationPllLoss_kept (a0) {s t : State} (h : execStationPllLoss a0 s = .next t) : Kept s t := by
  unfold execStationPllLoss at h
  injection h with h
  subst h
  refine Kept.ite (fun _ => ?_) fun _ => ?_
  · exact Kept.refl _
  · refine Kept.trans ?_ (stationLost_kept ..)
    dsimp only
    refine Kept.updKpr ?_ ..
    exact Kept.refl _

theorem keeperHalt_kept (s : State) : Kept s (keeperHalt s) := by
  unfold keeperHalt
  dsimp only
  refine Kept.ite (fun _ => ?_) fun _ => ?_
  · refine Kept.trans ?_ (faulted_kept ..)
    refine Kept.upd ?_ ..
    refine Kept.trans ?_ (assertFog_kept ..)
    exact raise_kept ..
  · refine Kept.upd ?_ ..
    refine Kept.trans ?_ (assertFog_kept ..)
    exact raise_kept ..

theorem execKeeperCompareMismatch_kept {s t : State} (h : execKeeperCompareMismatch s = .next t) : Kept s t := by
  unfold execKeeperCompareMismatch at h
  injection h with h
  subst h
  refine Kept.ite (fun _ => ?_) fun _ => ?_
  · exact keeperHalt_kept ..
  · exact Kept.refl _

theorem testDetours_kept (s : State) : Kept s (testDetours s) := by
  unfold testDetours
  refine Kept.foldl (fun _ _ => ?_) ?_
  · refine Kept.foldl (fun _ _ => ?_) ?_
    · refine Kept.ite (fun _ => ?_) fun _ => ?_
      · exact Kept.refl _
      · refine Kept.trans ?_ (emit_kept ..)
        exact raise_kept ..
    · exact Kept.refl _
  · refine Kept.upd ?_ ..
    exact Kept.refl _

theorem execDetourLinkTest_kept  {s t : State} (h : execDetourLinkTest  s = .next t) : Kept s t := by
  unfold execDetourLinkTest at h
  injection h with h
  subst h
  refine Kept.ite (fun _ => ?_) fun _ => ?_
  · refine Kept.trans ?_ (testDetours_kept ..)
    exact watchTo_kept ..
  · exact Kept.refl _

/-! ### Steps -/

theorem captureDiv_kept (a0) (a1) (s : State) : Kept s (captureDiv a0 a1 s) := by
  unfold captureDiv
  refine Kept.foldl (fun _ _ => ?_) ?_
  · exact regPut_kept ..
  · exact Kept.refl _

theorem diverged_kept (a0) (a1) (s : State) : Kept s (diverged a0 a1 s) := by
  unfold diverged
  dsimp only
  refine Kept.ite (fun _ => ?_) fun _ => ?_
  · refine Kept.trans ?_ (faulted_kept ..)
    refine Kept.trans ?_ (assertFog_kept ..)
    refine Kept.trans ?_ (captureDiv_kept ..)
    exact raise_kept ..
  · refine Kept.trans ?_ (assertFog_kept ..)
    refine Kept.trans ?_ (captureDiv_kept ..)
    exact raise_kept ..

theorem toCounterpart_kept (a0) (a1) (s : State) : Kept s (toCounterpart a0 a1 s) := by
  unfold toCounterpart
  dsimp only
  refine Kept.trans ?_ (sendBytes_kept ..)
  exact emit_kept ..

theorem leadCompare_kept (s : State) : Kept s (leadCompare s) := by
  unfold leadCompare
  dsimp only
  split
  · refine Kept.trans ?_ (diverged_kept ..)
    refine Kept.trans ?_ (toCounterpart_kept ..)
    refine Kept.upd ?_ ..
    exact Kept.refl _
  · refine Kept.ite (fun _ => ?_) fun _ => ?_
    · refine Kept.ite (fun _ => ?_) fun _ => ?_
      · refine Kept.trans ?_ (faulted_kept ..)
        refine Kept.trans ?_ (raise_kept ..)
        refine Kept.upd ?_ ..
        exact Kept.refl _
      · refine Kept.trans ?_ (raise_kept ..)
        refine Kept.upd ?_ ..
        exact Kept.refl _
    · refine Kept.upd ?_ ..
      exact Kept.refl _

theorem commitLead_kept (a0) (s : State) : Kept s (commitLead a0 s) := by
  unfold commitLead
  dsimp only
  refine Kept.ite (fun _ => ?_) fun _ => ?_
  · refine Kept.trans ?_ (leadCompare_kept ..)
    refine Kept.trans ?_ (toCounterpart_kept ..)
    refine Kept.upd ?_ ..
    exact Kept.refl _
  · refine Kept.upd ?_ ..
    exact Kept.refl _

theorem syncEvent_kept (a0) (a1) (a2) (s : State) : Kept s (syncEvent a0 a1 a2 s) := by
  unfold syncEvent
  exact raise_kept ..

theorem stepOverrun_kept (s : State) : Kept s (stepOverrun s) := by
  unfold stepOverrun
  refine Kept.ite (fun _ => ?_) fun _ => ?_
  · exact Kept.refl _
  · split
    · refine Kept.trans ?_ (detect_kept ..)
      exact syncEvent_kept ..
    · exact Kept.refl _

theorem applyFork_kept (s : State) : Kept s (applyFork s) := by
  unfold applyFork
  split
  · refine Kept.upd ?_ ..
    exact Kept.refl _
  · exact Kept.refl _

theorem releaseStep_kept (s : State) : Kept s (releaseStep s) := by
  unfold releaseStep
  refine Kept.updMem ?_ (a := ?_) (b := ?_) (c := ?_) (d := ?_) ..
  · exact Kept.refl _
  · exact id
  · exact id
  · exact id
  · exact wicksWf_tmap fun _ _ => rfl

theorem nextStep_kept (s : State) : Kept s (nextStep s) := by
  unfold nextStep
  dsimp only
  refine Kept.trans ?_ (putSlot_kept ..)
  refine Kept.upd ?_ ..
  refine Kept.trans ?_ (releaseStep_kept ..)
  refine Kept.trans ?_ (applyFork_kept ..)
  refine Kept.ite (fun _ => ?_) fun _ => ?_
  · exact bumpFree_kept ..
  · exact Kept.refl _

theorem forkFault_kept (s : State) : Kept s (forkFault s) := by
  unfold forkFault
  refine Kept.ite (fun _ => ?_) fun _ => ?_
  · exact Kept.refl _
  · refine Kept.trans ?_ (detect_kept ..)
    exact report_kept ..

theorem boundary_kept (s : State) : Kept s (boundary s) := by
  unfold boundary
  refine Kept.ite (fun _ => ?_) fun _ => ?_
  · refine Kept.trans ?_ (stepOverrun_kept ..)
    exact forkFault_kept ..
  · refine Kept.ite (fun _ => ?_) fun _ => ?_
    · exact stepOverrun_kept ..
    · refine Kept.ite (fun _ => ?_) fun _ => ?_
      · exact startDrain_kept ..
      · refine Kept.ite (fun _ => ?_) fun _ => ?_
        · exact forkFault_kept ..
        · exact nextStep_kept ..

theorem execStepBoundary_kept {s t : State} (h : execStepBoundary s = .next t) : Kept s t := by
  unfold execStepBoundary at h
  injection h with h
  subst h
  refine Kept.ite (fun _ => ?_) fun _ => ?_
  · refine Kept.trans ?_ (boundary_kept ..)
    exact watchTo_kept ..
  · exact Kept.refl _

theorem copyFails_kept (a0) (a1) (s : State) : Kept s (copyFails a0 a1 s) := by
  unfold copyFails
  refine Kept.upd ?_ ..
  exact Kept.refl _

theorem commit_kept (a0) (s : State) : Kept s (commit a0 s) := by
  unfold commit
  dsimp only
  split
  · refine Kept.trans ?_ (copyFails_kept ..)
    refine Kept.trans ?_ (Kept.go (by assumption) ?_)
    · exact strikes_kept ..
    · refine KM.forM fun _ => ?_
      exact copyOne_kept _
  · split
    · refine Kept.trans ?_ (copyFails_kept ..)
      refine Kept.trans ?_ (putRecov_kept ..)
      refine Kept.trans ?_ (Kept.go (by assumption) ?_)
      · refine Kept.trans ?_ (Kept.go (by assumption) ?_)
        · exact strikes_kept ..
        · refine KM.forM fun _ => ?_
          exact copyOne_kept _
      · refine KM.forM fun _ => ?_
        exact copyOne_kept _
    · refine Kept.trans ?_ (commitLead_kept ..)
      refine Kept.trans ?_ (putRecov_kept ..)
      refine Kept.trans ?_ (Kept.go (by assumption) ?_)
      · refine Kept.trans ?_ (Kept.go (by assumption) ?_)
        · exact strikes_kept ..
        · refine KM.forM fun _ => ?_
          exact copyOne_kept _
      · refine KM.forM fun _ => ?_
        exact copyOne_kept _

theorem execStepCommit_kept (a0) {s t : State} (h : execStepCommit a0 s = .next t) : Kept s t := by
  unfold execStepCommit at h
  injection h with h
  subst h
  refine Kept.ite (fun _ => ?_) fun _ => ?_
  · refine Kept.trans ?_ (commit_kept ..)
    exact watchTo_kept ..
  · exact Kept.refl _

theorem copyDone_kept (a0) (s : State) : Kept s (copyDone a0 s) := by
  unfold copyDone
  exact putRecov_kept ..

theorem execCheckpointCopyDone_kept {s t : State} (h : execCheckpointCopyDone s = .next t) : Kept s t := by
  unfold execCheckpointCopyDone at h
  injection h with h
  subst h
  split
  · refine Kept.ite (fun _ => ?_) fun _ => ?_
    · exact copyDone_kept ..
    · exact Kept.refl _
  · exact Kept.refl _

theorem watchdogFires_kept (a0) (s : State) : Kept s (watchdogFires a0 s) := by
  unfold watchdogFires
  dsimp only
  refine Kept.trans ?_ (putEng_kept ..)
  refine Kept.trans ?_ (detect_kept ..)
  exact syncEvent_kept ..

theorem execDeadlockWatchdog_kept (a0) {s t : State} (h : execDeadlockWatchdog a0 s = .next t) : Kept s t := by
  unfold execDeadlockWatchdog at h
  injection h with h
  subst h
  refine Kept.ite (fun _ => ?_) fun _ => ?_
  · refine Kept.trans ?_ (watchdogFires_kept ..)
    exact watchTo_kept ..
  · exact Kept.refl _

end Sys2Proof.Machine
end

