-- ==== Sys2Proof/Laws/KeptLoad.lean ====
section
/-! SUPPORT. What every command keeps (Safety.Kept), carried through placement, loading, launch and the ends of jobs: one lemma per operation. -/

namespace Sys2Proof.Machine

/-! ### Place -/

theorem bindStation_kept (a0) (s : State) : Kept s (bindStation a0 s) := by
  unfold bindStation
  dsimp only
  refine Kept.foldl (fun _ _ => ?_) ?_
  · refine putWick_kept _ _ ?_ ?_
    · exact Kept.refl _
    · refine Kept.wick ?_ _ _
      exact Kept.refl _
  · refine Kept.foldl (fun _ _ => ?_) ?_
    · exact putLan_kept ..
    · exact Kept.refl _

theorem enableStation_kept (a0) (s : State) : Kept s (enableStation a0 s) := by
  unfold enableStation
  refine Kept.foldl (fun _ _ => ?_) ?_
  · exact enableUnit_kept ..
  · refine Kept.foldl (fun _ _ => ?_) ?_
    · exact enableUnit_kept ..
    · exact Kept.refl _

theorem bindUnits_kept (a0) (s : State) : Kept s (bindUnits a0 s) := by
  unfold bindUnits
  split
  · refine Kept.foldl (fun _ _ => ?_) ?_
    · refine Kept.trans ?_ (enableStation_kept ..)
      exact bindStation_kept ..
    · exact Kept.refl _
  · exact Kept.refl _

/-! ### Load -/

theorem forgetBank_kept (a0) (s : State) : Kept s (forgetBank a0 s) := by
  unfold forgetBank
  refine Kept.upd ?_ ..
  exact Kept.refl _

theorem forgetMooring_kept (a0) (s : State) : Kept s (forgetMooring a0 s) := by
  unfold forgetMooring
  refine Kept.upd ?_ ..
  exact Kept.refl _

theorem bankDone_kept (a0) (a1) (a2) (s : State) : Kept s (bankDone a0 a1 a2 s) := by
  unfold bankDone
  split
  · refine Kept.trans ?_ (cmdDone_kept ..)
    refine Kept.upd ?_ ..
    exact Kept.refl _
  · exact Kept.refl _

theorem startLoad_kept (a0) (a1) (a2) (s : State) : Kept s (startLoad a0 a1 a2 s) := by
  unfold startLoad
  dsimp only
  refine Kept.trans ?_ (wakeDram_kept ..)
  refine Kept.upd ?_ ..
  refine Kept.trans ?_ (forgetBank_kept ..)
  exact putBank_kept ..

theorem cmdLoadImage_kept (a0) (a1) (s : State) : Kept s (cmdLoadImage a0 a1 s) := by
  unfold cmdLoadImage
  dsimp only
  refine Kept.ite (fun _ => ?_) fun _ => ?_
  · exact cmdDone_kept ..
  · refine Kept.ite (fun _ => ?_) fun _ => ?_
    · exact cmdConflict_kept ..
    · exact startLoad_kept ..

theorem execLoadImage_kept (a0) {s t : State} (h : execLoadImage a0 s = .next t) : Kept s t := by
  unfold execLoadImage at h
  injection h with h
  subst h
  refine Kept.trans ?_ (adminRun_kept _ _ _ _ (fun _ _ _ => ?_) _)
  · exact Kept.refl _
  · exact cmdLoadImage_kept ..

theorem loadFailed_kept (a0) (a1) (s : State) : Kept s (loadFailed a0 a1 s) := by
  unfold loadFailed
  refine Kept.trans ?_ (settleLife_kept ..)
  refine Kept.trans ?_ (bankDone_kept ..)
  refine Kept.trans ?_ (emit_kept ..)
  refine Kept.trans ?_ (report_kept ..)
  exact putBank_kept ..

theorem bindStreams_kept (a0) (a1) (s : State) : Kept s (bindStreams a0 a1 s) := by
  unfold bindStreams
  split
  · exact Kept.refl _
  · refine Kept.foldl (fun _ _ => ?_) ?_
    · dsimp only
      exact putEng_kept ..
    · exact Kept.refl _

theorem dmaError_kept (s : State) : Kept s (dmaError s) := by
  unfold dmaError
  exact raise_kept ..

theorem execLoadStrictRelease_kept (a0) {s t : State} (h : execLoadStrictRelease a0 s = .next t) : Kept s t := by
  unfold execLoadStrictRelease at h
  injection h with h
  subst h
  refine Kept.ite (fun _ => ?_) fun _ => ?_
  · exact putBank_kept ..
  · exact Kept.refl _

theorem cmdReleaseBank_kept (a0) (a1) (s : State) : Kept s (cmdReleaseBank a0 a1 s) := by
  unfold cmdReleaseBank
  dsimp only
  refine Kept.ite (fun _ => ?_) fun _ => ?_
  · exact cmdDone_kept ..
  · refine Kept.ite (fun _ => ?_) fun _ => ?_
    · exact cmdConflict_kept ..
    · refine Kept.trans ?_ (settleLife_kept ..)
      refine Kept.trans ?_ (cmdDone_kept ..)
      refine Kept.trans ?_ (forgetBank_kept ..)
      exact putBank_kept ..

theorem execReleaseBank_kept (a0) {s t : State} (h : execReleaseBank a0 s = .next t) : Kept s t := by
  unfold execReleaseBank at h
  injection h with h
  subst h
  refine Kept.trans ?_ (adminRun_kept _ _ _ _ (fun _ _ _ => ?_) _)
  · exact Kept.refl _
  · exact cmdReleaseBank_kept ..

theorem cmdTensorAddr_kept (a0) (a1) (s : State) : Kept s (cmdTensorAddr a0 a1 s) := by
  unfold cmdTensorAddr
  dsimp only
  refine Kept.ite (fun _ => ?_) fun _ => ?_
  · exact cmdDone_kept ..
  · refine Kept.ite (fun _ => ?_) fun _ => ?_
    · exact cmdConflict_kept ..
    · split
      · exact cmdDone_kept ..
      · exact cmdDone_kept ..

theorem execTensorAddr_kept (a0) {s t : State} (h : execTensorAddr a0 s = .next t) : Kept s t := by
  unfold execTensorAddr at h
  injection h with h
  subst h
  refine Kept.trans ?_ (adminRun_kept _ _ _ _ (fun _ _ _ => ?_) _)
  · exact Kept.refl _
  · exact cmdTensorAddr_kept ..

theorem putMoorCmds_kept (a0) (s : State) : Kept s (putMoorCmds a0 s) := by
  unfold putMoorCmds
  refine Kept.upd ?_ ..
  exact Kept.refl _

theorem openMooring_kept (a0) (a1) (a2) (a3) (s : State) : Kept s (openMooring a0 a1 a2 a3 s) := by
  unfold openMooring
  split
  · refine Kept.trans ?_ (cmdDone_kept ..)
    exact report_kept ..
  · dsimp only
    refine Kept.trans ?_ (cmdDone_kept ..)
    refine Kept.trans ?_ (wakeDram_kept ..)
    refine Kept.trans ?_ (forgetMooring_kept ..)
    exact putMoor_kept ..

theorem cmdMooringOpen_kept (a0) (a1) (s : State) : Kept s (cmdMooringOpen a0 a1 s) := by
  unfold cmdMooringOpen
  dsimp only
  refine Kept.ite (fun _ => ?_) fun _ => ?_
  · exact cmdDone_kept ..
  · refine Kept.ite (fun _ => ?_) fun _ => ?_
    · refine Kept.trans ?_ (cmdDone_kept ..)
      exact report_kept ..
    · refine Kept.ite (fun _ => ?_) fun _ => ?_
      · exact cmdConflict_kept ..
      · (split <;> try dsimp only)
        · exact openMooring_kept ..
        · exact cmdConflict_kept ..

theorem execMooringOpen_kept (a0) {s t : State} (h : execMooringOpen a0 s = .next t) : Kept s t := by
  unfold execMooringOpen at h
  injection h with h
  subst h
  refine Kept.trans ?_ (adminRun_kept _ _ _ _ (fun _ _ _ => ?_) _)
  · exact Kept.refl _
  · exact cmdMooringOpen_kept ..

theorem cmdMooringSeal_kept (a0) (a1) (s : State) : Kept s (cmdMooringSeal a0 a1 s) := by
  unfold cmdMooringSeal
  dsimp only
  refine Kept.ite (fun _ => ?_) fun _ => ?_
  · exact cmdDone_kept ..
  · refine Kept.ite (fun _ => ?_) fun _ => ?_
    · exact cmdConflict_kept ..
    · refine Kept.trans ?_ (putMoorCmds_kept ..)
      exact putMoor_kept ..

theorem execMooringSeal_kept (a0) {s t : State} (h : execMooringSeal a0 s = .next t) : Kept s t := by
  unfold execMooringSeal at h
  injection h with h
  subst h
  refine Kept.trans ?_ (adminRun_kept _ _ _ _ (fun _ _ _ => ?_) _)
  · exact Kept.refl _
  · exact cmdMooringSeal_kept ..

theorem moorDone_kept (a0) (a1) (s : State) : Kept s (moorDone a0 a1 s) := by
  unfold moorDone
  split
  · refine Kept.trans ?_ (cmdDone_kept ..)
    exact putMoorCmds_kept ..
  · exact Kept.refl _

theorem moorBlocks_kept (a0) (a1) : KM (moorBlocks a0 a1) := by
  unfold moorBlocks
  refine KM.forM fun _ => ?_
  refine KM.bind ?_ fun _ => ?_
  · exact readMem_kept _ _ _
  · refine KM.ite (fun _ => ?_) fun _ => ?_
    · exact KM.pure _
    · exact failM_kept _ _ _ _

theorem cvEntry_kept (a0) (a1) (a2) (a3) (a4) (a5) : KM (cvEntry a0 a1 a2 a3 a4 a5) := by
  unfold cvEntry
  dsimp only
  refine KM.bind ?_ fun _ => ?_
  · refine KM.mapM fun _ => ?_
    exact lanElem_kept _ _ _
  · exact KM.pure _

theorem cvWrite_kept (a0) (a1) (a2) (a3) (a4) : KM (cvWrite a0 a1 a2 a3 a4) := by
  unfold cvWrite
  refine KM.forM fun _ => ?_
  refine KM.forM fun _ => ?_
  refine KM.bind ?_ fun _ => ?_
  · exact cvEntry_kept _ _ _ _ _ _
  · exact writeMem_kept _ _ _

theorem moorTally_kept (a0) (a1) (a2) (a3) (a4) (a5) : KM (moorTally a0 a1 a2 a3 a4 a5) := by
  unfold moorTally
  dsimp only
  refine KM.bind ?_ fun _ => ?_
  · exact writeMem_kept _ _ _
  · refine KM.bind ?_ fun _ => ?_
    · refine KM.forM fun _ => ?_
      refine KM.bind ?_ fun _ => ?_
      · exact sealTile_kept _ _ _ _ _
      · exact KM.pure _
    · refine KM.ite (fun _ => ?_) fun _ => ?_
      · refine KM.bind ?_ fun _ => ?_
        · exact KM.get
        · exact cvWrite_kept _ _ _ _ _
      · exact KM.pure _

theorem moorVariant_kept (a0) (a1) (a2) : KM (moorVariant a0 a1 a2) := by
  unfold moorVariant
  dsimp only
  refine KM.bind ?_ fun _ => ?_
  · exact KM.get
  · refine KM.bind ?_ fun _ => ?_
    · refine KM.modify fun _ => ?_
      exact putStn_kept ..
    · refine KM.bind ?_ fun _ => ?_
      · refine KM.forM fun _ => ?_
        split
        · refine KM.ite (fun _ => ?_) fun _ => ?_
          · exact moorTally_kept _ _ _ _ _ _
          · exact KM.pure _
        · exact KM.pure _
      · refine KM.modify fun _ => ?_
        exact putStn_kept ..

theorem moorVerify_kept (a0) (a1) : KM (moorVerify a0 a1) := by
  unfold moorVerify
  refine KM.bind ?_ fun _ => ?_
  · exact moorBlocks_kept _ _
  · refine KM.forM fun _ => ?_
    exact moorVariant_kept _ _ _

theorem keepHandles_kept (t s : State) : Kept s (keepHandles t s) := by
  unfold keepHandles
  exact Kept.upd (Kept.refl _) ..

theorem execMooringVerifyResume_kept (a0) {s t : State} (h : execMooringVerifyResume a0 s = .next t) : Kept s t := by
  unfold execMooringVerifyResume at h
  injection h with h
  subst h
  refine Kept.ite (fun _ => ?_) fun _ => ?_
  · exact putMoor_kept ..
  · exact Kept.refl _

theorem cmdMooringRelease_kept (a0) (a1) (s : State) : Kept s (cmdMooringRelease a0 a1 s) := by
  unfold cmdMooringRelease
  dsimp only
  refine Kept.ite (fun _ => ?_) fun _ => ?_
  · exact cmdDone_kept ..
  · refine Kept.ite (fun _ => ?_) fun _ => ?_
    · exact cmdConflict_kept ..
    · refine Kept.trans ?_ (cmdDone_kept ..)
      refine Kept.trans ?_ (settleDram_kept ..)
      refine Kept.trans ?_ (moorDone_kept ..)
      refine Kept.trans ?_ (forgetMooring_kept ..)
      exact putMoor_kept ..

theorem execMooringRelease_kept (a0) {s t : State} (h : execMooringRelease a0 s = .next t) : Kept s t := by
  unfold execMooringRelease at h
  injection h with h
  subst h
  refine Kept.trans ?_ (adminRun_kept _ _ _ _ (fun _ _ _ => ?_) _)
  · exact Kept.refl _
  · exact cmdMooringRelease_kept ..

/-! ### Launch -/

theorem takeJob_kept (a0) (a1) (a2) (a3) (a4) (s : State) : Kept s (takeJob a0 a1 a2 a3 a4 s) := by
  unfold takeJob
  dsimp only
  refine Kept.ite (fun _ => ?_) fun _ => ?_
  · refine Kept.trans ?_ (refuseJob_kept ..)
    exact conflict_kept ..
  · split
    · refine Kept.trans ?_ (refuseJob_kept ..)
      refine Kept.ite (fun _ => ?_) fun _ => ?_
      · exact dmaError_kept ..
      · exact report_kept ..
    · refine Kept.upd ?_ ..
      exact Kept.refl _

theorem execJobRecord_kept (a0) (a1) (a2) (a3) {s t : State} (h : execJobRecord a0 a1 a2 a3 s = .next t) : Kept s t := by
  unfold execJobRecord at h
  injection h with h
  subst h
  refine Kept.ite (fun _ => ?_) fun _ => ?_
  · refine Kept.trans ?_ (takeJob_kept ..)
    exact advanceHead_kept ..
  · exact Kept.refl _

theorem withBank_kept (a0) (s : State) : Kept s (withBank a0 s) := by
  unfold withBank
  refine Kept.upd ?_ ..
  exact Kept.refl _

theorem replaceBank_kept (a0) (s : State) : Kept s (replaceBank a0 s).2 := by
  unfold replaceBank
  dsimp only
  split
  · dsimp only
    exact Kept.refl _
  · split
    · dsimp only
      exact Kept.refl _
    · split
      · dsimp only
        exact report_kept ..
      · dsimp only
        refine Kept.trans ?_ (forgetBank_kept ..)
        exact putBank_kept ..

theorem noteUnfit_kept (a0) (s : State) : Kept s (noteUnfit a0 s) := by
  unfold noteUnfit
  refine Kept.foldl (fun _ _ => ?_) ?_
  · refine Kept.ite (fun _ => ?_) fun _ => ?_
    · exact report_kept ..
    · exact Kept.refl _
  · exact Kept.refl _

theorem putActive_kept (a0) (s : State) : Kept s (putActive a0 s) := by
  unfold putActive
  refine Kept.upd ?_ ..
  exact Kept.refl _

theorem launchDetours_kept (a0) (s : State) : Kept s (launchDetours a0 s).2 := by
  unfold launchDetours
  refine Kept.foldlSnd (fun r d => ?_) (Kept.refl _)
  dsimp only
  generalize (if d.2 % 24 < nth (coordsOf r.2.fab.part.shape d.1) (d.2 / 24) then d.2 % 24 else d.2 % 24 + 1) = q
  split
  · exact Kept.refl _
  · split
    · exact adoptDetour_kept (h := by assumption) ..
    · exact Kept.refl _

theorem detourClash_kept (s : State) : Kept s (detourClash s) := by
  unfold detourClash
  refine Kept.trans ?_ (faulted_kept ..)
  exact report_kept ..

theorem retireGrid_kept (s : State) : Kept s (retireGrid s) := by
  unfold retireGrid
  refine Kept.upd ?_ ..
  exact Kept.refl _

theorem arm_kept (a0) (a1) (a2) (a3) (a4) (s : State) : Kept s (arm a0 a1 a2 a3 a4 s) := by
  unfold arm
  dsimp only
  refine Kept.ite (fun _ => ?_) fun _ => ?_
  · refine Kept.trans ?_ (detourClash_kept ..)
    refine Kept.trans ?_ (launchDetours_kept ..)
    refine Kept.trans ?_ (putActive_kept ..)
    refine Kept.trans ?_ (wakeDram_kept ..)
    refine Kept.trans ?_ (retireGrid_kept ..)
    refine Kept.upd ?_ ..
    exact Kept.refl _
  · refine Kept.trans ?_ (launchDetours_kept ..)
    refine Kept.trans ?_ (putActive_kept ..)
    refine Kept.trans ?_ (wakeDram_kept ..)
    refine Kept.trans ?_ (retireGrid_kept ..)
    refine Kept.upd ?_ ..
    exact Kept.refl _

theorem refuseLaunch_kept (a0) (s : State) : Kept s (refuseLaunch a0 s) := by
  unfold refuseLaunch
  split
  · exact Kept.refl _
  · refine Kept.trans ?_ (refuseJob_kept ..)
    refine Kept.trans ?_ (putActive_kept ..)
    refine Kept.trans ?_ (toMembers_kept ..)
    refine Kept.upd ?_ ..
    exact Kept.refl _

theorem refuse3022_kept (a0) (s : State) : Kept s (refuse3022 a0 s) := by
  unfold refuse3022
  refine Kept.trans ?_ (refuseLaunch_kept ..)
  exact raise_kept ..

theorem refuse3024_kept (a0) (a1) (s : State) : Kept s (refuse3024 a0 a1 s) := by
  unfold refuse3024
  refine Kept.trans ?_ (refuseLaunch_kept ..)
  exact raise_kept ..

theorem tellLead_kept (a0) (a1) (s : State) : Kept s (tellLead a0 a1 s) := by
  unfold tellLead
  refine Kept.ite (fun _ => ?_) fun _ => ?_
  · exact toCounterpart_kept ..
  · exact Kept.refl _

theorem launchWith_kept (a0) (a1) (s : State) : Kept s (launchWith a0 a1 s) := by
  unfold launchWith
  dsimp only
  refine Kept.upd ?_ ..
  refine Kept.trans ?_ (arm_kept ..)
  refine Kept.trans ?_ (tellLead_kept ..)
  exact toMembers_kept ..

theorem delayLaunch_kept (a0) (s : State) : Kept s (delayLaunch a0 s) := by
  unfold delayLaunch
  dsimp only
  refine Kept.ite (fun _ => ?_) fun _ => ?_
  · refine Kept.upd ?_ ..
    exact putActive_kept ..
  · exact putActive_kept ..

theorem loadUndone_kept (a0) (a1) (s : State) : Kept s (loadUndone a0 a1 s) := by
  unfold loadUndone
  refine Kept.ite (fun _ => ?_) fun _ => ?_
  · refine Kept.trans ?_ (settleLife_kept ..)
    refine Kept.trans ?_ (forgetBank_kept ..)
    exact putBank_kept ..
  · exact Kept.refl _

theorem decide3_kept (a0) (a1) (a2) (s : State) : Kept s (decide3 a0 a1 a2 s) := by
  unfold decide3
  refine Kept.ite (fun _ => ?_) fun _ => ?_
  · exact delayLaunch_kept ..
  · refine Kept.ite (fun _ => ?_) fun _ => ?_
    · refine Kept.trans ?_ (refuseLaunch_kept ..)
      exact raise_kept ..
    · refine Kept.ite (fun _ => ?_) fun _ => ?_
      · dsimp only
        refine Kept.trans ?_ (loadUndone_kept ..)
        refine Kept.trans ?_ (refuseLaunch_kept ..)
        exact report_kept ..
      · refine Kept.ite (fun _ => ?_) fun _ => ?_
        · refine Kept.trans ?_ (refuseLaunch_kept ..)
          exact report_kept ..
        · (split <;> try dsimp only)
          · exact refuse3022_kept ..
          · exact refuse3024_kept ..
          · refine Kept.ite (fun _ => ?_) fun _ => ?_
            · refine Kept.trans ?_ (refuseLaunch_kept ..)
              exact report_kept ..
            · exact launchWith_kept ..

theorem decideLaunch_kept (s : State) : Kept s (decideLaunch s) := by
  unfold decideLaunch
  split
  · exact Kept.refl _
  · dsimp only
    refine Kept.ite (fun _ => ?_) fun _ => ?_
    · exact Kept.refl _
    · exact decide3_kept ..

theorem sendPrepare_kept (a0) (s : State) : Kept s (sendPrepare a0 s) := by
  unfold sendPrepare
  dsimp only
  refine Kept.ite (fun _ => ?_) fun _ => ?_
  · refine Kept.trans ?_ (toCounterpart_kept ..)
    exact toMembers_kept ..
  · exact toMembers_kept ..

theorem noteRefusal_kept (a0) (s : State) : Kept s (noteRefusal a0 s) := by
  unfold noteRefusal
  refine Kept.ite (fun _ => ?_) fun _ => ?_
  · exact raise_kept ..
  · refine Kept.ite (fun _ => ?_) fun _ => ?_
    · exact raise_kept ..
    · exact report_kept ..

theorem beginLaunch_kept (a0) (a1) (s : State) : Kept s (beginLaunch a0 a1 s) := by
  unfold beginLaunch
  dsimp only
  split
  · refine Kept.trans ?_ (refuseJob_kept ..)
    refine Kept.trans ?_ (noteRefusal_kept ..)
    exact replaceBank_kept ..
  · refine Kept.trans ?_ (decideLaunch_kept ..)
    refine Kept.trans ?_ (sendPrepare_kept ..)
    refine Kept.trans ?_ (putActive_kept ..)
    refine Kept.trans ?_ (noteUnfit_kept ..)
    exact replaceBank_kept ..

theorem takeOff_kept (a0) (s : State) : Kept s (takeOff a0 s) := by
  unfold takeOff
  refine Kept.upd ?_ ..
  exact Kept.refl _

theorem refuseWaiting_kept (a0) (s : State) : Kept s (refuseWaiting a0 s) := by
  unfold refuseWaiting
  refine Kept.trans ?_ (refuseJob_kept ..)
  refine Kept.trans ?_ (conflict_kept ..)
  exact takeOff_kept ..

theorem execJobDispatch_kept {s t : State} (h : execJobDispatch s = .next t) : Kept s t := by
  unfold execJobDispatch at h
  injection h with h
  subst h
  split
  · refine Kept.ite (fun _ => ?_) fun _ => ?_
    · refine Kept.trans ?_ (beginLaunch_kept ..)
      exact takeOff_kept ..
    · refine Kept.ite (fun _ => ?_) fun _ => ?_
      · exact refuseWaiting_kept ..
      · exact Kept.refl _
  · exact Kept.refl _

theorem holdJob_kept (a0) (a1) (s : State) : Kept s (holdJob a0 a1 s) := by
  unfold holdJob
  dsimp only
  refine Kept.trans ?_ (putActive_kept ..)
  refine Kept.trans ?_ (launchDetours_kept ..)
  refine Kept.trans ?_ (withBank_kept ..)
  refine Kept.upd ?_ ..
  exact Kept.refl _

theorem takePrepare_kept (a0) (s : State) : Kept s (takePrepare a0 s) := by
  unfold takePrepare
  dsimp only
  refine Kept.trans ?_ (sendMsg_kept ..)
  refine Kept.ite (fun _ => ?_) fun _ => ?_
  · refine Kept.trans ?_ (holdJob_kept ..)
    refine Kept.ite (fun _ => ?_) fun _ => ?_
    · refine Kept.trans ?_ (noteRefusal_kept ..)
      refine Kept.trans ?_ (noteUnfit_kept ..)
      exact replaceBank_kept ..
    · refine Kept.trans ?_ (noteUnfit_kept ..)
      exact replaceBank_kept ..
  · refine Kept.trans ?_ (putActive_kept ..)
    refine Kept.ite (fun _ => ?_) fun _ => ?_
    · refine Kept.trans ?_ (noteRefusal_kept ..)
      refine Kept.trans ?_ (noteUnfit_kept ..)
      exact replaceBank_kept ..
    · refine Kept.trans ?_ (noteUnfit_kept ..)
      exact replaceBank_kept ..

theorem execPrepare_kept (a0) {s t : State} (h : execPrepare a0 s = .next t) : Kept s t := by
  unfold execPrepare at h
  injection h with h
  subst h
  refine Kept.ite (fun _ => ?_) fun _ => ?_
  · refine Kept.ite (fun _ => ?_) fun _ => ?_
    · refine Kept.ite (fun _ => ?_) fun _ => ?_
      · exact beginLaunch_kept ..
      · exact Kept.refl _
    · exact takePrepare_kept ..
  · exact Kept.refl _

theorem keepReply_kept (a0) (s : State) : Kept s (keepReply a0 s) := by
  unfold keepReply
  split
  · exact putActive_kept ..
  · exact Kept.refl _

theorem execPrepareReply_kept (a0) {s t : State} (h : execPrepareReply a0 s = .next t) : Kept s t := by
  unfold execPrepareReply at h
  injection h with h
  subst h
  refine Kept.ite (fun _ => ?_) fun _ => ?_
  · refine Kept.trans ?_ (decideLaunch_kept ..)
    exact keepReply_kept ..
  · exact Kept.refl _

theorem execLeadingLaunchMessage_kept (a0) {s t : State} (h : execLeadingLaunchMessage a0 s = .next t) : Kept s t := by
  unfold execLeadingLaunchMessage at h
  injection h with h
  subst h
  refine Kept.ite (fun _ => ?_) fun _ => ?_
  · refine Kept.trans ?_ (decideLaunch_kept ..)
    refine Kept.upd ?_ ..
    exact Kept.refl _
  · exact Kept.refl _

theorem goArm_kept (a0) (s : State) : Kept s (goArm a0 s) := by
  unfold goArm
  (split <;> try dsimp only)
  · exact Kept.refl _
  · refine Kept.ite (fun _ => ?_) fun _ => ?_
    · refine Kept.trans ?_ (faulted_kept ..)
      refine Kept.trans ?_ (raise_kept ..)
      exact arm_kept ..
    · refine Kept.ite (fun _ => ?_) fun _ => ?_
      · refine Kept.upd ?_ ..
        exact arm_kept ..
      · exact arm_kept ..

theorem goReplay_kept (a0) (s : State) : Kept s (goReplay a0 s) := by
  unfold goReplay
  dsimp only
  refine Kept.ite (fun _ => ?_) fun _ => ?_
  · refine Kept.ite (fun _ => ?_) fun _ => ?_
    · exact takeHold_kept ..
    · exact Kept.refl _
  · refine Kept.trans ?_ (putRecov_kept ..)
    refine Kept.upd ?_ ..
    refine Kept.ite (fun _ => ?_) fun _ => ?_
    · exact takeHold_kept ..
    · exact Kept.refl _

theorem takeGo_kept (a0) (s : State) : Kept s (takeGo a0 s) := by
  unfold takeGo
  refine Kept.ite (fun _ => ?_) fun _ => ?_
  · exact Kept.refl _
  · refine Kept.ite (fun _ => ?_) fun _ => ?_
    · exact goArm_kept ..
    · refine Kept.ite (fun _ => ?_) fun _ => ?_
      · exact goReplay_kept ..
      · exact Kept.refl _

theorem installStation_kept (a0) (a1) (a2) (s : State) : Kept s (installStation a0 a1 a2 s) := by
  unfold installStation
  dsimp only
  refine Kept.updMem ?_ (a := ?_) (b := ?_) (c := ?_) (d := ?_) ..
  · exact Kept.refl _
  · exact id
  · exact id
  · refine imp_wrN_wf _ _ ?_
    exact id
  · exact id

theorem dropCode_kept (a0) (s : State) : Kept s (dropCode a0 s) := by
  unfold dropCode
  refine Kept.foldl (fun _ _ => ?_) ?_
  · refine putWick_kept _ _ ?_ ?_
    · exact Kept.refl _
    · refine Kept.wick ?_ _ _
      exact Kept.refl _
  · exact Kept.refl _

theorem loadCurves_kept (a0) (a1) (s : State) : Kept s (loadCurves a0 a1 s) := by
  unfold loadCurves
  refine Kept.foldl (fun _ _ => ?_) ?_
  · refine putWick_kept _ _ ?_ ?_
    · exact Kept.refl _
    · refine Kept.wick ?_ _ _
      exact Kept.refl _
  · exact Kept.refl _

theorem bindIdle_kept (a0) (s : State) : Kept s (bindIdle a0 s) := by
  unfold bindIdle
  refine Kept.ite (fun _ => ?_) fun _ => ?_
  · exact Kept.refl _
  · (split <;> try dsimp only)
    · refine Kept.foldl (fun _ _ => ?_) ?_
      · refine Kept.trans ?_ (loadCurves_kept ..)
        exact bindStreams_kept ..
      · exact bindUnits_kept ..
    · exact Kept.refl _

theorem loadDone_kept (a0) (a1) (a2) (s : State) : Kept s (loadDone a0 a1 a2 s) := by
  unfold loadDone
  dsimp only
  refine Kept.trans ?_ (settleLife_kept ..)
  refine Kept.trans ?_ (bankDone_kept ..)
  refine Kept.ite (fun _ => ?_) fun _ => ?_
  · refine Kept.trans ?_ (report_kept ..)
    refine Kept.trans ?_ (bindIdle_kept ..)
    exact putBank_kept ..
  · refine Kept.trans ?_ (bindIdle_kept ..)
    exact putBank_kept ..

theorem fetchDone_kept (a0) (a1) (s : State) : Kept s (fetchDone a0 a1 s) := by
  unfold fetchDone
  (split <;> try dsimp only)
  · refine Kept.trans ?_ (loadFailed_kept ..)
    exact dmaError_kept ..
  · (split <;> try dsimp only)
    · exact loadFailed_kept ..
    · exact loadDone_kept ..

theorem execImageFetchComplete_kept (a0) (a1) {s t : State} (h : execImageFetchComplete a0 a1 s = .next t) : Kept s t := by
  unfold execImageFetchComplete at h
  injection h with h
  subst h
  refine Kept.ite (fun _ => ?_) fun _ => ?_
  · refine Kept.ite (fun _ => ?_) fun _ => ?_
    · exact putBank_kept ..
    · exact fetchDone_kept ..
  · exact Kept.refl _

theorem moorLost_kept (a0) (s : State) : Kept s (moorLost a0 s) := by
  unfold moorLost
  (split <;> try dsimp only)
  · exact report_kept ..
  · exact noSource_kept ..
  · exact report_kept ..

theorem moorVerified_kept (a0) (s : State) : Kept s (moorVerified a0 s) := by
  unfold moorVerified
  dsimp only
  (split <;> try dsimp only)
  · exact Kept.refl _
  · (split <;> try dsimp only)
    · refine Kept.trans ?_ (moorDone_kept ..)
      refine Kept.trans ?_ (settleDram_kept ..)
      refine Kept.trans ?_ (putMoor_kept ..)
      rename_i h; exact Kept.go h (moorVerify_kept _ _)
    · refine Kept.trans ?_ (moorDone_kept ..)
      refine Kept.trans ?_ (settleDram_kept ..)
      refine Kept.trans ?_ (moorLost_kept ..)
      refine Kept.trans ?_ (putMoor_kept ..)
      refine Kept.trans ?_ (keepHandles_kept ..)
      rename_i h; exact Kept.go h (moorVerify_kept _ _)

theorem execMooringVerifyComplete_kept (a0) {s t : State} (h : execMooringVerifyComplete a0 s = .next t) : Kept s t := by
  unfold execMooringVerifyComplete at h
  injection h with h
  subst h
  refine Kept.ite (fun _ => ?_) fun _ => ?_
  · refine Kept.ite (fun _ => ?_) fun _ => ?_
    · exact putMoor_kept ..
    · exact moorVerified_kept ..
  · exact Kept.refl _

theorem launchEng_kept (a0) (a1) (a2) (s : State) : Kept s (launchEng a0 a1 a2 s) := by
  unfold launchEng
  dsimp only
  split
  · exact Kept.refl _
  · exact putEng_kept ..

theorem applyPatches_kept (a0) (s : State) : Kept s (applyPatches a0 s) := by
  unfold applyPatches
  refine Kept.foldl (fun _ _ => ?_) ?_
  · refine Kept.foldl (fun _ _ => ?_) ?_
    · exact putEng_kept ..
    · exact Kept.refl _
  · exact Kept.refl _

theorem switchStation_kept (a0) (a1) (a2) (a3) (s : State) : Kept s (switchStation a0 a1 a2 a3 s) := by
  unfold switchStation
  (split <;> try dsimp only)
  · exact Kept.refl _
  · refine Kept.foldl (fun _ _ => ?_) ?_
    · exact launchEng_kept ..
    · refine Kept.trans ?_ (loadCurves_kept ..)
      refine Kept.trans ?_ (dropCode_kept ..)
      refine Kept.trans ?_ (pokeMem_kept ..)
      refine Kept.trans ?_ (putStn_kept ..)
      refine Kept.ite (fun _ => ?_) fun _ => ?_
      · exact Kept.refl _
      · exact installStation_kept ..

theorem copyTileFrom_kept (src dst) : KM (fillTensor.copyTileFrom src dst) := by
  unfold fillTensor.copyTileFrom
  exact KM.bind (readMem_kept _ _ _) fun _ => writeMem_kept _ _ _

theorem fillTensor_kept (k t p) : KM (fillTensor k t p) := by
  unfold fillTensor
  exact KM.forM fun _ => copyTileFrom_kept _ _

theorem fillVerify_kept (a0) (a1) (a2) : KM (fillVerify a0 a1 a2) := by
  unfold fillVerify
  refine KM.bind ?_ fun _ => ?_
  · exact KM.get
  · refine KM.forM fun _ => ?_
    split
    · refine KM.ite (fun _ => ?_) fun _ => ?_
      · refine KM.forM fun _ => ?_
        exact verifyTile_kept _ _ _ _ _
      · exact KM.pure _
    · exact KM.pure _

theorem fillSram_kept (a0) (a1) (a2) : KM (fillSram a0 a1 a2) := by
  unfold fillSram
  refine KM.bind ?_ fun _ => ?_
  · refine KM.forM fun _ => ?_
    refine KM.ite (fun _ => ?_) fun _ => ?_
    · split
      · exact fillTensor_kept _ _ _
      · exact KM.pure _
    · exact KM.pure _
  · refine KM.forM fun _ => ?_
    split
    · exact fillVerify_kept _ _ _
    · exact KM.pure _

theorem firstCopies_kept (s : State) : KM (firstCopies s) := by
  unfold firstCopies
  refine KM.forM fun _ => ?_
  refine KM.forM fun _ => ?_
  exact copyTile_kept _ _ _

theorem switchMem_kept (a0) (a1) (a2) (a3) : KM (switchMem a0 a1 a2 a3) := by
  unfold switchMem
  dsimp only
  refine KM.ite (fun _ => ?_) fun _ => ?_
  · refine KM.bind ?_ fun _ => ?_
    · exact fillSram_kept _ _ _
    · refine KM.bind ?_ fun _ => ?_
      · exact KM.get
      · exact firstCopies_kept _
  · refine KM.bind ?_ fun _ => ?_
    · exact KM.get
    · exact firstCopies_kept _

theorem fillFailed_kept (a0) (s : State) : Kept s (fillFailed a0 s) := by
  unfold fillFailed
  refine Kept.ite (fun _ => ?_) fun _ => ?_
  · exact dataLost_kept ..
  · exact report_kept ..

theorem switchRegs_kept (a0) (a1) (a2) (s : State) : Kept s (switchRegs a0 a1 a2 s) := by
  unfold switchRegs
  dsimp only
  refine Kept.trans ?_ (putBank_kept ..)
  refine Kept.trans ?_ (applyPatches_kept ..)
  refine Kept.upd ?_ ..
  refine Kept.foldl (fun _ _ => ?_) ?_
  · exact switchStation_kept ..
  · refine Kept.upd ?_ ..
    refine Kept.trans ?_ (bindUnits_kept ..)
    refine Kept.upd ?_ ..
    exact putBank_kept ..

theorem lateReady_kept (s : State) : Kept s (lateReady s) := by
  unfold lateReady
  refine Kept.ite (fun _ => ?_) fun _ => ?_
  · exact Kept.refl _
  · dsimp only
    refine Kept.trans ?_ (putRecov_kept ..)
    refine Kept.trans ?_ (putSlot_kept ..)
    refine Kept.upd ?_ ..
    exact Kept.refl _

theorem switchDone_kept (a0) (s : State) : Kept s (switchDone a0 s) := by
  unfold switchDone
  (split <;> try dsimp only)
  · exact Kept.refl _
  · (split <;> try dsimp only)
    · (split <;> try dsimp only)
      · refine Kept.trans ?_ (lateReady_kept ..)
        refine Kept.trans ?_ (putActive_kept ..)
        refine Kept.upd ?_ ..
        rename_i h; refine Kept.trans ?_ (Kept.go h (switchMem_kept _ _ _ _))
        refine Kept.trans ?_ (switchRegs_kept ..)
        exact strikes_kept ..
      · refine Kept.trans ?_ (fillFailed_kept ..)
        refine Kept.trans ?_ (forgetBank_kept ..)
        rename_i h; refine Kept.trans ?_ (Kept.go h (switchMem_kept _ _ _ _))
        refine Kept.trans ?_ (switchRegs_kept ..)
        exact strikes_kept ..
    · exact Kept.refl _

theorem execSwitchComplete_kept (a0) {s t : State} (h : execSwitchComplete a0 s = .next t) : Kept s t := by
  unfold execSwitchComplete at h
  injection h with h
  subst h
  refine Kept.ite (fun _ => ?_) fun _ => ?_
  · exact switchDone_kept ..
  · exact Kept.refl _

theorem launchRun_kept (a0) (a1) (s : State) : Kept s (launchRun a0 a1 s) := by
  unfold launchRun
  dsimp only
  refine Kept.trans ?_ (noteDetours_kept ..)
  refine Kept.trans ?_ (putSlot_kept ..)
  refine Kept.trans ?_ (releaseAll_kept ..)
  refine Kept.upd ?_ ..
  exact putActive_kept ..

theorem launchLate_kept (a0) (a1) (s : State) : Kept s (launchLate a0 a1 s) := by
  unfold launchLate
  dsimp only
  refine Kept.ite (fun _ => ?_) fun _ => ?_
  · refine Kept.trans ?_ (heldNoReplay_kept ..)
    refine Kept.trans ?_ (sendHold_kept ..)
    refine Kept.upd ?_ ..
    refine Kept.trans ?_ (putSlot_kept ..)
    refine Kept.trans ?_ (putActive_kept ..)
    exact raise_kept ..
  · refine Kept.trans ?_ (putRecov_kept ..)
    refine Kept.trans ?_ (fixOrigin_kept ..)
    refine Kept.trans ?_ (sendHold_kept ..)
    refine Kept.upd ?_ ..
    refine Kept.trans ?_ (putSlot_kept ..)
    refine Kept.trans ?_ (putActive_kept ..)
    exact raise_kept ..

theorem atLaunch_kept (a0) (a1) (s : State) : Kept s (atLaunch a0 a1 s) := by
  unfold atLaunch
  (split <;> try dsimp only)
  · refine Kept.ite (fun _ => ?_) fun _ => ?_
    · refine Kept.trans ?_ (launchRun_kept ..)
      rename_i h _; exact Kept.go h (bufHash_kept _ _)
    · refine Kept.trans ?_ (launchLate_kept ..)
      rename_i h _; exact Kept.go h (bufHash_kept _ _)
  · refine Kept.trans ?_ (dataLost_kept ..)
    rename_i h; exact Kept.go h (bufHash_kept _ _)

theorem execLaunchWatch_kept {s t : State} (h : execLaunchWatch s = .next t) : Kept s t := by
  unfold execLaunchWatch at h
  injection h with h
  subst h
  split
  · split
    · refine Kept.ite (fun _ => ?_) fun _ => ?_
      · refine Kept.trans ?_ (atLaunch_kept ..)
        exact watchTo_kept ..
      · exact Kept.refl _
    · exact Kept.refl _
  · exact Kept.refl _

theorem dmaCopy_kept (a0) (a1) : KM (dmaCopy a0 a1) := by
  unfold dmaCopy
  refine KM.ite (fun _ => ?_) fun _ => ?_
  · refine KM.bind ?_ fun _ => ?_
    · exact readMem_kept _ _ _
    · refine KM.modify fun _ => ?_
      exact emit_kept ..
  · exact writeMem_kept _ _ _

/-! ### Ends -/

theorem dmaDone_kept (a0) (a1) (a2) (s : State) : Kept s (dmaDone a0 a1 a2 s) := by
  unfold dmaDone
  (split <;> try dsimp only)
  · rename_i h; refine Kept.trans ?_ (Kept.go h (dmaCopy_kept _ _))
    exact putActive_kept ..
  · refine Kept.trans ?_ (dataLost_kept ..)
    rename_i h; refine Kept.trans ?_ (Kept.go h (dmaCopy_kept _ _))
    exact putActive_kept ..

theorem execHostDmaComplete_kept (a0) {s t : State} (h : execHostDmaComplete a0 s = .next t) : Kept s t := by
  unfold execHostDmaComplete at h
  injection h with h
  subst h
  split
  · exact dmaDone_kept ..
  · exact Kept.refl _

theorem dmaFails_kept (a0) (s : State) : Kept s (dmaFails a0 s) := by
  unfold dmaFails
  refine Kept.ite (fun _ => ?_) fun _ => ?_
  · refine Kept.trans ?_ (refuseLaunch_kept ..)
    refine Kept.upd ?_ ..
    exact Kept.refl _
  · refine Kept.ite (fun _ => ?_) fun _ => ?_
    · exact putActive_kept ..
    · exact Kept.refl _

theorem execHostDmaTimeout_kept {s t : State} (h : execHostDmaTimeout s = .next t) : Kept s t := by
  unfold execHostDmaTimeout at h
  injection h with h
  subst h
  split
  · refine Kept.trans ?_ (dmaFails_kept ..)
    refine Kept.trans ?_ (dmaError_kept ..)
    exact watchTo_kept ..
  · exact Kept.refl _

theorem waitEnd_kept (a0) (a1) (s : State) : Kept s (waitEnd a0 a1 s) := by
  unfold waitEnd
  refine Kept.upd ?_ ..
  exact Kept.refl _

theorem sendEnd_kept (s : State) : Kept s (sendEnd s) := by
  unfold sendEnd
  refine Kept.trans ?_ (toMembers_kept ..)
  refine Kept.upd ?_ ..
  exact Kept.refl _

theorem drainHeld_kept (a0) (s : State) : Kept s (drainHeld a0 s) := by
  unfold drainHeld
  exact startDrain_kept ..

theorem endActive_kept (a0) (a1) (s : State) : Kept s (endActive a0 a1 s) := by
  unfold endActive
  (split <;> try dsimp only)
  · refine Kept.trans ?_ (drainHeld_kept ..)
    refine Kept.trans ?_ (toMembers_kept ..)
    exact waitEnd_kept ..
  · refine Kept.trans ?_ (sendEnd_kept ..)
    exact waitEnd_kept ..

theorem cmdEndJob_kept (a0) (a1) (s : State) : Kept s (cmdEndJob a0 a1 s) := by
  unfold cmdEndJob
  dsimp only
  refine Kept.ite (fun _ => ?_) fun _ => ?_
  · refine Kept.ite (fun _ => ?_) fun _ => ?_
    · exact cmdConflict_kept ..
    · exact endActive_kept ..
  · refine Kept.ite (fun _ => ?_) fun _ => ?_
    · exact cmdConflict_kept ..
    · exact cmdDone_kept ..

theorem execEndJob_kept (a0) {s t : State} (h : execEndJob a0 s = .next t) : Kept s t := by
  unfold execEndJob at h
  injection h with h
  subst h
  refine Kept.trans ?_ (adminRun_kept _ _ _ _ (fun _ _ _ => ?_) _)
  · exact Kept.refl _
  · exact cmdEndJob_kept ..

theorem takeEndStep_kept (a0) (s : State) : Kept s (takeEndStep a0 s) := by
  unfold takeEndStep
  (split <;> try dsimp only)
  · exact drainHeld_kept ..
  · refine Kept.upd ?_ ..
    exact Kept.refl _

theorem execEndJobStepMessage_kept (a0) {s t : State} (h : execEndJobStepMessage a0 s = .next t) : Kept s t := by
  unfold execEndJobStepMessage at h
  injection h with h
  subst h
  refine Kept.ite (fun _ => ?_) fun _ => ?_
  · exact takeEndStep_kept ..
  · exact Kept.refl _

theorem commitRest_kept (s : State) : Kept s (commitRest s) := by
  unfold commitRest
  dsimp only
  refine Kept.ite (fun _ => ?_) fun _ => ?_
  · refine Kept.trans ?_ (leadCompare_kept ..)
    refine Kept.trans ?_ (toCounterpart_kept ..)
    refine Kept.upd ?_ ..
    exact Kept.refl _
  · refine Kept.upd ?_ ..
    exact Kept.refl _

theorem drainEnd_kept (s : State) : Kept s (drainEnd s) := by
  unfold drainEnd
  dsimp only
  split
  · refine Kept.trans ?_ (finishDrain_kept ..)
    exact commitRest_kept ..
  · exact commitRest_kept ..

theorem execDrainComplete_kept {s t : State} (h : execDrainComplete s = .next t) : Kept s t := by
  unfold execDrainComplete at h
  injection h with h
  subst h
  refine Kept.ite (fun _ => ?_) fun _ => ?_
  · exact drainEnd_kept ..
  · exact Kept.refl _

theorem putEnded_kept (a0) (s : State) : Kept s (putEnded a0 s) := by
  unfold putEnded
  refine Kept.upd ?_ ..
  exact Kept.refl _

theorem setEnded_kept (a0) (s : State) : Kept s (setEnded a0 s) := by
  unfold setEnded
  exact putEnded_kept ..

theorem dropEnded_kept (a0) (s : State) : Kept s (dropEnded a0 s) := by
  unfold dropEnded
  exact putEnded_kept ..

theorem closeEnded_kept (a0) (a1) (s : State) : Kept s (closeEnded a0 a1 s) := by
  unfold closeEnded
  refine Kept.trans ?_ (dropEnded_kept ..)
  exact postJob_kept ..

theorem countSigned_kept (s : State) : Kept s (countSigned s) := by
  unfold countSigned
  exact regCount_kept ..

theorem signMember_kept (a0) (a1) (s : State) : Kept s (signMember a0 a1 s) := by
  unfold signMember
  dsimp only
  refine Kept.ite (fun _ => ?_) fun _ => ?_
  · refine Kept.trans ?_ (closeEnded_kept ..)
    refine Kept.trans ?_ (sendMsg_kept ..)
    refine Kept.trans ?_ (countSigned_kept ..)
    refine Kept.trans ?_ (putSlotState_kept ..)
    exact pokeMem_kept ..
  · refine Kept.ite (fun _ => ?_) fun _ => ?_
    · refine Kept.trans ?_ (closeEnded_kept ..)
      refine Kept.trans ?_ (countSigned_kept ..)
      refine Kept.trans ?_ (putSlotState_kept ..)
      exact pokeMem_kept ..
    · refine Kept.trans ?_ (setEnded_kept ..)
      refine Kept.trans ?_ (countSigned_kept ..)
      refine Kept.trans ?_ (putSlotState_kept ..)
      exact pokeMem_kept ..

theorem signPartition_kept (a0) (a1) (s : State) : Kept s (signPartition a0 a1 s) := by
  unfold signPartition
  dsimp only
  refine Kept.trans ?_ (closeEnded_kept ..)
  refine Kept.trans ?_ (countSigned_kept ..)
  refine Kept.trans ?_ (pokeMem_kept ..)
  exact pokeMem_kept ..

theorem leaveIncomplete_kept (a0) (s : State) : Kept s (leaveIncomplete a0 s) := by
  unfold leaveIncomplete
  refine Kept.trans ?_ (closeEnded_kept ..)
  refine Kept.trans ?_ (putSlotState_kept ..)
  exact noteWithheld_kept ..

theorem keepSigning_kept (s : State) : Kept s (keepSigning s) := by
  unfold keepSigning
  (split <;> try dsimp only)
  · exact setEnded_kept ..
  · exact Kept.refl _

theorem signNext_kept (a0) (s : State) : Kept s (signNext a0 s) := by
  unfold signNext
  (split <;> try dsimp only)
  · refine Kept.ite (fun _ => ?_) fun _ => ?_
    · refine Kept.ite (fun _ => ?_) fun _ => ?_
      · exact leaveIncomplete_kept ..
      · exact signMember_kept ..
    · refine Kept.ite (fun _ => ?_) fun _ => ?_
      · refine Kept.trans ?_ (closeEnded_kept ..)
        exact noteWithheld_kept ..
      · exact signPartition_kept ..
  · exact Kept.refl _

theorem execLedgerSignComplete_kept (a0) {s t : State} (h : execLedgerSignComplete a0 s = .next t) : Kept s t := by
  unfold execLedgerSignComplete at h
  injection h with h
  subst h
  refine Kept.ite (fun _ => ?_) fun _ => ?_
  · exact Kept.refl _
  · exact signNext_kept ..

theorem takeCert_kept (a0) (a1) (a2) (a3) (s : State) : Kept s (takeCert a0 a1 a2 a3 s) := by
  unfold takeCert
  dsimp only
  refine Kept.ite (fun _ => ?_) fun _ => ?_
  · refine Kept.trans ?_ (signPartition_kept ..)
    exact setEnded_kept ..
  · exact setEnded_kept ..

theorem execMemberCertRx_kept (a0) (a1) (a2) {s t : State} (h : execMemberCertRx a0 a1 a2 s = .next t) : Kept s t := by
  unfold execMemberCertRx at h
  injection h with h
  subst h
  split
  · refine Kept.ite (fun _ => ?_) fun _ => ?_
    · exact Kept.refl _
    · exact takeCert_kept ..
  · exact Kept.refl _

theorem gatherFails_kept (a0) (s : State) : Kept s (gatherFails a0 s) := by
  unfold gatherFails
  dsimp only
  refine Kept.ite (fun _ => ?_) fun _ => ?_
  · refine Kept.trans ?_ (closeEnded_kept ..)
    exact raise_kept ..
  · refine Kept.trans ?_ (setEnded_kept ..)
    exact raise_kept ..

theorem execCertGatherTimeout_kept {s t : State} (h : execCertGatherTimeout s = .next t) : Kept s t := by
  unfold execCertGatherTimeout at h
  injection h with h
  subst h
  split
  · refine Kept.ite (fun _ => ?_) fun _ => ?_
    · exact Kept.refl _
    · refine Kept.trans ?_ (gatherFails_kept ..)
      exact watchTo_kept ..
  · exact Kept.refl _

theorem execLedgerDeferredWrite_kept {s t : State} (h : execLedgerDeferredWrite s = .next t) : Kept s t := by
  unfold execLedgerDeferredWrite at h
  injection h with h
  subst h
  refine Kept.ite (fun _ => ?_) fun _ => ?_
  · exact Kept.refl _
  · refine Kept.foldl (fun _ _ => ?_) ?_
    · exact bookRecord_kept ..
    · refine Kept.upd ?_ ..
      exact Kept.refl _

theorem cmdLeadingSet_kept (a0) (a1) (a2) (a3) (s : State) : Kept s (cmdLeadingSet a0 a1 a2 a3 s) := by
  unfold cmdLeadingSet
  refine Kept.ite (fun _ => ?_) fun _ => ?_
  · refine Kept.trans ?_ (cmdDone_kept ..)
    refine Kept.upd ?_ ..
    exact Kept.refl _
  · refine Kept.trans ?_ (cmdDone_kept ..)
    exact report_kept ..

theorem execLeadingSet_kept (a0) (a1) (a2) {s t : State} (h : execLeadingSet a0 a1 a2 s = .next t) : Kept s t := by
  unfold execLeadingSet at h
  injection h with h
  subst h
  refine Kept.trans ?_ (adminRun_kept _ _ _ _ (fun _ _ _ => ?_) _)
  · exact Kept.refl _
  · exact cmdLeadingSet_kept ..

theorem cmdLeadingClear_kept (a0) (a1) (s : State) : Kept s (cmdLeadingClear a0 a1 s) := by
  unfold cmdLeadingClear
  refine Kept.trans ?_ (cmdDone_kept ..)
  refine Kept.upd ?_ ..
  exact Kept.refl _

theorem execLeadingClear_kept (a0) {s t : State} (h : execLeadingClear a0 s = .next t) : Kept s t := by
  unfold execLeadingClear at h
  injection h with h
  subst h
  refine Kept.trans ?_ (adminRun_kept _ _ _ _ (fun _ _ _ => ?_) _)
  · exact Kept.refl _
  · exact cmdLeadingClear_kept ..

theorem execLeadingEntriesRx_kept (a0) {s t : State} (h : execLeadingEntriesRx a0 s = .next t) : Kept s t := by
  unfold execLeadingEntriesRx at h
  injection h with h
  subst h
  refine Kept.ite (fun _ => ?_) fun _ => ?_
  · refine Kept.trans ?_ (leadCompare_kept ..)
    refine Kept.upd ?_ ..
    exact Kept.refl _
  · exact Kept.refl _

theorem execDivergenceMessage_kept (a0) (a1) {s t : State} (h : execDivergenceMessage a0 a1 s = .next t) : Kept s t := by
  unfold execDivergenceMessage at h
  injection h with h
  subst h
  refine Kept.ite (fun _ => ?_) fun _ => ?_
  · refine Kept.trans ?_ (diverged_kept ..)
    refine Kept.upd ?_ ..
    exact Kept.refl _
  · exact Kept.refl _

end Sys2Proof.Machine
end

