-- ==== Sys2Proof/Laws/KeptLinks.lean ====
section
/-! SUPPORT. What every command keeps (Safety.Kept), carried through links and training: one lemma per operation. -/

namespace Sys2Proof.Machine

/-! ### LinkOps -/

theorem linkEvent_kept (a0) (a1) (a2) (a3) (s : State) : Kept s (linkEvent a0 a1 a2 a3 s) := by
  unfold linkEvent
  exact raise_kept ..

theorem leftUp_kept (a0) (s : State) : Kept s (leftUp a0 s) := by
  unfold leftUp
  exact setEvent_kept ..

theorem regAddSat_kept (a0) (a1) (s : State) : Kept s (regAddSat a0 a1 s) := by
  unfold regAddSat
  exact regPut_kept ..

theorem toDown_kept (a0) (s : State) : Kept s (toDown a0 s) := by
  unfold toDown
  exact putLink_kept ..

theorem leaveUp_kept (a0) (s : State) : Kept s (leaveUp a0 s) := by
  unfold leaveUp
  refine Kept.ite (fun _ => ?_) fun _ => ?_
  · exact Kept.refl _
  · dsimp only
    refine Kept.trans ?_ (linkLost_kept ..)
    refine Kept.trans ?_ (putLink_kept ..)
    exact leftUp_kept ..

theorem bulkFill_kept (a0) (s : State) : Kept s (bulkFill a0 s) := by
  unfold bulkFill
  dsimp only
  (split <;> try dsimp only)
  · refine Kept.ite (fun _ => ?_) fun _ => ?_
    · exact writeMem_kept _ _ _ s
    · exact Kept.refl _
  · exact Kept.refl _

theorem bulkArrives_kept (a0) (s : State) : Kept s (bulkArrives a0 s) := by
  unfold bulkArrives
  dsimp only
  refine Kept.trans ?_ (emit_kept ..)
  refine Kept.ite (fun _ => ?_) fun _ => ?_
  · exact bulkFill_kept ..
  · exact Kept.refl _

theorem noteErr_kept (a0) (s : State) : Kept s (noteErr a0 s) := by
  unfold noteErr
  dsimp only
  refine Kept.ite (fun _ => ?_) fun _ => ?_
  · refine Kept.trans ?_ (leaveUp_kept ..)
    refine Kept.trans ?_ (linkEvent_kept ..)
    exact putLink_kept ..
  · exact putLink_kept ..

theorem takeBulk_kept (a0) (s : State) : Kept s (takeBulk a0 s) := by
  unfold takeBulk
  dsimp only
  refine Kept.ite (fun _ => ?_) fun _ => ?_
  · exact Kept.refl _
  · refine Kept.ite (fun _ => ?_) fun _ => ?_
    · refine Kept.trans ?_ (bulkArrives_kept ..)
      refine Kept.upd ?_ ..
      exact Kept.refl _
    · refine Kept.upd ?_ ..
      exact Kept.refl _

theorem setOff_kept (a0) (s : State) : Kept s (setOff a0 s) := by
  unfold setOff
  dsimp only
  exact putLink_kept ..

theorem drainRx_kept (l n) (s : State) : Kept s (drainRx l n s) := by
  induction n generalizing s with
  | zero => exact Kept.refl _
  | succ n ih =>
    unfold drainRx
    split
    · exact Kept.refl _
    · dsimp only
      split
      · exact ((putLink_kept ..).trans (takeBulk_kept ..)).trans (ih _)
      · exact Kept.ite (fun _ => ((putLink_kept ..).trans (pushBulk_kept ..)).trans (ih _)) fun _ => Kept.refl _

theorem drainAll_kept (s : State) : Kept s (drainAll s) := by
  unfold drainAll
  refine Kept.trans ?_ (drainOut_kept ..)
  refine Kept.foldl (fun _ _ => ?_) ?_
  · refine Kept.ite (fun _ => ?_) fun _ => ?_
    · exact Kept.refl _
    · refine Kept.trans ?_ (setOff_kept ..)
      exact drainRx_kept ..
  · exact Kept.refl _

theorem fence_kept (a0) (a1) (a2) (a3) (s : State) : Kept s (fence a0 a1 a2 a3 s) := by
  unfold fence
  dsimp only
  refine Kept.trans ?_ (drainAll_kept ..)
  refine Kept.ite (fun _ => ?_) fun _ => ?_
  · refine Kept.trans ?_ (linkLost_kept ..)
    refine Kept.trans ?_ (putLink_kept ..)
    refine Kept.ite (fun _ => ?_) fun _ => ?_
    · refine Kept.trans ?_ (leftUp_kept ..)
      exact linkEvent_kept ..
    · exact linkEvent_kept ..
  · refine Kept.trans ?_ (putLink_kept ..)
    refine Kept.ite (fun _ => ?_) fun _ => ?_
    · refine Kept.trans ?_ (leftUp_kept ..)
      exact linkEvent_kept ..
    · exact linkEvent_kept ..

/-! ### Transmit -/

theorem transmit_kept (a0) (a1) (a2) (s : State) : Kept s (transmit a0 a1 a2 s) := by
  unfold transmit
  dsimp only
  refine Kept.trans ?_ (emit_kept ..)
  exact putLink_kept ..

theorem nakSent_kept (a0) (s : State) : Kept s (nakSent a0 s) := by
  unfold nakSent
  exact putLink_kept ..

theorem sendNew_kept (a0) (a1) (a2) (a3) (s : State) : Kept s (sendNew a0 a1 a2 a3 s) := by
  unfold sendNew
  dsimp only
  refine Kept.trans ?_ (transmit_kept ..)
  exact putLink_kept ..

theorem sendLink_kept (a0) (s : State) : Kept s (sendLink a0 s) := by
  unfold sendLink
  refine Kept.trans ?_ (nakSent_kept ..)
  exact transmit_kept ..

theorem sendControl_kept (a0) (a1) (s : State) : Kept s (sendControl a0 a1 s) := by
  unfold sendControl
  dsimp only
  refine Kept.ite (fun _ => ?_) fun _ => ?_
  · exact sendLink_kept ..
  · refine Kept.upd ?_ ..
    refine Kept.trans ?_ (nakSent_kept ..)
    exact sendNew_kept ..

theorem atFork_kept (a0) (s : State) : Kept s (atFork a0 s) := by
  unfold atFork
  refine Kept.ite (fun _ => ?_) fun _ => ?_
  · exact Kept.refl _
  · split
    · exact Kept.refl _
    · dsimp only
      split
      · refine Kept.ite (fun _ => ?_) fun _ => ?_
        · refine Kept.upd ?_ ..
          exact Kept.refl _
        · exact forkFault_kept ..
      · exact forkFault_kept ..

theorem wentAgain_kept (a0) (a1) (s : State) : Kept s (wentAgain a0 a1 s) := by
  unfold wentAgain
  dsimp only
  exact putLink_kept ..

theorem resend_kept (a0) (a1) (s : State) : Kept s (resend a0 a1 s) := by
  unfold resend
  dsimp only
  refine Kept.ite (fun _ => ?_) fun _ => ?_
  · refine Kept.trans ?_ (nakSent_kept ..)
    refine Kept.trans ?_ (transmit_kept ..)
    refine Kept.trans ?_ (regCount_kept ..)
    exact wentAgain_kept ..
  · (split <;> try dsimp only)
    · refine Kept.trans ?_ (transmit_kept ..)
      refine Kept.trans ?_ (regCount_kept ..)
      exact wentAgain_kept ..
    · refine Kept.trans ?_ (transmit_kept ..)
      refine Kept.trans ?_ (regCount_kept ..)
      exact wentAgain_kept ..
    · refine Kept.trans ?_ (nakSent_kept ..)
      refine Kept.trans ?_ (transmit_kept ..)
      refine Kept.trans ?_ (regCount_kept ..)
      exact wentAgain_kept ..

theorem sendLate_kept (a0) (a1) (s : State) : Kept s (sendLate a0 a1 s) := by
  unfold sendLate
  refine Kept.trans ?_ (sendNew_kept ..)
  exact putLink_kept ..

theorem bufferFull_kept (a0) (s : State) : Kept s (bufferFull a0 s) := by
  unfold bufferFull
  refine Kept.trans ?_ (detect_kept ..)
  exact linkEvent_kept ..

theorem retryFlash_kept (a0) (s : State) : Kept s (retryFlash a0 s) := by
  unfold retryFlash
  refine Kept.ite (fun _ => ?_) fun _ => ?_
  · exact sendControl_kept ..
  · (split <;> try dsimp only)
    · exact resend_kept ..
    · (split <;> try dsimp only)
      · refine Kept.ite (fun _ => ?_) fun _ => ?_
        · refine Kept.trans ?_ (sendLink_kept ..)
          exact bufferFull_kept ..
        · exact sendLate_kept ..
      · exact sendLink_kept ..

theorem violation_kept (a0) (a1) (a2) (s : State) : Kept s (violation a0 a1 a2 s) := by
  unfold violation
  refine Kept.trans ?_ (detect_kept ..)
  exact raise_kept ..

theorem sendSched_kept (a0) (a1) (a2) (a3) (s : State) : Kept s (sendSched a0 a1 a2 a3 s) := by
  unfold sendSched
  refine Kept.trans ?_ (sendNew_kept ..)
  exact putLink_kept ..

theorem depart_kept (a0) (a1) (a2) (a3) (s : State) : Kept s (depart a0 a1 a2 a3 s) := by
  unfold depart
  dsimp only
  refine Kept.ite (fun _ => ?_) fun _ => ?_
  · refine Kept.trans ?_ (sendLink_kept ..)
    exact bufferFull_kept ..
  · refine Kept.ite (fun _ => ?_) fun _ => ?_
    · exact violation_kept ..
    · refine Kept.trans ?_ (flitLeft_kept ..)
      exact sendSched_kept ..

theorem sendBulk_kept (l) {s t : State} (h : sendBulk l s = some t) : Kept s t := by
  unfold sendBulk at h
  dsimp only at h
  split at h
  · exact absurd h (by simp)
  · split at h
    · injection h with h; subst h; exact resend_kept ..
    · split at h
      · exact absurd h (by simp)
      · injection h with h; subst h
        exact ((putLink_kept ..).trans (sendNew_kept ..)).trans (drainAll_kept ..)
    · exact absurd h (by simp)

theorem sendBulk_getD_kept (l) {s x t : State} (hx : Kept s x) (h : Kept s t) : Kept s ((sendBulk l x).getD t) := by
  cases e : sendBulk l x with
  | none => exact h
  | some u => exact hx.trans (sendBulk_kept l e)

theorem schedFlash_kept (a0) (a1) (s : State) : Kept s (schedFlash a0 a1 s) := by
  unfold schedFlash
  (split <;> try dsimp only)
  · exact depart_kept ..
  · refine Kept.ite (fun _ => ?_) fun _ => ?_
    · exact Kept.refl _
    · refine Kept.ite (fun _ => ?_) fun _ => ?_
      · exact sendLink_kept ..
      · exact sendBulk_getD_kept _ (Kept.refl _) (sendLink_kept ..)

theorem pruneOcc_kept (a0) (a1) (s : State) : Kept s (pruneOcc a0 a1 s) := by
  unfold pruneOcc
  dsimp only
  exact putLink_kept ..

theorem upFlash_kept (a0) (a1) (s : State) : Kept s (upFlash a0 a1 s) := by
  unfold upFlash
  dsimp only
  refine Kept.ite (fun _ => ?_) fun _ => ?_
  · refine Kept.trans ?_ (pruneOcc_kept ..)
    exact watchTo_kept ..
  · refine Kept.ite (fun _ => ?_) fun _ => ?_
    · refine Kept.trans ?_ (sendControl_kept ..)
      refine Kept.trans ?_ (atFork_kept ..)
      refine Kept.trans ?_ (pruneOcc_kept ..)
      exact watchTo_kept ..
    · refine Kept.ite (fun _ => ?_) fun _ => ?_
      · refine Kept.trans ?_ (retryFlash_kept ..)
        refine Kept.trans ?_ (pruneOcc_kept ..)
        exact watchTo_kept ..
      · refine Kept.trans ?_ (schedFlash_kept ..)
        refine Kept.trans ?_ (pruneOcc_kept ..)
        exact watchTo_kept ..

theorem trainFlash_kept (a0) (s : State) : Kept s (trainFlash a0 s) := by
  unfold trainFlash
  dsimp only
  refine Kept.ite (fun _ => ?_) fun _ => ?_
  · refine Kept.trans ?_ (emit_kept ..)
    refine Kept.trans ?_ (watchTo_kept ..)
    exact putLink_kept ..
  · refine Kept.trans ?_ (emit_kept ..)
    refine Kept.trans ?_ (watchTo_kept ..)
    exact putLink_kept ..

theorem execFlashStart_kept (a0) {s t : State} (h : execFlashStart a0 s = .next t) : Kept s t := by
  unfold execFlashStart at h
  injection h with h
  subst h
  refine Kept.ite (fun _ => ?_) fun _ => ?_
  · exact Kept.refl _
  · refine Kept.ite (fun _ => ?_) fun _ => ?_
    · split
      · exact upFlash_kept ..
      · exact Kept.refl _
    · refine Kept.ite (fun _ => ?_) fun _ => ?_
      · exact trainFlash_kept ..
      · exact Kept.refl _

theorem execBulkForward_kept (a0) {s t : State} (h : execBulkForward a0 s = .next t) : Kept s t := by
  unfold execBulkForward at h
  injection h with h
  subst h
  refine Kept.ite (fun _ => ?_) fun _ => ?_
  · exact Kept.refl _
  · split
    · refine sendBulk_getD_kept _ ?_ ?_
      · refine Kept.trans ?_ (pruneOcc_kept ..)
        exact watchTo_kept ..
      · exact Kept.refl _
    · exact Kept.refl _

/-! ### Receive -/

theorem countFec_kept (a0) (a1) (s : State) : Kept s (countFec a0 a1 s) := by
  unfold countFec
  dsimp only
  refine Kept.trans ?_ (regAddSat_kept ..)
  exact putLink_kept ..

theorem crcFail_kept (a0) (s : State) : Kept s (crcFail a0 s) := by
  unfold crcFail
  dsimp only
  refine Kept.ite (fun _ => ?_) fun _ => ?_
  · refine Kept.trans ?_ (noteErr_kept ..)
    refine Kept.trans ?_ (chk_kept ..)
    exact regCount_kept ..
  · refine Kept.ite (fun _ => ?_) fun _ => ?_
    · refine Kept.trans ?_ (fence_kept ..)
      refine Kept.trans ?_ (putLink_kept ..)
      refine Kept.trans ?_ (chk_kept ..)
      exact regCount_kept ..
    · refine Kept.trans ?_ (noteErr_kept ..)
      refine Kept.trans ?_ (putLink_kept ..)
      refine Kept.trans ?_ (chk_kept ..)
      exact regCount_kept ..

theorem slotGone_kept (a0) (s : State) : Kept s (slotGone a0 s) := by
  unfold slotGone
  refine Kept.ite (fun _ => ?_) fun _ => ?_
  · exact putLink_kept ..
  · exact Kept.refl _

theorem openFrame_kept (a0) (a1) (s : State) : Kept s (openFrame a0 a1 s).2 := by
  unfold openFrame
  dsimp only
  (split <;> try dsimp only)
  · (split <;> try dsimp only)
    · refine Kept.trans ?_ (chk_kept ..)
      refine Kept.trans ?_ (putLink_kept ..)
      exact countFec_kept ..
    · refine Kept.trans ?_ (slotGone_kept ..)
      refine Kept.trans ?_ (crcFail_kept ..)
      exact countFec_kept ..
  · (split <;> try dsimp only)
    · refine Kept.trans ?_ (chk_kept ..)
      exact countFec_kept ..
    · refine Kept.trans ?_ (crcFail_kept ..)
      exact countFec_kept ..

theorem takeAck_kept (a0) (a1) (s : State) : Kept s (takeAck a0 a1 s) := by
  unfold takeAck
  dsimp only
  refine Kept.ite (fun _ => ?_) fun _ => ?_
  · exact putLink_kept ..
  · refine Kept.trans ?_ (noteErr_kept ..)
    exact putLink_kept ..

theorem dropUnexpected_kept (a0) (s : State) : Kept s (dropUnexpected a0 s) := by
  unfold dropUnexpected
  exact regCount_kept ..

theorem dropBoundary_kept (a0) (s : State) : Kept s (dropBoundary a0 s) := by
  unfold dropBoundary
  exact regCount_kept ..

theorem forwardNow_kept (a0) (a1) (a2) (a3) (s : State) : Kept s (forwardNow a0 a1 a2 a3 s) := by
  unfold forwardNow
  dsimp only
  refine Kept.ite (fun _ => ?_) fun _ => ?_
  · exact Kept.refl _
  · refine Kept.ite (fun _ => ?_) fun _ => ?_
    · exact violation_kept ..
    · refine Kept.ite (fun _ => ?_) fun _ => ?_
      · exact bufferFull_kept ..
      · refine Kept.trans ?_ (regAdd64_kept ..)
        exact sendSched_kept ..

theorem forwardLate_kept (a0) (a1) (a2) (a3) (s : State) : Kept s (forwardLate a0 a1 a2 a3 s) := by
  unfold forwardLate
  dsimp only
  refine Kept.ite (fun _ => ?_) fun _ => ?_
  · exact putLink_kept ..
  · refine Kept.trans ?_ (violation_kept ..)
    exact putLink_kept ..

theorem routeFlit_kept (a0) (a1) (a2) (a3) (a4) (a5) (s : State) : Kept s (routeFlit a0 a1 a2 a3 a4 a5 s) := by
  unfold routeFlit
  refine Kept.ite (fun _ => ?_) fun _ => ?_
  · refine Kept.ite (fun _ => ?_) fun _ => ?_
    · exact forwardLate_kept ..
    · exact forwardNow_kept ..
  · exact deliver_kept ..

theorem stagingFull_kept (a0) (a1) (s : State) : Kept s (stagingFull a0 a1 s) := by
  unfold stagingFull
  refine Kept.trans ?_ (violation_kept ..)
  exact putLink_kept ..

theorem stageFlit_kept (a0 a1) {s t : State} (h : stageFlit a0 a1 s = some t) : Kept s t := by
  unfold stageFlit at h
  dsimp only at h
  split at h
  · injection h with h; subst h; exact putLink_kept ..
  · exact absurd h (by simp)

theorem takeSched_kept (a0) (a1) (a2) (s : State) : Kept s (takeSched a0 a1 a2 s) := by
  unfold takeSched
  dsimp only
  refine Kept.ite (fun _ => ?_) fun _ => ?_
  · exact dropBoundary_kept ..
  · refine Kept.ite (fun _ => ?_) fun _ => ?_
    · exact dropUnexpected_kept ..
    · (split <;> try dsimp only)
      · exact dropUnexpected_kept ..
      · refine Kept.ite (fun _ => ?_) fun _ => ?_
        · (split <;> try dsimp only)
          · refine Kept.trans ?_ (routeFlit_kept ..)
            exact stageFlit_kept _ _ (by assumption)
          · exact stagingFull_kept ..
        · exact dropUnexpected_kept ..

theorem takeBulkFlit_kept (a0) (a1) (a2) (s : State) : Kept s (takeBulkFlit a0 a1 a2 s) := by
  unfold takeBulkFlit
  dsimp only
  refine Kept.ite (fun _ => ?_) fun _ => ?_
  · exact dropUnexpected_kept ..
  · refine Kept.trans ?_ (setOff_kept ..)
    refine Kept.trans ?_ (drainRx_kept ..)
    exact putLink_kept ..

theorem takeFork_kept (a0) (s : State) : Kept s (takeFork a0 s) := by
  unfold takeFork
  refine Kept.ite (fun _ => ?_) fun _ => ?_
  · refine Kept.upd ?_ ..
    exact Kept.refl _
  · exact Kept.refl _

theorem takeFields_kept (a0) (a1) (a2) (s : State) : Kept s (takeFields a0 a1 a2 s) := by
  unfold takeFields
  dsimp only
  refine Kept.ite (fun _ => ?_) fun _ => ?_
  · exact Kept.refl _
  · refine Kept.ite (fun _ => ?_) fun _ => ?_
    · exact dropBoundary_kept ..
    · refine Kept.ite (fun _ => ?_) fun _ => ?_
      · exact dropUnexpected_kept ..
      · refine Kept.ite (fun _ => ?_) fun _ => ?_
        · refine Kept.trans ?_ (takeFork_kept ..)
          refine Kept.ite (fun _ => ?_) fun _ => ?_
          · exact receiveHold_kept ..
          · exact Kept.refl _
        · refine Kept.ite (fun _ => ?_) fun _ => ?_
          · exact receiveHold_kept ..
          · exact Kept.refl _

theorem takeGoIn_kept (a0) (a1) (s : State) : Kept s (takeGoIn a0 a1 s) := by
  unfold takeGoIn
  refine Kept.ite (fun _ => ?_) fun _ => ?_
  · exact takeGo_kept ..
  · exact Kept.refl _

theorem takeTime_kept (a0) (a1) (a2) (s : State) : Kept s (takeTime a0 a1 a2 s) := by
  unfold takeTime
  refine Kept.ite (fun _ => ?_) fun _ => ?_
  · refine Kept.trans ?_ (takeGoIn_kept ..)
    exact acceptTime_kept ..
  · exact Kept.refl _

theorem takeControl_kept (a0) (a1) (a2) (s : State) : Kept s (takeControl a0 a1 a2 s) := by
  unfold takeControl
  dsimp only
  refine Kept.trans ?_ (takeFields_kept ..)
  refine Kept.trans ?_ (takeTime_kept ..)
  exact takeAck_kept ..

theorem arrive_kept (l f kind) {handle : Nat → List Byte → State → State} (hh : ∀ h p t, Kept t (handle h p t)) (s : State) :
    Kept s (arrive l f kind handle s) := by
  unfold arrive
  refine Kept.ite (fun _ => Kept.refl _) fun _ => ?_
  split
  · exact Kept.snd (by assumption) (openFrame_kept ..)
  · exact Kept.ite (fun _ => (Kept.snd (by assumption) (openFrame_kept ..)).trans (hh ..)) fun _ => Kept.refl _

theorem sequenced_kept (l) {handle : Nat → Nat → List Byte → State → State} (hh : ∀ l h p t, Kept t (handle l h p t)) (h p) (s : State) :
    Kept s (sequenced l handle h p s) := by
  unfold sequenced
  split
  · exact regCount_kept ..
  · exact (putLink_kept ..).trans (hh ..)

theorem execScheduledFrameRx_kept (a0) (a1) {s t : State} (h : execScheduledFrameRx a0 a1 s = .next t) : Kept s t := by
  unfold execScheduledFrameRx at h
  injection h with h
  subst h
  refine Kept.trans ?_ (arrive_kept _ _ _ (fun _ _ _ => ?_) _)
  · exact Kept.refl _
  · refine Kept.trans ?_ (sequenced_kept _ (fun _ _ _ _ => ?_) _ _ _)
    · exact Kept.refl _
    · exact takeSched_kept ..

theorem execBulkFrameRx_kept (a0) (a1) {s t : State} (h : execBulkFrameRx a0 a1 s = .next t) : Kept s t := by
  unfold execBulkFrameRx at h
  injection h with h
  subst h
  refine Kept.trans ?_ (arrive_kept _ _ _ (fun _ _ _ => ?_) _)
  · exact Kept.refl _
  · refine Kept.trans ?_ (sequenced_kept _ (fun _ _ _ _ => ?_) _ _ _)
    · exact Kept.refl _
    · exact takeBulkFlit_kept ..

theorem execControlFrameRx_kept (a0) (a1) {s t : State} (h : execControlFrameRx a0 a1 s = .next t) : Kept s t := by
  unfold execControlFrameRx at h
  injection h with h
  subst h
  refine Kept.trans ?_ (arrive_kept _ _ _ (fun _ _ _ => ?_) _)
  · exact Kept.refl _
  · refine Kept.trans ?_ (sequenced_kept _ (fun _ _ _ _ => ?_) _ _ _)
    · exact Kept.refl _
    · exact takeControl_kept ..

theorem execLinkFrameRx_kept (a0) (a1) {s t : State} (h : execLinkFrameRx a0 a1 s = .next t) : Kept s t := by
  unfold execLinkFrameRx at h
  injection h with h
  subst h
  refine Kept.trans ?_ (arrive_kept _ _ _ (fun _ _ _ => ?_) _)
  · exact Kept.refl _
  · exact takeAck_kept ..

theorem trainStep_kept (a0) (s : State) : Kept s (trainStep a0 s) := by
  unfold trainStep
  dsimp only
  refine Kept.ite (fun _ => ?_) fun _ => ?_
  · exact putLink_kept ..
  · exact Kept.refl _

theorem takeTrain_kept (a0) (a1) (s : State) : Kept s (takeTrain a0 a1 s) := by
  unfold takeTrain
  dsimp only
  refine Kept.ite (fun _ => ?_) fun _ => ?_
  · refine Kept.trans ?_ (trainStep_kept ..)
    exact countFec_kept ..
  · refine Kept.trans ?_ (regCount_kept ..)
    exact countFec_kept ..

theorem execTrainFrameRx_kept (a0) (a1) {s t : State} (h : execTrainFrameRx a0 a1 s = .next t) : Kept s t := by
  unfold execTrainFrameRx at h
  injection h with h
  subst h
  refine Kept.ite (fun _ => ?_) fun _ => ?_
  · exact Kept.refl _
  · exact takeTrain_kept ..

/-! ### Train -/

theorem lockDetect_kept (a0) (a1) (s : State) : Kept s (lockDetect a0 a1 s) := by
  unfold lockDetect
  refine Kept.ite (fun _ => ?_) fun _ => ?_
  · exact putLink_kept ..
  · exact Kept.refl _

theorem execSignalLock_kept (a0) (a1) (a2) {s t : State} (h : execSignalLock a0 a1 a2 s = .next t) : Kept s t := by
  unfold execSignalLock at h
  injection h with h
  subst h
  split
  · exact lockDetect_kept ..
  · exact putLink_kept ..
  · exact Kept.refl _

theorem trainFailed_kept (a0) (s : State) : Kept s (trainFailed a0 s) := by
  unfold trainFailed
  refine Kept.trans ?_ (toDown_kept ..)
  exact linkEvent_kept ..

theorem enterAuth_kept (a0) (s : State) : Kept s (enterAuth a0 s) := by
  unfold enterAuth
  dsimp only
  refine Kept.trans ?_ (putLink_kept ..)
  refine Kept.upd ?_ ..
  exact Kept.refl _

theorem rateDone_kept (a0) (a1) (a2) (s : State) : Kept s (rateDone a0 a1 a2 s) := by
  unfold rateDone
  dsimp only
  refine Kept.ite (fun _ => ?_) fun _ => ?_
  · exact enterAuth_kept ..
  · refine Kept.ite (fun _ => ?_) fun _ => ?_
    · exact putLink_kept ..
    · exact trainFailed_kept ..

theorem execEqualiseRateDone_kept (a0) (a1) (a2) {s t : State} (h : execEqualiseRateDone a0 a1 a2 s = .next t) : Kept s t := by
  unfold execEqualiseRateDone at h
  injection h with h
  subst h
  refine Kept.ite (fun _ => ?_) fun _ => ?_
  · exact rateDone_kept ..
  · exact Kept.refl _

theorem execTrainingTimeout_kept (a0) {s t : State} (h : execTrainingTimeout a0 s = .next t) : Kept s t := by
  unfold execTrainingTimeout at h
  injection h with h
  subst h
  refine Kept.ite (fun _ => ?_) fun _ => ?_
  · refine Kept.trans ?_ (trainFailed_kept ..)
    exact watchTo_kept ..
  · exact Kept.refl _

theorem execLinkDownRetry_kept (a0) {s t : State} (h : execLinkDownRetry a0 s = .next t) : Kept s t := by
  unfold execLinkDownRetry at h
  injection h with h
  subst h
  refine Kept.ite (fun _ => ?_) fun _ => ?_
  · refine Kept.trans ?_ (tryLink_kept ..)
    exact watchTo_kept ..
  · exact Kept.refl _

theorem sendChain_kept (a0) (s : State) : Kept s (sendChain a0 s) := by
  unfold sendChain
  dsimp only
  refine Kept.trans ?_ (putLink_kept ..)
  exact bumpFree_kept ..

theorem takeHello_kept (a0) (a1) (a2) (s : State) : Kept s (takeHello a0 a1 a2 s) := by
  unfold takeHello
  dsimp only
  refine Kept.ite (fun _ => ?_) fun _ => ?_
  · refine Kept.trans ?_ (fence_kept ..)
    exact putLink_kept ..
  · refine Kept.trans ?_ (sendChain_kept ..)
    exact putLink_kept ..

theorem execLinkHello_kept (a0) (a1) (a2) {s t : State} (h : execLinkHello a0 a1 a2 s = .next t) : Kept s t := by
  unfold execLinkHello at h
  injection h with h
  subst h
  refine Kept.ite (fun _ => ?_) fun _ => ?_
  · exact takeHello_kept ..
  · exact Kept.refl _

theorem sendSignature_kept (a0) (s : State) : Kept s (sendSignature a0 s) := by
  unfold sendSignature
  dsimp only
  exact putLink_kept ..

theorem linkRespond_kept (a0) (a1) (s : State) : Kept s (linkRespond a0 a1 s) := by
  unfold linkRespond
  dsimp only
  refine Kept.trans ?_ (sendSignature_kept ..)
  exact putLink_kept ..

theorem takeChain_kept (a0) (a1) (a2) (a3) (s : State) : Kept s (takeChain a0 a1 a2 a3 s) := by
  unfold takeChain
  (split <;> try dsimp only)
  · refine Kept.ite (fun _ => ?_) fun _ => ?_
    · refine Kept.ite (fun _ => ?_) fun _ => ?_
      · exact putLink_kept ..
      · refine Kept.trans ?_ (linkRespond_kept ..)
        exact putLink_kept ..
    · exact fence_kept ..
  · exact fence_kept ..

theorem execLinkCertChain_kept (a0) (a1) (a2) {s t : State} (h : execLinkCertChain a0 a1 a2 s = .next t) : Kept s t := by
  unfold execLinkCertChain at h
  injection h with h
  subst h
  refine Kept.ite (fun _ => ?_) fun _ => ?_
  · exact takeChain_kept ..
  · exact Kept.refl _

theorem authDone_kept (a0) (s : State) : Kept s (authDone a0 s) := by
  unfold authDone
  dsimp only
  exact putLink_kept ..

theorem checkPosition_kept (a0) (s : State) : Kept s (checkPosition a0 s) := by
  unfold checkPosition
  refine Kept.ite (fun _ => ?_) fun _ => ?_
  · exact Kept.refl _
  · exact fence_kept ..

theorem takeCipher_kept (a0) (a1) (s : State) : Kept s (takeCipher a0 a1 s) := by
  unfold takeCipher
  refine Kept.ite (fun _ => ?_) fun _ => ?_
  · exact Kept.refl _
  · dsimp only
    refine Kept.trans ?_ (sendSignature_kept ..)
    exact putLink_kept ..

theorem takeSignature_kept (a0) (a1) (a2) (a3) (s : State) : Kept s (takeSignature a0 a1 a2 a3 s) := by
  unfold takeSignature
  dsimp only
  refine Kept.ite (fun _ => ?_) fun _ => ?_
  · refine Kept.trans ?_ (fence_kept ..)
    exact takeCipher_kept ..
  · refine Kept.trans ?_ (checkPosition_kept ..)
    refine Kept.trans ?_ (authDone_kept ..)
    exact takeCipher_kept ..

theorem execLinkTranscriptSignature_kept (a0) (a1) (a2) (a3) (a4) {s t : State} (h : execLinkTranscriptSignature a0 a1 a2 a3 a4 s = .next t) : Kept s t := by
  unfold execLinkTranscriptSignature at h
  injection h with h
  subst h
  refine Kept.ite (fun _ => ?_) fun _ => ?_
  · (split <;> try dsimp only)
    · exact takeSignature_kept ..
    · exact Kept.refl _
  · exact Kept.refl _

theorem checkFit_kept (a0) (s : State) : Kept s (checkFit a0 s) := by
  unfold checkFit
  refine Kept.ite (fun _ => ?_) fun _ => ?_
  · refine Kept.trans ?_ (linkLost_kept ..)
    refine Kept.trans ?_ (report_kept ..)
    exact putLink_kept ..
  · exact Kept.refl _

theorem enterUp_kept (a0) (a1) (s : State) : Kept s (enterUp a0 a1 s) := by
  unfold enterUp
  dsimp only
  refine Kept.trans ?_ (checkFit_kept ..)
  refine Kept.trans ?_ (setOff_kept ..)
  exact putLink_kept ..

theorem execDelayMeasureDone_kept (a0) (a1) {s t : State} (h : execDelayMeasureDone a0 a1 s = .next t) : Kept s t := by
  unfold execDelayMeasureDone at h
  injection h with h
  subst h
  refine Kept.ite (fun _ => ?_) fun _ => ?_
  · exact enterUp_kept ..
  · exact Kept.refl _

theorem loseSignal_kept (a0) (s : State) : Kept s (loseSignal a0 s) := by
  unfold loseSignal
  split
  · exact leaveUp_kept ..
  · exact putLink_kept ..
  · exact Kept.refl _
  · exact Kept.refl _
  · exact toDown_kept ..

theorem execLossOfSignal_kept (a0) {s t : State} (h : execLossOfSignal a0 s = .next t) : Kept s t := by
  unfold execLossOfSignal at h
  injection h with h
  subst h
  exact loseSignal_kept ..

theorem sendProof_kept (a0) (a1) (s : State) : Kept s (sendProof a0 a1 s) := by
  unfold sendProof
  exact emit_kept ..

theorem resumed_kept (a0) (a1) (a2) (s : State) : Kept s (resumed a0 a1 a2 s) := by
  unfold resumed
  dsimp only
  refine Kept.trans ?_ (checkFit_kept ..)
  refine Kept.trans ?_ (linkEvent_kept ..)
  exact putLink_kept ..

theorem fullTraining_kept (a0) (s : State) : Kept s (fullTraining a0 s) := by
  unfold fullTraining
  exact putLink_kept ..

theorem takeProof_kept (a0) (a1) (a2) (a3) (s : State) : Kept s (takeProof a0 a1 a2 a3 s) := by
  unfold takeProof
  dsimp only
  refine Kept.ite (fun _ => ?_) fun _ => ?_
  · refine Kept.trans ?_ (resumed_kept ..)
    exact sendProof_kept ..
  · refine Kept.trans ?_ (fullTraining_kept ..)
    exact sendProof_kept ..

theorem execResumeProof_kept (a0) (a1) (a2) (a3) {s t : State} (h : execResumeProof a0 a1 a2 a3 s = .next t) : Kept s t := by
  unfold execResumeProof at h
  injection h with h
  subst h
  refine Kept.ite (fun _ => ?_) fun _ => ?_
  · exact takeProof_kept ..
  · exact Kept.refl _

theorem ackLate_kept (a0) (s : State) : Kept s (ackLate a0 s) := by
  unfold ackLate
  dsimp only
  refine Kept.ite (fun _ => ?_) fun _ => ?_
  · refine Kept.trans ?_ (leaveUp_kept ..)
    exact putLink_kept ..
  · exact putLink_kept ..

theorem execAckTimeout_kept (a0) {s t : State} (h : execAckTimeout a0 s = .next t) : Kept s t := by
  unfold execAckTimeout at h
  injection h with h
  subst h
  refine Kept.ite (fun _ => ?_) fun _ => ?_
  · refine Kept.trans ?_ (ackLate_kept ..)
    exact watchTo_kept ..
  · exact Kept.refl _

theorem pairLost_kept (a0) (s : State) : Kept s (pairLost a0 s) := by
  unfold pairLost
  refine Kept.ite (fun _ => ?_) fun _ => ?_
  · exact Kept.refl _
  · dsimp only
    refine Kept.ite (fun _ => ?_) fun _ => ?_
    · refine Kept.ite (fun _ => ?_) fun _ => ?_
      · refine Kept.trans ?_ (faulted_kept ..)
        refine Kept.trans ?_ (raise_kept ..)
        refine Kept.upd ?_ ..
        exact Kept.refl _
      · refine Kept.trans ?_ (raise_kept ..)
        refine Kept.upd ?_ ..
        exact Kept.refl _
    · refine Kept.trans ?_ (ledEvent_kept ..)
      refine Kept.upd ?_ ..
      exact Kept.refl _

theorem flushLink_kept (a0) (s : State) : Kept s (flushLink a0 s) := by
  unfold flushLink
  dsimp only
  refine Kept.trans ?_ (drainAll_kept ..)
  refine Kept.trans ?_ (pairLost_kept ..)
  refine Kept.trans ?_ (putLink_kept ..)
  exact linkEvent_kept ..

theorem execGraceExpiry_kept (a0) {s t : State} (h : execGraceExpiry a0 s = .next t) : Kept s t := by
  unfold execGraceExpiry at h
  injection h with h
  subst h
  refine Kept.ite (fun _ => ?_) fun _ => ?_
  · refine Kept.trans ?_ (flushLink_kept ..)
    exact watchTo_kept ..
  · exact Kept.refl _

theorem unfenceLink_kept (a0) (s : State) : Kept s (unfenceLink a0 s) := by
  unfold unfenceLink
  refine Kept.ite (fun _ => ?_) fun _ => ?_
  · exact fullTraining_kept ..
  · exact Kept.refl _

theorem execUnfence_kept (a0) {s t : State} (h : execUnfence a0 s = .next t) : Kept s t := by
  unfold execUnfence at h
  injection h with h
  subst h
  refine Kept.trans ?_ (hostWrite_kept _ _ (fun _ => ?_) _)
  · exact Kept.refl _
  · refine Kept.ite (fun _ => ?_) fun _ => ?_
    · exact conflict_kept ..
    · exact unfenceLink_kept ..

theorem forceDown_kept (a0) (s : State) : Kept s (forceDown a0 s) := by
  unfold forceDown
  split
  · exact Kept.refl _
  · refine Kept.trans ?_ (linkLost_kept ..)
    refine Kept.trans ?_ (fullTraining_kept ..)
    exact leftUp_kept ..
  · exact fullTraining_kept ..

theorem execRetrain_kept (a0) {s t : State} (h : execRetrain a0 s = .next t) : Kept s t := by
  unfold execRetrain at h
  injection h with h
  subst h
  refine Kept.trans ?_ (hostWrite_kept _ _ (fun _ => ?_) _)
  · exact Kept.refl _
  · refine Kept.ite (fun _ => ?_) fun _ => ?_
    · exact conflict_kept ..
    · exact forceDown_kept ..

theorem cableLink_kept (a0) (a1) (s : State) : Kept s (cableLink a0 a1 s) := by
  unfold cableLink
  dsimp only
  refine Kept.ite (fun _ => ?_) fun _ => ?_
  · refine Kept.trans ?_ (loseSignal_kept ..)
    exact putLink_kept ..
  · refine Kept.ite (fun _ => ?_) fun _ => ?_
    · refine Kept.trans ?_ (tryLink_kept ..)
      refine Kept.trans ?_ (putLink_kept ..)
      exact putLink_kept ..
    · exact putLink_kept ..

theorem cableChange_kept (a0) (a1) (s : State) : Kept s (cableChange a0 a1 s) := by
  unfold cableChange
  dsimp only
  refine Kept.foldl (fun _ _ => ?_) ?_
  · exact cableLink_kept ..
  · refine Kept.trans ?_ (emit_kept ..)
    refine Kept.updKpr ?_ ..
    exact Kept.refl _

theorem execCablePresentChange_kept (a0) (a1) {s t : State} (h : execCablePresentChange a0 a1 s = .next t) : Kept s t := by
  unfold execCablePresentChange at h
  injection h with h
  subst h
  refine Kept.ite (fun _ => ?_) fun _ => ?_
  · exact Kept.refl _
  · exact cableChange_kept ..

end Sys2Proof.Machine
end

