-- ==== Sys2Proof/Laws/KeptHost.lean ====
section
/-! SUPPORT. What every command keeps (Safety.Kept), carried through the host bus, security commands and register writes: one lemma per operation. -/

namespace Sys2Proof.Machine

/-! ### HostBus -/

theorem hostFault_kept (a0) (s : State) : Kept s (hostFault a0 s) := by
  unfold hostFault
  dsimp only
  refine Kept.ite (fun _ => ?_) fun _ => ?_
  · refine Kept.trans ?_ (detect_kept ..)
    refine Kept.ite (fun _ => ?_) fun _ => ?_
    · exact report_kept ..
    · exact Kept.refl _
  · refine Kept.ite (fun _ => ?_) fun _ => ?_
    · exact report_kept ..
    · exact Kept.refl _

theorem readWindow_kept (a0) (a1) (a2) : KM (readWindow a0 a1 a2) := by
  unfold readWindow
  dsimp only
  refine KM.ite (fun _ => ?_) fun _ => ?_
  · refine KM.bind ?_ fun _ => ?_
    · exact readMem_kept _ _ _
    · refine KM.bind ?_ fun _ => ?_
      · exact readMem_kept _ _ _
      · exact KM.pure _
  · refine KM.bind ?_ fun _ => ?_
    · exact KM.pure _
    · refine KM.bind ?_ fun _ => ?_
      · exact readMem_kept _ _ _
      · exact KM.pure _

theorem serveRead_kept (a0) (a1) (a2) (a3) (s : State) : Kept s (serveRead a0 a1 a2 a3 s) := by
  unfold serveRead
  (split <;> try dsimp only)
  · refine Kept.trans ?_ (emit_kept ..)
    rename_i h; refine Kept.go h ?_
    refine KM.bind ?_ fun _ => ?_
    · exact galleryGate_kept _
    · exact readWindow_kept _ _ _
  · refine Kept.trans ?_ (hostFault_kept ..)
    refine Kept.trans ?_ (emit_kept ..)
    rename_i h; refine Kept.go h ?_
    refine KM.bind ?_ fun _ => ?_
    · exact galleryGate_kept _
    · exact readWindow_kept _ _ _

theorem bar2Read_kept (a0) (a1) (a2) (s : State) : Kept s (bar2Read a0 a1 a2 s) := by
  unfold bar2Read
  refine Kept.ite (fun _ => ?_) fun _ => ?_
  · exact emit_kept ..
  · refine Kept.ite (fun _ => ?_) fun _ => ?_
    · refine Kept.trans ?_ (conflict_kept ..)
      exact emit_kept ..
    · dsimp only
      refine Kept.ite (fun _ => ?_) fun _ => ?_
      · refine Kept.trans ?_ (serveRead_kept ..)
        exact strikes_kept ..
      · refine Kept.trans ?_ (conflict_kept ..)
        refine Kept.trans ?_ (serveRead_kept ..)
        exact strikes_kept ..

theorem execBar2Read_kept (a0) (a1) (a2) {s t : State} (h : execBar2Read a0 a1 a2 s = .next t) : Kept s t := by
  unfold execBar2Read at h
  injection h with h
  subst h
  refine Kept.ite (fun _ => ?_) fun _ => ?_
  · exact Kept.refl _
  · exact bar2Read_kept ..

theorem writePart_kept (a0) (a1) (a2) (a3) (a4) (s : State) : Kept s (writePart a0 a1 a2 a3 a4 s) := by
  unfold writePart
  refine Kept.ite (fun _ => ?_) fun _ => ?_
  · exact Kept.refl _
  · refine Kept.ite (fun _ => ?_) fun _ => ?_
    · exact conflict_kept ..
    · (split <;> try dsimp only)
      · rename_i h; refine Kept.go h ?_
        refine KM.bind ?_ fun _ => ?_
        · exact galleryGate_kept _
        · exact writeMem_kept _ _ _
      · refine Kept.trans ?_ (hostFault_kept ..)
        rename_i h; refine Kept.go h ?_
        refine KM.bind ?_ fun _ => ?_
        · exact galleryGate_kept _
        · exact writeMem_kept _ _ _

theorem bar2Write_kept (a0) (a1) (a2) (s : State) : Kept s (bar2Write a0 a1 a2 s) := by
  unfold bar2Write
  refine Kept.ite (fun _ => ?_) fun _ => ?_
  · exact Kept.refl _
  · dsimp only
    refine Kept.trans ?_ (writePart_kept ..)
    refine Kept.trans ?_ (writePart_kept ..)
    exact strikes_kept ..

theorem execBar2Write_kept (a0) (a1) (a2) {s t : State} (h : execBar2Write a0 a1 a2 s = .next t) : Kept s t := by
  unfold execBar2Write at h
  injection h with h
  subst h
  refine Kept.ite (fun _ => ?_) fun _ => ?_
  · exact Kept.refl _
  · exact bar2Write_kept ..

theorem badDoorbell_kept (a0) (a1) (s : State) : Kept s (badDoorbell a0 a1 s) := by
  unfold badDoorbell
  exact raise_kept ..

theorem haltQueue_kept (a0) (a1) (s : State) : Kept s (haltQueue a0 a1 s) := by
  unfold haltQueue
  refine Kept.trans ?_ (badDoorbell_kept ..)
  exact putQueue_kept ..

theorem queueDoorbell_kept (q off v) {act : State → State} (h : ∀ t, Kept t (act t)) (s : State) : Kept s (queueDoorbell q off v act s) := by
  unfold queueDoorbell
  exact Kept.ite (fun _ => Kept.refl _) fun _ => Kept.ite (fun _ => badDoorbell_kept ..) fun _ =>
    Kept.ite (fun _ => badDoorbell_kept ..) fun _ => Kept.ite (fun _ => Kept.refl _) fun _ => h _

theorem sqTail_kept (a0) (a1) (a2) (s : State) : Kept s (sqTail a0 a1 a2 s) := by
  unfold sqTail
  refine Kept.ite (fun _ => ?_) fun _ => ?_
  · exact putQueue_kept ..
  · exact haltQueue_kept ..

theorem execSqTailDoorbell_kept (a0) (a1) {s t : State} (h : execSqTailDoorbell a0 a1 s = .next t) : Kept s t := by
  unfold execSqTailDoorbell at h
  injection h with h
  subst h
  refine Kept.trans ?_ (queueDoorbell_kept _ _ _ (fun _ => ?_) _)
  · exact Kept.refl _
  · exact sqTail_kept ..

theorem cqHead_kept (a0) (a1) (a2) (s : State) : Kept s (cqHead a0 a1 a2 s) := by
  unfold cqHead
  refine Kept.ite (fun _ => ?_) fun _ => ?_
  · exact putQueue_kept ..
  · exact haltQueue_kept ..

theorem execCqHeadDoorbell_kept (a0) (a1) {s t : State} (h : execCqHeadDoorbell a0 a1 s = .next t) : Kept s t := by
  unfold execCqHeadDoorbell at h
  injection h with h
  subst h
  refine Kept.trans ?_ (queueDoorbell_kept _ _ _ (fun _ => ?_) _)
  · exact Kept.refl _
  · exact cqHead_kept ..

theorem addHostFlag_kept (a0) (a1) (s : State) : Kept s (addHostFlag a0 a1 s) := by
  unfold addHostFlag
  refine Kept.upd ?_ ..
  exact Kept.refl _

theorem hostFlag_kept (a0) (a1) (a2) (s : State) : Kept s (hostFlag a0 a1 a2 s) := by
  unfold hostFlag
  refine Kept.ite (fun _ => ?_) fun _ => ?_
  · exact conflict_kept ..
  · refine Kept.ite (fun _ => ?_) fun _ => ?_
    · exact raise_kept ..
    · exact addHostFlag_kept ..

theorem execHostFlagDoorbell_kept (a0) (a1) {s t : State} (h : execHostFlagDoorbell a0 a1 s = .next t) : Kept s t := by
  unfold execHostFlagDoorbell at h
  injection h with h
  subst h
  dsimp only
  refine Kept.ite (fun _ => ?_) fun _ => ?_
  · exact Kept.refl _
  · refine Kept.ite (fun _ => ?_) fun _ => ?_
    · exact badDoorbell_kept ..
    · exact hostFlag_kept ..

theorem postNext_kept (a0) (a1) (a2) (s : State) : Kept s (postNext a0 a1 a2 s) := by
  unfold postNext
  dsimp only
  refine Kept.trans ?_ (emit_kept ..)
  refine Kept.trans ?_ (emit_kept ..)
  exact putQueue_kept ..

theorem execCompletionPost_kept (a0) {s t : State} (h : execCompletionPost a0 s = .next t) : Kept s t := by
  unfold execCompletionPost at h
  injection h with h
  subst h
  split
  · refine Kept.ite (fun _ => ?_) fun _ => ?_
    · exact postNext_kept ..
    · exact Kept.refl _
  · exact Kept.refl _

theorem enableQueue_kept (a0) (a1) (s : State) : Kept s (enableQueue a0 a1 s) := by
  unfold enableQueue
  dsimp only
  refine Kept.ite (fun _ => ?_) fun _ => ?_
  · exact regPut_kept ..
  · refine Kept.ite (fun _ => ?_) fun _ => ?_
    · refine Kept.trans ?_ (regPut_kept ..)
      exact putQueue_kept ..
    · exact regPut_kept ..

theorem execQueueEnable_kept (a0) (a1) {s t : State} (h : execQueueEnable a0 a1 s = .next t) : Kept s t := by
  unfold execQueueEnable at h
  injection h with h
  subst h
  refine Kept.ite (fun _ => ?_) fun _ => ?_
  · exact Kept.refl _
  · exact enableQueue_kept ..

theorem disableQueue_kept (a0) (a1) (s : State) : Kept s (disableQueue a0 a1 s) := by
  unfold disableQueue
  refine Kept.ite (fun _ => ?_) fun _ => ?_
  · exact conflict_kept ..
  · refine Kept.trans ?_ (regPut_kept ..)
    exact putQueue_kept ..

theorem execQueueDisable_kept (a0) (a1) {s t : State} (h : execQueueDisable a0 a1 s = .next t) : Kept s t := by
  unfold execQueueDisable at h
  injection h with h
  subst h
  refine Kept.ite (fun _ => ?_) fun _ => ?_
  · exact Kept.refl _
  · exact disableQueue_kept ..

/-! ### Security -/

theorem mctpRun_kept (a0) (a1) (s : State) : Kept s (mctpRun a0 a1 s) := by
  unfold mctpRun
  dsimp only
  split
  · refine Kept.trans ?_ (cmdGate_kept _ _ _ _ _ (fun _ _ _ => ?_) _ _)
    · exact Kept.refl _
    · exact cmdPowerUp_kept ..
  · refine Kept.trans ?_ (cmdGate_kept _ _ _ _ _ (fun _ _ _ => ?_) _ _)
    · exact Kept.refl _
    · exact cmdPowerDown_kept ..
  · refine Kept.trans ?_ (cmdGate_kept _ _ _ _ _ (fun _ _ _ => ?_) _ _)
    · exact Kept.refl _
    · exact cmdReleaseBank_kept ..
  · refine Kept.trans ?_ (cmdGate_kept _ _ _ _ _ (fun _ _ _ => ?_) _ _)
    · exact Kept.refl _
    · exact cmdTensorAddr_kept ..
  · refine Kept.trans ?_ (cmdGate_kept _ _ _ _ _ (fun _ _ _ => ?_) _ _)
    · exact Kept.refl _
    · exact cmdMooringOpen_kept ..
  · refine Kept.trans ?_ (cmdGate_kept _ _ _ _ _ (fun _ _ _ => ?_) _ _)
    · exact Kept.refl _
    · exact cmdMooringSeal_kept ..
  · refine Kept.trans ?_ (cmdGate_kept _ _ _ _ _ (fun _ _ _ => ?_) _ _)
    · exact Kept.refl _
    · exact cmdMooringRelease_kept ..
  · refine Kept.trans ?_ (cmdGate_kept _ _ _ _ _ (fun _ _ _ => ?_) _ _)
    · exact Kept.refl _
    · exact cmdForm_kept ..
  · refine Kept.trans ?_ (cmdGate_kept _ _ _ _ _ (fun _ _ _ => ?_) _ _)
    · exact Kept.refl _
    · exact cmdDissolve_kept ..
  · refine Kept.trans ?_ (cmdGate_kept _ _ _ _ _ (fun _ _ _ => ?_) _ _)
    · exact Kept.refl _
    · exact cmdLeadingSet_kept ..
  · refine Kept.trans ?_ (cmdGate_kept _ _ _ _ _ (fun _ _ _ => ?_) _ _)
    · exact Kept.refl _
    · exact cmdLeadingClear_kept ..
  · refine Kept.trans ?_ (cmdGate_kept _ _ _ _ _ (fun _ _ _ => ?_) _ _)
    · exact Kept.refl _
    · exact cmdEndJob_kept ..
  · refine Kept.trans ?_ (cmdGate_kept _ _ _ _ _ (fun _ _ _ => ?_) _ _)
    · exact Kept.refl _
    · exact cmdResetWarm_kept ..
  · refine Kept.ite (fun _ => ?_) fun _ => ?_
    · exact cmdDone_kept ..
    · exact cmdDone_kept ..

theorem execMctpCommand_kept (a0) (a1) {s t : State} (h : execMctpCommand a0 a1 s = .next t) : Kept s t := by
  unfold execMctpCommand at h
  injection h with h
  subst h
  refine Kept.ite (fun _ => ?_) fun _ => ?_
  · exact mctpRun_kept ..
  · exact Kept.refl _

theorem putSec_kept (a0) (s : State) : Kept s (putSec a0 s) := by
  unfold putSec
  dsimp only
  refine Kept.updKpr ?_ ..
  exact Kept.refl _

theorem respond_kept (a0) (a1) (a2) (s : State) : Kept s (respond a0 a1 a2 s) := by
  unfold respond
  dsimp only
  exact emit_kept ..

theorem noteBad_kept (a0) (a1) (s : State) : Kept s (noteBad a0 a1 s) := by
  unfold noteBad
  refine Kept.ite (fun _ => ?_) fun _ => ?_
  · exact conflict_kept ..
  · exact raise_kept ..

theorem rqRefuse_kept (a0) (a1) (s : State) : Kept s (rqRefuse a0 a1 s) := by
  unfold rqRefuse
  refine Kept.trans ?_ (respond_kept ..)
  exact noteBad_kept ..

theorem useNonce_kept (s : State) : Kept s (useNonce s) := by
  unfold useNonce
  exact putSec_kept ..

theorem ownerRun_kept (op r) {effect : List Byte → State → State} (h : ∀ x t, Kept t (effect x t)) (s : State) :
    Kept s (ownerRun op r effect s) := by
  unfold ownerRun
  refine Kept.ite (fun _ => Kept.refl _) fun _ => Kept.ite (fun _ => respond_kept ..) fun _ => ?_
  split
  · exact (useNonce_kept ..).trans (rqRefuse_kept ..)
  · exact ((useNonce_kept ..).trans (h ..)).trans (respond_kept ..)

theorem blowEpoch_kept (s : State) : Kept s (blowEpoch s) :=
  ⟨rfl, rfl, rfl, ⟨id, fun _ => id, Nat.le_refl _, Nat.le_succ _, Nat.le_refl _⟩, id⟩

theorem enrolOwner_kept (a0) (s : State) : Kept s (enrolOwner a0 s) := by
  unfold enrolOwner
  dsimp only
  refine Kept.trans ?_ (putSec_kept ..)
  exact blowEpoch_kept ..

theorem execEnrol_kept (a0) {s t : State} (h : execEnrol a0 s = .next t) : Kept s t := by
  unfold execEnrol at h
  injection h with h
  subst h
  refine Kept.trans ?_ (ownerRun_kept _ _ (fun _ _ => ?_) _)
  · exact Kept.refl _
  · exact enrolOwner_kept ..

theorem addKey_kept (a0) (s : State) : Kept s (addKey a0 s) := by
  unfold addKey
  exact putSec_kept ..

theorem execAddKey_kept (a0) {s t : State} (h : execAddKey a0 s = .next t) : Kept s t := by
  unfold execAddKey at h
  injection h with h
  subst h
  refine Kept.trans ?_ (ownerRun_kept _ _ (fun _ _ => ?_) _)
  · exact Kept.refl _
  · exact addKey_kept ..

theorem revokeKey_kept (a0) (s : State) : Kept s (revokeKey a0 s) := by
  unfold revokeKey
  exact putSec_kept ..

theorem execRevokeKey_kept (a0) {s t : State} (h : execRevokeKey a0 s = .next t) : Kept s t := by
  unfold execRevokeKey at h
  injection h with h
  subst h
  refine Kept.trans ?_ (ownerRun_kept _ _ (fun _ _ => ?_) _)
  · exact Kept.refl _
  · exact revokeKey_kept ..

theorem setPolicy_kept (a0) (s : State) : Kept s (setPolicy a0 s) := by
  unfold setPolicy
  exact putSec_kept ..

theorem execSetPolicy_kept (a0) {s t : State} (h : execSetPolicy a0 s = .next t) : Kept s t := by
  unfold execSetPolicy at h
  injection h with h
  subst h
  refine Kept.trans ?_ (ownerRun_kept _ _ (fun _ _ => ?_) _)
  · exact Kept.refl _
  · exact setPolicy_kept ..

theorem setOwnerCert_kept (a0) (s : State) : Kept s (setOwnerCert a0 s) := by
  unfold setOwnerCert
  exact putSec_kept ..

theorem execSetOwnerCert_kept (a0) {s t : State} (h : execSetOwnerCert a0 s = .next t) : Kept s t := by
  unfold execSetOwnerCert at h
  injection h with h
  subst h
  refine Kept.trans ?_ (ownerRun_kept _ _ (fun _ _ => ?_) _)
  · exact Kept.refl _
  · exact setOwnerCert_kept ..

theorem setLock_kept (a0) (s : State) : Kept s (setLock a0 s) := by
  unfold setLock
  exact putSec_kept ..

theorem execLock_kept (a0) {s t : State} (h : execLock a0 s = .next t) : Kept s t := by
  unfold execLock at h
  injection h with h
  subst h
  refine Kept.trans ?_ (ownerRun_kept _ _ (fun _ _ => ?_) _)
  · exact Kept.refl _
  · exact setLock_kept ..

theorem clearLock_kept (a0) (s : State) : Kept s (clearLock a0 s) := by
  unfold clearLock
  exact putSec_kept ..

theorem execUnlock_kept (a0) {s t : State} (h : execUnlock a0 s = .next t) : Kept s t := by
  unfold execUnlock at h
  injection h with h
  subst h
  refine Kept.trans ?_ (ownerRun_kept _ _ (fun _ _ => ?_) _)
  · exact Kept.refl _
  · exact clearLock_kept ..

theorem releaseOwner_kept (a0) (s : State) : Kept s (releaseOwner a0 s) := by
  unfold releaseOwner
  dsimp only
  refine Kept.trans ?_ (putSec_kept ..)
  exact blowEpoch_kept ..

theorem execRelease_kept (a0) {s t : State} (h : execRelease a0 s = .next t) : Kept s t := by
  unfold execRelease at h
  injection h with h
  subst h
  refine Kept.trans ?_ (ownerRun_kept _ _ (fun _ _ => ?_) _)
  · exact Kept.refl _
  · exact releaseOwner_kept ..

theorem scopeFaults_kept (a0) (s : State) : Kept s (scopeFaults a0 s) := by
  unfold scopeFaults
  refine Kept.ite (fun _ => ?_) fun _ => ?_
  · refine Kept.trans ?_ (faulted_kept ..)
    exact raise_kept ..
  · exact Kept.refl _

theorem openScopes_kept (a0) (s : State) : Kept s (openScopes a0 s) := by
  unfold openScopes
  dsimp only
  refine Kept.trans ?_ (scopeFaults_kept ..)
  refine Kept.ite (fun _ => ?_) fun _ => ?_
  · refine Kept.trans ?_ (putSec_kept ..)
    refine Kept.ite (fun _ => ?_) fun _ => ?_
    · exact Kept.refl _
    · exact keepSigning_kept ..
  · refine Kept.trans ?_ (setEvent_kept ..)
    refine Kept.trans ?_ (putSec_kept ..)
    refine Kept.ite (fun _ => ?_) fun _ => ?_
    · exact Kept.refl _
    · exact keepSigning_kept ..

theorem execDebugUnlock_kept (a0) {s t : State} (h : execDebugUnlock a0 s = .next t) : Kept s t := by
  unfold execDebugUnlock at h
  injection h with h
  subst h
  refine Kept.trans ?_ (ownerRun_kept _ _ (fun _ _ => ?_) _)
  · exact Kept.refl _
  · exact openScopes_kept ..

theorem giveNonce_kept (a0) (a1) (s : State) : Kept s (giveNonce a0 a1 s) := by
  unfold giveNonce
  refine Kept.trans ?_ (respond_kept ..)
  exact putSec_kept ..

theorem execGetNonce_kept (a0) (a1) {s t : State} (h : execGetNonce a0 a1 s = .next t) : Kept s t := by
  unfold execGetNonce at h
  injection h with h
  subst h
  refine Kept.ite (fun _ => ?_) fun _ => ?_
  · exact Kept.refl _
  · refine Kept.ite (fun _ => ?_) fun _ => ?_
    · exact respond_kept ..
    · refine Kept.ite (fun _ => ?_) fun _ => ?_
      · exact giveNonce_kept ..
      · exact rqRefuse_kept ..

theorem execNonceExpiry_kept {s t : State} (h : execNonceExpiry s = .next t) : Kept s t := by
  unfold execNonceExpiry at h
  injection h with h
  subst h
  split
  · dsimp only
    refine Kept.trans ?_ (putSec_kept ..)
    exact watchTo_kept ..
  · exact Kept.refl _

theorem spdm_kept (a0) (a1) (s : State) : Kept s (spdm a0 a1 s) := by
  unfold spdm
  exact emit_kept ..

theorem spdmError_kept (a0) (a1) (s : State) : Kept s (spdmError a0 a1 s) := by
  unfold spdmError
  exact spdm_kept ..

theorem spdmServe_kept {answer : State → State} (h : ∀ t, Kept t (answer t)) (s : State) : Kept s (spdmServe answer s) := by
  unfold spdmServe
  exact Kept.ite (fun _ => Kept.refl _) fun _ => Kept.ite (fun _ => spdmError_kept ..) fun _ => h _

theorem execSpdmGetVersion_kept {s t : State} (h : execSpdmGetVersion s = .next t) : Kept s t := by
  unfold execSpdmGetVersion at h
  injection h with h
  subst h
  refine Kept.trans ?_ (spdmServe_kept (fun _ => ?_) _)
  · exact Kept.refl _
  · exact spdm_kept ..

theorem execSpdmGetCertificate_kept (slot) {s t : State} (h : execSpdmGetCertificate slot s = .next t) : Kept s t := by
  unfold execSpdmGetCertificate at h
  injection h with h
  subst h
  refine spdmServe_kept (fun u => ?_) s
  cases slotChain s slot with
  | none => exact spdmError_kept ..
  | some c => exact spdm_kept ..

theorem withDaymark_kept {answer : State → State} (h : ∀ t, Kept t (answer t)) (s : State) : Kept s (withDaymark answer s) := by
  unfold withDaymark
  exact Kept.ite (fun _ => (raise_kept ..).trans (spdmError_kept ..)) fun _ => h _

theorem execSpdmChallenge_kept (a0) (a1) {s t : State} (h : execSpdmChallenge a0 a1 s = .next t) : Kept s t := by
  unfold execSpdmChallenge at h
  injection h with h
  subst h
  refine Kept.trans ?_ (spdmServe_kept (fun _ => ?_) _)
  · exact Kept.refl _
  · split
    · refine Kept.trans ?_ (withDaymark_kept (fun _ => ?_) _)
      · exact Kept.refl _
      · exact spdm_kept ..
    · exact spdmError_kept ..

theorem execSpdmGetMeasurements_kept (a0) (a1) (a2) {s t : State} (h : execSpdmGetMeasurements a0 a1 a2 s = .next t) : Kept s t := by
  unfold execSpdmGetMeasurements at h
  injection h with h
  subst h
  refine Kept.trans ?_ (spdmServe_kept (fun _ => ?_) _)
  · exact Kept.refl _
  · split
    · refine Kept.ite (fun _ => ?_) fun _ => ?_
      · refine Kept.trans ?_ (withDaymark_kept (fun _ => ?_) _)
        · exact Kept.refl _
        · exact spdm_kept ..
      · exact spdm_kept ..
    · exact spdmError_kept ..

/-! ### RegWrite -/

theorem clearEvents_kept (a0) (a1) (a2) (s : State) : Kept s (clearEvents a0 a1 a2 s) := by
  unfold clearEvents
  dsimp only
  refine Kept.trans ?_ (afterSummary_kept ..)
  refine Kept.ite (fun _ => ?_) fun _ => ?_
  · exact regPut_kept ..
  · refine Kept.trans ?_ (regCount16_kept ..)
    exact regPut_kept ..

theorem setEvents_kept (a0) (a1) (s : State) : Kept s (setEvents a0 a1 s) := by
  unfold setEvents
  dsimp only
  refine Kept.trans ?_ (afterSummary_kept ..)
  exact regPut_kept ..

theorem enableEvents_kept (a0) (a1) (s : State) : Kept s (enableEvents a0 a1 s) := by
  unfold enableEvents
  refine Kept.trans ?_ (afterSummary_kept ..)
  exact regPut_kept ..

theorem lockPage_kept (a0) (s : State) : Kept s (lockPage a0 s) := by
  unfold lockPage
  exact regPut_kept ..

theorem execPageLock_kept (a0) {s t : State} (h : execPageLock a0 s = .next t) : Kept s t := by
  unfold execPageLock at h
  injection h with h
  subst h
  refine Kept.trans ?_ (hostWrite_kept _ _ (fun _ => ?_) _)
  · exact Kept.refl _
  · exact lockPage_kept ..

theorem execEventClear_kept (a0) (a1) (a2) {s t : State} (h : execEventClear a0 a1 a2 s = .next t) : Kept s t := by
  unfold execEventClear at h
  injection h with h
  subst h
  refine Kept.trans ?_ (hostWrite_kept _ _ (fun _ => ?_) _)
  · exact Kept.refl _
  · exact clearEvents_kept ..

theorem execEventSet_kept (a0) (a1) {s t : State} (h : execEventSet a0 a1 s = .next t) : Kept s t := by
  unfold execEventSet at h
  injection h with h
  subst h
  refine Kept.trans ?_ (hostWrite_kept _ _ (fun _ => ?_) _)
  · exact Kept.refl _
  · exact setEvents_kept ..

theorem execEventEnableWrite_kept (a0) (a1) {s t : State} (h : execEventEnableWrite a0 a1 s = .next t) : Kept s t := by
  unfold execEventEnableWrite at h
  injection h with h
  subst h
  refine Kept.trans ?_ (hostWrite_kept _ _ (fun _ => ?_) _)
  · exact Kept.refl _
  · exact enableEvents_kept ..

theorem freezeStation_kept (a0) (a1) (s : State) : Kept s (freezeStation a0 a1 s) := by
  unfold freezeStation
  dsimp only
  refine Kept.trans ?_ (settlePause_kept ..)
  refine Kept.ite (fun _ => ?_) fun _ => ?_
  · exact regPut_kept ..
  · refine Kept.trans ?_ (putStn_kept ..)
    exact regPut_kept ..

theorem execStationFreeze_kept (a0) (a1) {s t : State} (h : execStationFreeze a0 a1 s = .next t) : Kept s t := by
  unfold execStationFreeze at h
  injection h with h
  subst h
  refine Kept.trans ?_ (hostWrite_kept _ _ (fun _ => ?_) _)
  · exact Kept.refl _
  · exact freezeStation_kept ..

theorem resumeEngine_kept (a0) (s : State) : Kept s (resumeEngine a0 s) := by
  unfold resumeEngine
  dsimp only
  refine Kept.ite (fun _ => ?_) fun _ => ?_
  · exact Kept.refl _
  · refine Kept.trans ?_ (settlePause_kept ..)
    refine Kept.ite (fun _ => ?_) fun _ => ?_
    · exact putEng_kept ..
    · refine Kept.trans ?_ (putStn_kept ..)
      exact putEng_kept ..

theorem execEngineResume_kept (a0) {s t : State} (h : execEngineResume a0 s = .next t) : Kept s t := by
  unfold execEngineResume at h
  injection h with h
  subst h
  refine Kept.trans ?_ (hostWrite_kept _ _ (fun _ => ?_) _)
  · exact Kept.refl _
  · exact resumeEngine_kept ..

theorem writeParam_kept (a0) (a1) (s : State) : Kept s (writeParam a0 a1 s) := by
  unfold writeParam
  dsimp only
  refine Kept.ite (fun _ => ?_) fun _ => ?_
  · exact putEng_kept ..
  · exact Kept.refl _

theorem paramWrite_kept (a0) (a1) (s : State) : Kept s (paramWrite a0 a1 s) := by
  unfold paramWrite
  refine Kept.ite (fun _ => ?_) fun _ => ?_
  · exact writeParam_kept ..
  · exact conflict_kept ..

theorem execParamWrite_kept (a0) (a1) {s t : State} (h : execParamWrite a0 a1 s = .next t) : Kept s t := by
  unfold execParamWrite at h
  injection h with h
  subst h
  refine Kept.trans ?_ (hostWrite_kept _ _ (fun _ => ?_) _)
  · exact Kept.refl _
  · exact paramWrite_kept ..

theorem resetOrRefuse_kept (a) {reset : State → State} (h : ∀ t, Kept t (reset t)) (s : State) : Kept s (resetOrRefuse a reset s) := by
  unfold resetOrRefuse
  exact Kept.ite (fun _ => h s) fun _ => conflict_kept ..

theorem resetUnit_kept (a0) (s : State) : Kept s (resetUnit a0 s) := by
  unfold resetUnit
  (split <;> try dsimp only)
  · exact resetEng_kept ..
  · exact clearFree_kept ..

theorem unitControl_kept (a0) (a1) (s : State) : Kept s (unitControl a0 a1 s) := by
  unfold unitControl
  refine Kept.ite (fun _ => ?_) fun _ => ?_
  · refine resetOrRefuse_kept _ ?_ _
    intro _
    exact resetUnit_kept ..
  · exact Kept.refl _

theorem katControl_kept (a0) (a1) (s : State) : Kept s (katControl a0 a1 s) := by
  unfold katControl
  refine Kept.ite (fun _ => ?_) fun _ => ?_
  · exact katBegin_kept ..
  · exact Kept.refl _

theorem tenderControl_kept (a0) (a1) (s : State) : Kept s (tenderControl a0 a1 s) := by
  unfold tenderControl
  refine Kept.foldl (fun _ _ => ?_) ?_
  · refine Kept.ite (fun _ => ?_) fun _ => ?_
    · refine resetOrRefuse_kept _ ?_ _
      intro _
      exact resetEng_kept ..
    · exact Kept.refl _
  · exact Kept.refl _

theorem linkActs_kept (a0) (a1) (a2) (s : State) : Kept s (linkActs a0 a1 a2 s) := by
  unfold linkActs
  dsimp only
  refine Kept.ite (fun _ => ?_) fun _ => ?_
  · refine Kept.ite (fun _ => ?_) fun _ => ?_
    · refine Kept.trans ?_ (conflict_kept ..)
      refine Kept.ite (fun _ => ?_) fun _ => ?_
      · refine Kept.ite (fun _ => ?_) fun _ => ?_
        · refine Kept.trans ?_ (conflict_kept ..)
          refine Kept.ite (fun _ => ?_) fun _ => ?_
          · exact forceDown_kept ..
          · refine Kept.ite (fun _ => ?_) fun _ => ?_
            · exact tryLink_kept ..
            · exact Kept.refl _
        · refine Kept.trans ?_ (unfenceLink_kept ..)
          refine Kept.ite (fun _ => ?_) fun _ => ?_
          · exact forceDown_kept ..
          · refine Kept.ite (fun _ => ?_) fun _ => ?_
            · exact tryLink_kept ..
            · exact Kept.refl _
      · refine Kept.ite (fun _ => ?_) fun _ => ?_
        · exact forceDown_kept ..
        · refine Kept.ite (fun _ => ?_) fun _ => ?_
          · exact tryLink_kept ..
          · exact Kept.refl _
    · refine Kept.trans ?_ (forceDown_kept ..)
      refine Kept.ite (fun _ => ?_) fun _ => ?_
      · refine Kept.ite (fun _ => ?_) fun _ => ?_
        · refine Kept.trans ?_ (conflict_kept ..)
          refine Kept.ite (fun _ => ?_) fun _ => ?_
          · exact forceDown_kept ..
          · refine Kept.ite (fun _ => ?_) fun _ => ?_
            · exact tryLink_kept ..
            · exact Kept.refl _
        · refine Kept.trans ?_ (unfenceLink_kept ..)
          refine Kept.ite (fun _ => ?_) fun _ => ?_
          · exact forceDown_kept ..
          · refine Kept.ite (fun _ => ?_) fun _ => ?_
            · exact tryLink_kept ..
            · exact Kept.refl _
      · refine Kept.ite (fun _ => ?_) fun _ => ?_
        · exact forceDown_kept ..
        · refine Kept.ite (fun _ => ?_) fun _ => ?_
          · exact tryLink_kept ..
          · exact Kept.refl _
  · refine Kept.ite (fun _ => ?_) fun _ => ?_
    · refine Kept.ite (fun _ => ?_) fun _ => ?_
      · refine Kept.trans ?_ (conflict_kept ..)
        refine Kept.ite (fun _ => ?_) fun _ => ?_
        · exact forceDown_kept ..
        · refine Kept.ite (fun _ => ?_) fun _ => ?_
          · exact tryLink_kept ..
          · exact Kept.refl _
      · refine Kept.trans ?_ (unfenceLink_kept ..)
        refine Kept.ite (fun _ => ?_) fun _ => ?_
        · exact forceDown_kept ..
        · refine Kept.ite (fun _ => ?_) fun _ => ?_
          · exact tryLink_kept ..
          · exact Kept.refl _
    · refine Kept.ite (fun _ => ?_) fun _ => ?_
      · exact forceDown_kept ..
      · refine Kept.ite (fun _ => ?_) fun _ => ?_
        · exact tryLink_kept ..
        · exact Kept.refl _

theorem linkControl_kept (a0) (a1) (a2) (s : State) : Kept s (linkControl a0 a1 a2 s) := by
  unfold linkControl
  dsimp only
  refine Kept.trans ?_ (linkActs_kept ..)
  refine Kept.ite (fun _ => ?_) fun _ => ?_
  · refine Kept.trans ?_ (conflict_kept ..)
    exact writeReg_kept ..
  · exact writeReg_kept ..

theorem queueConfig_kept (a0) (a1) (s : State) : Kept s (queueConfig a0 a1 s) := by
  unfold queueConfig
  refine Kept.ite (fun _ => ?_) fun _ => ?_
  · exact enableQueue_kept ..
  · exact disableQueue_kept ..

theorem pciWide_kept (a0) (a1) (a2) (a3) (a4) (s : State) : Kept s (pciWide a0 a1 a2 a3 a4 s) := by
  unfold pciWide
  refine Kept.ite (fun _ => ?_) fun _ => ?_
  · refine Kept.ite (fun _ => ?_) fun _ => ?_
    · exact writeReg_kept ..
    · exact Kept.refl _
  · refine Kept.ite (fun _ => ?_) fun _ => ?_
    · exact Kept.refl _
    · exact writeReg_kept ..

theorem ledgerControl_kept (a0) (s : State) : Kept s (ledgerControl a0 s) := by
  unfold ledgerControl
  refine Kept.ite (fun _ => ?_) fun _ => ?_
  · exact setStrict_kept ..
  · exact conflict_kept ..

theorem headerWrite_kept (p off v) {s t : State} (h : headerWrite p off v s = some t) : Kept s t := by
  unfold headerWrite at h
  split at h
  · injection h with h; subst h; exact clearEvents_kept ..
  · split at h
    · injection h with h; subst h; exact enableEvents_kept ..
    · split at h
      · injection h with h; subst h; exact setEvents_kept ..
      · split at h
        · injection h with h; subst h; exact Kept.ite (fun _ => lockPage_kept ..) fun _ => Kept.refl _
        · exact absurd h (by simp)

theorem putRegister_kept (a0) (a1) (a2) (a3) (a4) (s : State) : Kept s (putRegister a0 a1 a2 a3 a4 s) := by
  unfold putRegister
  dsimp only
  (split <;> try dsimp only)
  · exact headerWrite_kept (h := by assumption) ..
  · (split <;> try dsimp only)
    · refine Kept.ite (fun _ => ?_) fun _ => ?_
      · refine Kept.trans ?_ (unitControl_kept ..)
        exact writeReg_kept ..
      · refine Kept.ite (fun _ => ?_) fun _ => ?_
        · refine Kept.trans ?_ (katControl_kept ..)
          exact writeReg_kept ..
        · exact writeReg_kept ..
    · refine Kept.ite (fun _ => ?_) fun _ => ?_
      · refine Kept.trans ?_ (unitControl_kept ..)
        exact writeReg_kept ..
      · refine Kept.ite (fun _ => ?_) fun _ => ?_
        · refine Kept.trans ?_ (katControl_kept ..)
          exact writeReg_kept ..
        · exact writeReg_kept ..
    · refine Kept.ite (fun _ => ?_) fun _ => ?_
      · exact freezeStation_kept ..
      · refine Kept.ite (fun _ => ?_) fun _ => ?_
        · refine Kept.trans ?_ (resumeEngine_kept ..)
          exact writeReg_kept ..
        · exact writeReg_kept ..
    · refine Kept.ite (fun _ => ?_) fun _ => ?_
      · exact tenderControl_kept ..
      · exact writeReg_kept ..
    · refine Kept.ite (fun _ => ?_) fun _ => ?_
      · refine Kept.ite (fun _ => ?_) fun _ => ?_
        · exact resetOrRefuse_kept _ (fun _ => resetEng_kept ..) _
        · exact Kept.refl _
      · exact writeReg_kept ..
    · refine Kept.ite (fun _ => ?_) fun _ => ?_
      · exact paramWrite_kept ..
      · exact writeReg_kept ..
    · refine Kept.ite (fun _ => ?_) fun _ => ?_
      · exact linkControl_kept ..
      · exact writeReg_kept ..
    · refine Kept.ite (fun _ => ?_) fun _ => ?_
      · exact queueConfig_kept ..
      · refine Kept.ite (fun _ => ?_) fun _ => ?_
        · exact pciWide_kept ..
        · exact writeReg_kept ..
    · refine Kept.ite (fun _ => ?_) fun _ => ?_
      · exact oppWrite_kept ..
      · exact writeReg_kept ..
    · refine Kept.ite (fun _ => ?_) fun _ => ?_
      · refine Kept.ite (fun _ => ?_) fun _ => ?_
        · refine Kept.trans ?_ (timeRevert_kept ..)
          exact writeReg_kept ..
        · exact writeReg_kept ..
      · refine Kept.ite (fun _ => ?_) fun _ => ?_
        · exact todSecWrite_kept ..
        · refine Kept.ite (fun _ => ?_) fun _ => ?_
          · exact setTodInc_kept ..
          · exact writeReg_kept ..
    · refine Kept.ite (fun _ => ?_) fun _ => ?_
      · exact ledgerControl_kept ..
      · exact writeReg_kept ..
    · exact writeReg_kept ..
    · exact writeReg_kept ..
    · exact writeReg_kept ..
    · exact writeReg_kept ..
    · exact writeReg_kept ..
    · exact writeReg_kept ..
    · exact writeReg_kept ..
    · exact writeReg_kept ..
    · exact writeReg_kept ..

theorem writeWord_kept (a0) (a1) (s : State) : Kept s (writeWord a0 a1 s) := by
  unfold writeWord
  split
  · exact Kept.refl _
  · split
    · exact Kept.refl _
    · dsimp only
      refine Kept.trans ?_ (hostWrite_kept _ _ (fun _ => ?_) _)
      · exact Kept.refl _
      · refine Kept.ite (fun _ => ?_) fun _ => ?_
        · exact putRegister_kept ..
        · refine Kept.ite (fun _ => ?_) fun _ => ?_
          · refine Kept.upd ?_ ..
            exact Kept.refl _
          · refine Kept.trans ?_ (putRegister_kept ..)
            refine Kept.upd ?_ ..
            exact Kept.refl _

theorem writeLong_kept (a0) (a1) (s : State) : Kept s (writeLong a0 a1 s) := by
  unfold writeLong
  split
  · exact Kept.refl _
  · split
    · refine Kept.ite (fun _ => ?_) fun _ => ?_
      · refine Kept.trans ?_ (hostWrite_kept _ _ (fun _ => ?_) _)
        · exact Kept.refl _
        · exact putRegister_kept ..
      · refine Kept.trans ?_ (writeWord_kept ..)
        exact writeWord_kept ..
    · refine Kept.trans ?_ (writeWord_kept ..)
      exact writeWord_kept ..

theorem bar0Write_kept (a0) (a1) (a2) (s : State) : Kept s (bar0Write a0 a1 a2 s) := by
  unfold bar0Write
  refine Kept.ite (fun _ => ?_) fun _ => ?_
  · exact writeWord_kept ..
  · refine Kept.ite (fun _ => ?_) fun _ => ?_
    · exact writeLong_kept ..
    · exact Kept.refl _

theorem execRegisterWrite_kept (a0) (a1) (a2) {s t : State} (h : execRegisterWrite a0 a1 a2 s = .next t) : Kept s t := by
  unfold execRegisterWrite at h
  injection h with h
  subst h
  exact bar0Write_kept ..

end Sys2Proof.Machine
end

