-- ==== Sys2Proof/Laws/State.lean ====
section
/-! SUPPORT. What each record update leaves in each field of the state: one lemma per field and update, true by rfl. -/

namespace Sys2Proof.Machine

/-! ### emit -/

@[simp] theorem emit_pending (o : Out) (s : State) : (emit o s).pending = s.pending := rfl
@[simp] theorem emit_watch (o : Out) (s : State) : (emit o s).watch = s.watch := rfl
@[simp] theorem emit_free (o : Out) (s : State) : (emit o s).free = s.free := rfl
@[simp] theorem emit_out (o : Out) (s : State) : (emit o s).out = o :: s.out := rfl
@[simp] theorem emit_life (o : Out) (s : State) : (emit o s).life = s.life := rfl
@[simp] theorem emit_regs (o : Out) (s : State) : (emit o s).regs = s.regs := rfl
@[simp] theorem emit_latched (o : Out) (s : State) : (emit o s).latched = s.latched := rfl
@[simp] theorem emit_staged (o : Out) (s : State) : (emit o s).staged = s.staged := rfl
@[simp] theorem emit_sram (o : Out) (s : State) : (emit o s).sram = s.sram := rfl
@[simp] theorem emit_dram (o : Out) (s : State) : (emit o s).dram = s.dram := rfl
@[simp] theorem emit_istore (o : Out) (s : State) : (emit o s).istore = s.istore := rfl
@[simp] theorem emit_sramEcc (o : Out) (s : State) : (emit o s).sramEcc = s.sramEcc := rfl
@[simp] theorem emit_dramEcc (o : Out) (s : State) : (emit o s).dramEcc = s.dramEcc := rfl
@[simp] theorem emit_istoreBad (o : Out) (s : State) : (emit o s).istoreBad = s.istoreBad := rfl
@[simp] theorem emit_symCount (o : Out) (s : State) : (emit o s).symCount = s.symCount := rfl
@[simp] theorem emit_stations (o : Out) (s : State) : (emit o s).stations = s.stations := rfl
@[simp] theorem emit_lanterns (o : Out) (s : State) : (emit o s).lanterns = s.lanterns := rfl
@[simp] theorem emit_wicks (o : Out) (s : State) : (emit o s).wicks = s.wicks := rfl
@[simp] theorem emit_engs (o : Out) (s : State) : (emit o s).engs = s.engs := rfl
@[simp] theorem emit_chipFlags (o : Out) (s : State) : (emit o s).chipFlags = s.chipFlags := rfl
@[simp] theorem emit_hostMask (o : Out) (s : State) : (emit o s).hostMask = s.hostMask := rfl
@[simp] theorem emit_sb (o : Out) (s : State) : (emit o s).sb = s.sb := rfl
@[simp] theorem emit_banks (o : Out) (s : State) : (emit o s).banks = s.banks := rfl
@[simp] theorem emit_moorings (o : Out) (s : State) : (emit o s).moorings = s.moorings := rfl
@[simp] theorem emit_run (o : Out) (s : State) : (emit o s).run = s.run := rfl
@[simp] theorem emit_ck0 (o : Out) (s : State) : (emit o s).ck0 = s.ck0 := rfl
@[simp] theorem emit_ck1 (o : Out) (s : State) : (emit o s).ck1 = s.ck1 := rfl
@[simp] theorem emit_recov (o : Out) (s : State) : (emit o s).recov = s.recov := rfl
@[simp] theorem emit_fab (o : Out) (s : State) : (emit o s).fab = s.fab := rfl
@[simp] theorem emit_led (o : Out) (s : State) : (emit o s).led = s.led := rfl
@[simp] theorem emit_jobs (o : Out) (s : State) : (emit o s).jobs = s.jobs := rfl
@[simp] theorem emit_kpr (o : Out) (s : State) : (emit o s).kpr = s.kpr := rfl

/-! ### bumpFree -/

@[simp] theorem bumpFree_pending (s : State) : (bumpFree s).pending = s.pending := rfl
@[simp] theorem bumpFree_watch (s : State) : (bumpFree s).watch = s.watch := rfl
@[simp] theorem bumpFree_free (s : State) : (bumpFree s).free = s.free + 1 := rfl
@[simp] theorem bumpFree_out (s : State) : (bumpFree s).out = s.out := rfl
@[simp] theorem bumpFree_life (s : State) : (bumpFree s).life = s.life := rfl
@[simp] theorem bumpFree_regs (s : State) : (bumpFree s).regs = s.regs := rfl
@[simp] theorem bumpFree_latched (s : State) : (bumpFree s).latched = s.latched := rfl
@[simp] theorem bumpFree_staged (s : State) : (bumpFree s).staged = s.staged := rfl
@[simp] theorem bumpFree_sram (s : State) : (bumpFree s).sram = s.sram := rfl
@[simp] theorem bumpFree_dram (s : State) : (bumpFree s).dram = s.dram := rfl
@[simp] theorem bumpFree_istore (s : State) : (bumpFree s).istore = s.istore := rfl
@[simp] theorem bumpFree_sramEcc (s : State) : (bumpFree s).sramEcc = s.sramEcc := rfl
@[simp] theorem bumpFree_dramEcc (s : State) : (bumpFree s).dramEcc = s.dramEcc := rfl
@[simp] theorem bumpFree_istoreBad (s : State) : (bumpFree s).istoreBad = s.istoreBad := rfl
@[simp] theorem bumpFree_symCount (s : State) : (bumpFree s).symCount = s.symCount := rfl
@[simp] theorem bumpFree_stations (s : State) : (bumpFree s).stations = s.stations := rfl
@[simp] theorem bumpFree_lanterns (s : State) : (bumpFree s).lanterns = s.lanterns := rfl
@[simp] theorem bumpFree_wicks (s : State) : (bumpFree s).wicks = s.wicks := rfl
@[simp] theorem bumpFree_engs (s : State) : (bumpFree s).engs = s.engs := rfl
@[simp] theorem bumpFree_chipFlags (s : State) : (bumpFree s).chipFlags = s.chipFlags := rfl
@[simp] theorem bumpFree_hostMask (s : State) : (bumpFree s).hostMask = s.hostMask := rfl
@[simp] theorem bumpFree_sb (s : State) : (bumpFree s).sb = s.sb := rfl
@[simp] theorem bumpFree_banks (s : State) : (bumpFree s).banks = s.banks := rfl
@[simp] theorem bumpFree_moorings (s : State) : (bumpFree s).moorings = s.moorings := rfl
@[simp] theorem bumpFree_run (s : State) : (bumpFree s).run = s.run := rfl
@[simp] theorem bumpFree_ck0 (s : State) : (bumpFree s).ck0 = s.ck0 := rfl
@[simp] theorem bumpFree_ck1 (s : State) : (bumpFree s).ck1 = s.ck1 := rfl
@[simp] theorem bumpFree_recov (s : State) : (bumpFree s).recov = s.recov := rfl
@[simp] theorem bumpFree_fab (s : State) : (bumpFree s).fab = s.fab := rfl
@[simp] theorem bumpFree_led (s : State) : (bumpFree s).led = s.led := rfl
@[simp] theorem bumpFree_jobs (s : State) : (bumpFree s).jobs = s.jobs := rfl
@[simp] theorem bumpFree_kpr (s : State) : (bumpFree s).kpr = s.kpr := rfl

/-! ### regPut -/

@[simp] theorem regPut_pending (a v : Nat) (s : State) : (regPut a v s).pending = s.pending := rfl
@[simp] theorem regPut_watch (a v : Nat) (s : State) : (regPut a v s).watch = s.watch := rfl
@[simp] theorem regPut_free (a v : Nat) (s : State) : (regPut a v s).free = s.free := rfl
@[simp] theorem regPut_out (a v : Nat) (s : State) : (regPut a v s).out = s.out := rfl
@[simp] theorem regPut_life (a v : Nat) (s : State) : (regPut a v s).life = s.life := rfl
@[simp] theorem regPut_regs (a v : Nat) (s : State) : (regPut a v s).regs = tput s.regs a v := rfl
@[simp] theorem regPut_latched (a v : Nat) (s : State) : (regPut a v s).latched = s.latched := rfl
@[simp] theorem regPut_staged (a v : Nat) (s : State) : (regPut a v s).staged = s.staged := rfl
@[simp] theorem regPut_sram (a v : Nat) (s : State) : (regPut a v s).sram = s.sram := rfl
@[simp] theorem regPut_dram (a v : Nat) (s : State) : (regPut a v s).dram = s.dram := rfl
@[simp] theorem regPut_istore (a v : Nat) (s : State) : (regPut a v s).istore = s.istore := rfl
@[simp] theorem regPut_sramEcc (a v : Nat) (s : State) : (regPut a v s).sramEcc = s.sramEcc := rfl
@[simp] theorem regPut_dramEcc (a v : Nat) (s : State) : (regPut a v s).dramEcc = s.dramEcc := rfl
@[simp] theorem regPut_istoreBad (a v : Nat) (s : State) : (regPut a v s).istoreBad = s.istoreBad := rfl
@[simp] theorem regPut_symCount (a v : Nat) (s : State) : (regPut a v s).symCount = s.symCount := rfl
@[simp] theorem regPut_stations (a v : Nat) (s : State) : (regPut a v s).stations = s.stations := rfl
@[simp] theorem regPut_lanterns (a v : Nat) (s : State) : (regPut a v s).lanterns = s.lanterns := rfl
@[simp] theorem regPut_wicks (a v : Nat) (s : State) : (regPut a v s).wicks = s.wicks := rfl
@[simp] theorem regPut_engs (a v : Nat) (s : State) : (regPut a v s).engs = s.engs := rfl
@[simp] theorem regPut_chipFlags (a v : Nat) (s : State) : (regPut a v s).chipFlags = s.chipFlags := rfl
@[simp] theorem regPut_hostMask (a v : Nat) (s : State) : (regPut a v s).hostMask = s.hostMask := rfl
@[simp] theorem regPut_sb (a v : Nat) (s : State) : (regPut a v s).sb = s.sb := rfl
@[simp] theorem regPut_banks (a v : Nat) (s : State) : (regPut a v s).banks = s.banks := rfl
@[simp] theorem regPut_moorings (a v : Nat) (s : State) : (regPut a v s).moorings = s.moorings := rfl
@[simp] theorem regPut_run (a v : Nat) (s : State) : (regPut a v s).run = s.run := rfl
@[simp] theorem regPut_ck0 (a v : Nat) (s : State) : (regPut a v s).ck0 = s.ck0 := rfl
@[simp] theorem regPut_ck1 (a v : Nat) (s : State) : (regPut a v s).ck1 = s.ck1 := rfl
@[simp] theorem regPut_recov (a v : Nat) (s : State) : (regPut a v s).recov = s.recov := rfl
@[simp] theorem regPut_fab (a v : Nat) (s : State) : (regPut a v s).fab = s.fab := rfl
@[simp] theorem regPut_led (a v : Nat) (s : State) : (regPut a v s).led = s.led := rfl
@[simp] theorem regPut_jobs (a v : Nat) (s : State) : (regPut a v s).jobs = s.jobs := rfl
@[simp] theorem regPut_kpr (a v : Nat) (s : State) : (regPut a v s).kpr = s.kpr := rfl

/-! ### putEng -/

@[simp] theorem putEng_pending (g : Eng) (e : Engine) (s : State) : (putEng g e s).pending = s.pending := rfl
@[simp] theorem putEng_watch (g : Eng) (e : Engine) (s : State) : (putEng g e s).watch = s.watch := rfl
@[simp] theorem putEng_free (g : Eng) (e : Engine) (s : State) : (putEng g e s).free = s.free := rfl
@[simp] theorem putEng_out (g : Eng) (e : Engine) (s : State) : (putEng g e s).out = s.out := rfl
@[simp] theorem putEng_life (g : Eng) (e : Engine) (s : State) : (putEng g e s).life = s.life := rfl
@[simp] theorem putEng_regs (g : Eng) (e : Engine) (s : State) : (putEng g e s).regs = s.regs := rfl
@[simp] theorem putEng_latched (g : Eng) (e : Engine) (s : State) : (putEng g e s).latched = s.latched := rfl
@[simp] theorem putEng_staged (g : Eng) (e : Engine) (s : State) : (putEng g e s).staged = s.staged := rfl
@[simp] theorem putEng_sram (g : Eng) (e : Engine) (s : State) : (putEng g e s).sram = s.sram := rfl
@[simp] theorem putEng_dram (g : Eng) (e : Engine) (s : State) : (putEng g e s).dram = s.dram := rfl
@[simp] theorem putEng_istore (g : Eng) (e : Engine) (s : State) : (putEng g e s).istore = s.istore := rfl
@[simp] theorem putEng_sramEcc (g : Eng) (e : Engine) (s : State) : (putEng g e s).sramEcc = s.sramEcc := rfl
@[simp] theorem putEng_dramEcc (g : Eng) (e : Engine) (s : State) : (putEng g e s).dramEcc = s.dramEcc := rfl
@[simp] theorem putEng_istoreBad (g : Eng) (e : Engine) (s : State) : (putEng g e s).istoreBad = s.istoreBad := rfl
@[simp] theorem putEng_symCount (g : Eng) (e : Engine) (s : State) : (putEng g e s).symCount = s.symCount := rfl
@[simp] theorem putEng_stations (g : Eng) (e : Engine) (s : State) : (putEng g e s).stations = s.stations := rfl
@[simp] theorem putEng_lanterns (g : Eng) (e : Engine) (s : State) : (putEng g e s).lanterns = s.lanterns := rfl
@[simp] theorem putEng_wicks (g : Eng) (e : Engine) (s : State) : (putEng g e s).wicks = s.wicks := rfl
@[simp] theorem putEng_engs (g : Eng) (e : Engine) (s : State) : (putEng g e s).engs = tput s.engs (ekey g) e := rfl
@[simp] theorem putEng_chipFlags (g : Eng) (e : Engine) (s : State) : (putEng g e s).chipFlags = s.chipFlags := rfl
@[simp] theorem putEng_hostMask (g : Eng) (e : Engine) (s : State) : (putEng g e s).hostMask = s.hostMask := rfl
@[simp] theorem putEng_sb (g : Eng) (e : Engine) (s : State) : (putEng g e s).sb = s.sb := rfl
@[simp] theorem putEng_banks (g : Eng) (e : Engine) (s : State) : (putEng g e s).banks = s.banks := rfl
@[simp] theorem putEng_moorings (g : Eng) (e : Engine) (s : State) : (putEng g e s).moorings = s.moorings := rfl
@[simp] theorem putEng_run (g : Eng) (e : Engine) (s : State) : (putEng g e s).run = s.run := rfl
@[simp] theorem putEng_ck0 (g : Eng) (e : Engine) (s : State) : (putEng g e s).ck0 = s.ck0 := rfl
@[simp] theorem putEng_ck1 (g : Eng) (e : Engine) (s : State) : (putEng g e s).ck1 = s.ck1 := rfl
@[simp] theorem putEng_recov (g : Eng) (e : Engine) (s : State) : (putEng g e s).recov = s.recov := rfl
@[simp] theorem putEng_fab (g : Eng) (e : Engine) (s : State) : (putEng g e s).fab = s.fab := rfl
@[simp] theorem putEng_led (g : Eng) (e : Engine) (s : State) : (putEng g e s).led = s.led := rfl
@[simp] theorem putEng_jobs (g : Eng) (e : Engine) (s : State) : (putEng g e s).jobs = s.jobs := rfl
@[simp] theorem putEng_kpr (g : Eng) (e : Engine) (s : State) : (putEng g e s).kpr = s.kpr := rfl

/-! ### putStn -/

@[simp] theorem putStn_pending (n : Nat) (t : Station) (s : State) : (putStn n t s).pending = s.pending := rfl
@[simp] theorem putStn_watch (n : Nat) (t : Station) (s : State) : (putStn n t s).watch = s.watch := rfl
@[simp] theorem putStn_free (n : Nat) (t : Station) (s : State) : (putStn n t s).free = s.free := rfl
@[simp] theorem putStn_out (n : Nat) (t : Station) (s : State) : (putStn n t s).out = s.out := rfl
@[simp] theorem putStn_life (n : Nat) (t : Station) (s : State) : (putStn n t s).life = s.life := rfl
@[simp] theorem putStn_regs (n : Nat) (t : Station) (s : State) : (putStn n t s).regs = s.regs := rfl
@[simp] theorem putStn_latched (n : Nat) (t : Station) (s : State) : (putStn n t s).latched = s.latched := rfl
@[simp] theorem putStn_staged (n : Nat) (t : Station) (s : State) : (putStn n t s).staged = s.staged := rfl
@[simp] theorem putStn_sram (n : Nat) (t : Station) (s : State) : (putStn n t s).sram = s.sram := rfl
@[simp] theorem putStn_dram (n : Nat) (t : Station) (s : State) : (putStn n t s).dram = s.dram := rfl
@[simp] theorem putStn_istore (n : Nat) (t : Station) (s : State) : (putStn n t s).istore = s.istore := rfl
@[simp] theorem putStn_sramEcc (n : Nat) (t : Station) (s : State) : (putStn n t s).sramEcc = s.sramEcc := rfl
@[simp] theorem putStn_dramEcc (n : Nat) (t : Station) (s : State) : (putStn n t s).dramEcc = s.dramEcc := rfl
@[simp] theorem putStn_istoreBad (n : Nat) (t : Station) (s : State) : (putStn n t s).istoreBad = s.istoreBad := rfl
@[simp] theorem putStn_symCount (n : Nat) (t : Station) (s : State) : (putStn n t s).symCount = s.symCount := rfl
@[simp] theorem putStn_stations (n : Nat) (t : Station) (s : State) : (putStn n t s).stations = tput s.stations n t := rfl
@[simp] theorem putStn_lanterns (n : Nat) (t : Station) (s : State) : (putStn n t s).lanterns = s.lanterns := rfl
@[simp] theorem putStn_wicks (n : Nat) (t : Station) (s : State) : (putStn n t s).wicks = s.wicks := rfl
@[simp] theorem putStn_engs (n : Nat) (t : Station) (s : State) : (putStn n t s).engs = s.engs := rfl
@[simp] theorem putStn_chipFlags (n : Nat) (t : Station) (s : State) : (putStn n t s).chipFlags = s.chipFlags := rfl
@[simp] theorem putStn_hostMask (n : Nat) (t : Station) (s : State) : (putStn n t s).hostMask = s.hostMask := rfl
@[simp] theorem putStn_sb (n : Nat) (t : Station) (s : State) : (putStn n t s).sb = s.sb := rfl
@[simp] theorem putStn_banks (n : Nat) (t : Station) (s : State) : (putStn n t s).banks = s.banks := rfl
@[simp] theorem putStn_moorings (n : Nat) (t : Station) (s : State) : (putStn n t s).moorings = s.moorings := rfl
@[simp] theorem putStn_run (n : Nat) (t : Station) (s : State) : (putStn n t s).run = s.run := rfl
@[simp] theorem putStn_ck0 (n : Nat) (t : Station) (s : State) : (putStn n t s).ck0 = s.ck0 := rfl
@[simp] theorem putStn_ck1 (n : Nat) (t : Station) (s : State) : (putStn n t s).ck1 = s.ck1 := rfl
@[simp] theorem putStn_recov (n : Nat) (t : Station) (s : State) : (putStn n t s).recov = s.recov := rfl
@[simp] theorem putStn_fab (n : Nat) (t : Station) (s : State) : (putStn n t s).fab = s.fab := rfl
@[simp] theorem putStn_led (n : Nat) (t : Station) (s : State) : (putStn n t s).led = s.led := rfl
@[simp] theorem putStn_jobs (n : Nat) (t : Station) (s : State) : (putStn n t s).jobs = s.jobs := rfl
@[simp] theorem putStn_kpr (n : Nat) (t : Station) (s : State) : (putStn n t s).kpr = s.kpr := rfl

/-! ### putLan -/

@[simp] theorem putLan_pending (n p : Nat) (l : Lantern) (s : State) : (putLan n p l s).pending = s.pending := rfl
@[simp] theorem putLan_watch (n p : Nat) (l : Lantern) (s : State) : (putLan n p l s).watch = s.watch := rfl
@[simp] theorem putLan_free (n p : Nat) (l : Lantern) (s : State) : (putLan n p l s).free = s.free := rfl
@[simp] theorem putLan_out (n p : Nat) (l : Lantern) (s : State) : (putLan n p l s).out = s.out := rfl
@[simp] theorem putLan_life (n p : Nat) (l : Lantern) (s : State) : (putLan n p l s).life = s.life := rfl
@[simp] theorem putLan_regs (n p : Nat) (l : Lantern) (s : State) : (putLan n p l s).regs = s.regs := rfl
@[simp] theorem putLan_latched (n p : Nat) (l : Lantern) (s : State) : (putLan n p l s).latched = s.latched := rfl
@[simp] theorem putLan_staged (n p : Nat) (l : Lantern) (s : State) : (putLan n p l s).staged = s.staged := rfl
@[simp] theorem putLan_sram (n p : Nat) (l : Lantern) (s : State) : (putLan n p l s).sram = s.sram := rfl
@[simp] theorem putLan_dram (n p : Nat) (l : Lantern) (s : State) : (putLan n p l s).dram = s.dram := rfl
@[simp] theorem putLan_istore (n p : Nat) (l : Lantern) (s : State) : (putLan n p l s).istore = s.istore := rfl
@[simp] theorem putLan_sramEcc (n p : Nat) (l : Lantern) (s : State) : (putLan n p l s).sramEcc = s.sramEcc := rfl
@[simp] theorem putLan_dramEcc (n p : Nat) (l : Lantern) (s : State) : (putLan n p l s).dramEcc = s.dramEcc := rfl
@[simp] theorem putLan_istoreBad (n p : Nat) (l : Lantern) (s : State) : (putLan n p l s).istoreBad = s.istoreBad := rfl
@[simp] theorem putLan_symCount (n p : Nat) (l : Lantern) (s : State) : (putLan n p l s).symCount = s.symCount := rfl
@[simp] theorem putLan_stations (n p : Nat) (l : Lantern) (s : State) : (putLan n p l s).stations = s.stations := rfl
@[simp] theorem putLan_lanterns (n p : Nat) (l : Lantern) (s : State) : (putLan n p l s).lanterns = tput s.lanterns (n * 5 + p) l := rfl
@[simp] theorem putLan_wicks (n p : Nat) (l : Lantern) (s : State) : (putLan n p l s).wicks = s.wicks := rfl
@[simp] theorem putLan_engs (n p : Nat) (l : Lantern) (s : State) : (putLan n p l s).engs = s.engs := rfl
@[simp] theorem putLan_chipFlags (n p : Nat) (l : Lantern) (s : State) : (putLan n p l s).chipFlags = s.chipFlags := rfl
@[simp] theorem putLan_hostMask (n p : Nat) (l : Lantern) (s : State) : (putLan n p l s).hostMask = s.hostMask := rfl
@[simp] theorem putLan_sb (n p : Nat) (l : Lantern) (s : State) : (putLan n p l s).sb = s.sb := rfl
@[simp] theorem putLan_banks (n p : Nat) (l : Lantern) (s : State) : (putLan n p l s).banks = s.banks := rfl
@[simp] theorem putLan_moorings (n p : Nat) (l : Lantern) (s : State) : (putLan n p l s).moorings = s.moorings := rfl
@[simp] theorem putLan_run (n p : Nat) (l : Lantern) (s : State) : (putLan n p l s).run = s.run := rfl
@[simp] theorem putLan_ck0 (n p : Nat) (l : Lantern) (s : State) : (putLan n p l s).ck0 = s.ck0 := rfl
@[simp] theorem putLan_ck1 (n p : Nat) (l : Lantern) (s : State) : (putLan n p l s).ck1 = s.ck1 := rfl
@[simp] theorem putLan_recov (n p : Nat) (l : Lantern) (s : State) : (putLan n p l s).recov = s.recov := rfl
@[simp] theorem putLan_fab (n p : Nat) (l : Lantern) (s : State) : (putLan n p l s).fab = s.fab := rfl
@[simp] theorem putLan_led (n p : Nat) (l : Lantern) (s : State) : (putLan n p l s).led = s.led := rfl
@[simp] theorem putLan_jobs (n p : Nat) (l : Lantern) (s : State) : (putLan n p l s).jobs = s.jobs := rfl
@[simp] theorem putLan_kpr (n p : Nat) (l : Lantern) (s : State) : (putLan n p l s).kpr = s.kpr := rfl

/-! ### putWick -/

@[simp] theorem putWick_pending (n p : Nat) (w : Wick) (s : State) : (putWick n p w s).pending = s.pending := rfl
@[simp] theorem putWick_watch (n p : Nat) (w : Wick) (s : State) : (putWick n p w s).watch = s.watch := rfl
@[simp] theorem putWick_free (n p : Nat) (w : Wick) (s : State) : (putWick n p w s).free = s.free := rfl
@[simp] theorem putWick_out (n p : Nat) (w : Wick) (s : State) : (putWick n p w s).out = s.out := rfl
@[simp] theorem putWick_life (n p : Nat) (w : Wick) (s : State) : (putWick n p w s).life = s.life := rfl
@[simp] theorem putWick_regs (n p : Nat) (w : Wick) (s : State) : (putWick n p w s).regs = s.regs := rfl
@[simp] theorem putWick_latched (n p : Nat) (w : Wick) (s : State) : (putWick n p w s).latched = s.latched := rfl
@[simp] theorem putWick_staged (n p : Nat) (w : Wick) (s : State) : (putWick n p w s).staged = s.staged := rfl
@[simp] theorem putWick_sram (n p : Nat) (w : Wick) (s : State) : (putWick n p w s).sram = s.sram := rfl
@[simp] theorem putWick_dram (n p : Nat) (w : Wick) (s : State) : (putWick n p w s).dram = s.dram := rfl
@[simp] theorem putWick_istore (n p : Nat) (w : Wick) (s : State) : (putWick n p w s).istore = s.istore := rfl
@[simp] theorem putWick_sramEcc (n p : Nat) (w : Wick) (s : State) : (putWick n p w s).sramEcc = s.sramEcc := rfl
@[simp] theorem putWick_dramEcc (n p : Nat) (w : Wick) (s : State) : (putWick n p w s).dramEcc = s.dramEcc := rfl
@[simp] theorem putWick_istoreBad (n p : Nat) (w : Wick) (s : State) : (putWick n p w s).istoreBad = s.istoreBad := rfl
@[simp] theorem putWick_symCount (n p : Nat) (w : Wick) (s : State) : (putWick n p w s).symCount = s.symCount := rfl
@[simp] theorem putWick_stations (n p : Nat) (w : Wick) (s : State) : (putWick n p w s).stations = s.stations := rfl
@[simp] theorem putWick_lanterns (n p : Nat) (w : Wick) (s : State) : (putWick n p w s).lanterns = s.lanterns := rfl
@[simp] theorem putWick_wicks (n p : Nat) (w : Wick) (s : State) : (putWick n p w s).wicks = tput s.wicks (n * 9 + p) w := rfl
@[simp] theorem putWick_engs (n p : Nat) (w : Wick) (s : State) : (putWick n p w s).engs = s.engs := rfl
@[simp] theorem putWick_chipFlags (n p : Nat) (w : Wick) (s : State) : (putWick n p w s).chipFlags = s.chipFlags := rfl
@[simp] theorem putWick_hostMask (n p : Nat) (w : Wick) (s : State) : (putWick n p w s).hostMask = s.hostMask := rfl
@[simp] theorem putWick_sb (n p : Nat) (w : Wick) (s : State) : (putWick n p w s).sb = s.sb := rfl
@[simp] theorem putWick_banks (n p : Nat) (w : Wick) (s : State) : (putWick n p w s).banks = s.banks := rfl
@[simp] theorem putWick_moorings (n p : Nat) (w : Wick) (s : State) : (putWick n p w s).moorings = s.moorings := rfl
@[simp] theorem putWick_run (n p : Nat) (w : Wick) (s : State) : (putWick n p w s).run = s.run := rfl
@[simp] theorem putWick_ck0 (n p : Nat) (w : Wick) (s : State) : (putWick n p w s).ck0 = s.ck0 := rfl
@[simp] theorem putWick_ck1 (n p : Nat) (w : Wick) (s : State) : (putWick n p w s).ck1 = s.ck1 := rfl
@[simp] theorem putWick_recov (n p : Nat) (w : Wick) (s : State) : (putWick n p w s).recov = s.recov := rfl
@[simp] theorem putWick_fab (n p : Nat) (w : Wick) (s : State) : (putWick n p w s).fab = s.fab := rfl
@[simp] theorem putWick_led (n p : Nat) (w : Wick) (s : State) : (putWick n p w s).led = s.led := rfl
@[simp] theorem putWick_jobs (n p : Nat) (w : Wick) (s : State) : (putWick n p w s).jobs = s.jobs := rfl
@[simp] theorem putWick_kpr (n p : Nat) (w : Wick) (s : State) : (putWick n p w s).kpr = s.kpr := rfl

/-! ### putBank -/

@[simp] theorem putBank_pending (b : Nat) (k : Bank) (s : State) : (putBank b k s).pending = s.pending := rfl
@[simp] theorem putBank_watch (b : Nat) (k : Bank) (s : State) : (putBank b k s).watch = s.watch := rfl
@[simp] theorem putBank_free (b : Nat) (k : Bank) (s : State) : (putBank b k s).free = s.free := rfl
@[simp] theorem putBank_out (b : Nat) (k : Bank) (s : State) : (putBank b k s).out = s.out := rfl
@[simp] theorem putBank_life (b : Nat) (k : Bank) (s : State) : (putBank b k s).life = s.life := rfl
@[simp] theorem putBank_regs (b : Nat) (k : Bank) (s : State) : (putBank b k s).regs = s.regs := rfl
@[simp] theorem putBank_latched (b : Nat) (k : Bank) (s : State) : (putBank b k s).latched = s.latched := rfl
@[simp] theorem putBank_staged (b : Nat) (k : Bank) (s : State) : (putBank b k s).staged = s.staged := rfl
@[simp] theorem putBank_sram (b : Nat) (k : Bank) (s : State) : (putBank b k s).sram = s.sram := rfl
@[simp] theorem putBank_dram (b : Nat) (k : Bank) (s : State) : (putBank b k s).dram = s.dram := rfl
@[simp] theorem putBank_istore (b : Nat) (k : Bank) (s : State) : (putBank b k s).istore = s.istore := rfl
@[simp] theorem putBank_sramEcc (b : Nat) (k : Bank) (s : State) : (putBank b k s).sramEcc = s.sramEcc := rfl
@[simp] theorem putBank_dramEcc (b : Nat) (k : Bank) (s : State) : (putBank b k s).dramEcc = s.dramEcc := rfl
@[simp] theorem putBank_istoreBad (b : Nat) (k : Bank) (s : State) : (putBank b k s).istoreBad = s.istoreBad := rfl
@[simp] theorem putBank_symCount (b : Nat) (k : Bank) (s : State) : (putBank b k s).symCount = s.symCount := rfl
@[simp] theorem putBank_stations (b : Nat) (k : Bank) (s : State) : (putBank b k s).stations = s.stations := rfl
@[simp] theorem putBank_lanterns (b : Nat) (k : Bank) (s : State) : (putBank b k s).lanterns = s.lanterns := rfl
@[simp] theorem putBank_wicks (b : Nat) (k : Bank) (s : State) : (putBank b k s).wicks = s.wicks := rfl
@[simp] theorem putBank_engs (b : Nat) (k : Bank) (s : State) : (putBank b k s).engs = s.engs := rfl
@[simp] theorem putBank_chipFlags (b : Nat) (k : Bank) (s : State) : (putBank b k s).chipFlags = s.chipFlags := rfl
@[simp] theorem putBank_hostMask (b : Nat) (k : Bank) (s : State) : (putBank b k s).hostMask = s.hostMask := rfl
@[simp] theorem putBank_sb (b : Nat) (k : Bank) (s : State) : (putBank b k s).sb = s.sb := rfl
@[simp] theorem putBank_banks (b : Nat) (k : Bank) (s : State) : (putBank b k s).banks = tput s.banks b k := rfl
@[simp] theorem putBank_moorings (b : Nat) (k : Bank) (s : State) : (putBank b k s).moorings = s.moorings := rfl
@[simp] theorem putBank_run (b : Nat) (k : Bank) (s : State) : (putBank b k s).run = s.run := rfl
@[simp] theorem putBank_ck0 (b : Nat) (k : Bank) (s : State) : (putBank b k s).ck0 = s.ck0 := rfl
@[simp] theorem putBank_ck1 (b : Nat) (k : Bank) (s : State) : (putBank b k s).ck1 = s.ck1 := rfl
@[simp] theorem putBank_recov (b : Nat) (k : Bank) (s : State) : (putBank b k s).recov = s.recov := rfl
@[simp] theorem putBank_fab (b : Nat) (k : Bank) (s : State) : (putBank b k s).fab = s.fab := rfl
@[simp] theorem putBank_led (b : Nat) (k : Bank) (s : State) : (putBank b k s).led = s.led := rfl
@[simp] theorem putBank_jobs (b : Nat) (k : Bank) (s : State) : (putBank b k s).jobs = s.jobs := rfl
@[simp] theorem putBank_kpr (b : Nat) (k : Bank) (s : State) : (putBank b k s).kpr = s.kpr := rfl

/-! ### putMoor -/

@[simp] theorem putMoor_pending (m : Nat) (k : Mooring) (s : State) : (putMoor m k s).pending = s.pending := rfl
@[simp] theorem putMoor_watch (m : Nat) (k : Mooring) (s : State) : (putMoor m k s).watch = s.watch := rfl
@[simp] theorem putMoor_free (m : Nat) (k : Mooring) (s : State) : (putMoor m k s).free = s.free := rfl
@[simp] theorem putMoor_out (m : Nat) (k : Mooring) (s : State) : (putMoor m k s).out = s.out := rfl
@[simp] theorem putMoor_life (m : Nat) (k : Mooring) (s : State) : (putMoor m k s).life = s.life := rfl
@[simp] theorem putMoor_regs (m : Nat) (k : Mooring) (s : State) : (putMoor m k s).regs = s.regs := rfl
@[simp] theorem putMoor_latched (m : Nat) (k : Mooring) (s : State) : (putMoor m k s).latched = s.latched := rfl
@[simp] theorem putMoor_staged (m : Nat) (k : Mooring) (s : State) : (putMoor m k s).staged = s.staged := rfl
@[simp] theorem putMoor_sram (m : Nat) (k : Mooring) (s : State) : (putMoor m k s).sram = s.sram := rfl
@[simp] theorem putMoor_dram (m : Nat) (k : Mooring) (s : State) : (putMoor m k s).dram = s.dram := rfl
@[simp] theorem putMoor_istore (m : Nat) (k : Mooring) (s : State) : (putMoor m k s).istore = s.istore := rfl
@[simp] theorem putMoor_sramEcc (m : Nat) (k : Mooring) (s : State) : (putMoor m k s).sramEcc = s.sramEcc := rfl
@[simp] theorem putMoor_dramEcc (m : Nat) (k : Mooring) (s : State) : (putMoor m k s).dramEcc = s.dramEcc := rfl
@[simp] theorem putMoor_istoreBad (m : Nat) (k : Mooring) (s : State) : (putMoor m k s).istoreBad = s.istoreBad := rfl
@[simp] theorem putMoor_symCount (m : Nat) (k : Mooring) (s : State) : (putMoor m k s).symCount = s.symCount := rfl
@[simp] theorem putMoor_stations (m : Nat) (k : Mooring) (s : State) : (putMoor m k s).stations = s.stations := rfl
@[simp] theorem putMoor_lanterns (m : Nat) (k : Mooring) (s : State) : (putMoor m k s).lanterns = s.lanterns := rfl
@[simp] theorem putMoor_wicks (m : Nat) (k : Mooring) (s : State) : (putMoor m k s).wicks = s.wicks := rfl
@[simp] theorem putMoor_engs (m : Nat) (k : Mooring) (s : State) : (putMoor m k s).engs = s.engs := rfl
@[simp] theorem putMoor_chipFlags (m : Nat) (k : Mooring) (s : State) : (putMoor m k s).chipFlags = s.chipFlags := rfl
@[simp] theorem putMoor_hostMask (m : Nat) (k : Mooring) (s : State) : (putMoor m k s).hostMask = s.hostMask := rfl
@[simp] theorem putMoor_sb (m : Nat) (k : Mooring) (s : State) : (putMoor m k s).sb = s.sb := rfl
@[simp] theorem putMoor_banks (m : Nat) (k : Mooring) (s : State) : (putMoor m k s).banks = s.banks := rfl
@[simp] theorem putMoor_moorings (m : Nat) (k : Mooring) (s : State) : (putMoor m k s).moorings = tput s.moorings m k := rfl
@[simp] theorem putMoor_run (m : Nat) (k : Mooring) (s : State) : (putMoor m k s).run = s.run := rfl
@[simp] theorem putMoor_ck0 (m : Nat) (k : Mooring) (s : State) : (putMoor m k s).ck0 = s.ck0 := rfl
@[simp] theorem putMoor_ck1 (m : Nat) (k : Mooring) (s : State) : (putMoor m k s).ck1 = s.ck1 := rfl
@[simp] theorem putMoor_recov (m : Nat) (k : Mooring) (s : State) : (putMoor m k s).recov = s.recov := rfl
@[simp] theorem putMoor_fab (m : Nat) (k : Mooring) (s : State) : (putMoor m k s).fab = s.fab := rfl
@[simp] theorem putMoor_led (m : Nat) (k : Mooring) (s : State) : (putMoor m k s).led = s.led := rfl
@[simp] theorem putMoor_jobs (m : Nat) (k : Mooring) (s : State) : (putMoor m k s).jobs = s.jobs := rfl
@[simp] theorem putMoor_kpr (m : Nat) (k : Mooring) (s : State) : (putMoor m k s).kpr = s.kpr := rfl

/-! ### putSb -/

@[simp] theorem putSb_pending (k : Nat) (e : SbEntry) (s : State) : (putSb k e s).pending = s.pending := rfl
@[simp] theorem putSb_watch (k : Nat) (e : SbEntry) (s : State) : (putSb k e s).watch = s.watch := rfl
@[simp] theorem putSb_free (k : Nat) (e : SbEntry) (s : State) : (putSb k e s).free = s.free := rfl
@[simp] theorem putSb_out (k : Nat) (e : SbEntry) (s : State) : (putSb k e s).out = s.out := rfl
@[simp] theorem putSb_life (k : Nat) (e : SbEntry) (s : State) : (putSb k e s).life = s.life := rfl
@[simp] theorem putSb_regs (k : Nat) (e : SbEntry) (s : State) : (putSb k e s).regs = s.regs := rfl
@[simp] theorem putSb_latched (k : Nat) (e : SbEntry) (s : State) : (putSb k e s).latched = s.latched := rfl
@[simp] theorem putSb_staged (k : Nat) (e : SbEntry) (s : State) : (putSb k e s).staged = s.staged := rfl
@[simp] theorem putSb_sram (k : Nat) (e : SbEntry) (s : State) : (putSb k e s).sram = s.sram := rfl
@[simp] theorem putSb_dram (k : Nat) (e : SbEntry) (s : State) : (putSb k e s).dram = s.dram := rfl
@[simp] theorem putSb_istore (k : Nat) (e : SbEntry) (s : State) : (putSb k e s).istore = s.istore := rfl
@[simp] theorem putSb_sramEcc (k : Nat) (e : SbEntry) (s : State) : (putSb k e s).sramEcc = s.sramEcc := rfl
@[simp] theorem putSb_dramEcc (k : Nat) (e : SbEntry) (s : State) : (putSb k e s).dramEcc = s.dramEcc := rfl
@[simp] theorem putSb_istoreBad (k : Nat) (e : SbEntry) (s : State) : (putSb k e s).istoreBad = s.istoreBad := rfl
@[simp] theorem putSb_symCount (k : Nat) (e : SbEntry) (s : State) : (putSb k e s).symCount = s.symCount := rfl
@[simp] theorem putSb_stations (k : Nat) (e : SbEntry) (s : State) : (putSb k e s).stations = s.stations := rfl
@[simp] theorem putSb_lanterns (k : Nat) (e : SbEntry) (s : State) : (putSb k e s).lanterns = s.lanterns := rfl
@[simp] theorem putSb_wicks (k : Nat) (e : SbEntry) (s : State) : (putSb k e s).wicks = s.wicks := rfl
@[simp] theorem putSb_engs (k : Nat) (e : SbEntry) (s : State) : (putSb k e s).engs = s.engs := rfl
@[simp] theorem putSb_chipFlags (k : Nat) (e : SbEntry) (s : State) : (putSb k e s).chipFlags = s.chipFlags := rfl
@[simp] theorem putSb_hostMask (k : Nat) (e : SbEntry) (s : State) : (putSb k e s).hostMask = s.hostMask := rfl
@[simp] theorem putSb_sb (k : Nat) (e : SbEntry) (s : State) : (putSb k e s).sb = tput s.sb k e := rfl
@[simp] theorem putSb_banks (k : Nat) (e : SbEntry) (s : State) : (putSb k e s).banks = s.banks := rfl
@[simp] theorem putSb_moorings (k : Nat) (e : SbEntry) (s : State) : (putSb k e s).moorings = s.moorings := rfl
@[simp] theorem putSb_run (k : Nat) (e : SbEntry) (s : State) : (putSb k e s).run = s.run := rfl
@[simp] theorem putSb_ck0 (k : Nat) (e : SbEntry) (s : State) : (putSb k e s).ck0 = s.ck0 := rfl
@[simp] theorem putSb_ck1 (k : Nat) (e : SbEntry) (s : State) : (putSb k e s).ck1 = s.ck1 := rfl
@[simp] theorem putSb_recov (k : Nat) (e : SbEntry) (s : State) : (putSb k e s).recov = s.recov := rfl
@[simp] theorem putSb_fab (k : Nat) (e : SbEntry) (s : State) : (putSb k e s).fab = s.fab := rfl
@[simp] theorem putSb_led (k : Nat) (e : SbEntry) (s : State) : (putSb k e s).led = s.led := rfl
@[simp] theorem putSb_jobs (k : Nat) (e : SbEntry) (s : State) : (putSb k e s).jobs = s.jobs := rfl
@[simp] theorem putSb_kpr (k : Nat) (e : SbEntry) (s : State) : (putSb k e s).kpr = s.kpr := rfl

/-! ### putRecov -/

@[simp] theorem putRecov_pending (r : Recov) (s : State) : (putRecov r s).pending = s.pending := rfl
@[simp] theorem putRecov_watch (r : Recov) (s : State) : (putRecov r s).watch = s.watch := rfl
@[simp] theorem putRecov_free (r : Recov) (s : State) : (putRecov r s).free = s.free := rfl
@[simp] theorem putRecov_out (r : Recov) (s : State) : (putRecov r s).out = s.out := rfl
@[simp] theorem putRecov_life (r : Recov) (s : State) : (putRecov r s).life = s.life := rfl
@[simp] theorem putRecov_regs (r : Recov) (s : State) : (putRecov r s).regs = s.regs := rfl
@[simp] theorem putRecov_latched (r : Recov) (s : State) : (putRecov r s).latched = s.latched := rfl
@[simp] theorem putRecov_staged (r : Recov) (s : State) : (putRecov r s).staged = s.staged := rfl
@[simp] theorem putRecov_sram (r : Recov) (s : State) : (putRecov r s).sram = s.sram := rfl
@[simp] theorem putRecov_dram (r : Recov) (s : State) : (putRecov r s).dram = s.dram := rfl
@[simp] theorem putRecov_istore (r : Recov) (s : State) : (putRecov r s).istore = s.istore := rfl
@[simp] theorem putRecov_sramEcc (r : Recov) (s : State) : (putRecov r s).sramEcc = s.sramEcc := rfl
@[simp] theorem putRecov_dramEcc (r : Recov) (s : State) : (putRecov r s).dramEcc = s.dramEcc := rfl
@[simp] theorem putRecov_istoreBad (r : Recov) (s : State) : (putRecov r s).istoreBad = s.istoreBad := rfl
@[simp] theorem putRecov_symCount (r : Recov) (s : State) : (putRecov r s).symCount = s.symCount := rfl
@[simp] theorem putRecov_stations (r : Recov) (s : State) : (putRecov r s).stations = s.stations := rfl
@[simp] theorem putRecov_lanterns (r : Recov) (s : State) : (putRecov r s).lanterns = s.lanterns := rfl
@[simp] theorem putRecov_wicks (r : Recov) (s : State) : (putRecov r s).wicks = s.wicks := rfl
@[simp] theorem putRecov_engs (r : Recov) (s : State) : (putRecov r s).engs = s.engs := rfl
@[simp] theorem putRecov_chipFlags (r : Recov) (s : State) : (putRecov r s).chipFlags = s.chipFlags := rfl
@[simp] theorem putRecov_hostMask (r : Recov) (s : State) : (putRecov r s).hostMask = s.hostMask := rfl
@[simp] theorem putRecov_sb (r : Recov) (s : State) : (putRecov r s).sb = s.sb := rfl
@[simp] theorem putRecov_banks (r : Recov) (s : State) : (putRecov r s).banks = s.banks := rfl
@[simp] theorem putRecov_moorings (r : Recov) (s : State) : (putRecov r s).moorings = s.moorings := rfl
@[simp] theorem putRecov_run (r : Recov) (s : State) : (putRecov r s).run = s.run := rfl
@[simp] theorem putRecov_ck0 (r : Recov) (s : State) : (putRecov r s).ck0 = s.ck0 := rfl
@[simp] theorem putRecov_ck1 (r : Recov) (s : State) : (putRecov r s).ck1 = s.ck1 := rfl
@[simp] theorem putRecov_recov (r : Recov) (s : State) : (putRecov r s).recov = r := rfl
@[simp] theorem putRecov_fab (r : Recov) (s : State) : (putRecov r s).fab = s.fab := rfl
@[simp] theorem putRecov_led (r : Recov) (s : State) : (putRecov r s).led = s.led := rfl
@[simp] theorem putRecov_jobs (r : Recov) (s : State) : (putRecov r s).jobs = s.jobs := rfl
@[simp] theorem putRecov_kpr (r : Recov) (s : State) : (putRecov r s).kpr = s.kpr := rfl

/-! ### watchTo -/

@[simp] theorem watchTo_pending (n : Nat) (s : State) : (watchTo n s).pending = s.pending := rfl
@[simp] theorem watchTo_watch (n : Nat) (s : State) : (watchTo n s).watch = max s.watch n := rfl
@[simp] theorem watchTo_free (n : Nat) (s : State) : (watchTo n s).free = s.free := rfl
@[simp] theorem watchTo_out (n : Nat) (s : State) : (watchTo n s).out = s.out := rfl
@[simp] theorem watchTo_life (n : Nat) (s : State) : (watchTo n s).life = s.life := rfl
@[simp] theorem watchTo_regs (n : Nat) (s : State) : (watchTo n s).regs = s.regs := rfl
@[simp] theorem watchTo_latched (n : Nat) (s : State) : (watchTo n s).latched = s.latched := rfl
@[simp] theorem watchTo_staged (n : Nat) (s : State) : (watchTo n s).staged = s.staged := rfl
@[simp] theorem watchTo_sram (n : Nat) (s : State) : (watchTo n s).sram = s.sram := rfl
@[simp] theorem watchTo_dram (n : Nat) (s : State) : (watchTo n s).dram = s.dram := rfl
@[simp] theorem watchTo_istore (n : Nat) (s : State) : (watchTo n s).istore = s.istore := rfl
@[simp] theorem watchTo_sramEcc (n : Nat) (s : State) : (watchTo n s).sramEcc = s.sramEcc := rfl
@[simp] theorem watchTo_dramEcc (n : Nat) (s : State) : (watchTo n s).dramEcc = s.dramEcc := rfl
@[simp] theorem watchTo_istoreBad (n : Nat) (s : State) : (watchTo n s).istoreBad = s.istoreBad := rfl
@[simp] theorem watchTo_symCount (n : Nat) (s : State) : (watchTo n s).symCount = s.symCount := rfl
@[simp] theorem watchTo_stations (n : Nat) (s : State) : (watchTo n s).stations = s.stations := rfl
@[simp] theorem watchTo_lanterns (n : Nat) (s : State) : (watchTo n s).lanterns = s.lanterns := rfl
@[simp] theorem watchTo_wicks (n : Nat) (s : State) : (watchTo n s).wicks = s.wicks := rfl
@[simp] theorem watchTo_engs (n : Nat) (s : State) : (watchTo n s).engs = s.engs := rfl
@[simp] theorem watchTo_chipFlags (n : Nat) (s : State) : (watchTo n s).chipFlags = s.chipFlags := rfl
@[simp] theorem watchTo_hostMask (n : Nat) (s : State) : (watchTo n s).hostMask = s.hostMask := rfl
@[simp] theorem watchTo_sb (n : Nat) (s : State) : (watchTo n s).sb = s.sb := rfl
@[simp] theorem watchTo_banks (n : Nat) (s : State) : (watchTo n s).banks = s.banks := rfl
@[simp] theorem watchTo_moorings (n : Nat) (s : State) : (watchTo n s).moorings = s.moorings := rfl
@[simp] theorem watchTo_run (n : Nat) (s : State) : (watchTo n s).run = s.run := rfl
@[simp] theorem watchTo_ck0 (n : Nat) (s : State) : (watchTo n s).ck0 = s.ck0 := rfl
@[simp] theorem watchTo_ck1 (n : Nat) (s : State) : (watchTo n s).ck1 = s.ck1 := rfl
@[simp] theorem watchTo_recov (n : Nat) (s : State) : (watchTo n s).recov = s.recov := rfl
@[simp] theorem watchTo_fab (n : Nat) (s : State) : (watchTo n s).fab = s.fab := rfl
@[simp] theorem watchTo_led (n : Nat) (s : State) : (watchTo n s).led = s.led := rfl
@[simp] theorem watchTo_jobs (n : Nat) (s : State) : (watchTo n s).jobs = s.jobs := rfl
@[simp] theorem watchTo_kpr (n : Nat) (s : State) : (watchTo n s).kpr = s.kpr := rfl

/-! ### putLink -/

@[simp] theorem putLink_pending (l : Nat) (k : Link) (s : State) : (putLink l k s).pending = s.pending := rfl
@[simp] theorem putLink_watch (l : Nat) (k : Link) (s : State) : (putLink l k s).watch = s.watch := rfl
@[simp] theorem putLink_free (l : Nat) (k : Link) (s : State) : (putLink l k s).free = s.free := rfl
@[simp] theorem putLink_out (l : Nat) (k : Link) (s : State) : (putLink l k s).out = s.out := rfl
@[simp] theorem putLink_life (l : Nat) (k : Link) (s : State) : (putLink l k s).life = s.life := rfl
@[simp] theorem putLink_regs (l : Nat) (k : Link) (s : State) : (putLink l k s).regs = s.regs := rfl
@[simp] theorem putLink_latched (l : Nat) (k : Link) (s : State) : (putLink l k s).latched = s.latched := rfl
@[simp] theorem putLink_staged (l : Nat) (k : Link) (s : State) : (putLink l k s).staged = s.staged := rfl
@[simp] theorem putLink_sram (l : Nat) (k : Link) (s : State) : (putLink l k s).sram = s.sram := rfl
@[simp] theorem putLink_dram (l : Nat) (k : Link) (s : State) : (putLink l k s).dram = s.dram := rfl
@[simp] theorem putLink_istore (l : Nat) (k : Link) (s : State) : (putLink l k s).istore = s.istore := rfl
@[simp] theorem putLink_sramEcc (l : Nat) (k : Link) (s : State) : (putLink l k s).sramEcc = s.sramEcc := rfl
@[simp] theorem putLink_dramEcc (l : Nat) (k : Link) (s : State) : (putLink l k s).dramEcc = s.dramEcc := rfl
@[simp] theorem putLink_istoreBad (l : Nat) (k : Link) (s : State) : (putLink l k s).istoreBad = s.istoreBad := rfl
@[simp] theorem putLink_symCount (l : Nat) (k : Link) (s : State) : (putLink l k s).symCount = s.symCount := rfl
@[simp] theorem putLink_stations (l : Nat) (k : Link) (s : State) : (putLink l k s).stations = s.stations := rfl
@[simp] theorem putLink_lanterns (l : Nat) (k : Link) (s : State) : (putLink l k s).lanterns = s.lanterns := rfl
@[simp] theorem putLink_wicks (l : Nat) (k : Link) (s : State) : (putLink l k s).wicks = s.wicks := rfl
@[simp] theorem putLink_engs (l : Nat) (k : Link) (s : State) : (putLink l k s).engs = s.engs := rfl
@[simp] theorem putLink_chipFlags (l : Nat) (k : Link) (s : State) : (putLink l k s).chipFlags = s.chipFlags := rfl
@[simp] theorem putLink_hostMask (l : Nat) (k : Link) (s : State) : (putLink l k s).hostMask = s.hostMask := rfl
@[simp] theorem putLink_sb (l : Nat) (k : Link) (s : State) : (putLink l k s).sb = s.sb := rfl
@[simp] theorem putLink_banks (l : Nat) (k : Link) (s : State) : (putLink l k s).banks = s.banks := rfl
@[simp] theorem putLink_moorings (l : Nat) (k : Link) (s : State) : (putLink l k s).moorings = s.moorings := rfl
@[simp] theorem putLink_run (l : Nat) (k : Link) (s : State) : (putLink l k s).run = s.run := rfl
@[simp] theorem putLink_ck0 (l : Nat) (k : Link) (s : State) : (putLink l k s).ck0 = s.ck0 := rfl
@[simp] theorem putLink_ck1 (l : Nat) (k : Link) (s : State) : (putLink l k s).ck1 = s.ck1 := rfl
@[simp] theorem putLink_recov (l : Nat) (k : Link) (s : State) : (putLink l k s).recov = s.recov := rfl
@[simp] theorem putLink_led (l : Nat) (k : Link) (s : State) : (putLink l k s).led = s.led := rfl
@[simp] theorem putLink_jobs (l : Nat) (k : Link) (s : State) : (putLink l k s).jobs = s.jobs := rfl
@[simp] theorem putLink_kpr (l : Nat) (k : Link) (s : State) : (putLink l k s).kpr = s.kpr := rfl
@[simp] theorem putLink_fab_pos (l : Nat) (k : Link) (s : State) : (putLink l k s).fab.pos = s.fab.pos := rfl
@[simp] theorem putLink_fab_posOk (l : Nat) (k : Link) (s : State) : (putLink l k s).fab.posOk = s.fab.posOk := rfl
@[simp] theorem putLink_fab_links (l : Nat) (k : Link) (s : State) : (putLink l k s).fab.links = tput s.fab.links l k := rfl
@[simp] theorem putLink_fab_outbox (l : Nat) (k : Link) (s : State) : (putLink l k s).fab.outbox = s.fab.outbox := rfl
@[simp] theorem putLink_fab_msgid (l : Nat) (k : Link) (s : State) : (putLink l k s).fab.msgid = s.fab.msgid := rfl
@[simp] theorem putLink_fab_ports (l : Nat) (k : Link) (s : State) : (putLink l k s).fab.ports = s.fab.ports := rfl
@[simp] theorem putLink_fab_part (l : Nat) (k : Link) (s : State) : (putLink l k s).fab.part = s.fab.part := rfl
@[simp] theorem putLink_fab_time (l : Nat) (k : Link) (s : State) : (putLink l k s).fab.time = s.fab.time := rfl
@[simp] theorem putLink_fab_go (l : Nat) (k : Link) (s : State) : (putLink l k s).fab.go = s.fab.go := rfl
@[simp] theorem putLink_fab_fork (l : Nat) (k : Link) (s : State) : (putLink l k s).fab.fork = s.fab.fork := rfl
@[simp] theorem putLink_fab_forkLinks (l : Nat) (k : Link) (s : State) : (putLink l k s).fab.forkLinks = s.fab.forkLinks := rfl
@[simp] theorem putLink_fab_bulk (l : Nat) (k : Link) (s : State) : (putLink l k s).fab.bulk = s.fab.bulk := rfl
@[simp] theorem putLink_fab_bulkDone (l : Nat) (k : Link) (s : State) : (putLink l k s).fab.bulkDone = s.fab.bulkDone := rfl
@[simp] theorem putLink_fab_leading (l : Nat) (k : Link) (s : State) : (putLink l k s).fab.leading = s.fab.leading := rfl
@[simp] theorem putLink_fab_pairLink (l : Nat) (k : Link) (s : State) : (putLink l k s).fab.pairLink = s.fab.pairLink := rfl
@[simp] theorem putLink_fab_comparing (l : Nat) (k : Link) (s : State) : (putLink l k s).fab.comparing = s.fab.comparing := rfl
@[simp] theorem putLink_fab_leadOwn (l : Nat) (k : Link) (s : State) : (putLink l k s).fab.leadOwn = s.fab.leadOwn := rfl
@[simp] theorem putLink_fab_leadTheirs (l : Nat) (k : Link) (s : State) : (putLink l k s).fab.leadTheirs = s.fab.leadTheirs := rfl
@[simp] theorem putLink_fab_leadLaunch (l : Nat) (k : Link) (s : State) : (putLink l k s).fab.leadLaunch = s.fab.leadLaunch := rfl

/-! ### putPort -/

@[simp] theorem putPort_pending (n : Nat) (p : Port) (s : State) : (putPort n p s).pending = s.pending := rfl
@[simp] theorem putPort_watch (n : Nat) (p : Port) (s : State) : (putPort n p s).watch = s.watch := rfl
@[simp] theorem putPort_free (n : Nat) (p : Port) (s : State) : (putPort n p s).free = s.free := rfl
@[simp] theorem putPort_out (n : Nat) (p : Port) (s : State) : (putPort n p s).out = s.out := rfl
@[simp] theorem putPort_life (n : Nat) (p : Port) (s : State) : (putPort n p s).life = s.life := rfl
@[simp] theorem putPort_regs (n : Nat) (p : Port) (s : State) : (putPort n p s).regs = s.regs := rfl
@[simp] theorem putPort_latched (n : Nat) (p : Port) (s : State) : (putPort n p s).latched = s.latched := rfl
@[simp] theorem putPort_staged (n : Nat) (p : Port) (s : State) : (putPort n p s).staged = s.staged := rfl
@[simp] theorem putPort_sram (n : Nat) (p : Port) (s : State) : (putPort n p s).sram = s.sram := rfl
@[simp] theorem putPort_dram (n : Nat) (p : Port) (s : State) : (putPort n p s).dram = s.dram := rfl
@[simp] theorem putPort_istore (n : Nat) (p : Port) (s : State) : (putPort n p s).istore = s.istore := rfl
@[simp] theorem putPort_sramEcc (n : Nat) (p : Port) (s : State) : (putPort n p s).sramEcc = s.sramEcc := rfl
@[simp] theorem putPort_dramEcc (n : Nat) (p : Port) (s : State) : (putPort n p s).dramEcc = s.dramEcc := rfl
@[simp] theorem putPort_istoreBad (n : Nat) (p : Port) (s : State) : (putPort n p s).istoreBad = s.istoreBad := rfl
@[simp] theorem putPort_symCount (n : Nat) (p : Port) (s : State) : (putPort n p s).symCount = s.symCount := rfl
@[simp] theorem putPort_stations (n : Nat) (p : Port) (s : State) : (putPort n p s).stations = s.stations := rfl
@[simp] theorem putPort_lanterns (n : Nat) (p : Port) (s : State) : (putPort n p s).lanterns = s.lanterns := rfl
@[simp] theorem putPort_wicks (n : Nat) (p : Port) (s : State) : (putPort n p s).wicks = s.wicks := rfl
@[simp] theorem putPort_engs (n : Nat) (p : Port) (s : State) : (putPort n p s).engs = s.engs := rfl
@[simp] theorem putPort_chipFlags (n : Nat) (p : Port) (s : State) : (putPort n p s).chipFlags = s.chipFlags := rfl
@[simp] theorem putPort_hostMask (n : Nat) (p : Port) (s : State) : (putPort n p s).hostMask = s.hostMask := rfl
@[simp] theorem putPort_sb (n : Nat) (p : Port) (s : State) : (putPort n p s).sb = s.sb := rfl
@[simp] theorem putPort_banks (n : Nat) (p : Port) (s : State) : (putPort n p s).banks = s.banks := rfl
@[simp] theorem putPort_moorings (n : Nat) (p : Port) (s : State) : (putPort n p s).moorings = s.moorings := rfl
@[simp] theorem putPort_run (n : Nat) (p : Port) (s : State) : (putPort n p s).run = s.run := rfl
@[simp] theorem putPort_ck0 (n : Nat) (p : Port) (s : State) : (putPort n p s).ck0 = s.ck0 := rfl
@[simp] theorem putPort_ck1 (n : Nat) (p : Port) (s : State) : (putPort n p s).ck1 = s.ck1 := rfl
@[simp] theorem putPort_recov (n : Nat) (p : Port) (s : State) : (putPort n p s).recov = s.recov := rfl
@[simp] theorem putPort_led (n : Nat) (p : Port) (s : State) : (putPort n p s).led = s.led := rfl
@[simp] theorem putPort_jobs (n : Nat) (p : Port) (s : State) : (putPort n p s).jobs = s.jobs := rfl
@[simp] theorem putPort_kpr (n : Nat) (p : Port) (s : State) : (putPort n p s).kpr = s.kpr := rfl
@[simp] theorem putPort_fab_pos (n : Nat) (p : Port) (s : State) : (putPort n p s).fab.pos = s.fab.pos := rfl
@[simp] theorem putPort_fab_posOk (n : Nat) (p : Port) (s : State) : (putPort n p s).fab.posOk = s.fab.posOk := rfl
@[simp] theorem putPort_fab_links (n : Nat) (p : Port) (s : State) : (putPort n p s).fab.links = s.fab.links := rfl
@[simp] theorem putPort_fab_outbox (n : Nat) (p : Port) (s : State) : (putPort n p s).fab.outbox = s.fab.outbox := rfl
@[simp] theorem putPort_fab_msgid (n : Nat) (p : Port) (s : State) : (putPort n p s).fab.msgid = s.fab.msgid := rfl
@[simp] theorem putPort_fab_ports (n : Nat) (p : Port) (s : State) : (putPort n p s).fab.ports = tput s.fab.ports n p := rfl
@[simp] theorem putPort_fab_part (n : Nat) (p : Port) (s : State) : (putPort n p s).fab.part = s.fab.part := rfl
@[simp] theorem putPort_fab_time (n : Nat) (p : Port) (s : State) : (putPort n p s).fab.time = s.fab.time := rfl
@[simp] theorem putPort_fab_go (n : Nat) (p : Port) (s : State) : (putPort n p s).fab.go = s.fab.go := rfl
@[simp] theorem putPort_fab_fork (n : Nat) (p : Port) (s : State) : (putPort n p s).fab.fork = s.fab.fork := rfl
@[simp] theorem putPort_fab_forkLinks (n : Nat) (p : Port) (s : State) : (putPort n p s).fab.forkLinks = s.fab.forkLinks := rfl
@[simp] theorem putPort_fab_bulk (n : Nat) (p : Port) (s : State) : (putPort n p s).fab.bulk = s.fab.bulk := rfl
@[simp] theorem putPort_fab_bulkDone (n : Nat) (p : Port) (s : State) : (putPort n p s).fab.bulkDone = s.fab.bulkDone := rfl
@[simp] theorem putPort_fab_leading (n : Nat) (p : Port) (s : State) : (putPort n p s).fab.leading = s.fab.leading := rfl
@[simp] theorem putPort_fab_pairLink (n : Nat) (p : Port) (s : State) : (putPort n p s).fab.pairLink = s.fab.pairLink := rfl
@[simp] theorem putPort_fab_comparing (n : Nat) (p : Port) (s : State) : (putPort n p s).fab.comparing = s.fab.comparing := rfl
@[simp] theorem putPort_fab_leadOwn (n : Nat) (p : Port) (s : State) : (putPort n p s).fab.leadOwn = s.fab.leadOwn := rfl
@[simp] theorem putPort_fab_leadTheirs (n : Nat) (p : Port) (s : State) : (putPort n p s).fab.leadTheirs = s.fab.leadTheirs := rfl
@[simp] theorem putPort_fab_leadLaunch (n : Nat) (p : Port) (s : State) : (putPort n p s).fab.leadLaunch = s.fab.leadLaunch := rfl

/-! ### putPart -/

@[simp] theorem putPart_pending (p : Part) (s : State) : (putPart p s).pending = s.pending := rfl
@[simp] theorem putPart_watch (p : Part) (s : State) : (putPart p s).watch = s.watch := rfl
@[simp] theorem putPart_free (p : Part) (s : State) : (putPart p s).free = s.free := rfl
@[simp] theorem putPart_out (p : Part) (s : State) : (putPart p s).out = s.out := rfl
@[simp] theorem putPart_life (p : Part) (s : State) : (putPart p s).life = s.life := rfl
@[simp] theorem putPart_regs (p : Part) (s : State) : (putPart p s).regs = s.regs := rfl
@[simp] theorem putPart_latched (p : Part) (s : State) : (putPart p s).latched = s.latched := rfl
@[simp] theorem putPart_staged (p : Part) (s : State) : (putPart p s).staged = s.staged := rfl
@[simp] theorem putPart_sram (p : Part) (s : State) : (putPart p s).sram = s.sram := rfl
@[simp] theorem putPart_dram (p : Part) (s : State) : (putPart p s).dram = s.dram := rfl
@[simp] theorem putPart_istore (p : Part) (s : State) : (putPart p s).istore = s.istore := rfl
@[simp] theorem putPart_sramEcc (p : Part) (s : State) : (putPart p s).sramEcc = s.sramEcc := rfl
@[simp] theorem putPart_dramEcc (p : Part) (s : State) : (putPart p s).dramEcc = s.dramEcc := rfl
@[simp] theorem putPart_istoreBad (p : Part) (s : State) : (putPart p s).istoreBad = s.istoreBad := rfl
@[simp] theorem putPart_symCount (p : Part) (s : State) : (putPart p s).symCount = s.symCount := rfl
@[simp] theorem putPart_stations (p : Part) (s : State) : (putPart p s).stations = s.stations := rfl
@[simp] theorem putPart_lanterns (p : Part) (s : State) : (putPart p s).lanterns = s.lanterns := rfl
@[simp] theorem putPart_wicks (p : Part) (s : State) : (putPart p s).wicks = s.wicks := rfl
@[simp] theorem putPart_engs (p : Part) (s : State) : (putPart p s).engs = s.engs := rfl
@[simp] theorem putPart_chipFlags (p : Part) (s : State) : (putPart p s).chipFlags = s.chipFlags := rfl
@[simp] theorem putPart_hostMask (p : Part) (s : State) : (putPart p s).hostMask = s.hostMask := rfl
@[simp] theorem putPart_sb (p : Part) (s : State) : (putPart p s).sb = s.sb := rfl
@[simp] theorem putPart_banks (p : Part) (s : State) : (putPart p s).banks = s.banks := rfl
@[simp] theorem putPart_moorings (p : Part) (s : State) : (putPart p s).moorings = s.moorings := rfl
@[simp] theorem putPart_run (p : Part) (s : State) : (putPart p s).run = s.run := rfl
@[simp] theorem putPart_ck0 (p : Part) (s : State) : (putPart p s).ck0 = s.ck0 := rfl
@[simp] theorem putPart_ck1 (p : Part) (s : State) : (putPart p s).ck1 = s.ck1 := rfl
@[simp] theorem putPart_recov (p : Part) (s : State) : (putPart p s).recov = s.recov := rfl
@[simp] theorem putPart_led (p : Part) (s : State) : (putPart p s).led = s.led := rfl
@[simp] theorem putPart_jobs (p : Part) (s : State) : (putPart p s).jobs = s.jobs := rfl
@[simp] theorem putPart_kpr (p : Part) (s : State) : (putPart p s).kpr = s.kpr := rfl
@[simp] theorem putPart_fab_pos (p : Part) (s : State) : (putPart p s).fab.pos = s.fab.pos := rfl
@[simp] theorem putPart_fab_posOk (p : Part) (s : State) : (putPart p s).fab.posOk = s.fab.posOk := rfl
@[simp] theorem putPart_fab_links (p : Part) (s : State) : (putPart p s).fab.links = s.fab.links := rfl
@[simp] theorem putPart_fab_outbox (p : Part) (s : State) : (putPart p s).fab.outbox = s.fab.outbox := rfl
@[simp] theorem putPart_fab_msgid (p : Part) (s : State) : (putPart p s).fab.msgid = s.fab.msgid := rfl
@[simp] theorem putPart_fab_ports (p : Part) (s : State) : (putPart p s).fab.ports = s.fab.ports := rfl
@[simp] theorem putPart_fab_part (p : Part) (s : State) : (putPart p s).fab.part = p := rfl
@[simp] theorem putPart_fab_time (p : Part) (s : State) : (putPart p s).fab.time = s.fab.time := rfl
@[simp] theorem putPart_fab_go (p : Part) (s : State) : (putPart p s).fab.go = s.fab.go := rfl
@[simp] theorem putPart_fab_fork (p : Part) (s : State) : (putPart p s).fab.fork = s.fab.fork := rfl
@[simp] theorem putPart_fab_forkLinks (p : Part) (s : State) : (putPart p s).fab.forkLinks = s.fab.forkLinks := rfl
@[simp] theorem putPart_fab_bulk (p : Part) (s : State) : (putPart p s).fab.bulk = s.fab.bulk := rfl
@[simp] theorem putPart_fab_bulkDone (p : Part) (s : State) : (putPart p s).fab.bulkDone = s.fab.bulkDone := rfl
@[simp] theorem putPart_fab_leading (p : Part) (s : State) : (putPart p s).fab.leading = s.fab.leading := rfl
@[simp] theorem putPart_fab_pairLink (p : Part) (s : State) : (putPart p s).fab.pairLink = s.fab.pairLink := rfl
@[simp] theorem putPart_fab_comparing (p : Part) (s : State) : (putPart p s).fab.comparing = s.fab.comparing := rfl
@[simp] theorem putPart_fab_leadOwn (p : Part) (s : State) : (putPart p s).fab.leadOwn = s.fab.leadOwn := rfl
@[simp] theorem putPart_fab_leadTheirs (p : Part) (s : State) : (putPart p s).fab.leadTheirs = s.fab.leadTheirs := rfl
@[simp] theorem putPart_fab_leadLaunch (p : Part) (s : State) : (putPart p s).fab.leadLaunch = s.fab.leadLaunch := rfl

/-! ### putTime -/

@[simp] theorem putTime_pending (t : TimeSt) (s : State) : (putTime t s).pending = s.pending := rfl
@[simp] theorem putTime_watch (t : TimeSt) (s : State) : (putTime t s).watch = s.watch := rfl
@[simp] theorem putTime_free (t : TimeSt) (s : State) : (putTime t s).free = s.free := rfl
@[simp] theorem putTime_out (t : TimeSt) (s : State) : (putTime t s).out = s.out := rfl
@[simp] theorem putTime_life (t : TimeSt) (s : State) : (putTime t s).life = s.life := rfl
@[simp] theorem putTime_regs (t : TimeSt) (s : State) : (putTime t s).regs = s.regs := rfl
@[simp] theorem putTime_latched (t : TimeSt) (s : State) : (putTime t s).latched = s.latched := rfl
@[simp] theorem putTime_staged (t : TimeSt) (s : State) : (putTime t s).staged = s.staged := rfl
@[simp] theorem putTime_sram (t : TimeSt) (s : State) : (putTime t s).sram = s.sram := rfl
@[simp] theorem putTime_dram (t : TimeSt) (s : State) : (putTime t s).dram = s.dram := rfl
@[simp] theorem putTime_istore (t : TimeSt) (s : State) : (putTime t s).istore = s.istore := rfl
@[simp] theorem putTime_sramEcc (t : TimeSt) (s : State) : (putTime t s).sramEcc = s.sramEcc := rfl
@[simp] theorem putTime_dramEcc (t : TimeSt) (s : State) : (putTime t s).dramEcc = s.dramEcc := rfl
@[simp] theorem putTime_istoreBad (t : TimeSt) (s : State) : (putTime t s).istoreBad = s.istoreBad := rfl
@[simp] theorem putTime_symCount (t : TimeSt) (s : State) : (putTime t s).symCount = s.symCount := rfl
@[simp] theorem putTime_stations (t : TimeSt) (s : State) : (putTime t s).stations = s.stations := rfl
@[simp] theorem putTime_lanterns (t : TimeSt) (s : State) : (putTime t s).lanterns = s.lanterns := rfl
@[simp] theorem putTime_wicks (t : TimeSt) (s : State) : (putTime t s).wicks = s.wicks := rfl
@[simp] theorem putTime_engs (t : TimeSt) (s : State) : (putTime t s).engs = s.engs := rfl
@[simp] theorem putTime_chipFlags (t : TimeSt) (s : State) : (putTime t s).chipFlags = s.chipFlags := rfl
@[simp] theorem putTime_hostMask (t : TimeSt) (s : State) : (putTime t s).hostMask = s.hostMask := rfl
@[simp] theorem putTime_sb (t : TimeSt) (s : State) : (putTime t s).sb = s.sb := rfl
@[simp] theorem putTime_banks (t : TimeSt) (s : State) : (putTime t s).banks = s.banks := rfl
@[simp] theorem putTime_moorings (t : TimeSt) (s : State) : (putTime t s).moorings = s.moorings := rfl
@[simp] theorem putTime_run (t : TimeSt) (s : State) : (putTime t s).run = s.run := rfl
@[simp] theorem putTime_ck0 (t : TimeSt) (s : State) : (putTime t s).ck0 = s.ck0 := rfl
@[simp] theorem putTime_ck1 (t : TimeSt) (s : State) : (putTime t s).ck1 = s.ck1 := rfl
@[simp] theorem putTime_recov (t : TimeSt) (s : State) : (putTime t s).recov = s.recov := rfl
@[simp] theorem putTime_led (t : TimeSt) (s : State) : (putTime t s).led = s.led := rfl
@[simp] theorem putTime_jobs (t : TimeSt) (s : State) : (putTime t s).jobs = s.jobs := rfl
@[simp] theorem putTime_kpr (t : TimeSt) (s : State) : (putTime t s).kpr = s.kpr := rfl
@[simp] theorem putTime_fab_pos (t : TimeSt) (s : State) : (putTime t s).fab.pos = s.fab.pos := rfl
@[simp] theorem putTime_fab_posOk (t : TimeSt) (s : State) : (putTime t s).fab.posOk = s.fab.posOk := rfl
@[simp] theorem putTime_fab_links (t : TimeSt) (s : State) : (putTime t s).fab.links = s.fab.links := rfl
@[simp] theorem putTime_fab_outbox (t : TimeSt) (s : State) : (putTime t s).fab.outbox = s.fab.outbox := rfl
@[simp] theorem putTime_fab_msgid (t : TimeSt) (s : State) : (putTime t s).fab.msgid = s.fab.msgid := rfl
@[simp] theorem putTime_fab_ports (t : TimeSt) (s : State) : (putTime t s).fab.ports = s.fab.ports := rfl
@[simp] theorem putTime_fab_part (t : TimeSt) (s : State) : (putTime t s).fab.part = s.fab.part := rfl
@[simp] theorem putTime_fab_time (t : TimeSt) (s : State) : (putTime t s).fab.time = t := rfl
@[simp] theorem putTime_fab_go (t : TimeSt) (s : State) : (putTime t s).fab.go = s.fab.go := rfl
@[simp] theorem putTime_fab_fork (t : TimeSt) (s : State) : (putTime t s).fab.fork = s.fab.fork := rfl
@[simp] theorem putTime_fab_forkLinks (t : TimeSt) (s : State) : (putTime t s).fab.forkLinks = s.fab.forkLinks := rfl
@[simp] theorem putTime_fab_bulk (t : TimeSt) (s : State) : (putTime t s).fab.bulk = s.fab.bulk := rfl
@[simp] theorem putTime_fab_bulkDone (t : TimeSt) (s : State) : (putTime t s).fab.bulkDone = s.fab.bulkDone := rfl
@[simp] theorem putTime_fab_leading (t : TimeSt) (s : State) : (putTime t s).fab.leading = s.fab.leading := rfl
@[simp] theorem putTime_fab_pairLink (t : TimeSt) (s : State) : (putTime t s).fab.pairLink = s.fab.pairLink := rfl
@[simp] theorem putTime_fab_comparing (t : TimeSt) (s : State) : (putTime t s).fab.comparing = s.fab.comparing := rfl
@[simp] theorem putTime_fab_leadOwn (t : TimeSt) (s : State) : (putTime t s).fab.leadOwn = s.fab.leadOwn := rfl
@[simp] theorem putTime_fab_leadTheirs (t : TimeSt) (s : State) : (putTime t s).fab.leadTheirs = s.fab.leadTheirs := rfl
@[simp] theorem putTime_fab_leadLaunch (t : TimeSt) (s : State) : (putTime t s).fab.leadLaunch = s.fab.leadLaunch := rfl

/-! ### putQueue -/

@[simp] theorem putQueue_pending (q : Nat) (k : Queue) (s : State) : (putQueue q k s).pending = s.pending := rfl
@[simp] theorem putQueue_watch (q : Nat) (k : Queue) (s : State) : (putQueue q k s).watch = s.watch := rfl
@[simp] theorem putQueue_free (q : Nat) (k : Queue) (s : State) : (putQueue q k s).free = s.free := rfl
@[simp] theorem putQueue_out (q : Nat) (k : Queue) (s : State) : (putQueue q k s).out = s.out := rfl
@[simp] theorem putQueue_life (q : Nat) (k : Queue) (s : State) : (putQueue q k s).life = s.life := rfl
@[simp] theorem putQueue_regs (q : Nat) (k : Queue) (s : State) : (putQueue q k s).regs = s.regs := rfl
@[simp] theorem putQueue_latched (q : Nat) (k : Queue) (s : State) : (putQueue q k s).latched = s.latched := rfl
@[simp] theorem putQueue_staged (q : Nat) (k : Queue) (s : State) : (putQueue q k s).staged = s.staged := rfl
@[simp] theorem putQueue_sram (q : Nat) (k : Queue) (s : State) : (putQueue q k s).sram = s.sram := rfl
@[simp] theorem putQueue_dram (q : Nat) (k : Queue) (s : State) : (putQueue q k s).dram = s.dram := rfl
@[simp] theorem putQueue_istore (q : Nat) (k : Queue) (s : State) : (putQueue q k s).istore = s.istore := rfl
@[simp] theorem putQueue_sramEcc (q : Nat) (k : Queue) (s : State) : (putQueue q k s).sramEcc = s.sramEcc := rfl
@[simp] theorem putQueue_dramEcc (q : Nat) (k : Queue) (s : State) : (putQueue q k s).dramEcc = s.dramEcc := rfl
@[simp] theorem putQueue_istoreBad (q : Nat) (k : Queue) (s : State) : (putQueue q k s).istoreBad = s.istoreBad := rfl
@[simp] theorem putQueue_symCount (q : Nat) (k : Queue) (s : State) : (putQueue q k s).symCount = s.symCount := rfl
@[simp] theorem putQueue_stations (q : Nat) (k : Queue) (s : State) : (putQueue q k s).stations = s.stations := rfl
@[simp] theorem putQueue_lanterns (q : Nat) (k : Queue) (s : State) : (putQueue q k s).lanterns = s.lanterns := rfl
@[simp] theorem putQueue_wicks (q : Nat) (k : Queue) (s : State) : (putQueue q k s).wicks = s.wicks := rfl
@[simp] theorem putQueue_engs (q : Nat) (k : Queue) (s : State) : (putQueue q k s).engs = s.engs := rfl
@[simp] theorem putQueue_chipFlags (q : Nat) (k : Queue) (s : State) : (putQueue q k s).chipFlags = s.chipFlags := rfl
@[simp] theorem putQueue_hostMask (q : Nat) (k : Queue) (s : State) : (putQueue q k s).hostMask = s.hostMask := rfl
@[simp] theorem putQueue_sb (q : Nat) (k : Queue) (s : State) : (putQueue q k s).sb = s.sb := rfl
@[simp] theorem putQueue_banks (q : Nat) (k : Queue) (s : State) : (putQueue q k s).banks = s.banks := rfl
@[simp] theorem putQueue_moorings (q : Nat) (k : Queue) (s : State) : (putQueue q k s).moorings = s.moorings := rfl
@[simp] theorem putQueue_run (q : Nat) (k : Queue) (s : State) : (putQueue q k s).run = s.run := rfl
@[simp] theorem putQueue_ck0 (q : Nat) (k : Queue) (s : State) : (putQueue q k s).ck0 = s.ck0 := rfl
@[simp] theorem putQueue_ck1 (q : Nat) (k : Queue) (s : State) : (putQueue q k s).ck1 = s.ck1 := rfl
@[simp] theorem putQueue_recov (q : Nat) (k : Queue) (s : State) : (putQueue q k s).recov = s.recov := rfl
@[simp] theorem putQueue_fab (q : Nat) (k : Queue) (s : State) : (putQueue q k s).fab = s.fab := rfl
@[simp] theorem putQueue_led (q : Nat) (k : Queue) (s : State) : (putQueue q k s).led = s.led := rfl
@[simp] theorem putQueue_kpr (q : Nat) (k : Queue) (s : State) : (putQueue q k s).kpr = s.kpr := rfl
@[simp] theorem putQueue_jobs_queues (q : Nat) (k : Queue) (s : State) : (putQueue q k s).jobs.queues = tput s.jobs.queues q k := rfl
@[simp] theorem putQueue_jobs_waiting (q : Nat) (k : Queue) (s : State) : (putQueue q k s).jobs.waiting = s.jobs.waiting := rfl
@[simp] theorem putQueue_jobs_lastQ (q : Nat) (k : Queue) (s : State) : (putQueue q k s).jobs.lastQ = s.jobs.lastQ := rfl
@[simp] theorem putQueue_jobs_active (q : Nat) (k : Queue) (s : State) : (putQueue q k s).jobs.active = s.jobs.active := rfl
@[simp] theorem putQueue_jobs_ended (q : Nat) (k : Queue) (s : State) : (putQueue q k s).jobs.ended = s.jobs.ended := rfl
@[simp] theorem putQueue_jobs_deferred (q : Nat) (k : Queue) (s : State) : (putQueue q k s).jobs.deferred = s.jobs.deferred := rfl
@[simp] theorem putQueue_jobs_endCmds (q : Nat) (k : Queue) (s : State) : (putQueue q k s).jobs.endCmds = s.jobs.endCmds := rfl
@[simp] theorem putQueue_jobs_halted (q : Nat) (k : Queue) (s : State) : (putQueue q k s).jobs.halted = s.jobs.halted := rfl
@[simp] theorem putQueue_jobs_bankCmd (q : Nat) (k : Queue) (s : State) : (putQueue q k s).jobs.bankCmd = s.jobs.bankCmd := rfl
@[simp] theorem putQueue_jobs_moorCmd (q : Nat) (k : Queue) (s : State) : (putQueue q k s).jobs.moorCmd = s.jobs.moorCmd := rfl
@[simp] theorem putQueue_jobs_formCmd (q : Nat) (k : Queue) (s : State) : (putQueue q k s).jobs.formCmd = s.jobs.formCmd := rfl

/-! ### putActive -/

@[simp] theorem putActive_pending (a : Option Active) (s : State) : (putActive a s).pending = s.pending := rfl
@[simp] theorem putActive_watch (a : Option Active) (s : State) : (putActive a s).watch = s.watch := rfl
@[simp] theorem putActive_free (a : Option Active) (s : State) : (putActive a s).free = s.free := rfl
@[simp] theorem putActive_out (a : Option Active) (s : State) : (putActive a s).out = s.out := rfl
@[simp] theorem putActive_life (a : Option Active) (s : State) : (putActive a s).life = s.life := rfl
@[simp] theorem putActive_regs (a : Option Active) (s : State) : (putActive a s).regs = s.regs := rfl
@[simp] theorem putActive_latched (a : Option Active) (s : State) : (putActive a s).latched = s.latched := rfl
@[simp] theorem putActive_staged (a : Option Active) (s : State) : (putActive a s).staged = s.staged := rfl
@[simp] theorem putActive_sram (a : Option Active) (s : State) : (putActive a s).sram = s.sram := rfl
@[simp] theorem putActive_dram (a : Option Active) (s : State) : (putActive a s).dram = s.dram := rfl
@[simp] theorem putActive_istore (a : Option Active) (s : State) : (putActive a s).istore = s.istore := rfl
@[simp] theorem putActive_sramEcc (a : Option Active) (s : State) : (putActive a s).sramEcc = s.sramEcc := rfl
@[simp] theorem putActive_dramEcc (a : Option Active) (s : State) : (putActive a s).dramEcc = s.dramEcc := rfl
@[simp] theorem putActive_istoreBad (a : Option Active) (s : State) : (putActive a s).istoreBad = s.istoreBad := rfl
@[simp] theorem putActive_symCount (a : Option Active) (s : State) : (putActive a s).symCount = s.symCount := rfl
@[simp] theorem putActive_stations (a : Option Active) (s : State) : (putActive a s).stations = s.stations := rfl
@[simp] theorem putActive_lanterns (a : Option Active) (s : State) : (putActive a s).lanterns = s.lanterns := rfl
@[simp] theorem putActive_wicks (a : Option Active) (s : State) : (putActive a s).wicks = s.wicks := rfl
@[simp] theorem putActive_engs (a : Option Active) (s : State) : (putActive a s).engs = s.engs := rfl
@[simp] theorem putActive_chipFlags (a : Option Active) (s : State) : (putActive a s).chipFlags = s.chipFlags := rfl
@[simp] theorem putActive_hostMask (a : Option Active) (s : State) : (putActive a s).hostMask = s.hostMask := rfl
@[simp] theorem putActive_sb (a : Option Active) (s : State) : (putActive a s).sb = s.sb := rfl
@[simp] theorem putActive_banks (a : Option Active) (s : State) : (putActive a s).banks = s.banks := rfl
@[simp] theorem putActive_moorings (a : Option Active) (s : State) : (putActive a s).moorings = s.moorings := rfl
@[simp] theorem putActive_run (a : Option Active) (s : State) : (putActive a s).run = s.run := rfl
@[simp] theorem putActive_ck0 (a : Option Active) (s : State) : (putActive a s).ck0 = s.ck0 := rfl
@[simp] theorem putActive_ck1 (a : Option Active) (s : State) : (putActive a s).ck1 = s.ck1 := rfl
@[simp] theorem putActive_recov (a : Option Active) (s : State) : (putActive a s).recov = s.recov := rfl
@[simp] theorem putActive_fab (a : Option Active) (s : State) : (putActive a s).fab = s.fab := rfl
@[simp] theorem putActive_led (a : Option Active) (s : State) : (putActive a s).led = s.led := rfl
@[simp] theorem putActive_kpr (a : Option Active) (s : State) : (putActive a s).kpr = s.kpr := rfl
@[simp] theorem putActive_jobs_queues (a : Option Active) (s : State) : (putActive a s).jobs.queues = s.jobs.queues := rfl
@[simp] theorem putActive_jobs_waiting (a : Option Active) (s : State) : (putActive a s).jobs.waiting = s.jobs.waiting := rfl
@[simp] theorem putActive_jobs_lastQ (a : Option Active) (s : State) : (putActive a s).jobs.lastQ = s.jobs.lastQ := rfl
@[simp] theorem putActive_jobs_active (a : Option Active) (s : State) : (putActive a s).jobs.active = a := rfl
@[simp] theorem putActive_jobs_ended (a : Option Active) (s : State) : (putActive a s).jobs.ended = s.jobs.ended := rfl
@[simp] theorem putActive_jobs_deferred (a : Option Active) (s : State) : (putActive a s).jobs.deferred = s.jobs.deferred := rfl
@[simp] theorem putActive_jobs_endCmds (a : Option Active) (s : State) : (putActive a s).jobs.endCmds = s.jobs.endCmds := rfl
@[simp] theorem putActive_jobs_halted (a : Option Active) (s : State) : (putActive a s).jobs.halted = s.jobs.halted := rfl
@[simp] theorem putActive_jobs_bankCmd (a : Option Active) (s : State) : (putActive a s).jobs.bankCmd = s.jobs.bankCmd := rfl
@[simp] theorem putActive_jobs_moorCmd (a : Option Active) (s : State) : (putActive a s).jobs.moorCmd = s.jobs.moorCmd := rfl
@[simp] theorem putActive_jobs_formCmd (a : Option Active) (s : State) : (putActive a s).jobs.formCmd = s.jobs.formCmd := rfl

/-! ### putEnded -/

@[simp] theorem putEnded_pending (es : List Ended) (s : State) : (putEnded es s).pending = s.pending := rfl
@[simp] theorem putEnded_watch (es : List Ended) (s : State) : (putEnded es s).watch = s.watch := rfl
@[simp] theorem putEnded_free (es : List Ended) (s : State) : (putEnded es s).free = s.free := rfl
@[simp] theorem putEnded_out (es : List Ended) (s : State) : (putEnded es s).out = s.out := rfl
@[simp] theorem putEnded_life (es : List Ended) (s : State) : (putEnded es s).life = s.life := rfl
@[simp] theorem putEnded_regs (es : List Ended) (s : State) : (putEnded es s).regs = s.regs := rfl
@[simp] theorem putEnded_latched (es : List Ended) (s : State) : (putEnded es s).latched = s.latched := rfl
@[simp] theorem putEnded_staged (es : List Ended) (s : State) : (putEnded es s).staged = s.staged := rfl
@[simp] theorem putEnded_sram (es : List Ended) (s : State) : (putEnded es s).sram = s.sram := rfl
@[simp] theorem putEnded_dram (es : List Ended) (s : State) : (putEnded es s).dram = s.dram := rfl
@[simp] theorem putEnded_istore (es : List Ended) (s : State) : (putEnded es s).istore = s.istore := rfl
@[simp] theorem putEnded_sramEcc (es : List Ended) (s : State) : (putEnded es s).sramEcc = s.sramEcc := rfl
@[simp] theorem putEnded_dramEcc (es : List Ended) (s : State) : (putEnded es s).dramEcc = s.dramEcc := rfl
@[simp] theorem putEnded_istoreBad (es : List Ended) (s : State) : (putEnded es s).istoreBad = s.istoreBad := rfl
@[simp] theorem putEnded_symCount (es : List Ended) (s : State) : (putEnded es s).symCount = s.symCount := rfl
@[simp] theorem putEnded_stations (es : List Ended) (s : State) : (putEnded es s).stations = s.stations := rfl
@[simp] theorem putEnded_lanterns (es : List Ended) (s : State) : (putEnded es s).lanterns = s.lanterns := rfl
@[simp] theorem putEnded_wicks (es : List Ended) (s : State) : (putEnded es s).wicks = s.wicks := rfl
@[simp] theorem putEnded_engs (es : List Ended) (s : State) : (putEnded es s).engs = s.engs := rfl
@[simp] theorem putEnded_chipFlags (es : List Ended) (s : State) : (putEnded es s).chipFlags = s.chipFlags := rfl
@[simp] theorem putEnded_hostMask (es : List Ended) (s : State) : (putEnded es s).hostMask = s.hostMask := rfl
@[simp] theorem putEnded_sb (es : List Ended) (s : State) : (putEnded es s).sb = s.sb := rfl
@[simp] theorem putEnded_banks (es : List Ended) (s : State) : (putEnded es s).banks = s.banks := rfl
@[simp] theorem putEnded_moorings (es : List Ended) (s : State) : (putEnded es s).moorings = s.moorings := rfl
@[simp] theorem putEnded_run (es : List Ended) (s : State) : (putEnded es s).run = s.run := rfl
@[simp] theorem putEnded_ck0 (es : List Ended) (s : State) : (putEnded es s).ck0 = s.ck0 := rfl
@[simp] theorem putEnded_ck1 (es : List Ended) (s : State) : (putEnded es s).ck1 = s.ck1 := rfl
@[simp] theorem putEnded_recov (es : List Ended) (s : State) : (putEnded es s).recov = s.recov := rfl
@[simp] theorem putEnded_fab (es : List Ended) (s : State) : (putEnded es s).fab = s.fab := rfl
@[simp] theorem putEnded_led (es : List Ended) (s : State) : (putEnded es s).led = s.led := rfl
@[simp] theorem putEnded_kpr (es : List Ended) (s : State) : (putEnded es s).kpr = s.kpr := rfl
@[simp] theorem putEnded_jobs_queues (es : List Ended) (s : State) : (putEnded es s).jobs.queues = s.jobs.queues := rfl
@[simp] theorem putEnded_jobs_waiting (es : List Ended) (s : State) : (putEnded es s).jobs.waiting = s.jobs.waiting := rfl
@[simp] theorem putEnded_jobs_lastQ (es : List Ended) (s : State) : (putEnded es s).jobs.lastQ = s.jobs.lastQ := rfl
@[simp] theorem putEnded_jobs_active (es : List Ended) (s : State) : (putEnded es s).jobs.active = s.jobs.active := rfl
@[simp] theorem putEnded_jobs_ended (es : List Ended) (s : State) : (putEnded es s).jobs.ended = es := rfl
@[simp] theorem putEnded_jobs_deferred (es : List Ended) (s : State) : (putEnded es s).jobs.deferred = s.jobs.deferred := rfl
@[simp] theorem putEnded_jobs_endCmds (es : List Ended) (s : State) : (putEnded es s).jobs.endCmds = s.jobs.endCmds := rfl
@[simp] theorem putEnded_jobs_halted (es : List Ended) (s : State) : (putEnded es s).jobs.halted = s.jobs.halted := rfl
@[simp] theorem putEnded_jobs_bankCmd (es : List Ended) (s : State) : (putEnded es s).jobs.bankCmd = s.jobs.bankCmd := rfl
@[simp] theorem putEnded_jobs_moorCmd (es : List Ended) (s : State) : (putEnded es s).jobs.moorCmd = s.jobs.moorCmd := rfl
@[simp] theorem putEnded_jobs_formCmd (es : List Ended) (s : State) : (putEnded es s).jobs.formCmd = s.jobs.formCmd := rfl

/-! ### putBoot -/

@[simp] theorem putBoot_pending (b : Boot) (s : State) : (putBoot b s).pending = s.pending := rfl
@[simp] theorem putBoot_watch (b : Boot) (s : State) : (putBoot b s).watch = s.watch := rfl
@[simp] theorem putBoot_free (b : Boot) (s : State) : (putBoot b s).free = s.free := rfl
@[simp] theorem putBoot_out (b : Boot) (s : State) : (putBoot b s).out = s.out := rfl
@[simp] theorem putBoot_life (b : Boot) (s : State) : (putBoot b s).life = s.life := rfl
@[simp] theorem putBoot_regs (b : Boot) (s : State) : (putBoot b s).regs = s.regs := rfl
@[simp] theorem putBoot_latched (b : Boot) (s : State) : (putBoot b s).latched = s.latched := rfl
@[simp] theorem putBoot_staged (b : Boot) (s : State) : (putBoot b s).staged = s.staged := rfl
@[simp] theorem putBoot_sram (b : Boot) (s : State) : (putBoot b s).sram = s.sram := rfl
@[simp] theorem putBoot_dram (b : Boot) (s : State) : (putBoot b s).dram = s.dram := rfl
@[simp] theorem putBoot_istore (b : Boot) (s : State) : (putBoot b s).istore = s.istore := rfl
@[simp] theorem putBoot_sramEcc (b : Boot) (s : State) : (putBoot b s).sramEcc = s.sramEcc := rfl
@[simp] theorem putBoot_dramEcc (b : Boot) (s : State) : (putBoot b s).dramEcc = s.dramEcc := rfl
@[simp] theorem putBoot_istoreBad (b : Boot) (s : State) : (putBoot b s).istoreBad = s.istoreBad := rfl
@[simp] theorem putBoot_symCount (b : Boot) (s : State) : (putBoot b s).symCount = s.symCount := rfl
@[simp] theorem putBoot_stations (b : Boot) (s : State) : (putBoot b s).stations = s.stations := rfl
@[simp] theorem putBoot_lanterns (b : Boot) (s : State) : (putBoot b s).lanterns = s.lanterns := rfl
@[simp] theorem putBoot_wicks (b : Boot) (s : State) : (putBoot b s).wicks = s.wicks := rfl
@[simp] theorem putBoot_engs (b : Boot) (s : State) : (putBoot b s).engs = s.engs := rfl
@[simp] theorem putBoot_chipFlags (b : Boot) (s : State) : (putBoot b s).chipFlags = s.chipFlags := rfl
@[simp] theorem putBoot_hostMask (b : Boot) (s : State) : (putBoot b s).hostMask = s.hostMask := rfl
@[simp] theorem putBoot_sb (b : Boot) (s : State) : (putBoot b s).sb = s.sb := rfl
@[simp] theorem putBoot_banks (b : Boot) (s : State) : (putBoot b s).banks = s.banks := rfl
@[simp] theorem putBoot_moorings (b : Boot) (s : State) : (putBoot b s).moorings = s.moorings := rfl
@[simp] theorem putBoot_run (b : Boot) (s : State) : (putBoot b s).run = s.run := rfl
@[simp] theorem putBoot_ck0 (b : Boot) (s : State) : (putBoot b s).ck0 = s.ck0 := rfl
@[simp] theorem putBoot_ck1 (b : Boot) (s : State) : (putBoot b s).ck1 = s.ck1 := rfl
@[simp] theorem putBoot_recov (b : Boot) (s : State) : (putBoot b s).recov = s.recov := rfl
@[simp] theorem putBoot_fab (b : Boot) (s : State) : (putBoot b s).fab = s.fab := rfl
@[simp] theorem putBoot_led (b : Boot) (s : State) : (putBoot b s).led = s.led := rfl
@[simp] theorem putBoot_jobs (b : Boot) (s : State) : (putBoot b s).jobs = s.jobs := rfl
@[simp] theorem putBoot_kpr_fuses (b : Boot) (s : State) : (putBoot b s).kpr.fuses = s.kpr.fuses := rfl
@[simp] theorem putBoot_kpr_flash (b : Boot) (s : State) : (putBoot b s).kpr.flash = s.kpr.flash := rfl
@[simp] theorem putBoot_kpr_boot (b : Boot) (s : State) : (putBoot b s).kpr.boot = b := rfl
@[simp] theorem putBoot_kpr_sec (b : Boot) (s : State) : (putBoot b s).kpr.sec = s.kpr.sec := rfl
@[simp] theorem putBoot_kpr_upd (b : Boot) (s : State) : (putBoot b s).kpr.upd = s.kpr.upd := rfl
@[simp] theorem putBoot_kpr_pwr (b : Boot) (s : State) : (putBoot b s).kpr.pwr = s.kpr.pwr := rfl
@[simp] theorem putBoot_kpr_clk (b : Boot) (s : State) : (putBoot b s).kpr.clk = s.kpr.clk := rfl
@[simp] theorem putBoot_kpr_dram (b : Boot) (s : State) : (putBoot b s).kpr.dram = s.kpr.dram := rfl
@[simp] theorem putBoot_kpr_pins (b : Boot) (s : State) : (putBoot b s).kpr.pins = s.kpr.pins := rfl
@[simp] theorem putBoot_kpr_pauseUntil (b : Boot) (s : State) : (putBoot b s).kpr.pauseUntil = s.kpr.pauseUntil := rfl
@[simp] theorem putBoot_kpr_forwarded (b : Boot) (s : State) : (putBoot b s).kpr.forwarded = s.kpr.forwarded := rfl
@[simp] theorem putBoot_kpr_stepping (b : Boot) (s : State) : (putBoot b s).kpr.stepping = s.kpr.stepping := rfl

/-! ### putUpd -/

@[simp] theorem putUpd_pending (u : Upd) (s : State) : (putUpd u s).pending = s.pending := rfl
@[simp] theorem putUpd_watch (u : Upd) (s : State) : (putUpd u s).watch = s.watch := rfl
@[simp] theorem putUpd_free (u : Upd) (s : State) : (putUpd u s).free = s.free := rfl
@[simp] theorem putUpd_out (u : Upd) (s : State) : (putUpd u s).out = s.out := rfl
@[simp] theorem putUpd_life (u : Upd) (s : State) : (putUpd u s).life = s.life := rfl
@[simp] theorem putUpd_regs (u : Upd) (s : State) : (putUpd u s).regs = s.regs := rfl
@[simp] theorem putUpd_latched (u : Upd) (s : State) : (putUpd u s).latched = s.latched := rfl
@[simp] theorem putUpd_staged (u : Upd) (s : State) : (putUpd u s).staged = s.staged := rfl
@[simp] theorem putUpd_sram (u : Upd) (s : State) : (putUpd u s).sram = s.sram := rfl
@[simp] theorem putUpd_dram (u : Upd) (s : State) : (putUpd u s).dram = s.dram := rfl
@[simp] theorem putUpd_istore (u : Upd) (s : State) : (putUpd u s).istore = s.istore := rfl
@[simp] theorem putUpd_sramEcc (u : Upd) (s : State) : (putUpd u s).sramEcc = s.sramEcc := rfl
@[simp] theorem putUpd_dramEcc (u : Upd) (s : State) : (putUpd u s).dramEcc = s.dramEcc := rfl
@[simp] theorem putUpd_istoreBad (u : Upd) (s : State) : (putUpd u s).istoreBad = s.istoreBad := rfl
@[simp] theorem putUpd_symCount (u : Upd) (s : State) : (putUpd u s).symCount = s.symCount := rfl
@[simp] theorem putUpd_stations (u : Upd) (s : State) : (putUpd u s).stations = s.stations := rfl
@[simp] theorem putUpd_lanterns (u : Upd) (s : State) : (putUpd u s).lanterns = s.lanterns := rfl
@[simp] theorem putUpd_wicks (u : Upd) (s : State) : (putUpd u s).wicks = s.wicks := rfl
@[simp] theorem putUpd_engs (u : Upd) (s : State) : (putUpd u s).engs = s.engs := rfl
@[simp] theorem putUpd_chipFlags (u : Upd) (s : State) : (putUpd u s).chipFlags = s.chipFlags := rfl
@[simp] theorem putUpd_hostMask (u : Upd) (s : State) : (putUpd u s).hostMask = s.hostMask := rfl
@[simp] theorem putUpd_sb (u : Upd) (s : State) : (putUpd u s).sb = s.sb := rfl
@[simp] theorem putUpd_banks (u : Upd) (s : State) : (putUpd u s).banks = s.banks := rfl
@[simp] theorem putUpd_moorings (u : Upd) (s : State) : (putUpd u s).moorings = s.moorings := rfl
@[simp] theorem putUpd_run (u : Upd) (s : State) : (putUpd u s).run = s.run := rfl
@[simp] theorem putUpd_ck0 (u : Upd) (s : State) : (putUpd u s).ck0 = s.ck0 := rfl
@[simp] theorem putUpd_ck1 (u : Upd) (s : State) : (putUpd u s).ck1 = s.ck1 := rfl
@[simp] theorem putUpd_recov (u : Upd) (s : State) : (putUpd u s).recov = s.recov := rfl
@[simp] theorem putUpd_fab (u : Upd) (s : State) : (putUpd u s).fab = s.fab := rfl
@[simp] theorem putUpd_led (u : Upd) (s : State) : (putUpd u s).led = s.led := rfl
@[simp] theorem putUpd_jobs (u : Upd) (s : State) : (putUpd u s).jobs = s.jobs := rfl
@[simp] theorem putUpd_kpr_fuses (u : Upd) (s : State) : (putUpd u s).kpr.fuses = s.kpr.fuses := rfl
@[simp] theorem putUpd_kpr_flash (u : Upd) (s : State) : (putUpd u s).kpr.flash = s.kpr.flash := rfl
@[simp] theorem putUpd_kpr_boot (u : Upd) (s : State) : (putUpd u s).kpr.boot = s.kpr.boot := rfl
@[simp] theorem putUpd_kpr_sec (u : Upd) (s : State) : (putUpd u s).kpr.sec = s.kpr.sec := rfl
@[simp] theorem putUpd_kpr_upd (u : Upd) (s : State) : (putUpd u s).kpr.upd = u := rfl
@[simp] theorem putUpd_kpr_pwr (u : Upd) (s : State) : (putUpd u s).kpr.pwr = s.kpr.pwr := rfl
@[simp] theorem putUpd_kpr_clk (u : Upd) (s : State) : (putUpd u s).kpr.clk = s.kpr.clk := rfl
@[simp] theorem putUpd_kpr_dram (u : Upd) (s : State) : (putUpd u s).kpr.dram = s.kpr.dram := rfl
@[simp] theorem putUpd_kpr_pins (u : Upd) (s : State) : (putUpd u s).kpr.pins = s.kpr.pins := rfl
@[simp] theorem putUpd_kpr_pauseUntil (u : Upd) (s : State) : (putUpd u s).kpr.pauseUntil = s.kpr.pauseUntil := rfl
@[simp] theorem putUpd_kpr_forwarded (u : Upd) (s : State) : (putUpd u s).kpr.forwarded = s.kpr.forwarded := rfl
@[simp] theorem putUpd_kpr_stepping (u : Upd) (s : State) : (putUpd u s).kpr.stepping = s.kpr.stepping := rfl

/-! ### putFlash -/

@[simp] theorem putFlash_pending (f : Flash) (s : State) : (putFlash f s).pending = s.pending := rfl
@[simp] theorem putFlash_watch (f : Flash) (s : State) : (putFlash f s).watch = s.watch := rfl
@[simp] theorem putFlash_free (f : Flash) (s : State) : (putFlash f s).free = s.free := rfl
@[simp] theorem putFlash_out (f : Flash) (s : State) : (putFlash f s).out = s.out := rfl
@[simp] theorem putFlash_life (f : Flash) (s : State) : (putFlash f s).life = s.life := rfl
@[simp] theorem putFlash_regs (f : Flash) (s : State) : (putFlash f s).regs = s.regs := rfl
@[simp] theorem putFlash_latched (f : Flash) (s : State) : (putFlash f s).latched = s.latched := rfl
@[simp] theorem putFlash_staged (f : Flash) (s : State) : (putFlash f s).staged = s.staged := rfl
@[simp] theorem putFlash_sram (f : Flash) (s : State) : (putFlash f s).sram = s.sram := rfl
@[simp] theorem putFlash_dram (f : Flash) (s : State) : (putFlash f s).dram = s.dram := rfl
@[simp] theorem putFlash_istore (f : Flash) (s : State) : (putFlash f s).istore = s.istore := rfl
@[simp] theorem putFlash_sramEcc (f : Flash) (s : State) : (putFlash f s).sramEcc = s.sramEcc := rfl
@[simp] theorem putFlash_dramEcc (f : Flash) (s : State) : (putFlash f s).dramEcc = s.dramEcc := rfl
@[simp] theorem putFlash_istoreBad (f : Flash) (s : State) : (putFlash f s).istoreBad = s.istoreBad := rfl
@[simp] theorem putFlash_symCount (f : Flash) (s : State) : (putFlash f s).symCount = s.symCount := rfl
@[simp] theorem putFlash_stations (f : Flash) (s : State) : (putFlash f s).stations = s.stations := rfl
@[simp] theorem putFlash_lanterns (f : Flash) (s : State) : (putFlash f s).lanterns = s.lanterns := rfl
@[simp] theorem putFlash_wicks (f : Flash) (s : State) : (putFlash f s).wicks = s.wicks := rfl
@[simp] theorem putFlash_engs (f : Flash) (s : State) : (putFlash f s).engs = s.engs := rfl
@[simp] theorem putFlash_chipFlags (f : Flash) (s : State) : (putFlash f s).chipFlags = s.chipFlags := rfl
@[simp] theorem putFlash_hostMask (f : Flash) (s : State) : (putFlash f s).hostMask = s.hostMask := rfl
@[simp] theorem putFlash_sb (f : Flash) (s : State) : (putFlash f s).sb = s.sb := rfl
@[simp] theorem putFlash_banks (f : Flash) (s : State) : (putFlash f s).banks = s.banks := rfl
@[simp] theorem putFlash_moorings (f : Flash) (s : State) : (putFlash f s).moorings = s.moorings := rfl
@[simp] theorem putFlash_run (f : Flash) (s : State) : (putFlash f s).run = s.run := rfl
@[simp] theorem putFlash_ck0 (f : Flash) (s : State) : (putFlash f s).ck0 = s.ck0 := rfl
@[simp] theorem putFlash_ck1 (f : Flash) (s : State) : (putFlash f s).ck1 = s.ck1 := rfl
@[simp] theorem putFlash_recov (f : Flash) (s : State) : (putFlash f s).recov = s.recov := rfl
@[simp] theorem putFlash_fab (f : Flash) (s : State) : (putFlash f s).fab = s.fab := rfl
@[simp] theorem putFlash_led (f : Flash) (s : State) : (putFlash f s).led = s.led := rfl
@[simp] theorem putFlash_jobs (f : Flash) (s : State) : (putFlash f s).jobs = s.jobs := rfl
@[simp] theorem putFlash_kpr_fuses (f : Flash) (s : State) : (putFlash f s).kpr.fuses = s.kpr.fuses := rfl
@[simp] theorem putFlash_kpr_flash (f : Flash) (s : State) : (putFlash f s).kpr.flash = f := rfl
@[simp] theorem putFlash_kpr_boot (f : Flash) (s : State) : (putFlash f s).kpr.boot = s.kpr.boot := rfl
@[simp] theorem putFlash_kpr_sec (f : Flash) (s : State) : (putFlash f s).kpr.sec = s.kpr.sec := rfl
@[simp] theorem putFlash_kpr_upd (f : Flash) (s : State) : (putFlash f s).kpr.upd = s.kpr.upd := rfl
@[simp] theorem putFlash_kpr_pwr (f : Flash) (s : State) : (putFlash f s).kpr.pwr = s.kpr.pwr := rfl
@[simp] theorem putFlash_kpr_clk (f : Flash) (s : State) : (putFlash f s).kpr.clk = s.kpr.clk := rfl
@[simp] theorem putFlash_kpr_dram (f : Flash) (s : State) : (putFlash f s).kpr.dram = s.kpr.dram := rfl
@[simp] theorem putFlash_kpr_pins (f : Flash) (s : State) : (putFlash f s).kpr.pins = s.kpr.pins := rfl
@[simp] theorem putFlash_kpr_pauseUntil (f : Flash) (s : State) : (putFlash f s).kpr.pauseUntil = s.kpr.pauseUntil := rfl
@[simp] theorem putFlash_kpr_forwarded (f : Flash) (s : State) : (putFlash f s).kpr.forwarded = s.kpr.forwarded := rfl
@[simp] theorem putFlash_kpr_stepping (f : Flash) (s : State) : (putFlash f s).kpr.stepping = s.kpr.stepping := rfl

/-! ### putFuses -/

@[simp] theorem putFuses_pending (f : Fuses) (s : State) : (putFuses f s).pending = s.pending := rfl
@[simp] theorem putFuses_watch (f : Fuses) (s : State) : (putFuses f s).watch = s.watch := rfl
@[simp] theorem putFuses_free (f : Fuses) (s : State) : (putFuses f s).free = s.free := rfl
@[simp] theorem putFuses_out (f : Fuses) (s : State) : (putFuses f s).out = s.out := rfl
@[simp] theorem putFuses_life (f : Fuses) (s : State) : (putFuses f s).life = s.life := rfl
@[simp] theorem putFuses_regs (f : Fuses) (s : State) : (putFuses f s).regs = s.regs := rfl
@[simp] theorem putFuses_latched (f : Fuses) (s : State) : (putFuses f s).latched = s.latched := rfl
@[simp] theorem putFuses_staged (f : Fuses) (s : State) : (putFuses f s).staged = s.staged := rfl
@[simp] theorem putFuses_sram (f : Fuses) (s : State) : (putFuses f s).sram = s.sram := rfl
@[simp] theorem putFuses_dram (f : Fuses) (s : State) : (putFuses f s).dram = s.dram := rfl
@[simp] theorem putFuses_istore (f : Fuses) (s : State) : (putFuses f s).istore = s.istore := rfl
@[simp] theorem putFuses_sramEcc (f : Fuses) (s : State) : (putFuses f s).sramEcc = s.sramEcc := rfl
@[simp] theorem putFuses_dramEcc (f : Fuses) (s : State) : (putFuses f s).dramEcc = s.dramEcc := rfl
@[simp] theorem putFuses_istoreBad (f : Fuses) (s : State) : (putFuses f s).istoreBad = s.istoreBad := rfl
@[simp] theorem putFuses_symCount (f : Fuses) (s : State) : (putFuses f s).symCount = s.symCount := rfl
@[simp] theorem putFuses_stations (f : Fuses) (s : State) : (putFuses f s).stations = s.stations := rfl
@[simp] theorem putFuses_lanterns (f : Fuses) (s : State) : (putFuses f s).lanterns = s.lanterns := rfl
@[simp] theorem putFuses_wicks (f : Fuses) (s : State) : (putFuses f s).wicks = s.wicks := rfl
@[simp] theorem putFuses_engs (f : Fuses) (s : State) : (putFuses f s).engs = s.engs := rfl
@[simp] theorem putFuses_chipFlags (f : Fuses) (s : State) : (putFuses f s).chipFlags = s.chipFlags := rfl
@[simp] theorem putFuses_hostMask (f : Fuses) (s : State) : (putFuses f s).hostMask = s.hostMask := rfl
@[simp] theorem putFuses_sb (f : Fuses) (s : State) : (putFuses f s).sb = s.sb := rfl
@[simp] theorem putFuses_banks (f : Fuses) (s : State) : (putFuses f s).banks = s.banks := rfl
@[simp] theorem putFuses_moorings (f : Fuses) (s : State) : (putFuses f s).moorings = s.moorings := rfl
@[simp] theorem putFuses_run (f : Fuses) (s : State) : (putFuses f s).run = s.run := rfl
@[simp] theorem putFuses_ck0 (f : Fuses) (s : State) : (putFuses f s).ck0 = s.ck0 := rfl
@[simp] theorem putFuses_ck1 (f : Fuses) (s : State) : (putFuses f s).ck1 = s.ck1 := rfl
@[simp] theorem putFuses_recov (f : Fuses) (s : State) : (putFuses f s).recov = s.recov := rfl
@[simp] theorem putFuses_fab (f : Fuses) (s : State) : (putFuses f s).fab = s.fab := rfl
@[simp] theorem putFuses_led (f : Fuses) (s : State) : (putFuses f s).led = s.led := rfl
@[simp] theorem putFuses_jobs (f : Fuses) (s : State) : (putFuses f s).jobs = s.jobs := rfl
@[simp] theorem putFuses_kpr_fuses (f : Fuses) (s : State) : (putFuses f s).kpr.fuses = f := rfl
@[simp] theorem putFuses_kpr_flash (f : Fuses) (s : State) : (putFuses f s).kpr.flash = s.kpr.flash := rfl
@[simp] theorem putFuses_kpr_boot (f : Fuses) (s : State) : (putFuses f s).kpr.boot = s.kpr.boot := rfl
@[simp] theorem putFuses_kpr_sec (f : Fuses) (s : State) : (putFuses f s).kpr.sec = s.kpr.sec := rfl
@[simp] theorem putFuses_kpr_upd (f : Fuses) (s : State) : (putFuses f s).kpr.upd = s.kpr.upd := rfl
@[simp] theorem putFuses_kpr_pwr (f : Fuses) (s : State) : (putFuses f s).kpr.pwr = s.kpr.pwr := rfl
@[simp] theorem putFuses_kpr_clk (f : Fuses) (s : State) : (putFuses f s).kpr.clk = s.kpr.clk := rfl
@[simp] theorem putFuses_kpr_dram (f : Fuses) (s : State) : (putFuses f s).kpr.dram = s.kpr.dram := rfl
@[simp] theorem putFuses_kpr_pins (f : Fuses) (s : State) : (putFuses f s).kpr.pins = s.kpr.pins := rfl
@[simp] theorem putFuses_kpr_pauseUntil (f : Fuses) (s : State) : (putFuses f s).kpr.pauseUntil = s.kpr.pauseUntil := rfl
@[simp] theorem putFuses_kpr_forwarded (f : Fuses) (s : State) : (putFuses f s).kpr.forwarded = s.kpr.forwarded := rfl
@[simp] theorem putFuses_kpr_stepping (f : Fuses) (s : State) : (putFuses f s).kpr.stepping = s.kpr.stepping := rfl

/-! ### putSec -/

@[simp] theorem putSec_pending (c : Sec) (s : State) : (putSec c s).pending = s.pending := rfl
@[simp] theorem putSec_watch (c : Sec) (s : State) : (putSec c s).watch = s.watch := rfl
@[simp] theorem putSec_free (c : Sec) (s : State) : (putSec c s).free = s.free := rfl
@[simp] theorem putSec_out (c : Sec) (s : State) : (putSec c s).out = s.out := rfl
@[simp] theorem putSec_life (c : Sec) (s : State) : (putSec c s).life = s.life := rfl
@[simp] theorem putSec_regs (c : Sec) (s : State) : (putSec c s).regs = s.regs := rfl
@[simp] theorem putSec_latched (c : Sec) (s : State) : (putSec c s).latched = s.latched := rfl
@[simp] theorem putSec_staged (c : Sec) (s : State) : (putSec c s).staged = s.staged := rfl
@[simp] theorem putSec_sram (c : Sec) (s : State) : (putSec c s).sram = s.sram := rfl
@[simp] theorem putSec_dram (c : Sec) (s : State) : (putSec c s).dram = s.dram := rfl
@[simp] theorem putSec_istore (c : Sec) (s : State) : (putSec c s).istore = s.istore := rfl
@[simp] theorem putSec_sramEcc (c : Sec) (s : State) : (putSec c s).sramEcc = s.sramEcc := rfl
@[simp] theorem putSec_dramEcc (c : Sec) (s : State) : (putSec c s).dramEcc = s.dramEcc := rfl
@[simp] theorem putSec_istoreBad (c : Sec) (s : State) : (putSec c s).istoreBad = s.istoreBad := rfl
@[simp] theorem putSec_symCount (c : Sec) (s : State) : (putSec c s).symCount = s.symCount := rfl
@[simp] theorem putSec_stations (c : Sec) (s : State) : (putSec c s).stations = s.stations := rfl
@[simp] theorem putSec_lanterns (c : Sec) (s : State) : (putSec c s).lanterns = s.lanterns := rfl
@[simp] theorem putSec_wicks (c : Sec) (s : State) : (putSec c s).wicks = s.wicks := rfl
@[simp] theorem putSec_engs (c : Sec) (s : State) : (putSec c s).engs = s.engs := rfl
@[simp] theorem putSec_chipFlags (c : Sec) (s : State) : (putSec c s).chipFlags = s.chipFlags := rfl
@[simp] theorem putSec_hostMask (c : Sec) (s : State) : (putSec c s).hostMask = s.hostMask := rfl
@[simp] theorem putSec_sb (c : Sec) (s : State) : (putSec c s).sb = s.sb := rfl
@[simp] theorem putSec_banks (c : Sec) (s : State) : (putSec c s).banks = s.banks := rfl
@[simp] theorem putSec_moorings (c : Sec) (s : State) : (putSec c s).moorings = s.moorings := rfl
@[simp] theorem putSec_run (c : Sec) (s : State) : (putSec c s).run = s.run := rfl
@[simp] theorem putSec_ck0 (c : Sec) (s : State) : (putSec c s).ck0 = s.ck0 := rfl
@[simp] theorem putSec_ck1 (c : Sec) (s : State) : (putSec c s).ck1 = s.ck1 := rfl
@[simp] theorem putSec_recov (c : Sec) (s : State) : (putSec c s).recov = s.recov := rfl
@[simp] theorem putSec_fab (c : Sec) (s : State) : (putSec c s).fab = s.fab := rfl
@[simp] theorem putSec_led (c : Sec) (s : State) : (putSec c s).led = s.led := rfl
@[simp] theorem putSec_jobs (c : Sec) (s : State) : (putSec c s).jobs = s.jobs := rfl
@[simp] theorem putSec_kpr_fuses (c : Sec) (s : State) : (putSec c s).kpr.fuses = s.kpr.fuses := rfl
@[simp] theorem putSec_kpr_flash (c : Sec) (s : State) : (putSec c s).kpr.flash = s.kpr.flash := rfl
@[simp] theorem putSec_kpr_boot (c : Sec) (s : State) : (putSec c s).kpr.boot = s.kpr.boot := rfl
@[simp] theorem putSec_kpr_sec (c : Sec) (s : State) : (putSec c s).kpr.sec = c := rfl
@[simp] theorem putSec_kpr_upd (c : Sec) (s : State) : (putSec c s).kpr.upd = s.kpr.upd := rfl
@[simp] theorem putSec_kpr_pwr (c : Sec) (s : State) : (putSec c s).kpr.pwr = s.kpr.pwr := rfl
@[simp] theorem putSec_kpr_clk (c : Sec) (s : State) : (putSec c s).kpr.clk = s.kpr.clk := rfl
@[simp] theorem putSec_kpr_dram (c : Sec) (s : State) : (putSec c s).kpr.dram = s.kpr.dram := rfl
@[simp] theorem putSec_kpr_pins (c : Sec) (s : State) : (putSec c s).kpr.pins = s.kpr.pins := rfl
@[simp] theorem putSec_kpr_pauseUntil (c : Sec) (s : State) : (putSec c s).kpr.pauseUntil = s.kpr.pauseUntil := rfl
@[simp] theorem putSec_kpr_forwarded (c : Sec) (s : State) : (putSec c s).kpr.forwarded = s.kpr.forwarded := rfl
@[simp] theorem putSec_kpr_stepping (c : Sec) (s : State) : (putSec c s).kpr.stepping = s.kpr.stepping := rfl

/-! ### putPwr -/

@[simp] theorem putPwr_pending (p : Pwr) (s : State) : (putPwr p s).pending = s.pending := rfl
@[simp] theorem putPwr_watch (p : Pwr) (s : State) : (putPwr p s).watch = s.watch := rfl
@[simp] theorem putPwr_free (p : Pwr) (s : State) : (putPwr p s).free = s.free := rfl
@[simp] theorem putPwr_out (p : Pwr) (s : State) : (putPwr p s).out = s.out := rfl
@[simp] theorem putPwr_life (p : Pwr) (s : State) : (putPwr p s).life = s.life := rfl
@[simp] theorem putPwr_regs (p : Pwr) (s : State) : (putPwr p s).regs = s.regs := rfl
@[simp] theorem putPwr_latched (p : Pwr) (s : State) : (putPwr p s).latched = s.latched := rfl
@[simp] theorem putPwr_staged (p : Pwr) (s : State) : (putPwr p s).staged = s.staged := rfl
@[simp] theorem putPwr_sram (p : Pwr) (s : State) : (putPwr p s).sram = s.sram := rfl
@[simp] theorem putPwr_dram (p : Pwr) (s : State) : (putPwr p s).dram = s.dram := rfl
@[simp] theorem putPwr_istore (p : Pwr) (s : State) : (putPwr p s).istore = s.istore := rfl
@[simp] theorem putPwr_sramEcc (p : Pwr) (s : State) : (putPwr p s).sramEcc = s.sramEcc := rfl
@[simp] theorem putPwr_dramEcc (p : Pwr) (s : State) : (putPwr p s).dramEcc = s.dramEcc := rfl
@[simp] theorem putPwr_istoreBad (p : Pwr) (s : State) : (putPwr p s).istoreBad = s.istoreBad := rfl
@[simp] theorem putPwr_symCount (p : Pwr) (s : State) : (putPwr p s).symCount = s.symCount := rfl
@[simp] theorem putPwr_stations (p : Pwr) (s : State) : (putPwr p s).stations = s.stations := rfl
@[simp] theorem putPwr_lanterns (p : Pwr) (s : State) : (putPwr p s).lanterns = s.lanterns := rfl
@[simp] theorem putPwr_wicks (p : Pwr) (s : State) : (putPwr p s).wicks = s.wicks := rfl
@[simp] theorem putPwr_engs (p : Pwr) (s : State) : (putPwr p s).engs = s.engs := rfl
@[simp] theorem putPwr_chipFlags (p : Pwr) (s : State) : (putPwr p s).chipFlags = s.chipFlags := rfl
@[simp] theorem putPwr_hostMask (p : Pwr) (s : State) : (putPwr p s).hostMask = s.hostMask := rfl
@[simp] theorem putPwr_sb (p : Pwr) (s : State) : (putPwr p s).sb = s.sb := rfl
@[simp] theorem putPwr_banks (p : Pwr) (s : State) : (putPwr p s).banks = s.banks := rfl
@[simp] theorem putPwr_moorings (p : Pwr) (s : State) : (putPwr p s).moorings = s.moorings := rfl
@[simp] theorem putPwr_run (p : Pwr) (s : State) : (putPwr p s).run = s.run := rfl
@[simp] theorem putPwr_ck0 (p : Pwr) (s : State) : (putPwr p s).ck0 = s.ck0 := rfl
@[simp] theorem putPwr_ck1 (p : Pwr) (s : State) : (putPwr p s).ck1 = s.ck1 := rfl
@[simp] theorem putPwr_recov (p : Pwr) (s : State) : (putPwr p s).recov = s.recov := rfl
@[simp] theorem putPwr_fab (p : Pwr) (s : State) : (putPwr p s).fab = s.fab := rfl
@[simp] theorem putPwr_led (p : Pwr) (s : State) : (putPwr p s).led = s.led := rfl
@[simp] theorem putPwr_jobs (p : Pwr) (s : State) : (putPwr p s).jobs = s.jobs := rfl
@[simp] theorem putPwr_kpr_fuses (p : Pwr) (s : State) : (putPwr p s).kpr.fuses = s.kpr.fuses := rfl
@[simp] theorem putPwr_kpr_flash (p : Pwr) (s : State) : (putPwr p s).kpr.flash = s.kpr.flash := rfl
@[simp] theorem putPwr_kpr_boot (p : Pwr) (s : State) : (putPwr p s).kpr.boot = s.kpr.boot := rfl
@[simp] theorem putPwr_kpr_sec (p : Pwr) (s : State) : (putPwr p s).kpr.sec = s.kpr.sec := rfl
@[simp] theorem putPwr_kpr_upd (p : Pwr) (s : State) : (putPwr p s).kpr.upd = s.kpr.upd := rfl
@[simp] theorem putPwr_kpr_pwr (p : Pwr) (s : State) : (putPwr p s).kpr.pwr = p := rfl
@[simp] theorem putPwr_kpr_clk (p : Pwr) (s : State) : (putPwr p s).kpr.clk = s.kpr.clk := rfl
@[simp] theorem putPwr_kpr_dram (p : Pwr) (s : State) : (putPwr p s).kpr.dram = s.kpr.dram := rfl
@[simp] theorem putPwr_kpr_pins (p : Pwr) (s : State) : (putPwr p s).kpr.pins = s.kpr.pins := rfl
@[simp] theorem putPwr_kpr_pauseUntil (p : Pwr) (s : State) : (putPwr p s).kpr.pauseUntil = s.kpr.pauseUntil := rfl
@[simp] theorem putPwr_kpr_forwarded (p : Pwr) (s : State) : (putPwr p s).kpr.forwarded = s.kpr.forwarded := rfl
@[simp] theorem putPwr_kpr_stepping (p : Pwr) (s : State) : (putPwr p s).kpr.stepping = s.kpr.stepping := rfl

/-! ### putClk -/

@[simp] theorem putClk_pending (n : Nat) (c : Clk) (s : State) : (putClk n c s).pending = s.pending := rfl
@[simp] theorem putClk_watch (n : Nat) (c : Clk) (s : State) : (putClk n c s).watch = s.watch := rfl
@[simp] theorem putClk_free (n : Nat) (c : Clk) (s : State) : (putClk n c s).free = s.free := rfl
@[simp] theorem putClk_out (n : Nat) (c : Clk) (s : State) : (putClk n c s).out = s.out := rfl
@[simp] theorem putClk_life (n : Nat) (c : Clk) (s : State) : (putClk n c s).life = s.life := rfl
@[simp] theorem putClk_regs (n : Nat) (c : Clk) (s : State) : (putClk n c s).regs = s.regs := rfl
@[simp] theorem putClk_latched (n : Nat) (c : Clk) (s : State) : (putClk n c s).latched = s.latched := rfl
@[simp] theorem putClk_staged (n : Nat) (c : Clk) (s : State) : (putClk n c s).staged = s.staged := rfl
@[simp] theorem putClk_sram (n : Nat) (c : Clk) (s : State) : (putClk n c s).sram = s.sram := rfl
@[simp] theorem putClk_dram (n : Nat) (c : Clk) (s : State) : (putClk n c s).dram = s.dram := rfl
@[simp] theorem putClk_istore (n : Nat) (c : Clk) (s : State) : (putClk n c s).istore = s.istore := rfl
@[simp] theorem putClk_sramEcc (n : Nat) (c : Clk) (s : State) : (putClk n c s).sramEcc = s.sramEcc := rfl
@[simp] theorem putClk_dramEcc (n : Nat) (c : Clk) (s : State) : (putClk n c s).dramEcc = s.dramEcc := rfl
@[simp] theorem putClk_istoreBad (n : Nat) (c : Clk) (s : State) : (putClk n c s).istoreBad = s.istoreBad := rfl
@[simp] theorem putClk_symCount (n : Nat) (c : Clk) (s : State) : (putClk n c s).symCount = s.symCount := rfl
@[simp] theorem putClk_stations (n : Nat) (c : Clk) (s : State) : (putClk n c s).stations = s.stations := rfl
@[simp] theorem putClk_lanterns (n : Nat) (c : Clk) (s : State) : (putClk n c s).lanterns = s.lanterns := rfl
@[simp] theorem putClk_wicks (n : Nat) (c : Clk) (s : State) : (putClk n c s).wicks = s.wicks := rfl
@[simp] theorem putClk_engs (n : Nat) (c : Clk) (s : State) : (putClk n c s).engs = s.engs := rfl
@[simp] theorem putClk_chipFlags (n : Nat) (c : Clk) (s : State) : (putClk n c s).chipFlags = s.chipFlags := rfl
@[simp] theorem putClk_hostMask (n : Nat) (c : Clk) (s : State) : (putClk n c s).hostMask = s.hostMask := rfl
@[simp] theorem putClk_sb (n : Nat) (c : Clk) (s : State) : (putClk n c s).sb = s.sb := rfl
@[simp] theorem putClk_banks (n : Nat) (c : Clk) (s : State) : (putClk n c s).banks = s.banks := rfl
@[simp] theorem putClk_moorings (n : Nat) (c : Clk) (s : State) : (putClk n c s).moorings = s.moorings := rfl
@[simp] theorem putClk_run (n : Nat) (c : Clk) (s : State) : (putClk n c s).run = s.run := rfl
@[simp] theorem putClk_ck0 (n : Nat) (c : Clk) (s : State) : (putClk n c s).ck0 = s.ck0 := rfl
@[simp] theorem putClk_ck1 (n : Nat) (c : Clk) (s : State) : (putClk n c s).ck1 = s.ck1 := rfl
@[simp] theorem putClk_recov (n : Nat) (c : Clk) (s : State) : (putClk n c s).recov = s.recov := rfl
@[simp] theorem putClk_fab (n : Nat) (c : Clk) (s : State) : (putClk n c s).fab = s.fab := rfl
@[simp] theorem putClk_led (n : Nat) (c : Clk) (s : State) : (putClk n c s).led = s.led := rfl
@[simp] theorem putClk_jobs (n : Nat) (c : Clk) (s : State) : (putClk n c s).jobs = s.jobs := rfl
@[simp] theorem putClk_kpr_fuses (n : Nat) (c : Clk) (s : State) : (putClk n c s).kpr.fuses = s.kpr.fuses := rfl
@[simp] theorem putClk_kpr_flash (n : Nat) (c : Clk) (s : State) : (putClk n c s).kpr.flash = s.kpr.flash := rfl
@[simp] theorem putClk_kpr_boot (n : Nat) (c : Clk) (s : State) : (putClk n c s).kpr.boot = s.kpr.boot := rfl
@[simp] theorem putClk_kpr_sec (n : Nat) (c : Clk) (s : State) : (putClk n c s).kpr.sec = s.kpr.sec := rfl
@[simp] theorem putClk_kpr_upd (n : Nat) (c : Clk) (s : State) : (putClk n c s).kpr.upd = s.kpr.upd := rfl
@[simp] theorem putClk_kpr_pwr (n : Nat) (c : Clk) (s : State) : (putClk n c s).kpr.pwr = s.kpr.pwr := rfl
@[simp] theorem putClk_kpr_clk (n : Nat) (c : Clk) (s : State) : (putClk n c s).kpr.clk = tput s.kpr.clk n c := rfl
@[simp] theorem putClk_kpr_dram (n : Nat) (c : Clk) (s : State) : (putClk n c s).kpr.dram = s.kpr.dram := rfl
@[simp] theorem putClk_kpr_pins (n : Nat) (c : Clk) (s : State) : (putClk n c s).kpr.pins = s.kpr.pins := rfl
@[simp] theorem putClk_kpr_pauseUntil (n : Nat) (c : Clk) (s : State) : (putClk n c s).kpr.pauseUntil = s.kpr.pauseUntil := rfl
@[simp] theorem putClk_kpr_forwarded (n : Nat) (c : Clk) (s : State) : (putClk n c s).kpr.forwarded = s.kpr.forwarded := rfl
@[simp] theorem putClk_kpr_stepping (n : Nat) (c : Clk) (s : State) : (putClk n c s).kpr.stepping = s.kpr.stepping := rfl

/-! ### putPins -/

@[simp] theorem putPins_pending (p : Pins) (s : State) : (putPins p s).pending = s.pending := rfl
@[simp] theorem putPins_watch (p : Pins) (s : State) : (putPins p s).watch = s.watch := rfl
@[simp] theorem putPins_free (p : Pins) (s : State) : (putPins p s).free = s.free := rfl
@[simp] theorem putPins_out (p : Pins) (s : State) : (putPins p s).out = s.out := rfl
@[simp] theorem putPins_life (p : Pins) (s : State) : (putPins p s).life = s.life := rfl
@[simp] theorem putPins_regs (p : Pins) (s : State) : (putPins p s).regs = s.regs := rfl
@[simp] theorem putPins_latched (p : Pins) (s : State) : (putPins p s).latched = s.latched := rfl
@[simp] theorem putPins_staged (p : Pins) (s : State) : (putPins p s).staged = s.staged := rfl
@[simp] theorem putPins_sram (p : Pins) (s : State) : (putPins p s).sram = s.sram := rfl
@[simp] theorem putPins_dram (p : Pins) (s : State) : (putPins p s).dram = s.dram := rfl
@[simp] theorem putPins_istore (p : Pins) (s : State) : (putPins p s).istore = s.istore := rfl
@[simp] theorem putPins_sramEcc (p : Pins) (s : State) : (putPins p s).sramEcc = s.sramEcc := rfl
@[simp] theorem putPins_dramEcc (p : Pins) (s : State) : (putPins p s).dramEcc = s.dramEcc := rfl
@[simp] theorem putPins_istoreBad (p : Pins) (s : State) : (putPins p s).istoreBad = s.istoreBad := rfl
@[simp] theorem putPins_symCount (p : Pins) (s : State) : (putPins p s).symCount = s.symCount := rfl
@[simp] theorem putPins_stations (p : Pins) (s : State) : (putPins p s).stations = s.stations := rfl
@[simp] theorem putPins_lanterns (p : Pins) (s : State) : (putPins p s).lanterns = s.lanterns := rfl
@[simp] theorem putPins_wicks (p : Pins) (s : State) : (putPins p s).wicks = s.wicks := rfl
@[simp] theorem putPins_engs (p : Pins) (s : State) : (putPins p s).engs = s.engs := rfl
@[simp] theorem putPins_chipFlags (p : Pins) (s : State) : (putPins p s).chipFlags = s.chipFlags := rfl
@[simp] theorem putPins_hostMask (p : Pins) (s : State) : (putPins p s).hostMask = s.hostMask := rfl
@[simp] theorem putPins_sb (p : Pins) (s : State) : (putPins p s).sb = s.sb := rfl
@[simp] theorem putPins_banks (p : Pins) (s : State) : (putPins p s).banks = s.banks := rfl
@[simp] theorem putPins_moorings (p : Pins) (s : State) : (putPins p s).moorings = s.moorings := rfl
@[simp] theorem putPins_run (p : Pins) (s : State) : (putPins p s).run = s.run := rfl
@[simp] theorem putPins_ck0 (p : Pins) (s : State) : (putPins p s).ck0 = s.ck0 := rfl
@[simp] theorem putPins_ck1 (p : Pins) (s : State) : (putPins p s).ck1 = s.ck1 := rfl
@[simp] theorem putPins_recov (p : Pins) (s : State) : (putPins p s).recov = s.recov := rfl
@[simp] theorem putPins_fab (p : Pins) (s : State) : (putPins p s).fab = s.fab := rfl
@[simp] theorem putPins_led (p : Pins) (s : State) : (putPins p s).led = s.led := rfl
@[simp] theorem putPins_jobs (p : Pins) (s : State) : (putPins p s).jobs = s.jobs := rfl
@[simp] theorem putPins_kpr_fuses (p : Pins) (s : State) : (putPins p s).kpr.fuses = s.kpr.fuses := rfl
@[simp] theorem putPins_kpr_flash (p : Pins) (s : State) : (putPins p s).kpr.flash = s.kpr.flash := rfl
@[simp] theorem putPins_kpr_boot (p : Pins) (s : State) : (putPins p s).kpr.boot = s.kpr.boot := rfl
@[simp] theorem putPins_kpr_sec (p : Pins) (s : State) : (putPins p s).kpr.sec = s.kpr.sec := rfl
@[simp] theorem putPins_kpr_upd (p : Pins) (s : State) : (putPins p s).kpr.upd = s.kpr.upd := rfl
@[simp] theorem putPins_kpr_pwr (p : Pins) (s : State) : (putPins p s).kpr.pwr = s.kpr.pwr := rfl
@[simp] theorem putPins_kpr_clk (p : Pins) (s : State) : (putPins p s).kpr.clk = s.kpr.clk := rfl
@[simp] theorem putPins_kpr_dram (p : Pins) (s : State) : (putPins p s).kpr.dram = s.kpr.dram := rfl
@[simp] theorem putPins_kpr_pins (p : Pins) (s : State) : (putPins p s).kpr.pins = p := rfl
@[simp] theorem putPins_kpr_pauseUntil (p : Pins) (s : State) : (putPins p s).kpr.pauseUntil = s.kpr.pauseUntil := rfl
@[simp] theorem putPins_kpr_forwarded (p : Pins) (s : State) : (putPins p s).kpr.forwarded = s.kpr.forwarded := rfl
@[simp] theorem putPins_kpr_stepping (p : Pins) (s : State) : (putPins p s).kpr.stepping = s.kpr.stepping := rfl

/-! ### putDramSt -/

@[simp] theorem putDramSt_pending (n : Nat) (d : DramSt) (s : State) : (putDramSt n d s).pending = s.pending := rfl
@[simp] theorem putDramSt_watch (n : Nat) (d : DramSt) (s : State) : (putDramSt n d s).watch = s.watch := rfl
@[simp] theorem putDramSt_free (n : Nat) (d : DramSt) (s : State) : (putDramSt n d s).free = s.free := rfl
@[simp] theorem putDramSt_out (n : Nat) (d : DramSt) (s : State) : (putDramSt n d s).out = s.out := rfl
@[simp] theorem putDramSt_life (n : Nat) (d : DramSt) (s : State) : (putDramSt n d s).life = s.life := rfl
@[simp] theorem putDramSt_regs (n : Nat) (d : DramSt) (s : State) : (putDramSt n d s).regs = s.regs := rfl
@[simp] theorem putDramSt_latched (n : Nat) (d : DramSt) (s : State) : (putDramSt n d s).latched = s.latched := rfl
@[simp] theorem putDramSt_staged (n : Nat) (d : DramSt) (s : State) : (putDramSt n d s).staged = s.staged := rfl
@[simp] theorem putDramSt_sram (n : Nat) (d : DramSt) (s : State) : (putDramSt n d s).sram = s.sram := rfl
@[simp] theorem putDramSt_dram (n : Nat) (d : DramSt) (s : State) : (putDramSt n d s).dram = s.dram := rfl
@[simp] theorem putDramSt_istore (n : Nat) (d : DramSt) (s : State) : (putDramSt n d s).istore = s.istore := rfl
@[simp] theorem putDramSt_sramEcc (n : Nat) (d : DramSt) (s : State) : (putDramSt n d s).sramEcc = s.sramEcc := rfl
@[simp] theorem putDramSt_dramEcc (n : Nat) (d : DramSt) (s : State) : (putDramSt n d s).dramEcc = s.dramEcc := rfl
@[simp] theorem putDramSt_istoreBad (n : Nat) (d : DramSt) (s : State) : (putDramSt n d s).istoreBad = s.istoreBad := rfl
@[simp] theorem putDramSt_symCount (n : Nat) (d : DramSt) (s : State) : (putDramSt n d s).symCount = s.symCount := rfl
@[simp] theorem putDramSt_stations (n : Nat) (d : DramSt) (s : State) : (putDramSt n d s).stations = s.stations := rfl
@[simp] theorem putDramSt_lanterns (n : Nat) (d : DramSt) (s : State) : (putDramSt n d s).lanterns = s.lanterns := rfl
@[simp] theorem putDramSt_wicks (n : Nat) (d : DramSt) (s : State) : (putDramSt n d s).wicks = s.wicks := rfl
@[simp] theorem putDramSt_engs (n : Nat) (d : DramSt) (s : State) : (putDramSt n d s).engs = s.engs := rfl
@[simp] theorem putDramSt_chipFlags (n : Nat) (d : DramSt) (s : State) : (putDramSt n d s).chipFlags = s.chipFlags := rfl
@[simp] theorem putDramSt_hostMask (n : Nat) (d : DramSt) (s : State) : (putDramSt n d s).hostMask = s.hostMask := rfl
@[simp] theorem putDramSt_sb (n : Nat) (d : DramSt) (s : State) : (putDramSt n d s).sb = s.sb := rfl
@[simp] theorem putDramSt_banks (n : Nat) (d : DramSt) (s : State) : (putDramSt n d s).banks = s.banks := rfl
@[simp] theorem putDramSt_moorings (n : Nat) (d : DramSt) (s : State) : (putDramSt n d s).moorings = s.moorings := rfl
@[simp] theorem putDramSt_run (n : Nat) (d : DramSt) (s : State) : (putDramSt n d s).run = s.run := rfl
@[simp] theorem putDramSt_ck0 (n : Nat) (d : DramSt) (s : State) : (putDramSt n d s).ck0 = s.ck0 := rfl
@[simp] theorem putDramSt_ck1 (n : Nat) (d : DramSt) (s : State) : (putDramSt n d s).ck1 = s.ck1 := rfl
@[simp] theorem putDramSt_recov (n : Nat) (d : DramSt) (s : State) : (putDramSt n d s).recov = s.recov := rfl
@[simp] theorem putDramSt_fab (n : Nat) (d : DramSt) (s : State) : (putDramSt n d s).fab = s.fab := rfl
@[simp] theorem putDramSt_led (n : Nat) (d : DramSt) (s : State) : (putDramSt n d s).led = s.led := rfl
@[simp] theorem putDramSt_jobs (n : Nat) (d : DramSt) (s : State) : (putDramSt n d s).jobs = s.jobs := rfl
@[simp] theorem putDramSt_kpr_fuses (n : Nat) (d : DramSt) (s : State) : (putDramSt n d s).kpr.fuses = s.kpr.fuses := rfl
@[simp] theorem putDramSt_kpr_flash (n : Nat) (d : DramSt) (s : State) : (putDramSt n d s).kpr.flash = s.kpr.flash := rfl
@[simp] theorem putDramSt_kpr_boot (n : Nat) (d : DramSt) (s : State) : (putDramSt n d s).kpr.boot = s.kpr.boot := rfl
@[simp] theorem putDramSt_kpr_sec (n : Nat) (d : DramSt) (s : State) : (putDramSt n d s).kpr.sec = s.kpr.sec := rfl
@[simp] theorem putDramSt_kpr_upd (n : Nat) (d : DramSt) (s : State) : (putDramSt n d s).kpr.upd = s.kpr.upd := rfl
@[simp] theorem putDramSt_kpr_pwr (n : Nat) (d : DramSt) (s : State) : (putDramSt n d s).kpr.pwr = s.kpr.pwr := rfl
@[simp] theorem putDramSt_kpr_clk (n : Nat) (d : DramSt) (s : State) : (putDramSt n d s).kpr.clk = s.kpr.clk := rfl
@[simp] theorem putDramSt_kpr_dram (n : Nat) (d : DramSt) (s : State) : (putDramSt n d s).kpr.dram = tput s.kpr.dram n d := rfl
@[simp] theorem putDramSt_kpr_pins (n : Nat) (d : DramSt) (s : State) : (putDramSt n d s).kpr.pins = s.kpr.pins := rfl
@[simp] theorem putDramSt_kpr_pauseUntil (n : Nat) (d : DramSt) (s : State) : (putDramSt n d s).kpr.pauseUntil = s.kpr.pauseUntil := rfl
@[simp] theorem putDramSt_kpr_forwarded (n : Nat) (d : DramSt) (s : State) : (putDramSt n d s).kpr.forwarded = s.kpr.forwarded := rfl
@[simp] theorem putDramSt_kpr_stepping (n : Nat) (d : DramSt) (s : State) : (putDramSt n d s).kpr.stepping = s.kpr.stepping := rfl

end Sys2Proof.Machine
end

