-- ==== Sys2Proof/Laws/Tables.lean ====
section
/-! SUPPORT. Reading a table after a write, and the accessors of the state over it. -/

namespace Sys2Proof.Machine

/-! ### Tables -/

@[simp] theorem tget_tput_same {α : Type} (d : α) (t : Tbl α) (k : Nat) (v : α) : tget d (tput t k v) k = v := by
  induction t with
  | nil => simp [tput, tget]
  | cons e t ih =>
    obtain ⟨j, w⟩ := e
    unfold tput
    split
    · simp [tget]
    · split
      · simp [tget]
      · rename_i h
        simp [tget, h, ih]

theorem tget_tput_other {α : Type} (d : α) (t : Tbl α) {k i : Nat} (v : α) (h : i ≠ k) : tget d (tput t k v) i = tget d t i := by
  induction t with
  | nil => simp [tput, tget, Ne.symm h]
  | cons e t ih =>
    obtain ⟨j, w⟩ := e
    unfold tput
    split
    · simp [tget, Ne.symm h]
    · split
      · rename_i hj; subst hj; simp [tget, Ne.symm h]
      · simp only [tget, ih]

@[simp] theorem tget?_tput_same {α : Type} (t : Tbl α) (k : Nat) (v : α) : tget? (tput t k v) k = some v := by
  induction t with
  | nil => simp [tput, tget?]
  | cons e t ih =>
    obtain ⟨j, w⟩ := e
    unfold tput
    split
    · simp [tget?]
    · split
      · simp [tget?]
      · rename_i h
        simp [tget?, h, ih]

theorem tget?_tput_other {α : Type} (t : Tbl α) {k i : Nat} (v : α) (h : i ≠ k) : tget? (tput t k v) i = tget? t i := by
  induction t with
  | nil => simp [tput, tget?, Ne.symm h]
  | cons e t ih =>
    obtain ⟨j, w⟩ := e
    unfold tput
    split
    · simp [tget?, Ne.symm h]
    · split
      · rename_i hj; subst hj; simp [tget?, Ne.symm h]
      · simp only [tget?, ih]

@[simp] theorem nget_tput_same (t : Tbl Nat) (k v : Nat) : nget (tput t k v) k = v := tget_tput_same ..

theorem nget_tput_other (t : Tbl Nat) {k i : Nat} (v : Nat) (h : i ≠ k) : nget (tput t k v) i = nget t i := tget_tput_other _ _ _ h

/-! ### Registers -/

@[simp] theorem regGet_regPut_same (a v : Nat) (s : State) : regGet (regPut a v s) a = v := by simp [regGet]

theorem regGet_regPut_other {a b : Nat} (v : Nat) (s : State) (h : b ≠ a) : regGet (regPut a v s) b = regGet s b := by
  simp [regGet, tget?_tput_other _ _ h]

/-- A register reads the same in two states with the same stored words. -/
theorem regGet_congr {s t : State} (h : t.regs = s.regs) (a : Nat) : regGet t a = regGet s a := by simp [regGet, h]

/-! ### Engines, Stations and units -/

theorem ekey_inj {g k : Eng} (h : ekey g = ekey k) : g = k := by
  obtain ⟨⟨a, ha⟩, ⟨b, hb⟩⟩ := g
  obtain ⟨⟨c, hc⟩, ⟨d, hd⟩⟩ := k
  simp only [ekey] at h
  have e1 : a = c := by omega
  have e2 : b = d := by omega
  subst e1; subst e2; rfl

@[simp] theorem engOf_putEng_same (g : Eng) (e : Engine) (s : State) : engOf (putEng g e s) g = e := by simp [engOf]

theorem engOf_putEng_other {g k : Eng} (e : Engine) (s : State) (h : k ≠ g) : engOf (putEng g e s) k = engOf s k := by
  simp [engOf, tget_tput_other _ _ _ (fun c => h (ekey_inj c))]

theorem engOf_congr {s t : State} (h : t.engs = s.engs) (g : Eng) : engOf t g = engOf s g := by simp [engOf, h]

@[simp] theorem stnOf_putStn_same (n : Nat) (x : Station) (s : State) : stnOf (putStn n x s) n = x := by simp [stnOf]

theorem stnOf_putStn_other {n m : Nat} (x : Station) (s : State) (h : m ≠ n) : stnOf (putStn n x s) m = stnOf s m := by
  simp [stnOf, tget_tput_other _ _ _ h]

@[simp] theorem lanOf_putLan_same (n p : Nat) (x : Lantern) (s : State) : lanOf (putLan n p x s) n p = x := by simp [lanOf]

theorem lanOf_putLan_other {n p m q : Nat} (x : Lantern) (s : State) (h : m * 5 + q ≠ n * 5 + p) :
    lanOf (putLan n p x s) m q = lanOf s m q := by
  simp [lanOf, tget_tput_other _ _ _ h]

@[simp] theorem wickOf_putWick_same (n p : Nat) (x : Wick) (s : State) : wickOf (putWick n p x s) n p = x := by simp [wickOf]

theorem wickOf_putWick_other {n p m q : Nat} (x : Wick) (s : State) (h : m * 9 + q ≠ n * 9 + p) :
    wickOf (putWick n p x s) m q = wickOf s m q := by
  simp [wickOf, tget_tput_other _ _ _ h]

@[simp] theorem wOf_putW_same (w : WickRef) (x : Wick) (s : State) : wOf (putW w x s) w = x := by simp [wOf, putW]

theorem wOf_putW_other {w v : WickRef} (x : Wick) (s : State) (h : v ≠ w) : wOf (putW w x s) v = wOf s v := by
  obtain ⟨⟨a, ha⟩, ⟨b, hb⟩⟩ := w
  obtain ⟨⟨c, hc⟩, ⟨d, hd⟩⟩ := v
  refine wickOf_putWick_other _ _ fun e => h ?_
  dsimp only at e
  have e1 : c = a := by omega
  have e2 : d = b := by omega
  subst e1; subst e2; rfl

theorem wOf_congr {s t : State} (h : t.wicks = s.wicks) (w : WickRef) : wOf t w = wOf s w := by simp [wOf, wickOf, h]

@[simp] theorem bankOf_putBank_same (b : Nat) (k : Bank) (s : State) : bankOf (putBank b k s) b = k := by simp [bankOf]
@[simp] theorem moorOf_putMoor_same (m : Nat) (k : Mooring) (s : State) : moorOf (putMoor m k s) m = k := by simp [moorOf]
@[simp] theorem sbOf_putSb_same (k : Nat) (e : SbEntry) (s : State) : sbOf (putSb k e s) k = e := by simp [sbOf]
@[simp] theorem linkOf_putLink_same (l : Nat) (k : Link) (s : State) : linkOf (putLink l k s) l = k := by simp [linkOf]
@[simp] theorem portOf_putPort_same (n : Nat) (p : Port) (s : State) : portOf (putPort n p s) n = p := by simp [portOf]
@[simp] theorem queueOf_putQueue_same (q : Nat) (k : Queue) (s : State) : queueOf (putQueue q k s) q = k := by simp [queueOf]

theorem linkOf_putLink_other {l m : Nat} (k : Link) (s : State) (h : m ≠ l) : linkOf (putLink l k s) m = linkOf s m := by
  simp [linkOf, tget_tput_other _ _ _ h]

/-- The unit of a reference after it is put. -/
@[simp] theorem unitOf_putUnit_same (u : UnitRef) (v : UnitSt) (s : State) : unitOf (putUnit u v s) u = v := by
  cases u <;> simp [unitOf, putUnit]

/-! ### Registers of a pair -/

@[simp] theorem xr_zero (k : Wick) : xr k 0 = 0 := rfl

theorem xr_xw_same {i : Fin 32} (v : W64) (k : Wick) (h : i.val ≠ 0) : xr (xw i v k) i = v := by simp [xr, xw, h]

theorem xr_xw_other {i j : Fin 32} (v : W64) (k : Wick) (h : j ≠ i) : xr (xw i v k) j = xr k j := by
  have h' : j.val ≠ i.val := fun e => h (Fin.ext e)
  unfold xr xw
  split
  · rfl
  · split
    · rfl
    · simp [tget_tput_other _ _ _ h']

end Sys2Proof.Machine
end

