-- ==== Sys2Proof/Laws/Ops.lean ====
section
/-! SUPPORT. What each shared operation can do, said once: the fields it may change, and what else it leaves. A frame is an equation:
the state after is the state before with the named fields replaced. -/

namespace Sys2Proof.Machine

/-! ### Reports, events and registers -/

theorem report_eq (code page : Nat) (s : State) : report code page s = { s with out := .report code page :: s.out } := rfl

/-- An event bit, its captures and the summary vector: registers and messages only. -/
theorem setEvent_frame (p bit a b c : Nat) (s : State) :
    setEvent p bit a b c s = { s with regs := (setEvent p bit a b c s).regs, out := (setEvent p bit a b c s).out } := by
  unfold setEvent afterSummary
  dsimp only
  split <;> split <;> rfl

theorem raise_frame (code p bit a b c : Nat) (s : State) :
    raise code p bit a b c s = { s with regs := (raise code p bit a b c s).regs, out := (raise code p bit a b c s).out } := by
  unfold raise
  rw [setEvent_frame]
  rfl

theorem conflict_frame (q a : Nat) (s : State) :
    conflict q a s = { s with regs := (conflict q a s).regs, out := (conflict q a s).out } := raise_frame ..

theorem assertFog_frame (c : Nat) (s : State) :
    assertFog c s = { s with regs := (assertFog c s).regs, out := (assertFog c s).out } := by
  unfold assertFog
  dsimp only
  split <;> rfl

theorem releaseFog_frame (s : State) : releaseFog s = { s with regs := (releaseFog s).regs, out := (releaseFog s).out } := by
  unfold releaseFog
  dsimp only
  split <;> rfl

theorem raiseEng_frame (g : Eng) (code a b c : Nat) (s : State) :
    raiseEng g code a b c s = { s with regs := (raiseEng g code a b c s).regs, out := (raiseEng g code a b c s).out } := by
  unfold raiseEng
  split
  · dsimp only
    split
    · rw [raise_frame]
      rfl
    · exact raise_frame ..
  · rfl

theorem regCount_frame (a : Nat) (s : State) : regCount a s = { s with regs := (regCount a s).regs } := rfl
theorem regAdd64_frame (a n : Nat) (s : State) : regAdd64 a n s = { s with regs := (regAdd64 a n s).regs } := rfl
theorem chk_frame (i : Nat) (b : Bool) (s : State) : chk i b s = { s with led := (chk i b s).led } := rfl
theorem chkEcc_frame (b : Bool) (s : State) : chkEcc b s = { s with led := (chkEcc b s).led } := rfl
theorem detect_frame (c : Nat) (a : FaultAt) (t : Option (Nat × Nat)) (s : State) :
    detect c a t s = { s with recov := (detect c a t s).recov } := rfl

theorem detect_faults (c : Nat) (a : FaultAt) (t : Option (Nat × Nat)) (s : State) :
    (detect c a t s).recov.faults = s.recov.faults ++ [⟨c, s.run.step, a, t⟩] := rfl

/-! ### Flags and scoreboards -/

theorem flagPut_frame (st sc i v : Nat) (s : State) :
    flagPut st sc i v s = { s with stations := (flagPut st sc i v s).stations, chipFlags := (flagPut st sc i v s).chipFlags } := by
  unfold flagPut
  dsimp only
  split <;> rfl

theorem waitTake_frame (st w : Nat) (s : State) :
    waitTake st w s = { s with stations := (waitTake st w s).stations, chipFlags := (waitTake st w s).chipFlags } := by
  unfold waitTake
  split
  · rfl
  · exact flagPut_frame ..

theorem waitsTake_frame (st : Nat) (w : List Nat) (s : State) :
    waitsTake st w s = { s with stations := (waitsTake st w s).stations, chipFlags := (waitsTake st w s).chipFlags } := by
  have h1 : ∃ a b, waitTake st (nth w 1) s = { s with stations := a, chipFlags := b } := ⟨_, _, waitTake_frame ..⟩
  obtain ⟨a, b, e⟩ := h1
  unfold waitsTake
  rw [e]
  exact waitTake_frame ..

theorem sbTake_foldl_frame (l : List SbReg) (s : State) :
    l.foldl (fun t r => sbTake r t) s = { s with sb := (l.foldl (fun t r => sbTake r t) s).sb } := by
  induction l generalizing s with
  | nil => rfl
  | cons r l ih => exact (ih (sbTake r s)).trans rfl

theorem sbDone_foldl_frame (l : List SbReg) (s : State) :
    l.foldl (fun t r => sbDone r t) s = { s with sb := (l.foldl (fun t r => sbDone r t) s).sb } := by
  induction l generalizing s with
  | nil => rfl
  | cons r l ih => exact (ih (sbDone r s)).trans rfl

theorem breakCount_frame (g : Eng) (top : Nat) (s : State) : breakCount g top s = { s with regs := (breakCount g top s).regs } := by
  unfold breakCount
  generalize List.range 4 = l
  have key : ∀ (l : List Nat) (t : State) (f : State → Nat → State), (∀ t k, f t k = { t with regs := (f t k).regs }) →
      l.foldl f t = { t with regs := (l.foldl f t).regs } := by
    intro l
    induction l with
    | nil => intros; rfl
    | cons x l ih =>
      intro t f hf
      have h := ih (f t x) f hf
      rw [hf t x] at h
      rw [List.foldl_cons, hf t x]
      exact h
  refine key l s _ fun t k => ?_
  dsimp only
  split <;> rfl

/-! ### Issue and completion -/

/-- R115: issue in three parts: thresholds and registrations, break counts, and the engine itself. -/
theorem issueNow_parts (g : Eng) (l : Latched) (s : State) : ∃ st cf sb rg,
    issueNow g l s = putEng g
      { engOf s g with
        cur := some l
        pos := if l.pushed || dOp l.w = 0x7F then (engOf s g).pos else (engOf s g).pos + 1
        prefetch := if l.pushed then (engOf s g).prefetch else (engOf s g).prefetch.tail
        queue := if l.pushed then (engOf s g).queue.tail else (engOf s g).queue
        issues := if l.pushed then (engOf s g).issues else tput (engOf s g).issues l.pos (nget (engOf s g).issues l.pos + 1)
        waiting := none, atBreak := none, resumed := false, lastAct := s.watch, wdFrom := s.watch }
      { s with stations := st, chipFlags := cf, sb := sb, regs := rg } := by
  have h1 : ∃ st cf, waitsTake g.st l.w s = { s with stations := st, chipFlags := cf } := ⟨_, _, waitsTake_frame ..⟩
  obtain ⟨st, cf, e1⟩ := h1
  have h2 : ∃ sb, l.sb.foldl (fun t r => sbTake r t) (waitsTake g.st l.w s) = { waitsTake g.st l.w s with sb := sb } :=
    ⟨_, sbTake_foldl_frame ..⟩
  obtain ⟨sb, e2⟩ := h2
  rw [e1] at e2
  have h3 : ∃ rg, breakCount g (dTop l.w) { s with stations := st, chipFlags := cf, sb := sb } =
      { s with stations := st, chipFlags := cf, sb := sb, regs := rg } := ⟨_, breakCount_frame ..⟩
  obtain ⟨rg, e3⟩ := h3
  refine ⟨st, cf, sb, rg, ?_⟩
  unfold issueNow
  dsimp only
  rw [e1, e2, e3]
  rfl

/-- R115: what issue may change. -/
theorem issueNow_frame (g : Eng) (l : Latched) (s : State) :
    issueNow g l s = { s with
      engs := (issueNow g l s).engs, stations := (issueNow g l s).stations, chipFlags := (issueNow g l s).chipFlags
      sb := (issueNow g l s).sb, regs := (issueNow g l s).regs } := by
  obtain ⟨st, cf, sb, rg, e⟩ := issueNow_parts g l s
  rw [e]
  rfl

/-- R112, R115: the issuing engine afterwards. -/
theorem issueNow_eng (g : Eng) (l : Latched) (s : State) :
    engOf (issueNow g l s) g =
      { engOf s g with
        cur := some l
        pos := if l.pushed || dOp l.w = 0x7F then (engOf s g).pos else (engOf s g).pos + 1
        prefetch := if l.pushed then (engOf s g).prefetch else (engOf s g).prefetch.tail
        queue := if l.pushed then (engOf s g).queue.tail else (engOf s g).queue
        issues := if l.pushed then (engOf s g).issues else tput (engOf s g).issues l.pos (nget (engOf s g).issues l.pos + 1)
        waiting := none, atBreak := none, resumed := false, lastAct := s.watch, wdFrom := s.watch } := by
  obtain ⟨st, cf, sb, rg, e⟩ := issueNow_parts g l s
  rw [e, engOf_putEng_same]

theorem issueNow_eng_other {g k : Eng} (l : Latched) (s : State) (h : k ≠ g) : engOf (issueNow g l s) k = engOf s k := by
  obtain ⟨st, cf, sb, rg, e⟩ := issueNow_parts g l s
  rw [e, engOf_putEng_other _ _ h]
  rfl

theorem finish_frame (g : Eng) (l : Latched) (s : State) : finish g l s = { s with engs := (finish g l s).engs } := rfl

@[simp] theorem finish_eng (g : Eng) (l : Latched) (s : State) :
    engOf (finish g l s) g = { engOf s g with cur := some { l with done := true, blocked := 0 } } := by simp [finish, setCur]

@[simp] theorem setCur_eng (g : Eng) (l : Latched) (s : State) : engOf (setCur g l s) g = { engOf s g with cur := some l } := by
  simp [setCur]

theorem finish_eng_other {g k : Eng} (l : Latched) (s : State) (h : k ≠ g) : engOf (finish g l s) k = engOf s k := by
  simp [finish, setCur, engOf_putEng_other _ _ h]

/-- R70, R82, R140: a failing engine is stopped and its fault recorded; memory stays. -/
theorem engFail_frame (g : Eng) (top pos : Nat) (f : Fail) (s : State) :
    engFail g top pos f s = { s with
      regs := (engFail g top pos f s).regs, out := (engFail g top pos f s).out, engs := (engFail g top pos f s).engs
      recov := (engFail g top pos f s).recov } := by
  have h1 : ∃ a b, (if f.also = 0 then raiseEng g f.code (f.code + top * 2 ^ 16) (engCaps g pos f).1 (engCaps g pos f).2 s
      else raiseEng g f.also (f.also + top * 2 ^ 16) (engCaps g pos f).1 (engCaps g pos f).2
        (raiseEng g f.code (f.code + top * 2 ^ 16) (engCaps g pos f).1 (engCaps g pos f).2 s)) = { s with regs := a, out := b } := by
    split
    · exact ⟨_, _, raiseEng_frame ..⟩
    · have h2 : ∃ a b, raiseEng g f.code (f.code + top * 2 ^ 16) (engCaps g pos f).1 (engCaps g pos f).2 s = { s with regs := a, out := b } :=
        ⟨_, _, raiseEng_frame ..⟩
      obtain ⟨a, b, e⟩ := h2
      rw [e]
      exact ⟨_, _, raiseEng_frame ..⟩
  obtain ⟨a, b, e⟩ := h1
  unfold engFail
  dsimp only
  rw [e]
  split
  · rfl
  · split <;> rfl

/-! ### Register writes that the host makes -/

/-- R447, R471, R482: a host write to a served page while nothing pauses it. -/
theorem hostWrite_served (p a : Nat) (act : State → State) {s : State} (h1 : paused s = false) (h2 : s.life ≠ .off)
    (h3 : railsOff s = false ∨ servedOff (pageKind p).1 = true) : hostWrite p a act s = act s := by
  unfold hostWrite
  rcases h3 with h | h <;> simp [h1, h2, h]

/-! ### Queue commands -/

theorem advanceHead_other (q : Nat) (s : State) : advanceHead q s = { s with jobs := (advanceHead q s).jobs } := rfl

end Sys2Proof.Machine
end

