-- ==== Sys2Proof/Tests/Slice0.lean ====
section
/-! SUPPORT. Tests: well-formed and ill-formed commands, and for every statement states and operands that meet its hypotheses, with what the
command answers there. -/

namespace Sys2Proof.Tests

set_option Elab.async false

open Sys2Proof Sys2Proof.Machine

/-! ### Helpers -/

/-- The next state that a command answers passes a check. -/
def nextIs (r : Res) (p : State → Bool) : Bool :=
  match r with
  | .next t => p t
  | _ => false

/-- A computation succeeds. -/
def runsOk {α : Type} (r : Except Fail α × State) : Bool :=
  match r.1 with
  | .ok _ => true
  | .error _ => false

/-- A run that succeeds ends in a value and a state. -/
theorem runsOk_spec {α : Type} (r : Except Fail α × State) (h : runsOk r = true) : ∃ v t, r = (.ok v, t) := by
  obtain ⟨a, t⟩ := r
  cases a with
  | ok v => exact ⟨v, t, rfl⟩
  | error e => simp [runsOk] at h

/-- The bytes of a descriptor from the words that are not 0, without its CRC. -/
def desc (ws : Tbl Nat) : List Byte := (List.range 16).flatMap fun i => leBytes 4 (tget 0 ws i)

/-- A descriptor with its CRC (R119). -/
def descSealed (ws : Tbl Nat) : List Byte := let b := (desc ws).take 60; b ++ leBytes 4 (crc32c b)

/-- An engine of each class in Station 0. -/
def lan0 : Eng := ⟨0, 0⟩
def wck0 : Eng := ⟨0, 4⟩
def tnd0 : Eng := ⟨0, 12⟩
def prt0 : Eng := ⟨0, 16⟩

/-- A RUNNING module in which one engine has one descriptor in its prefetch buffer. -/
def atIssue (g : Eng) (bs : List Byte) : State :=
  { State.reset with life := .running, engs := [(ekey g, { engReset with present := true, prefetch := [(0, bs)] })] }

/-! ### The block and its queue -/

theorem test_EmptyQueueTicks : State.reset.pending = [] ∧ nextIs (step State.reset) (fun t => t.watch == 1) := by decide +kernel

theorem test_StepRunsFrontCommand :
    step (State.reset.withFront .spdmGetVersion) = .next (emit (.reply "SPDM VERSION" [0x13]) State.reset) := rfl

theorem test_EveryCommandAnswers :
    exec (.jtagInstruction .keeper) { State.reset with kpr := { kprReset with sec := { kprReset.sec with debugOpen := 4 } } } =
      .refused .jtagKeeperAccess ∧
    nextIs (exec (.jtagInstruction .keeper) State.reset) (fun t => t.kpr.pins.tap == 1) := ⟨rfl, by decide +kernel⟩

theorem test_StepKeepsMemories :
    memoriesWf State.reset = true ∧ nextIs (step (State.reset.withFront (.formedMessage))) memoriesWf := by decide +kernel

theorem test_StepKeepsFuses :
    nextIs (step (State.reset.withFront .rmaEntry)) (fun t => t.kpr.fuses.kill && t.kpr.fuses.lifecycle == 3) := by decide +kernel

theorem test_RunsKeepInvariants :
    nextIs (runN 2 { State.reset with pending := [.rmaEntry, .tapReset, .halt tnd0] })
      (fun t => memoriesWf t && t.kpr.fuses.kill && t.pending == [.halt tnd0]) := by decide +kernel

/-! ### Issue -/

/-- The parts of CanIssue, gathered. -/
theorem canIssue_mk {op : Nat} {wake : Bool} {g : Eng} {bs : List Byte} {s : State}
    (h : engFree s g = true ∧ nextBytes s g = some bs ∧ dOp (descWords bs) = op ∧ waitsMet s g.st (descWords bs) = true ∧
      ((engOf s g).resumed = true ∨ breakMask s g (dTop (descWords bs)) = 0) ∧
      (latch s g bs).sb.all (sbFree s (nget (engOf s g).issues (engOf s g).pos)) = true ∧
      gateCloses s g.st op (dW7 (descWords bs)) (latch s g bs).h = false ∧ (engClass g.e = 2 → s.recov.copying = none) ∧
      (wake = true → engAwake s g = true) ∧ substOk (descWords bs) (fun i => tget 0 (engOf s g).p i) (paramDecl s g) = true ∧
      (if (engOf s g).pushed then pushedReason s g bs (latch s g bs) = none else latchedBounds s g (latch s g bs) = true)) :
    CanIssue op wake g bs s := by
  obtain ⟨a, b, c, d, e, f, i, j, k, l, m⟩ := h
  exact ⟨a, b, c, d, e, f, i, j, k, l, m⟩

/-- The descriptor in progress is done. -/
def isDone (g : Eng) (t : State) : Bool :=
  match (engOf t g).cur with
  | some l => l.done
  | none => false

/-- A NOP that waits for 3 of Station flag 5 and 1 of the same flag. -/
def nopWaits : List Byte := desc [(0, 0x2100), (1, 0x00030005), (2, 0x00010005)]

/-- The flag holds exactly the sum of both thresholds: the NOP issues, and the flag is 0; with one less it waits. -/
theorem test_DescriptorIssues :
    let s := { atIssue tnd0 nopWaits with stations := [(0, { stationReset with flags := [(5, 4)] })] }
    let s3 := { atIssue tnd0 nopWaits with stations := [(0, { stationReset with flags := [(5, 3)] })] }
    CanIssue 0x00 true tnd0 nopWaits s ∧ (noCheck (latch s tnd0 nopWaits)).go s = (.ok (), s) ∧
      nextIs (exec (.nop tnd0) s) (fun t => isDone tnd0 t && flagGet t 0 0 5 == 0 && (engOf t tnd0).pos == 1) ∧
      nextIs (exec (.nop tnd0) s3) (fun t => (engOf t tnd0).cur.isNone && flagGet t 0 0 5 == 3 && (engOf t tnd0).waiting == some (0, 5)) := by
  refine ⟨canIssue_mk ?_, rfl, ?_, ?_⟩ <;> decide +kernel

theorem test_IssueEffect :
    let s := { atIssue tnd0 nopWaits with stations := [(0, { stationReset with flags := [(5, 4)] })] }
    (∃ l t, tryIssue 0x00 true noCheck tnd0 s = .ok l t) ∧ ∃ t, tryIssue 0x00 true noCheck tnd0 (atIssue tnd0 nopWaits) = .no t :=
  ⟨⟨_, _, rfl⟩, _, rfl⟩

theorem test_ControlFlowIssues_nop :
    let bs := desc [(0, 0x2100)]; let s := atIssue tnd0 bs
    CanIssue 0x00 false tnd0 bs s ∧ engAwake s tnd0 = true ∧ nextIs (exec (.nop tnd0) s) (isDone tnd0) := by
  refine ⟨canIssue_mk ?_, ?_, ?_⟩ <;> decide +kernel

theorem test_ControlFlowIssues_halt :
    let bs := desc [(0, 0x217F)]; let s := atIssue tnd0 bs
    CanIssue 0x7F false tnd0 bs s ∧ nextIs (exec (.halt tnd0) s) (fun t => isDone tnd0 t && (engOf t tnd0).pos == 0) := by
  refine ⟨canIssue_mk ?_, ?_⟩ <;> decide +kernel

/-- COND 0b110, always, by 3 descriptors; then COND 0b001 (not equal) of a register with itself. -/
theorem test_ControlFlowIssues_branch :
    let bs := desc [(0, 0x2150), (7, 3 * 2 ^ 14 + 6 * 2 ^ 11)]; let s := atIssue tnd0 bs
    let bs2 := desc [(0, 0x2150), (7, 3 * 2 ^ 14 + 2 ^ 11)]; let s2 := atIssue tnd0 bs2
    CanIssue 0x50 false tnd0 bs s ∧ (engOf s tnd0).pushed = false ∧ CanIssue 0x50 false tnd0 bs2 s2 ∧
      nextIs (exec (.branch tnd0) s) (fun t => isDone tnd0 t && (engOf t tnd0).pos == 3 && (engOf t tnd0).prefetch.isEmpty) ∧
      nextIs (exec (.branch tnd0) s2) (fun t => isDone tnd0 t && (engOf t tnd0).pos == 1) := by
  refine ⟨canIssue_mk ?_, ?_, canIssue_mk ?_, ?_, ?_⟩ <;> decide +kernel

/-- A LOOPBACK over 2 descriptors at position 4: COUNT 2 loops once; at the last pass the loop ends. -/
theorem test_ControlFlowIssues_loopback :
    let bs := desc [(0, 0x2151), (7, 2 * 2 ^ 15 + 2)]
    let e := { engReset with present := true, pos := 4, prefetch := [(4, bs)] }
    let s := { State.reset with life := .running, engs := [(ekey tnd0, e)] }
    let s2 := { State.reset with life := .running, engs := [(ekey tnd0, { e with loops := [(0, ⟨true, 1⟩)] })] }
    CanIssue 0x51 false tnd0 bs s ∧ (engOf s tnd0).pushed = false ∧ CanIssue 0x51 false tnd0 bs s2 ∧
      nextIs (exec (.loopback tnd0) s) (fun t => (engOf t tnd0).pos == 2 && loopOf (engOf t tnd0) 0 == ⟨true, 1⟩) ∧
      nextIs (exec (.loopback tnd0) s2) (fun t => (engOf t tnd0).pos == 5 && loopOf (engOf t tnd0) 0 == ⟨false, 0⟩) := by
  refine ⟨canIssue_mk ?_, ?_, canIssue_mk ?_, ?_, ?_⟩ <;> decide +kernel

/-! ### A bound variant -/

/-- A variant of one Station whose stream on Lantern 0 has the given descriptors, and whose P0 ranges from −2 to 2. -/
def variant0 (ds : List (List Byte)) : Variant :=
  { lst := 0, lanterns := 4, wicks := 8, ndesc := ds.length, nhandles := 0, nseg := 1, descs := ds
    streams := (List.range 17).map fun e => if e = 0 then ⟨0, true, false, ds.length⟩ else ⟨0, false, false, 0⟩
    handles := [], turns := ds.map fun _ => [0, 0, 0, 0]
    params := [⟨0, -2, 2, 0, 0⟩], segs := [] }

def image0 (ds : List (List Byte)) : Image :=
  { replay := true, stretchOk := false, stretchMax := 0, fenv := 0, chips := 1, nsteps := 2, lantMin := 0, lantMax := 4, wickMin := 0
    wickMax := 8, nstations := 1, tensors := [], variants := [variant0 ds], patches := [], flags := [[]], chipFlags := []
    hostMask := 0, envelope := [], steps := [⟨1000, 0, 0, []⟩, ⟨1000, 0, 0, []⟩], root := [], blockLog2 := 12, blocks := [], forks := []
    curves := [], checkpoint := [], schedule := none, detours := [], ndetours := 0 }

def placement0 : Placement :=
  { stations := [⟨0, 0, 4, 8, [0, 1, 2, 3], [0, 1, 2, 3, 4, 5, 6, 7], []⟩], jobArea := 0, jobAreaLen := 0, moorBase := 0, fwSet := 1
    stepping := 1, darkHash := [], sectorHash := [] }

/-- Bank 0 LOADED and placed on Station 0. -/
def bank0 (ds : List (List Byte)) : Bank :=
  { bankReset with st := .loaded, img := some (image0 ds), placement := some placement0, installed := true, istoreBase := List.replicate 16 0 }

/-- SETPARAM P0 := 2, the top of its range, and P0 := −2, its bottom. -/
theorem test_StepControlIssues_setparam :
    let bs := desc [(0, 0x2152), (7, 2 * 2 ^ 17)]; let s := { atIssue lan0 bs with banks := [(0, bank0 [bs])] }
    let bs2 := desc [(0, 0x2152), (7, 0x7FFE * 2 ^ 17)]; let s2 := { atIssue lan0 bs2 with banks := [(0, bank0 [bs2])] }
    CanIssue 0x52 false lan0 bs s ∧ paramDecl s lan0 0 = some ⟨0, -2, 2, 0, 0⟩ ∧
      (setparamValue (engOf s lan0) (dW7 (latch s lan0 bs).w)).toInt = 2 ∧
      CanIssue 0x52 false lan0 bs2 s2 ∧ (setparamValue (engOf s2 lan0) (dW7 (latch s2 lan0 bs2).w)).toInt = -2 ∧
      nextIs (exec (.setparam lan0) s) (fun t => tget 0 (engOf t lan0).p 0 == 2 && isDone lan0 t) := by
  refine ⟨canIssue_mk ?_, ?_, ?_, canIssue_mk ?_, ?_, ?_⟩ <;> decide +kernel

/-- A WAIT_WATCH of OFFSET 7 with the Watch at 7, and at 6. -/
theorem test_StepControlIssues_waitWatch :
    let bs := desc [(0, 0x2153), (7, 7 * 2 ^ 8)]; let s := { atIssue tnd0 bs with watch := 7 }; let s2 := { atIssue tnd0 bs with watch := 6 }
    CanIssue 0x53 false tnd0 bs s ∧ CanIssue 0x53 false tnd0 bs s2 ∧ nextIs (exec (.waitWatch tnd0) s) (isDone tnd0) ∧
      nextIs (exec (.waitWatch tnd0) s2) (fun t => !isDone tnd0 t && (engOf t tnd0).cur.isSome && (pendingWatch t tnd0).isSome &&
        nextIs (exec (.waitWatchTarget tnd0) t) (fun u => isDone tnd0 u && u.watch == 7)) := by
  refine ⟨canIssue_mk ?_, canIssue_mk ?_, ?_, ?_⟩ <;> decide +kernel

/-- STEP_END, and a FORK of FORK_ID 9 with DECIDER set and v = S1. -/
theorem test_StepControlIssues_ends :
    let bs := desc [(0, 0x2154)]; let s := atIssue tnd0 bs
    let bf := desc [(0, 0x2155), (7, 0x1109)]
    let f := { State.reset with life := .running, engs := [(ekey tnd0, { engReset with present := true, prefetch := [(0, bf)], s := [(1, 44)] })] }
    CanIssue 0x54 false tnd0 bs s ∧ CanIssue 0x55 false tnd0 bf f ∧
      nextIs (exec (.stepEnd tnd0) s) (fun t => (engOf t tnd0).stepEnded && (engOf t tnd0).cur.isNone) ∧
      nextIs (exec (.fork tnd0) f) (fun t => t.run.forkId == some 9 && t.run.forkValue == some 44 && (engOf t tnd0).stepEnded) := by
  refine ⟨canIssue_mk ?_, canIssue_mk ?_, ?_, ?_⟩ <;> decide +kernel

/-! ### Descriptors that move and compute -/

/-- A dense handle in SRAM: format, base tile, stored bounds; the pitch of dimension 0 is its extent. -/
def hdl (fmt base : Nat) (bound : List Nat) (tally : Nat) : Handle :=
  { space := 0, fmt := fmt, blk16 := false, ndim := bound.length, blockdim := 0, alias_ := 0, base := base, aux := 0, tally := tally
    bound := bound, pitch := bound }

/-- A stream handle: a FIFO of FP32 entries of one tile, two deep. -/
def fifoHdl (base : Nat) : Handle := { hdl 0 base [0] 0 with space := 2, alias_ := 1 }

/-- Handles 1 to 9 of Station 0. -/
def stn0 : Station :=
  { stationReset with handles := [(1, hdl 1 1 [31, 0] 0), (2, hdl 1 2 [0, 31] 4), (3, hdl 0 3 [0, 0] 0), (4, hdl 8 4 [4095] 0),
                                  (5, hdl 0 5 [3] 0), (6, hdl 0 6 [3] 0), (7, hdl 8 7 [1] 0), (8, hdl 8 8 [35] 0), (9, fifoHdl 9)] }

/-- SRAM: A holds BF16 2.0 and B 3.0 at their first element; B's Tally area has its header, B's Tally
(R189: 2^32 + 1 × 0x4040) and one residue of its check vector (3 × 2^150 modulo 2^61 − 1);
FP32 elements 1.0 to 4.0 in handle 5; the index 2 in handle 7; the entry table of a kernel in handle 8. -/
def sram0 : Mem :=
  [(0x1000, [0x00, 0x40]), (0x2000, [0x40, 0x40]),
   (0x4000, [1, 0] ++ leBytes 6 0 ++ leBytes 4 32 ++ leBytes 4 1 ++ leBytes 8 0x80), (0x4040, leBytes 8 0x100004040),
   (0x4080, leBytes 8 0x30000000),
   (0x5000, leBytes 4 0x3F800000 ++ leBytes 4 0x40000000 ++ leBytes 4 0x40400000 ++ leBytes 4 0x40800000), (0x7000, leBytes 2 2),
   (0x8000, leBytes 4 32)].foldl (fun m e => wrN m e.1 e.2) []

/-- B's Tally area is tensor 7 of the image, with GCODE 0. -/
def imageB : Image :=
  { image0 [] with tensors := [⟨7, 0, 0, 1, 0, 0, 0⟩]
                   variants := [{ variant0 [] with handles := [([], 0), ([], 0), ([], 0), ([], 7)] }] }

/-- A RUNNING module at the issue of a descriptor on an engine of Station 0, with its units awake. -/
def atWork (g : Eng) (bs : List Byte) : State :=
  { atIssue g bs with
    stations := [(0, stn0)], sram := sram0, banks := [(0, { bank0 [] with img := some imageB })]
    lanterns := [(0, { lanReset 0 with unit := { unitReset with logical := some 0, gate := .awake } })]
    wicks := [(0, { wickReset 0 with unit := { unitReset with logical := some 0, gate := .awake } })] }

/-- Words of a descriptor: opcode and class, handles A to D, W7. -/
def dWords (op cls a b c w7 : Nat) : Tbl Nat :=
  [(0, op + 0x100 + cls * 0x1000), (5, a + b * 0x1000), (6, c), (7, w7)]

/-- The set of one accumulator that a MATMUL of A, B and C opens. -/
def set0 : AccSet := openSet 0 0 0 1 1

/-- An accumulator set is open in Lantern 0. -/
def withSet (s : State) : State :=
  { s with lanterns := [(0, { lanReset 0 with unit := { unitReset with logical := some 0, gate := .awake }, set := some set0 })] }

/-- The hypotheses of ComputeDescriptorsRun beside CanIssue. -/
def runsWhole (op : Nat) (g : Eng) (bs : List Byte) (body : Latched → M Unit) (s : State) : Bool :=
  let l := latch s g bs; let s1 := issueNow g l s
  (decide (0x20 ≤ op) || (decide ((checkLan g l).go s = (.ok (), s)))) && decide (l.nseg = 1) && decide (segBlock s1 g l = 0) && runsOk ((body l).go s1)

/-- 2.0 × 3.0 = 6.0. -/
theorem test_ComputeDescriptorsRun_matmul :
    let bs := desc (dWords 0x10 0 1 2 3 0); let s := atWork lan0 bs
    CanIssue 0x10 true lan0 bs s ∧ runsWhole 0x10 lan0 bs (matmulBody lan0 [] 0) s = true ∧
      nextIs (exec (.matmul lan0 []) s) (fun t => isDone lan0 t && rdN t.sram 0x3000 4 == leBytes 4 0x40C00000) := by
  refine ⟨canIssue_mk ?_, ?_, ?_⟩ <;> decide +kernel

/-- A chain, and a drain, go on from an open set. -/
theorem test_ComputeDescriptorsRun_chain :
    let bs := desc (dWords 0x11 0 1 2 3 0); let s := withSet (atWork lan0 bs)
    let bd := desc (dWords 0x12 0 0 0 3 0); let d := withSet (atWork lan0 bd)
    CanIssue 0x11 true lan0 bs s ∧ runsWhole 0x11 lan0 bs (matmulBody lan0 [] 0) s = true ∧
      CanIssue 0x12 true lan0 bd d ∧ runsWhole 0x12 lan0 bd (drainBody lan0 [] 0) d = true ∧
      nextIs (exec (.accDrain lan0 []) d) (fun t => isDone lan0 t && (setOf t lan0).isNone) := by
  refine ⟨canIssue_mk ?_, ?_, canIssue_mk ?_, ?_, ?_⟩ <;> decide +kernel

/-- A COPY of four elements, and a TAP of one. -/
theorem test_ComputeDescriptorsRun_copy :
    let bs := desc (dWords 0x20 2 5 0 6 3); let s := atWork tnd0 bs
    let bt := desc (dWords 0x61 2 5 0 6 0); let p := atWork tnd0 bt
    CanIssue 0x20 true tnd0 bs s ∧ runsWhole 0x20 tnd0 bs (copyBody tnd0 []) s = true ∧
      CanIssue 0x61 true tnd0 bt p ∧ runsWhole 0x61 tnd0 bt (copyBody tnd0 []) p = true ∧
      nextIs (exec (.copy tnd0 []) s) (fun t => isDone tnd0 t && rdN t.sram 0x6000 16 == rdN sram0 0x5000 16) ∧
      nextIs (exec (.tap tnd0 []) p) (fun t => isDone tnd0 t && rdN t.sram 0x6000 8 == leBytes 8 0x3F800000) := by
  refine ⟨canIssue_mk ?_, ?_, canIssue_mk ?_, ?_, ?_, ?_⟩ <;> decide +kernel

/-- A GATHER and a SCATTER of one element under the index 2, a FILL of zeros, and a TALLY_VERIFY of a handle with no Tally link. -/
theorem test_ComputeDescriptorsRun_index :
    let bg := desc (dWords 0x21 2 5 7 6 0); let g := atWork tnd0 bg
    let bc := desc (dWords 0x22 2 5 7 6 0); let c := atWork tnd0 bc
    let bf := desc (dWords 0x23 2 0 0 5 3); let f := atWork tnd0 bf
    let bv := desc (dWords 0x60 2 5 0 0 0); let v := atWork tnd0 bv
    CanIssue 0x21 true tnd0 bg g ∧ runsWhole 0x21 tnd0 bg (indexBody tnd0 []) g = true ∧
      CanIssue 0x22 true tnd0 bc c ∧ runsWhole 0x22 tnd0 bc (indexBody tnd0 []) c = true ∧
      CanIssue 0x23 true tnd0 bf f ∧ runsWhole 0x23 tnd0 bf (fillBody tnd0 []) f = true ∧
      CanIssue 0x60 true tnd0 bv v ∧ runsWhole 0x60 tnd0 bv (verifyBody tnd0 []) v = true ∧
      nextIs (exec (.gather tnd0 []) g) (fun t => isDone tnd0 t && rdN t.sram 0x6000 4 == leBytes 4 0x40400000) ∧
      nextIs (exec (.scatter tnd0 []) c) (fun t => isDone tnd0 t && rdN t.sram 0x6008 4 == leBytes 4 0x3F800000) ∧
      nextIs (exec (.fill tnd0 []) f) (fun t => isDone tnd0 t && rdN t.sram 0x5000 16 == List.replicate 16 0) ∧
      nextIs (exec (.tallyVerify tnd0 []) v) (isDone tnd0) := by
  refine ⟨canIssue_mk ?_, ?_, canIssue_mk ?_, ?_, canIssue_mk ?_, ?_, canIssue_mk ?_, ?_, ?_, ?_, ?_, ?_⟩ <;> decide +kernel

/-- REDUCE_SCALAR with sum of the four elements 1.0 to 4.0 into S3: 10.0. The level visits 4 elements of dimension 0 of A. -/
theorem test_ReduceScalarRuns :
    let bs := desc (dWords 0x31 1 5 0 0 (4 + 3 * 2 ^ 8) ++ [(8, 4 + 0xFF0 * 2 ^ 16 + 2 ^ 30)]); let s := atWork wck0 bs
    let l := latch s wck0 bs; let s1 := issueNow wck0 l s
    CanIssue 0x31 true wck0 bs s ∧ (checkReduce wck0 l).go s = (.ok (), s) ∧ l.nseg = 1 ∧ segBlock s1 wck0 l = 0 ∧
      (let o : Opnd := ⟨5, hdl 0 5 [3] 0, 0, 0⟩; let r := (reduceElems wck0 l o).go s1
        (opnd s1 wck0 l 0 false).go s1 = (.ok o, s1) ∧ r.1 = .ok [0x3F800000, 0x40000000, 0x40400000, 0x40800000] ∧ r.2.engs = s1.engs) ∧
      nextIs (exec (.reduceScalar wck0 []) s) (fun t => ((engOf t wck0).cur.map Latched.res) == some [(3, 0x41200000)]) := by
  refine ⟨canIssue_mk ?_, ?_, ?_, ?_, ?_, ?_⟩ <;> decide +kernel

/-- A KERNEL of the 36 bytes of handle 8 enters at offset 32. -/
theorem test_KernelStarts :
    let bs := desc (dWords 0x30 1 0 0 0 8); let s := atWork wck0 bs; let l := latch s wck0 bs; let s1 := issueNow wck0 l s
    CanIssue 0x30 true wck0 bs s ∧ (checkKernel wck0 l).go s = (.ok (), s) ∧ wickRef s1 wck0 = some ⟨0, 0⟩ ∧
      codeOpnd s1 wck0 l = some ⟨8, hdl 8 8 [35] 0, 0, 0⟩ ∧ 0 < l.nseg ∧
      runsOk ((makeResident ⟨0, 0⟩ wck0 ⟨8, hdl 8 8 [35] 0, 0, 0⟩).go s1) = true ∧
      segBlock ((makeResident ⟨0, 0⟩ wck0 ⟨8, hdl 8 8 [35] 0, 0, 0⟩).go s1).2 wck0 l = 0 ∧
      nextIs (exec (.kernel wck0 []) s) (fun t => (wOf t ⟨0, 0⟩).inKernel && (wOf t ⟨0, 0⟩).pc == 32 && xr (wOf t ⟨0, 0⟩) 14 == 0x1F000) := by
  refine ⟨canIssue_mk ?_, ?_, ?_, ?_, ?_, ?_, ?_, ?_⟩ <;> decide +kernel

/-! ### Fetch, completion and FIFOs -/

/-- A latched descriptor of one segment. -/
def lat (ws : Tbl Nat) (hs : List Nat) : Latched :=
  { pos := 0, pushed := false, w := descWords (desc ws), h := hs, off := [0, 0, 0, 0], p := [], sb := [], seg := 0, nseg := 1, blocked := 0
    done := false, target := 0, flits := 0, tally := 0, res := [] }

/-- A RUNNING module in which an engine of Station 0 has a descriptor in progress. -/
def inHand (g : Eng) (l : Latched) : State :=
  { State.reset with life := .running, stations := [(0, stn0)], sram := sram0, engs := [(ekey g, { engReset with present := true, cur := some l })] }

/-- A HALT in the store of Lantern 0's stream, and the same place empty, whose CRC is wrong. -/
theorem test_FetchTakesDescriptor :
    let b := descSealed [(0, 0x017F)]
    let s := { State.reset with life := .running, banks := [(0, bank0 [b])], engs := [(ekey lan0, { engReset with present := true })] }
    let f := { s with istore := wrN [] 0 b }
    canFetch f lan0 = true ∧ fetchFails f lan0 0 = false ∧ canFetch s lan0 = true ∧ fetchFails s lan0 0 = true ∧
      nextIs (exec (.descriptorFetch lan0 []) f) (fun t => (engOf t lan0).prefetch == [(0, b)]) ∧
      nextIs (exec (.descriptorFetch lan0 []) s) (fun t => (engOf t lan0).prefetch.isEmpty && (t.recov.faults.map FaultRec.code) == [0x2080]) := by
  decide +kernel

/-- A COPY that adds 255 to a flag at 65,280, and 1 to another, and a HALT; another stream has not halted. -/
theorem test_DescriptorCompletes :
    let l := { lat [(0, 0x2120), (3, 0xFF0005), (4, 0x010006)] [5, 0, 6, 0] with done := true, res := [(2, 9)] }
    let h := { lat [(0, 0x217F)] [0, 0, 0, 0] with done := true }
    let go := fun (x : Latched) => { State.reset with
      life := .running, stations := [(0, { stn0 with flags := [(5, 65280)] })]
      engs := [(ekey lan0, { engReset with present := true }), (ekey tnd0, { engReset with present := true, cur := some x })] }
    dueDesc (go l) tnd0 = some l ∧ dOp l.w ≠ 0x61 ∧ lan0 ≠ tnd0 ∧ (engOf (go l) lan0).present = true ∧ (engOf (go l) lan0).pushed = false ∧
      (engOf (go l) lan0).halted = false ∧ flagGet (go l) 0 0 5 + 255 = 65535 ∧ dueDesc (go h) tnd0 = some h ∧
      nextIs (exec (.descriptorComplete tnd0) (go l)) (fun t => (engOf t tnd0).cur.isNone && flagGet t 0 0 5 == 65535 && flagGet t 0 0 6 == 1 &&
        tget 0 (engOf t tnd0).s 2 == 9 && t.life == .running) ∧
      nextIs (exec (.descriptorComplete tnd0) (go h)) (fun t => (engOf t tnd0).halted && t.life == .running) := by decide +kernel

theorem test_DescriptorCompletes_tap :
    let l := { lat [(0, 0x2161), (7, 0x1234)] [5, 0, 6, 0] with done := true }
    let s := { inHand tnd0 l with engs := [(ekey lan0, { engReset with present := true }), (ekey tnd0, { engReset with present := true, cur := some l })] }
    dueDesc s tnd0 = some l ∧ dOp l.w = 0x61 ∧ nestCount (levels l.w) ≠ 0 ∧ s.led.taps.length < 4096 ∧ sigInc (nth l.w 3) = 0 ∧
      sigInc (nth l.w 4) = 0 ∧ (engOf s lan0).present = true ∧ (engOf s lan0).pushed = false ∧ (engOf s lan0).halted = false := by decide +kernel

/-- The hypotheses of FifosMove. -/
def goesOn (k op : Nat) (g : Eng) (l : Latched) (body : Latched → M Unit) (s : State) : Bool :=
  let s1 := putEng g { engOf s g with waiting := none } s
  decide (fifoReady s g k = some l) && decide (dOp l.w = op) && decide (l.nseg = l.seg + 1) && decide (segBlock s1 g l = 0) && runsOk ((body l).go s1)

/-- A COPY that waited for an entry of FIFO 9, and one that waited for room in it. -/
theorem test_FifosMove :
    let l := { lat (dWords 0x20 2 9 0 6 0) [9, 0, 6, 0] with blocked := 1 }
    let s := { inHand tnd0 l with stations := [(0, { stn0 with fifos := [(9, ⟨0, 1⟩)] })] }
    let k := { lat (dWords 0x20 2 5 0 9 0) [5, 0, 9, 0] with blocked := 2 }
    let p := { inHand tnd0 k with stations := [(0, { stn0 with fifos := [(9, ⟨1, 2⟩)] })] }
    goesOn 1 0x20 tnd0 l (copyBody tnd0 []) s = true ∧ goesOn 2 0x20 tnd0 k (copyBody tnd0 []) p = true ∧
      nextIs (exec (.fifoPop tnd0 []) s) (fun t => isDone tnd0 t && fifoOf t 0 9 == ⟨1, 1⟩) ∧
      nextIs (exec (.fifoPush tnd0 []) p) (fun t => isDone tnd0 t && fifoOf t 0 9 == ⟨1, 3⟩ && rdN t.sram 0x9000 4 == leBytes 4 0x3F800000) := by
  decide +kernel

theorem test_WatchTargetReached :
    let l := { lat [(0, 0x2153)] [0, 0, 0, 0] with target := 9 }
    pendingWatch (inHand tnd0 l) tnd0 = some l ∧
      nextIs (exec (.waitWatchTarget tnd0) (inHand tnd0 l)) (fun t => t.watch == 9 && isDone tnd0 t) := by decide +kernel

/-! ### Wick pairs -/

def w0 : WickRef := ⟨0, 0⟩

/-- The KERNEL in progress, with operands A and C of Station 0. -/
def kern0 : Latched := lat (dWords 0x30 1 5 0 6 8) [5, 0, 6, 0]

/-- A pair of Station 0 in a kernel, with its registers changed by f. -/
def inKern (f : Wick → Wick) : State :=
  { inHand wck0 kern0 with
    wicks := [(0, f { wickReset 0 with unit := { unitReset with logical := some 0, gate := .awake }, inKernel := true })] }

/-- x1 = −1 and x2 = 62: the residues are p − 1, 61, p − 62 and, shifted by 62 mod 61 = 1, p − 2; x0 discards. -/
theorem test_TallyArithmetic :
    let s := inKern fun k => { k with x := [(1, BitVec.allOnes 64), (2, 62)] }; let p := 2 ^ 61 - 1
    inKernel s w0 = some (wck0, kern0) ∧
      nextIs (exec (.tlyRed ⟨w0, []⟩ 3 1) s) (fun t => xr (wOf t w0) 3 == BitVec.ofNat 64 (p - 1) && (wOf t w0).pc == 4) ∧
      nextIs (exec (.tlyAdd ⟨w0, []⟩ 3 1 2) s) (fun t => xr (wOf t w0) 3 == 61) ∧
      nextIs (exec (.tlyMul ⟨w0, []⟩ 3 1 2) s) (fun t => xr (wOf t w0) 3 == BitVec.ofNat 64 (p - 62)) ∧
      nextIs (exec (.tlySh ⟨w0, []⟩ 3 1 2) s) (fun t => xr (wOf t w0) 3 == BitVec.ofNat 64 (p - 2)) ∧
      nextIs (exec (.tlyRed ⟨w0, []⟩ 0 1) s) (fun t => (wOf t w0).x == (wOf s w0).x && (wOf t w0).pc == 4) := by decide +kernel

/-- The tile of operand A, at 0x4000_5000 in the local window; tly.beta of one BF16 1.0, which is 2^150 = 2^28 modulo 2^61 − 1, and of one MX
element. -/
theorem test_TallyMemory :
    let s := inKern fun k => { k with x := [(1, 0x40005000), (2, 0x40005002), (3, 0x10001), (4, 0xA0001), (5, 0x40005003)] }; let s0 := chk 3 false s
    inKernel s w0 = some (wck0, kern0) ∧ runsOk ((tileTally w0 wck0 kern0 (xr (wOf s w0) 1).toNat).go s0) = true ∧
      runsOk ((chkRun w0 0 1 wck0 kern0).go s0) = true ∧ runsOk ((kLoad w0 wck0 kern0 0x40005002 2).go s0) = true ∧
      runsOk ((kLoad w0 wck0 kern0 0x40005002 1).go s0) = true ∧ runsOk ((kLoad w0 wck0 kern0 0x40005003 1).go s0) = true ∧
      nextIs (exec (.tlyBeta w0 6 2 3 0 []) s) (fun t => xr (wOf t w0) 6 == 0x10000000) ∧
      nextIs (exec (.tlyBeta w0 6 2 4 5 []) s) (fun t => (wOf t w0).pc == 4) := by decide +kernel

/-- Two elements, 1.0 and 2.0, in v1. -/
def vec2 : State :=
  inKern fun k => { k with vl := 2, vtype := 0x10, v := [(1, 0x400000003F800000)], x := [(1, 1), (2, 0xA)] }

theorem test_VectorForms :
    inKernel vec2 w0 = some (wck0, kern0) ∧ vecOk (wOf vec2 w0) = true ∧ cvtOk 1 = true ∧ cvtFmtOk 1 = true ∧ cvtOk 0xA = true ∧
      cvtFmtOk 0xA = true ∧ isMx 0xA = true ∧ (wOf vec2 w0).vl ≤ 32 ∧
      nextIs (exec (.redSum ⟨w0, []⟩ 3 1) vec2) (fun t => xr (wOf t w0) 3 == 0x40400000) ∧
      nextIs (exec (.redMax ⟨w0, []⟩ 3 1) vec2) (fun t => xr (wOf t w0) 3 == 0x40000000) ∧
      nextIs (exec (.redMin ⟨w0, []⟩ 3 1) vec2) (fun t => xr (wOf t w0) 3 == 0x3F800000) ∧
      nextIs (exec (.redAmax ⟨w0, []⟩ 3 1 0) vec2) (fun t => xr (wOf t w0) 3 == 1) ∧
      nextIs (exec (.cvtOut ⟨w0, []⟩ 2 1 1) vec2) (fun t => tget 0 (wOf t w0).v 2 == 0x40003F80) ∧
      nextIs (exec (.cvtMxs ⟨w0, []⟩ 3 1 2) vec2) (fun t => (wOf t w0).pc == 4) := by decide +kernel

/-- vtype at its value at the entry has vill set. -/
theorem test_VectorForms_trap :
    let s := inKern id
    inKernel s w0 = some (wck0, kern0) ∧ vecOk (wOf s w0) = false ∧
      nextIs (exec (.redSum ⟨w0, []⟩ 3 1) s) (fun t => (engOf t wck0).stopped && (t.recov.faults.map FaultRec.code) == [0x2071]) := by decide +kernel

/-- A pair in a kernel, with one instruction word at address 0 of its code. -/
def inCode (n : Nat) (f : Wick → Wick) : State := inKern fun k => f { k with lmem := wrN [] 0 (leBytes 4 n) }

/-- The plan of a word at pc 0 reads no memory and commits registers. -/
def plansPure (s : State) (n : Nat) : Bool :=
  let k := wOf s w0
  match rvPlan s.free (fun a => regionOf 0 a = .none) n 0 { toRv k with pc := 4 } with
  | some p => p.loads == [] && (match p.act [] with | .done _ [] _ => true | _ => false)
  | none => false

/-- ADDI x1, x0, 5, and ADD x3, x1, x2 of 2^64 − 1 and 62; a second core that commits something else. -/
theorem test_StandardInstruction :
    let s := inCode 0x00500093 id; let a := inCode (0x33 + 2 ^ 7 * 3 + 2 ^ 15 * 1 + 2 ^ 20 * 2) fun k => { k with x := [(1, BitVec.allOnes 64), (2, 62)] }
    inKernel s w0 = some (wck0, kern0) ∧ fetched (wOf s w0) = some (0x00500093, 4) ∧ decodeXseltar w0 0x00500093 [] = none ∧
      isCsr 0x00500093 = false ∧ plansPure s 0x00500093 = true ∧ inKernel a w0 = some (wck0, kern0) ∧
      fetched (wOf a w0) = some (0x33 + 2 ^ 7 * (3 : Fin 32).val + 2 ^ 15 * (1 : Fin 32).val + 2 ^ 20 * (2 : Fin 32).val, 4) ∧
      nextIs (exec (.wickInstruction w0 [] false false []) s) (fun t => xr (wOf t w0) 1 == 5 && (wOf t w0).pc == 4) ∧
      nextIs (exec (.wickInstruction w0 [] false false []) a) (fun t => xr (wOf t w0) 3 == 61 && (wOf t w0).pc == 4) ∧
      nextIs (exec (.wickInstruction w0 [] false true []) s) (fun t => xr (wOf t w0) 1 == 0 && (wOf t w0).pc == 0 &&
        (t.recov.faults.map FaultRec.code) == [0x2002]) := by decide +kernel

/-- C.LI x5, −1 (0x52FD) is ADDI x5, x0, −1, and runs in two bytes. -/
theorem test_compressed_expands :
    rvExpand 0x52FD = some 0xFFF00293 ∧
      nextIs (exec (.wickInstruction w0 [] false false []) (inCode 0x52FD id)) (fun t => xr (wOf t w0) 5 == BitVec.allOnes 64 && (wOf t w0).pc == 2) := by
  decide +kernel

/-- FADD.S f3, f1, f2 of 1.0 and 2.0, and VADD.VI v2, v1, 1 over two elements of 32 bits (vtype ta, ma, e32, m1). -/
theorem test_float_and_vector_words :
    nextIs (exec (.wickInstruction w0 [] false false []) (inCode 0x0020F1D3 fun k =>
        { k with f := [(1, 0xFFFFFFFF3F800000), (2, 0xFFFFFFFF40000000)] })) (fun t => tget 0 (wOf t w0).f 3 == 0xFFFFFFFF40400000) ∧
      nextIs (exec (.wickInstruction w0 [] false false []) (inCode 0x0210B157 fun k => { k with vl := 2, vtype := 0x10, v := [(1, 0x0000000700000005)] }))
        (fun t => (tget 0 (wOf t w0).v 2).toNat % 2 ^ 64 == 0x0000000800000006) := by decide +kernel

/-- R94: words written out from the encoding of each group of forms. -/
theorem test_xseltar_words :
    decodeXseltar w0 (0x0B + 2 ^ 7 * 3 + 2 ^ 15 * 1 + 2 ^ 20 * 2 + 2 ^ 25 * 2) [] = some (.tlyMul ⟨w0, []⟩ 3 1 2) ∧
      decodeXseltar w0 (0x0B + 2 ^ 7 * 6 + 2 ^ 12 * 1 + 2 ^ 15 * 2 + 2 ^ 20 * 4 + 2 ^ 27 * 5) [] = some (.tlyBeta w0 6 2 4 5 []) ∧
      decodeXseltar w0 (0x0B + 2 ^ 15 * 1 + 2 ^ 25 * 6) [] = none ∧
      decodeXseltar w0 (0x2B + 2 ^ 7 * 2 + 2 ^ 15 * 7 + 2 ^ 20 * 1) [] = some (.crvEv ⟨w0, []⟩ 2 1 7) ∧
      decodeXseltar w0 (0x2B + 2 ^ 7 * 2 + 2 ^ 12 * 1 + 2 ^ 15 * 7 + 2 ^ 20 * 1 + 2 ^ 25 * 1) [] = some (.rngF32 ⟨w0, []⟩ 2 7 1) ∧
      decodeXseltar w0 (0x2B + 2 ^ 7 * 3 + 2 ^ 12 * 2 + 2 ^ 20 * 1 + 2 ^ 25 * 4) [] = some (.redSum ⟨w0, []⟩ 3 1) ∧
      decodeXseltar w0 (0x2B + 2 ^ 7 * 2 + 2 ^ 12 * 3 + 2 ^ 15 * 7 + 2 ^ 20 * 1 + 2 ^ 25 * 1) [] = some (.cvtOut ⟨w0, []⟩ 2 1 7) := by decide +kernel

/-- tly.red x3, x1 of −1, as a word in the code: p − 1. -/
theorem test_xseltar_runs :
    nextIs (exec (.wickInstruction w0 [] false false []) (inCode (0x0B + 2 ^ 7 * 3 + 2 ^ 15 * 1) fun k => { k with x := [(1, BitVec.allOnes 64)] }))
      (fun t => xr (wOf t w0) 3 == BitVec.ofNat 64 (2 ^ 61 - 2) && (wOf t w0).pc == 4) := by decide +kernel

/-- a7 at 0, 1 and 2. -/
theorem test_EcallByA7 :
    let s := inKern id; let s1 := inKern fun k => { k with x := [(17, 1)] }; let s2 := inKern fun k => { k with x := [(17, 2)] }
    inKernel s w0 = some (wck0, kern0) ∧ runsOk ((sealSet w0 wck0 kern0).go (chk 3 false s)) = true ∧ kern0.nseg ≤ kern0.seg + 1 ∧
      inKernel s1 w0 = some (wck0, kern0) ∧ inKernel s2 w0 = some (wck0, kern0) ∧
      nextIs (exec (.ecall w0 []) s) (isDone wck0) ∧
      nextIs (exec (.ecall w0 []) s1) (fun t => (t.recov.faults.map FaultRec.code) == [0x2072]) ∧
      nextIs (exec (.ecall w0 []) s2) (fun t => (t.recov.faults.map FaultRec.code) == [0x2071]) := by decide +kernel

/-- Tender channel 0's stream is pushed, with n descriptors in its queue. -/
def withQueue (n : Nat) (s : State) : State :=
  putEng tnd0 { engReset with present := true, pushed := true, queue := List.replicate n [] } s

theorem test_PushStoreEnqueues :
    let d := desc [(0, 0x2100)]; let s := withQueue 7 (inKern id); let f := withQueue 8 (inKern id)
    let k := withQueue 7 (inKern fun k => { k with stalled := some (tnd0, d) })
    inKernel s w0 = some (wck0, kern0) ∧ regionOf w0.st 0x60020000 = .push 0x20000 ∧ pushTarget s w0.st 0x20000 = .eng tnd0 ∧
      pushTarget f w0.st 0x20000 = .eng tnd0 ∧ d.length = 64 ∧ (engOf s tnd0).pushed = true ∧ (engOf s tnd0).queue.length < 8 ∧
      inKernel f w0 = some (wck0, kern0) ∧ 8 ≤ (engOf f tnd0).queue.length ∧ stalledPush k w0 = some (tnd0, d) ∧
      nextIs (exec (.pushStore ⟨w0, []⟩ 0x60020000 d true) s) (fun t => (engOf t tnd0).queue.length == 8) ∧
      nextIs (exec (.pushStore ⟨w0, []⟩ 0x60020000 d true) f) (fun t => (wOf t w0).stalled == some (tnd0, d)) ∧
      nextIs (exec (.pushQueueRoom w0) k) (fun t => (engOf t tnd0).queue.length == 8 && (wOf t w0).stalled.isNone) := by decide +kernel

/-! ### Units -/

def lanU : UnitRef := .lantern 0 0
def lanS : UnitRef := .lantern 0 4

/-- A module in a state of its life in which units 0 and 4 of Station 0's Lanterns stand as given. -/
def units (life : Life) (u v : UnitSt) : State :=
  { State.reset with life := life, lanterns := [(0, { lanReset 0 with unit := u }), (4, { lanReset 4 with unit := v })] }

theorem test_SparesAndGating_tests :
    let e := { unitReset with logical := some 0 }; let s := units .loaded e { unitReset with role := .spare }
    let k := { units .loaded e { unitReset with role := .test, katRunning := true } with banks := [(0, bank0 [])] }
    (unitOf s lanS).role = .spare ∧ sparePowered s = true ∧ paused s = false ∧ s.life ≠ .off ∧ railsOff s = false ∧ (unitOf k lanS).role = .test ∧
      (unitOf k lanS).katRunning = true ∧ (bankOf k 0).st = .loaded ∧
      nextIs (exec (.spareKatTimer lanS) s) (fun t => (unitOf t lanS).role == .test) ∧
      nextIs (exec (.katStart lanS) s) (fun t => (unitOf t lanS).katRunning) ∧
      nextIs (exec (.spareKatComplete lanS true) k) (fun t => (unitOf t lanS).katPassed && (unitOf t lanS).role == .spare) ∧
      nextIs (exec (.spareKatComplete lanS false) k) (fun t => (unitOf t lanS).role == .dark && (bankOf t 0).st == .stale &&
        bitAt (regGet t (darkReg 0)) 20) := by decide +kernel

/-- IDLE_POLICY 0b01, and a unit that wakes. -/
theorem test_SparesAndGating_gates :
    let s := { units .loaded { unitReset with logical := some 0, gate := .clockGated } unitReset with
      regs := [(pageBase (unitPage lanU) + 0x10, 4)] }
    let w := units .running { unitReset with logical := some 0, waking := true } unitReset
    mayGate s lanU = true ∧ (unitOf w lanU).waking = true ∧
      nextIs (exec (.powerGateDelayExpiry lanU) s) (fun t => (unitOf t lanU).gate == .powerGated && t.watch == 50000) ∧
      nextIs (exec (.engineWakeDone lanU) w) (fun t => (unitOf t lanU).gate == .awake) := by decide +kernel

/-- A tested spare stands by, or none does. -/
theorem test_FaultingUnitTest :
    let e := { unitReset with logical := some 0, suspect := true }
    let s := units .held e { unitReset with role := .spare, katPassed := true }; let n := units .held e { unitReset with role := .spare }
    let s1 := putUnit lanU { katDone false (unitOf s lanU) with suspect := false } s
    let n1 := putUnit lanU { katDone false (unitOf n lanU) with suspect := false } n
    (unitOf s lanU).suspect = true ∧ s.life = .held ∧ testedSpare s1 lanU = some lanS ∧ lanS ≠ lanU ∧ (unitOf n lanU).suspect = true ∧
      testedSpare n1 lanU = none ∧
      nextIs (exec (.faultKatComplete lanU true) s) (fun t => !(unitOf t lanU).suspect) ∧
      nextIs (exec (.faultKatComplete lanU false) s) (fun t => (unitOf t lanS).logical == some 0 && (unitOf t lanU).role == .dark) ∧
      nextIs (exec (.faultKatComplete lanU false) n) (fun t => t.life == .faulted && t.recov.terminal == some (0x2065, 0)) := by decide +kernel

/-! ### Steps -/

/-- Step 0 of an image of two steps of 1,000 ticks, with one engine. -/
def stepping (e : Engine) : State :=
  { State.reset with life := .running, banks := [(0, bank0 [])], engs := [(ekey lan0, e)] }

theorem test_StepBoundaryAdvances :
    let s := stepping { engReset with present := true, stepEnded := true }; let l := stepping { engReset with present := true }
    let s1 := watchTo (ceilDiv (nextStart1024 s) 1024) s; let l1 := watchTo (ceilDiv (nextStart1024 l) 1024) l
    s.life = .running ∧ forkUnissued s1 = false ∧ forkUnissued l1 = false ∧ stepEndedHere s1 = true ∧ endsHere s1 = false ∧ forkMissing s1 = false ∧ forkTooLate s1 = false ∧
      stepEndedHere l1 = false ∧ firstLate l1 = some lan0 ∧ (l.recov.faults.any fun f => f.code = 0x2022 && f.step = l.run.step) = false ∧
      nextIs (exec .stepBoundary s) (fun t => t.run.step == 1 && t.run.rec_ == 1 && t.watch == ceilDiv (nextStart1024 s) 1024) ∧
      nextIs (exec .stepBoundary l) (fun t => (t.recov.faults.map FaultRec.code) == [0x2022] && t.life == .running) := by decide +kernel

theorem test_StepCommits :
    let s0 := stepping { engReset with present := true }; let s := { s0 with run := { s0.run with step := 1 } }; let s1 := watchTo (commitAt s) s
    let c := { s with recov := { s.recov with copying := some 0 } }
    canCommit s = true ∧ runsOk ((((copyTiles (ckTensors s1)).take 1).forM copyOne).go s1) = true ∧
      runsOk ((((copyTiles (ckTensors s1)).drop 1).forM copyOne).go s1) = true ∧ s.fab.comparing = false ∧ c.recov.copying = some 0 ∧
      c.life = .running ∧ wdCounts s lan0 = true ∧
      nextIs (exec (.stepCommit []) s) (fun t => t.recov.copying == some 0) ∧
      nextIs (exec .checkpointCopyDone c) (fun t => t.recov.copying.isNone && t.recov.committed == 1) ∧
      nextIs (exec (.deadlockWatchdog lan0) s) (fun t => (t.recov.faults.map FaultRec.code) == [0x2020]) := by decide +kernel

/-! ### Memory -/

theorem test_MemoryReadsBack :
    memoriesWf State.reset = true ∧ rdN (pokeMem 0 0x3FFFFFFE [1, 0, 2] State.reset).sram 0x3FFFFFFE 3 = [1, 0, 2] ∧
      memoriesWf (pokeMem 0 0x3FFFFFFE [1, 0, 2] State.reset) = true := by decide +kernel

theorem test_SramCodeWord :
    let s := { State.reset with sramEcc := [(8, 1), (16, 2)] }
    nget s.sramEcc 0 = 0 ∧ nget s.sramEcc 8 = 1 ∧ nget s.sramEcc 16 = 2 ∧ (sramWord false 15 s).1 = true ∧ (sramWord false 23 s).1 = false := by
  decide +kernel

/-- A single-bit error in the line that the scrubber reads, and the line's write-back. -/
theorem test_MemoryUpkeep_sram :
    let s := { State.reset with life := .ready, stations := [(0, { stationReset with scrub := ⟨[], 5, 0, []⟩ })], sramEcc := [(8, 1)] }
    let p := { s with stations := [(0, { stationReset with scrub := ⟨[0], 5, 0, []⟩ })] }
    canScrub s 0 = true ∧ (∀ i, i < 8 → nget s.sramEcc (scrubLine s 0 + 8 * i) ≤ 1) ∧ nget s.sramEcc (scrubLine s 0 + 8 * 1) = 1 ∧
      (stnOf p 0).scrub.pending = [0] ∧ railsOff p = false ∧ 0 < (stnOf p 0).scrub.left ∧
      nextIs (exec (.sramScrubRead 0 []) s) (fun t => (stnOf t 0).scrub.pending == [0] && (stnOf t 0).scrub.line == 1) ∧
      nextIs (exec (.scrubWriteback 0) p) (fun t => (stnOf t 0).scrub.pending.isEmpty && t.sramEcc.isEmpty) ∧
      nextIs (exec (.scrubPeriodEnd 0) p) (fun t => (stnOf t 0).scrub.left == 0x100000 && t.out.contains (.report 0x0030 (pgSram 0))) := by
  decide +kernel

theorem test_MemoryUpkeep_dram :
    let s := { State.reset with life := .ready, kpr := { kprReset with dram := [(15, ⟨false, 0, [], [], []⟩)] } }; let c := chanLine 255 0 / 64 * 64
    let e := { s with dramEcc := [(c, [7])] }
    canPatrol s 255 = true ∧ tget [] s.dramEcc (chanLine 255 0 / 64 * 64) = [] ∧ railsOff s = false ∧ (dramOf s 15).selfRefresh = false ∧
      canPatrol e 255 = true ∧ tget [] e.dramEcc c = [7] ∧ dramChan c = 255 ∧ retiredSym e 255 ≠ some 7 ∧ (dramOf e 15).pending = [] ∧
      nextIs (exec (.dramPatrolRead 255 []) s) (fun t => nget (dramOf t 15).patrol 15 == 1) ∧
      nextIs (exec (.dramPatrolRead 255 []) e) (fun t => (dramOf t 15).pending == [c] && tget [] t.dramEcc c == [7]) ∧
      nextIs (exec (.dramRefresh 255) s) (fun t => nget (dramOf t 15).refreshed 15 == t.watch) ∧
      nextIs (exec (.dramTemperatureRead 15 90) s) (fun t => (dramOf t 15).temp == 90) := by decide +kernel

/-! ### Faults and replay -/

theorem test_HoldAndReplay_hold :
    let s := { stepping { engReset with present := true } with
      run := { runReset with replay := true }, recov := { recovReset with faults := [⟨0x2001, 0, .chip, none⟩] } }
    s.recov.faults = [⟨0x2001, 0, .chip, none⟩] ∧ s.life = .running ∧ s.recov.holds = [] ∧ isTerminal 0x2001 = false ∧
      s.recov.replaying.contains 0 = false ∧ replayOff s = false ∧ findNat (routerBad s) 16 0 = none ∧
      nextIs (exec .faultReport s) (fun t => t.life == .held && t.recov.target == some 0) := by decide +kernel

theorem test_HoldAndReplay_replay :
    let s0 := { stepping { engReset with present := true } with life := .held }
    let r := { s0 with recov := { recovReset with restoring := true, target := some 0 } }
    let o := { s0 with recov := { recovReset with rolledBack := true, target := some 0, origin := some 5, holds := [⟨0, 0x2001, 0⟩] } }
    r.life = .held ∧ r.recov.restoring = true ∧ runsOk ((restorePairs (ckTensors r)).go r) = true ∧ o.recov.origin = some 5 ∧
      notSwitched o = false ∧ replayReady o = true ∧ overLimit (watchTo 5 o) = false ∧
      nextIs (exec (.rollbackComplete []) r) (fun t => t.recov.rolledBack) ∧
      nextIs (exec .replayOrigin o) (fun t => t.life == .running && t.watch == 5 && t.run.start == 5120) := by decide +kernel

/-- A bank with no detours. -/
theorem test_ModuleFailures :
    let s := stepping { engReset with present := true }
    railsOff s = false ∧ inJob s = true ∧ s.life ≠ .off ∧ s.life = .running ∧ detourRecs s s.run.bank = [] ∧ inJob State.reset = false ∧
      State.reset.life ≠ .off ∧
      nextIs (exec (.stationPllLoss 0) s) (fun t => t.life == .faulted && (stnOf t 0).dark) ∧
      nextIs (exec .keeperCompareMismatch s) (fun t => t.life == .faulted && t.jobs.halted) ∧
      nextIs (exec .keeperCompareMismatch State.reset) (fun t => t.out.contains (.report 0x20A6 pgRcv)) ∧
      nextIs (exec .detourLinkTest s) (fun t => t.out == s.out) := by decide +kernel

/-! ### Links -/

/-- A SCHEDULE section (R273, R275) of one Character of one class, in which Station 0 sends a flit of tag 3 on logical link 0 in Flash 1, and
receives one of tag 3 from it that left in Flash 1. -/
def sched0 : List Byte :=
  let phrase := fun action => leBytes 8 (1 + 1 * 2 ^ 20 + 1 * 2 ^ 32 + 3 * 2 ^ 44 + action * 2 ^ 56)
  [0, 5, 2, 1, 1, 1] ++ leBytes 2 0 ++ leBytes 2 1 ++ leBytes 2 1 ++ leBytes 4 0 ++ leBytes 8 0x40 ++ leBytes 8 0 ++ leBytes 8 0x48 ++ leBytes 8 0x50 ++
    leBytes 16 0 ++ leBytes 8 0 ++ leBytes 8 0 ++ leBytes 8 100 ++ leBytes 8 0x70 ++ leBytes 8 0 ++ leBytes 8 0 ++
    leBytes 4 0 ++ leBytes 4 2 ++ leBytes 8 0x8000 ++ phrase 0 ++ leBytes 8 0 ++ phrase 0

/-- Head of a FORMED partition of two chips along dimension 0, joined by link 0. -/
def part2 : Part :=
  { partReset with st := .formed, pid := 7, chips := 2, shape := [2, 1, 1, 1], sector := putBytes (singleSector [0, 0, 0, 0]) 0x20 [0xFE, 0] }

/-- A RUNNING member of that partition whose link 0 is as given. -/
def linked (w : Nat) (k : Link) : State :=
  { State.reset with
    life := .running, watch := w, stations := [(0, stn0)], sram := sram0
    banks := [(0, { bank0 [] with img := some { image0 [] with schedule := some sched0 } })]
    fab := { fabReset with part := part2, links := [(0, k)] } }

def up0 : Link := { linkReset with st := .up, cable := true }

/-- An entry of the replay buffer. -/
def entry (seq : Nat) (kind : TxKind) (again : Bool) : TxEntry := ⟨seq, kind, 0, withSeq 0 seq, [], again⟩

/-- The next Flash of link 0 has a number. -/
def nextIsFlash (s : State) (n : Nat) : Bool :=
  match nextFlash s 0 with
  | some f => f.num == n && !f.cut && f.part
  | none => false

/-- The control Flash 0, and a link that trains. -/
theorem test_ReservedFlashes_control :
    let s := linked 0 up0; let d := linked 0 { linkReset with st := .detect }
    railsOff s = false ∧ (linkOf s 0).st = .up ∧ nextIsFlash s 0 = true ∧ isControlFlash 0 = true ∧ (linkOf s 0).buf.length < 1024 ∧
      railsOff d = false ∧ inTraining (linkOf d 0) = true ∧
      nextIs (exec (.flashStart 0) s) (fun t => (linkOf t 0).seq == 1 && (linkOf t 0).buf.length == 1 && t.out.length == 1) ∧
      nextIs (exec (.flashStart 0) d) (fun t => t.out == [.train 0 1]) := by decide +kernel

/-- The retry Flash 32, with an entry to send again and with none. -/
theorem test_ReservedFlashes_retry :
    let e := entry 4 .scheduled true; let s := linked 311 { up0 with buf := [e] }; let n := linked 311 up0
    railsOff s = false ∧ (linkOf s 0).st = .up ∧ nextIsFlash s 32 = true ∧ isControlFlash 32 = false ∧ isRetryFlash 32 = true ∧
      holdDue s 0 = none ∧ forkDue s 0 = none ∧ againOf (linkOf s 0) false = some e ∧ nextIsFlash n 32 = true ∧ holdDue n 0 = none ∧
      forkDue n 0 = none ∧ againOf (linkOf n 0) false = none ∧ freshLate n 0 = [] ∧
      nextIs (exec (.flashStart 0) s) (fun t => (linkOf t 0).seq == 0 && (linkOf t 0).buf == [{ e with again := false }]) ∧
      nextIs (exec (.flashStart 0) n) (fun t => (linkOf t 0).seq == 0 && t.out.length == 1) := by decide +kernel

/-- The SEND's flit of Flash 1; a Bulk flit in Flash 2. -/
theorem test_SchedulableFlash :
    let d : DepFlit := ⟨0, 1, 10, 3, 0, 0, []⟩; let b : BulkFlit := ⟨2 ^ 14, []⟩
    let s0 := linked 1 up0; let s := { s0 with fab := { s0.fab with ports := [(0, ⟨[d], []⟩)] } }; let q := linked 11 { up0 with bulkQ := [b] }
    railsOff s = false ∧ (linkOf s 0).buf.length < 1008 ∧ nextIsFlash s 1 = true ∧ isReserved 1 = false ∧ s.life = .running ∧
      departing s 0 1 = some (0, d) ∧ (linkOf s 0).occ = [] ∧
      (bulkFlash q 0).isSome = true ∧ (linkOf q 0).st = .up ∧ (linkOf q 0).offIn = false ∧ againOf (linkOf q 0) true = none ∧
      (linkOf q 0).bulkQ = [b] ∧
      nextIs (exec (.flashStart 0) s) (fun t => (linkOf t 0).seq == 1 && (portOf t 0).dep.isEmpty) ∧
      nextIs (exec (.bulkForward 0) q) (fun t => (linkOf t 0).seq == 1 && (linkOf t 0).bulkQ.isEmpty && t.watch == 20) := by decide +kernel

/-- A Port engine with a transfer in progress. -/
def porting (w : Nat) (l : Latched) (land : List LandFlit) : State :=
  let s := linked w up0
  { s with engs := [(ekey prt0, { engReset with present := true, cur := some l })], fab := { s.fab with ports := [(0, ⟨[], land⟩)] } }

/-- Departure Phrase 0 of Station 0, whose flit leaves in Flash 1, at 10; the last count at which it may be fetched is 6. -/
theorem test_PortBuffers_departure :
    let l := { lat (dWords 0x40 3 5 0 0 0x1000) [5, 0, 0, 0] with tally := transferInit 3 }; let s := porting 6 l []
    sendOf s 0 = some l ∧ (nextSlot s 0 l).map (fun x => x.2) = some 10 ∧ canDepFetch s 0 = true ∧
      (opnd s prt0 l 0 false).go s = (.ok ⟨5, hdl 0 5 [3] 0, 0, 0⟩, s) ∧ runsOk ((sendPayload prt0 l ⟨5, hdl 0 5 [3] 0, 0, 0⟩ l.flits).go s) = true ∧
      nextIs (exec (.departureBufferFetch 0 []) s) (fun t => (portOf t 0).dep.map (fun d => (d.link, d.origin, d.due, d.stag)) == [(0, 1, 10, 3)]) ∧
      nextIs (exec (.departureDeadline 0) s) (fun t => t.watch == 6 && (engOf t prt0).stopped) := by decide +kernel

/-- A flit of a RECV of two flits, and the last of one, whose Tally is 4 × 2^32 for a payload of zeros, or is not. -/
theorem test_PortBuffers_landing :
    let f : LandFlit := ⟨3, 0, 4 * 2 ^ 32, List.replicate 256 0, 1, 9, true⟩; let g := { f with tally := 0 }; let h := { f with free := false }
    let l := { lat (dWords 0x41 3 0 0 6 0x1003) [0, 0, 6, 0] with tally := transferInit 3 }
    let m := { lat (dWords 0x41 3 0 0 6 0x2003) [0, 0, 6, 0] with tally := transferInit 3 }
    let s := porting 9 l [f]; let b := porting 9 l [g]; let n := porting 9 m [f]
    let r := fun (x : State) (y : Latched) (z : LandFlit) =>
      (recvBody prt0 [] y z.payload).go (putPort 0 { portOf x 0 with land := (portOf x 0).land.filter (· != z) } x)
    nextRelease (portOf (porting 0 l [h]) 0).land = some h ∧ recvOf s 0 = some l ∧ flitFor s 0 l = some f ∧ recvRoom s 0 l = true ∧
      runsOk (r s l f) = true ∧ l.flits + 1 = rvFlits (dW7 l.w) ∧ runsOk ((recvLast prt0 l f (transferAdd l.tally l.flits f.payload)).go (r s l f).2) = true ∧
      recvOf b 0 = some l ∧ flitFor b 0 l = some g ∧ runsOk (r b l g) = true ∧ transferAdd l.tally l.flits g.payload % tallyP ≠ g.tally ∧
      recvOf n 0 = some m ∧ flitFor n 0 m = some f ∧ runsOk (r n m f) = true ∧ m.flits + 1 ≠ rvFlits (dW7 m.w) ∧
      nextIs (exec (.flitRelease 0) (porting 0 l [h])) (fun t => t.watch == 9 && (portOf t 0).land == [f]) ∧
      nextIs (exec (.recvFlit 0 []) s) (isDone prt0) ∧
      nextIs (exec (.recvFlit 0 []) b) (fun t => (t.recov.faults.map FaultRec.code) == [0x2012]) ∧
      nextIs (exec (.recvFlit 0 []) n) (fun t => ((engOf t prt0).cur.map Latched.flits) == some 1) := by decide +kernel

/-- A frame that is not sealed, on the wire. -/
def wire0 (h : Nat) (p : List Byte) : Frame := let b := headerBytes h ++ slice p 0 256; frameWire b (leBytes 4 (crc32 b))

set_option maxRecDepth 100000 in
/-- A Scheduled flit that left in Flash 1, arrives at 21 and lands later; with E past it, it is a duplicate. -/
theorem test_DataFrames_scheduled :
    let h := schedHeader 0 1 0 3 0 0; let s := linked 21 up0; let fr := wire0 h []; let s1 := (openFrame 0 fr s).2; let d := linked 21 { up0 with expect := 1 }
    railsOff s = false ∧ (openFrame 0 fr s).1 = some (h, List.replicate 256 0) ∧ isSched h = true ∧ isMember s1 0 = true ∧ hGen h = s1.run.gen % 4 ∧
      (match takeSeq (hSeq h) (linkOf s1 0) with
        | some k => let s2 := putLink 0 k s1; onTime s2 h (leftAt s2 0) && ((phraseFor s2 0 h).map phForwards) == some false
        | none => false) = true ∧
      (linkOf s1 0).staged = [] ∧ takeSeq (hSeq h) (linkOf (openFrame 0 fr d).2 0) = none ∧
      nextIs (exec (.scheduledFrameRx 0 fr) s) (fun t => (portOf t 0).land.map (fun f => (f.stag, f.origin, f.free)) == [(3, 1, false)]) := by decide +kernel

set_option maxRecDepth 100000 in
/-- A whole message of one byte for chip 1, which goes on, and for chip 0, which stays. -/
theorem test_DataFrames_bulk :
    let h := 2 ^ 14 + 2 ^ 15 + 2 ^ 93; let i := 2 ^ 14 + 2 ^ 93; let s := linked 21 up0
    (openFrame 0 (wire0 h [9]) s).1.map Prod.fst = some h ∧ isBulk h = true ∧ hDest h = 1 ∧ hBchan h = 0 ∧ (linkOf s 0).rxBulk = [] ∧
      (bulkRoute s 1).isSome = true ∧ (openFrame 0 (wire0 i [9]) s).1.map Prod.fst = some i ∧ bulkRoute s (hDest i) = none ∧ hBIndex i = 0 ∧
      hLast i = true ∧ s.fab.bulkDone = [] ∧ s.fab.bulk = [] ∧
      nextIs (exec (.bulkFrameRx 0 (wire0 h [9])) s) (fun t => ((bulkRoute s 1).map fun o => (linkOf t o).bulkQ.length) == some 1) ∧
      nextIs (exec (.bulkFrameRx 0 (wire0 i [9])) s) (fun t => t.out == [.bulk 0 0 [9]]) := by decide +kernel

set_option maxRecDepth 100000 in
/-- The ACK of SEQ 5 frees the first of two entries; a request for SEQ 6 marks the second. -/
theorem test_AckBlocks :
    let s0 := linked 21 { up0 with buf := [entry 5 .scheduled false, entry 6 .scheduled false] }; let s := { s0 with regs := [(lnkReg 0 0x44, 0)] }
    let blk := fun v => List.replicate 64 (0 : Byte) ++ leBytes 8 v
    let a := wire0 2 (blk (5 + 2 ^ 12 + 2 ^ 29)); let n := wire0 2 (blk (6 * 2 ^ 13 + 1 * 2 ^ 25)); let c := wire0 (1 + 2 ^ 14) (blk (5 + 2 ^ 12))
    let oc := openFrame 0 c s
    railsOff s = false ∧ ((openFrame 0 a s).1.map fun x => (hKind x.1, bits (field x.2 0x40 8) 28 25)) = some (2, 0) ∧
      (oc.1.map fun x => (hKind x.1, hReplay x.1, bitAt (field x.2 0 1) 0, bitAt (field x.2 0x10 1) 0)) = some (1, true, false, false) ∧
      (takeSeq 0 (linkOf oc.2 0)).isSome = true ∧ ((openFrame 0 n s).1.map fun x => bitAt (field x.2 0x40 8) 12) = some false ∧
      bits (regGet (openFrame 0 n s).2 (lnkReg 0 0x44)) 15 0 = 0 ∧
      nextIs (exec (.linkFrameRx 0 a) s) (fun t => (linkOf t 0).buf == [entry 6 .scheduled false] && (linkOf t 0).offIn) ∧
      nextIs (exec (.controlFrameRx 0 c) s) (fun t => (linkOf t 0).buf == [entry 6 .scheduled false]) ∧
      nextIs (exec (.linkFrameRx 0 n) s) (fun t => (linkOf t 0).buf == [entry 5 .scheduled false, entry 6 .scheduled true]) := by decide +kernel

/-! ### Links that train, are lost and resume -/

/-- A READY module whose link 0 is as given. -/
def onLink (k : Link) : State := { State.reset with life := .ready, fab := { fabReset with links := [(0, k)] } }

def inSt (st : LinkSt) : Link := { linkReset with st := st, cable := true }

/-- The next state's link 0 passes a check. -/
def linkIs (r : Res) (p : Link → Bool) : Bool := nextIs r fun t => p (linkOf t 0)

/-- DETECT locks at 112 Gb/s; EQUALISE with one error in 10^6 bits, with two at 224 Gb/s, and with two at 56 Gb/s. -/
theorem test_LinkTrains_equalise :
    let d := onLink (inSt .detect); let q := onLink (inSt .equalise); let z := onLink { inSt .equalise with rate := 2 }
    (linkOf d 0).st = .detect ∧ bits (lnkCtl d 0) 2 1 ≤ 1 ∧ (linkOf q 0).st = .equalise ∧ (0 < 1000000 ∧ 1 * 1000000 ≤ 1000000) ∧
      ¬(0 < 1000000 ∧ 2 * 1000000 ≤ 1000000) ∧ (linkOf q 0).rate < 2 ∧ 2 ≤ (linkOf z 0).rate ∧
      linkIs (exec (.signalLock 0 1 []) d) (fun k => k.st = .equalise && k.rate == 1) ∧
      linkIs (exec (.equaliseRateDone 0 1 1000000) q) (fun k => k.st = .auth) ∧
      linkIs (exec (.equaliseRateDone 0 2 1000000) q) (fun k => k.st = .equalise && k.rate == 1) ∧
      linkIs (exec (.equaliseRateDone 0 2 1000000) z) (fun k => k.st = .down) := by decide +kernel

/-- AUTH: a HELLO, then a chain, then a signature, of a partner at the position that link 0 leads to. -/
theorem test_LinkTrains_auth :
    let h : Hello := ⟨[1, 0, 0, 0], 0, true, false⟩; let a := onLink (inSt .auth)
    let c := onLink { inSt .auth with helloGot := some [] }; let g := onLink { inSt .auth with chainKey := some [7], partnerPos := [1, 0, 0, 0] }
    (linkOf a 0).st = .auth ∧ (linkOf a 0).helloGot = none ∧ (h.sealCapable = true ∨ bitAt (lnkCtl a 0) 3 = false) ∧
      (linkOf c 0).helloGot.isSome = true ∧ (linkOf c 0).chainKey = none ∧ (linkOf g 0).st = .auth ∧ (linkOf g 0).chainKey = some [7] ∧
      daymarkOff g = false ∧ (linkOf g 0).partnerPos = expectPos g 0 ∧
      linkIs (exec (.linkHello 0 h (List.replicate 32 0)) a) (fun k => k.claimed == chipAt [1, 0, 0, 0] && k.partnerPos == [1, 0, 0, 0]) := by
  decide +kernel

set_option maxRecDepth 100000 in
/-- A TRAIN frame in POSITION, the delay, the time limit of training, and the next try of a DOWN link. -/
theorem test_LinkTrains_later :
    let p := onLink (inSt .position); let d := onLink { inSt .delay with seq := 9 }; let x := onLink { inSt .auth with trainBegan := 50 }
    let w0 := onLink { inSt .down with retryAt := 70 }; let w := { w0 with regs := [(lnkReg 0 0x10, 1)] }
    railsOff p = false ∧ (linkOf p 0).st = .position ∧ trainOk (wire0 3 []) = true ∧ (linkOf d 0).st = .delay ∧ trainingNow (linkOf x 0) = true ∧
      railsOff w = false ∧ w.fab.posOk = true ∧ (linkOf w 0).st = .down ∧ (linkOf w 0).cable = true ∧ bitAt (lnkCtl w 0) 0 = true ∧
      linkIs (exec (.trainFrameRx 0 (wire0 3 [])) p) (fun k => k.st = .delay) ∧
      linkIs (exec (.delayMeasureDone 0 3) d) (fun k => k.st = .up && k.delay == 3 && k.seq == 0) ∧
      nextIs (exec (.trainingTimeout 0) x) (fun t => (linkOf t 0).st = .down && t.watch == 100000050) ∧
      nextIs (exec (.linkDownRetry 0) w) (fun t => (linkOf t 0).st = .detect && t.watch == 70) := by decide +kernel

/-- A link in RESUME whose own nonce is known. -/
def resuming : State := onLink { inSt .resume with nonceSent := [1], graceAt := some 900, buf := [entry 3 .bulk false] }

/-- Loss of signal; a fresh nonce; GRACE; and the first and the third ack timeout in a row. -/
theorem test_LinkLossAndResume :
    let e := entry 3 .bulk false; let u := onLink { inSt .up with buf := [e] }; let v := onLink { inSt .up with buf := [e], timeouts := 2 }
    (linkOf u 0).st = .up ∧ (linkOf resuming 0).st = .resume ∧ (linkOf resuming 0).nonceSent ≠ [] ∧
      resuming.watch ≤ (linkOf resuming 0).graceAt.getD 0 ∧
      (∀ j : Nat, j < 96 → (linkOf resuming j).rxBulk = []) ∧ resuming.fab.outbox = [] ∧ resuming.fab.comparing = false ∧ (linkOf u 0).buf ≠ [] ∧ (linkOf u 0).timeouts + 1 ≠ 3 ∧ (linkOf v 0).timeouts + 1 = 3 ∧
      linkIs (exec (.lossOfSignal 0) u) (fun k => k.st = .resume && k.buf == [e]) ∧
      linkIs (exec (.signalLock 0 1 (List.replicate 32 5)) resuming) (fun k => k.nonceSent == List.replicate 32 5) ∧
      nextIs (exec (.graceExpiry 0) resuming) (fun t => (linkOf t 0).st = .down && (linkOf t 0).buf.isEmpty && t.watch == 900) ∧
      linkIs (exec (.ackTimeout 0) u) (fun k => k.st = .up && k.buf == [{ e with again := true }] && k.timeouts == 1) ∧
      linkIs (exec (.ackTimeout 0) v) (fun k => k.st = .resume && k.buf == [e]) := by decide +kernel

/-- A right and a wrong resume proof exist. -/
theorem test_LinkLossAndResume_proofs :
    ∃ p q : List Byte, p = proofOf resuming 0 (partnerRole resuming 0) (bothNonces resuming 0 [2]) ∧
      q ≠ proofOf resuming 0 (partnerRole resuming 0) (bothNonces resuming 0 [2]) :=
  ⟨_, proofOf resuming 0 (partnerRole resuming 0) (bothNonces resuming 0 [2]) ++ [0], rfl, by simp⟩

/-- UNFENCE, RETRAIN, both refused on a member link in RUNNING, and a cable that comes and goes. -/
theorem test_LinkRegisterActions :
    let f := onLink (inSt .fenced); let u := onLink (inSt .up); let b := linked 0 up0
    let d0 := onLink linkReset; let d := { d0 with regs := [(lnkReg 0 0x10, 1)] }
    paused f = false ∧ railsOff f = false ∧ linkBusy f 0 = false ∧ (linkOf f 0).st = .fenced ∧ f.fab.posOk = true ∧ linkBusy u 0 = false ∧
      (linkOf u 0).st ≠ .fenced ∧ paused b = false ∧ railsOff b = false ∧ linkBusy b 0 = true ∧ ((0 : LinkNo).val / 8 = (0 : Fin 12).val) ∧
      d.life ≠ .off ∧ (linkOf d 0).st = .down ∧ railsOff d = false ∧ d.fab.posOk = true ∧ bitAt (lnkCtl d 0) 0 = true ∧ ((9 : LinkNo).val / 8 ≠ (0 : Fin 12).val) ∧
      linkIs (exec (.unfence 0) f) (fun k => k.st = .down) ∧ linkIs (exec (.retrain 0) u) (fun k => k.st = .down) ∧
      linkIs (exec (.retrain 0) b) (fun k => k == up0) ∧ linkIs (exec (.unfence 0) b) (fun k => k == up0) ∧
      linkIs (exec (.cablePresentChange 0 true) d) (fun k => k.st = .detect && k.cable) ∧
      linkIs (exec (.cablePresentChange 0 false) u) (fun k => k.st ≠ .up && !k.cable) := by decide +kernel

/-! ### Partitions and time -/

/-- Two queues with one record each that nobody has read: the admin queue and job queue 0. -/
def withQueues (s : State) : State :=
  let k : Queue := { queueOf s 64 with enabled := true, sqTail := 1 }
  { s with jobs := { s.jobs with queues := [(0, k), (64, k)] }, regs := s.regs ++ [(pageBase pgPci + 0x110, 0x40), (pageBase pgPci + 0x910, 0x40)] }

/-- An admin command with the given ARGS, the rest 0. -/
def cmd (a : List Byte) : CmdRec := ⟨5, 0, List.replicate 7 0, slice a 0 104⟩

theorem adminReady_mk {c : CmdRec} {listed : Nat} {holes : List Nat} {s : State}
    (h : canTake s 64 = true ∧ romRecovery s = false ∧ argsOk c.reserved c.args listed holes = true) : AdminReady c listed holes s :=
  ⟨h.1, h.2.1, h.2.2⟩

/-- Status of the admin command's completion. -/
def statusOf (t : State) : Option Nat := (queueOf t 64).comps.getLast?.map fun r => field r 0 2

def idle : State := withQueues { State.reset with life := .ready }

/-- A record of two chips along dimension 0, with PID 7, and one whose mask leaves this chip out. -/
def record2 : List Byte := leBytes 4 0x54525055 ++ leBytes 2 1 ++ leBytes 2 0 ++ leBytes 4 7 ++ [0xE4, 0, 0, 0, 3, 0, 0, 0, 1, 0, 0, 0, 1, 0, 0, 0, 1, 0, 0, 0] ++ leBytes 112 0

theorem test_PartitionForms_start :
    let c := cmd [0]; let bad := record2.set 16 2
    AdminReady c 8 [] idle ∧ (inRL idle = true ∧ idle.fab.part.st = .none ∧ record2.length = 144 ∧ recordOk idle record2 = true ∧
      1 < prSize record2 ∧ bad.length = 144 ∧ recordOk idle bad = false) ∧
      nextIs (exec (.partitionForm c record2) idle) (fun t => t.fab.part.st = .forming && t.fab.part.pid == 7 && t.fab.part.deadline == 100000000) ∧
      nextIs (exec (.partitionForm c bad) idle) (fun t => statusOf t == some 0x3001) := by
  refine ⟨adminReady_mk ?_, ?_, ?_, ?_⟩ <;> decide +kernel

/-- A module with a LOADED bank whose partition is as given. -/
def inPart (p : Part) : State := withQueues { State.reset with life := .ready, banks := [(0, bank0 [])], fab := { fabReset with part := p } }

/-- The head Keeper of three chips that is FORMING: a first report, the last one, one that differs, and FORM_MS. -/
theorem test_PartitionForms_head :
    let p := { part2 with st := .forming, chips := 3, deadline := 90 }; let s := inPart p; let p2 := { p with reports := [1] }; let s2 := inPart p2
    headForming s = true ∧ 1 < p.chips ∧ 1 ∉ p.reports ∧ (∃ x ∈ otherRanks p, x ≠ 1 ∧ x ∉ p.reports) ∧ headForming s2 = true ∧ 2 < p2.chips ∧
      2 ∉ p2.reports ∧ (∀ x ∈ otherRanks p2, x = 2 ∨ x ∈ p2.reports) ∧ p2.differed = none ∧
      nextIs (exec (.formationReport 1 7 p.hash) s) (fun t => t.fab.part.st = .forming && t.fab.part.reports == [1]) ∧
      nextIs (exec (.formationReport 2 7 p.hash) s2) (fun t => t.fab.part.st = .formed && (bankOf t 0).st = .stale) ∧
      nextIs (exec (.formationReport 2 8 p.hash) s2) (fun t => t.fab.part.st = .none && (bankOf t 0).st = .stale) ∧
      nextIs (exec .formationTimeout s) (fun t => t.fab.part.st = .none && t.watch == 90) := by decide +kernel

/-- A member that is FORMING, and one that dissolves. -/
theorem test_PartitionForms_member :
    let s := inPart { part2 with st := .forming, rank := 1 }; let d := inPart part2; let c := cmd []
    AdminReady c 0 [] d ∧ (memberForming s = true ∧ inRL d = true ∧ d.fab.part.st ≠ .none) ∧
      nextIs (exec .formedMessage s) (fun t => t.fab.part.st = .formed && (bankOf t 0).st = .stale) ∧
      nextIs (exec .formationAbort s) (fun t => t.fab.part.st = .none && (bankOf t 0).st = .stale) ∧
      nextIs (exec (.partitionDissolve c) d) (fun t => t.fab.part.st = .none && (bankOf t 0).st = .stale && statusOf t == some 0) := by
  refine ⟨adminReady_mk ?_, ?_, ?_, ?_, ?_⟩ <;> decide +kernel

/-- A module at a Watch count with the given fabric time, TIM_CTL and page events as after reset. -/
def onTime0 (w ctl : Nat) (x : TimeSt) : State :=
  { State.reset with life := .ready, watch := w, regs := [(pageBase pgTim + 0x10, ctl)], fab := { fabReset with time := x } }

def validDom : Dom := { domReset with valid := true }

/-- The reference pulse, with a step of +5 that waits; a domain that times out with the other eligible, and with none. -/
theorem test_FabricTime_domains :
    let x := timeReset; let a := onTime0 1001 0 x; let p := onTime0 1001 0 { x with stepBy := some 5, servo := .acquire }
    let d := onTime0 0 0 { x with domA := validDom, domB := { validDom with eligible := true } }; let o := onTime0 0 0 { x with domA := validDom, servo := .locked }
    x.stepBy = none ∧ mayStep p = true ∧ (domOf d false).valid = true ∧ d.fab.time.actB = false ∧ (domOf d true).eligible = true ∧
      (domOf o false).valid = true ∧ (domOf o true).eligible = false ∧ (domOf o true).valid = false ∧
      nextIs (exec .watchReferencePulse a) (fun t => t.watch == 2000) ∧ nextIs (exec .watchReferencePulse p) (fun t => t.watch == 2005) ∧
      nextIs (exec (.domainTimeout false) d) (fun t => t.fab.time.actB) ∧ nextIs (exec (.domainTimeout false) o) (fun t => t.fab.time.servo = .holdover) := by
  decide +kernel

/-- A TOD message for second 9, with UTC_OFFSET 37. -/
def tod9 : List Byte := [0x57, 0x54, 1, 1, 9, 0, 0, 0, 0, 0, 37, 0, 0, 0, 0, 0x57 ^^^ 0x54 ^^^ 9 ^^^ 37]

/-- The third PPS edge, one that stops, a TOD message in time, one that is not, and the last one lost. -/
theorem test_FabricTime_inputs :
    let x := { timeReset with ppsAt := some 1000, ppsRun := 2 }; let e := onTime0 1000001000 1 x; let v := onTime0 1000 1 { x with ppsValid := true }
    let m := onTime0 20001000 1 x; let late := onTime0 1000 1 x
    v.fab.time.ppsAt = some 1000 ∧ v.fab.time.ppsValid = true ∧ gmDomain v ≠ 0 ∧ gmDomain m ≠ 0 ∧ todOk tod9 = true ∧ todInTime m = true ∧
      todInTime late = false ∧ gmDomain late ≠ 0 ∧ late.fab.time.todLost = false ∧
      nextIs (exec .ppsInEdge e) (fun t => t.fab.time.ppsValid == decide (3 ≤ t.fab.time.ppsRun) && t.fab.time.ppsAt == some 1000001000) ∧
      nextIs (exec .ppsTimeout v) (fun t => !t.fab.time.ppsValid && t.watch == 1100001000) ∧
      nextIs (exec (.todMessageRx tod9) m) (fun t => t.fab.time.anchorSec == 9 && t.fab.time.utc == 37) ∧
      nextIs (exec (.todMessageRx tod9) late) (fun t => t.fab.time.todBad == 1) ∧ nextIs (exec .todTimeout late) (fun t => t.fab.time.todLost) := by
  decide +kernel

/-- PPS_OUT rises at the second, with a write of TIM_TOD_SEC that waits, and falls; TOD_TX; REVERT to domain B; the write itself. -/
theorem test_FabricTime_outputs :
    let x := timeReset; let r := onTime0 5 0x31 { x with secWrite := some 9 }; let e := onTime0 5 0x30 { x with ppsHigh := some 5, todDue := some 5 }
    let b := onTime0 5 4 { x with domB := { validDom with eligible := true, syncs := List.replicate 64 3 } }; let w := onTime0 5 1 x
    r.fab.time.ppsHigh = none ∧ r.fab.time.todDue = none ∧ bitAt (timCtl r) 4 = true ∧ bitAt (timCtl e) 4 = true ∧ bitAt (timCtl e) 5 = true ∧
      paused b = false ∧ railsOff b = false ∧ bitAt (timCtl b) 2 ≠ b.fab.time.actB ∧ (domOf b (bitAt (timCtl b) 2)).eligible = true ∧
      paused w = false ∧ railsOff w = false ∧ pageLocked w pgTim = false ∧ gmDomain w ≠ 0 ∧ w.fab.time.todAt = none ∧
      nextIs (exec .ppsOutPulse r) (fun t => t.watch == nextSecond r && t.fab.time.anchorSec == 9 && t.out == [.pin "PPS_OUT" 1]) ∧
      nextIs (exec .ppsOutEnd e) (fun t => t.watch == 100000005 && t.out == [.pin "PPS_OUT" 0]) ∧
      nextIs (exec .todTxSend e) (fun t => t.watch == 10000005 && t.fab.time.todDue.isNone) ∧
      nextIs (exec .timeRevert b) (fun t => t.fab.time.actB && t.fab.time.target == 3) ∧
      nextIs (exec (.todSecWrite 9) w) (fun t => t.fab.time.secWrite == some 9) := by decide +kernel

/-! ### Jobs and their records -/

/-- A job record (R405) for bank 0 and Mooring 0, with a PID. -/
def jobRec (pid : Nat) : List Byte := leBytes 2 1 ++ [0, 0] ++ leBytes 4 0 ++ leBytes 8 77 ++ leBytes 32 0 ++ leBytes 4 pid ++ leBytes 76 0

def job0 (pid : Nat) : Job := ⟨0, 0, jobRec pid, [], []⟩

/-- A LOADED module of a partition, with a LOADED bank and a READY Mooring for it. -/
def loaded (p : Part) : State :=
  withQueues { State.reset with
    life := .loaded, banks := [(0, bank0 [])], moorings := [(0, { moorReset with st := .ready, img := some (image0 []) })]
    fab := { fabReset with part := p } }

def waits (p : Part) : State := let s := loaded p; { s with jobs := { s.jobs with waiting := [job0 p.pid] } }

/-- With a job in force. -/
def active (life : Life) (a : Active) (s : State) : State := { s with life := life, jobs := { s.jobs with active := some a } }

/-- A record that waits, one that is refused, and its dispatch on a chip of its own and in a partition of two. -/
theorem test_JobsLaunch_record :
    let s := loaded partReset; let w := waits partReset; let v := waits part2
    canTake s 0 = true ∧ refusesJobs s = false ∧ jobRefusal s (jobRec 0) none none = none ∧ jobRefusal s (jobRec 1) none none = some 0x1090 ∧
      nextJob w = some (job0 0) ∧ mayDispatch w = true ∧ (bankOf w 0).st = .loaded ∧ (bankOf w 0).img.isSome = true ∧ launchRefusal w (job0 0) = none ∧
      jLeading (jobRec 0) = false ∧ otherRanks w.fab.part = [] ∧ w.fab.part.st ≠ .formed ∧ linksDownHere w 0 = [] ∧
      nextJob v = some (job0 7) ∧ mayDispatch v = true ∧ launchRefusal v (job0 7) = none ∧ otherRanks v.fab.part ≠ [] ∧
      nextIs (exec (.jobRecord 0 (jobRec 0) none none) s) (fun t => t.jobs.waiting == [job0 0]) ∧
      nextIs (exec (.jobRecord 0 (jobRec 1) none none) s) (fun t => (queueOf t 0).comps.map (fun r => field r 0 2) == [0x1090]) ∧
      (let f := { w with life := .faulted }; nextJob f = some (job0 0) ∧ refusesJobs f = true ∧ f.jobs.halted = false ∧ paused f = false ∧
        nextIs (exec .jobDispatch f) (fun t => t.jobs.waiting == [] && (queueOf t 0).comps.map (fun r => field r 0 2) == [0x2040])) ∧
      nextIs (exec .jobDispatch w) (fun t => t.life = .armed && (t.jobs.active.bind Active.launch) == some 50000) ∧
      nextIs (exec .jobDispatch v) (fun t => t.life = .loaded && t.jobs.active == some (newActive (job0 7) true)) := by decide +kernel

/-- A reply of a rank. -/
def reply (r : Nat) : PrepareReply := ⟨r, 0, [], 1024, true, [], true, 0, 0, true, 64, 0, [], 0⟩

/-- An image whose slot 60, seed 0, writes P0 of the stream of list 0, with its range −2 to 2, and a record whose seed 0 is 3. -/
def seeded : Image := { image0 [[]] with patches := [(60, [(0, 0, 0)])] }
def jobRec3 : List Byte := putBytes (jobRec 7) 0x10 [3]

/-- PREPARE at the member of rank 1, and one whose seed is out of range; a first reply at the head Keeper of three chips. -/
theorem test_JobsLaunch_prepare :
    let m : PrepareMsg := ⟨jobRec 7, [], [], 1024, []⟩; let s := loaded { part2 with rank := 1 }
    let n := { m with record := jobRec3 }; let b := { s with banks := [(0, { bank0 [[]] with img := some seeded })] }
    let h := active .loaded (newActive (job0 7) true) (loaded { part2 with chips := 3 })
    takesPrepare s m = true ∧ s.fab.part.rank ≠ 0 ∧ (bankOf s (jBank m.record)).st = .loaded ∧ (bankOf s (jBank m.record)).img.isSome = true ∧
      writesFit s (jobOf 0 0 m.record m.patches m.buffers) = true ∧ withheld s = false ∧ takesPrepare b n = true ∧ b.fab.part.rank ≠ 0 ∧
      (bankOf b (jBank n.record)).st = .loaded ∧ (bankOf b (jBank n.record)).img.isSome = true ∧
      writesFit b (jobOf 0 0 n.record n.patches n.buffers) = false ∧ takesReply h (reply 1) = true ∧ h.jobs.active = some (newActive (job0 7) true) ∧ 2 ∈ otherRanks h.fab.part ∧ 2 ≠ (reply 1).rank ∧
      (∀ y ∈ (newActive (job0 7) true).replies, y.rank ≠ 2) ∧
      nextIs (exec (.prepare m) s) (fun t => t.jobs.active.map (fun a => (a.job, a.own, a.fq)) == some (job0 7, false, 1024)) ∧
      nextIs (exec (.prepare n) b) (fun t => t.jobs.active.isNone && t.out.length == 1) ∧
      nextIs (exec (.prepareReply (reply 1)) h) (fun t => t.jobs.active.map (fun a => a.replies) == some [reply 1]) := by decide +kernel

/-- A switch that ends, and L with the switch complete and not complete. -/
theorem test_JobsLaunch_switch :
    let a := { newActive (job0 0) true with launch := some 900, switching := true }; let b := { a with switched := true }
    let s := active .armed a (loaded partReset); let r := active .armed b (loaded partReset)
    switchPending s = true ∧ (bankOf s 0).img = some (image0 []) ∧ (bankOf s 0).placement = some placement0 ∧
      runsOk ((switchMem (!bound s a.job) (moorOf s 0) (image0 []) placement0).go (switchRegs a (image0 []) placement0 s)) = true ∧
      r.life = .armed ∧ b.switched = true ∧ b.lateLaunch = false ∧ s.life = .armed ∧ a.switched = false ∧ replayOff s = true ∧
      runsOk ((bufHash b.job 0).go (watchTo 900 r)) = true ∧ runsOk ((bufHash a.job 0).go (watchTo 900 s)) = true ∧
      nextIs (exec (.switchComplete []) s) (fun t => t.jobs.active == some b && t.run.bound == some (0, some 0)) ∧
      nextIs (exec .launchWatch r) (fun t => t.life = .running && t.watch == 900 && t.run.start == 921600) ∧
      nextIs (exec .launchWatch s) (fun t => t.life = .held && t.watch == 900) := by decide +kernel

/-- With replay, the late launch is the hold of its cause. -/
theorem test_JobsLaunch_late :
    let a := { newActive (job0 0) true with launch := some 900, switching := true }; let s0 := active .armed a (loaded partReset)
    let s := { s0 with run := { s0.run with replay := true } }
    s.life = .armed ∧ replayOff s = false ∧ runsOk ((bufHash a.job 0).go (watchTo 900 s)) = true ∧ nextIs (exec .launchWatch s) (fun t => t.recov.holds == [⟨0, 0x3023, 0⟩] && t.recov.target == some 0) := by
  decide +kernel

/-- END_JOB at the head Keeper, and its message at a member. -/
theorem test_JobsEnd_end :
    let a := newActive (job0 7) true; let c := cmd (leBytes 8 77); let s0 := active .running a (loaded part2)
    let s := { s0 with banks := [(0, { bank0 [] with img := some { image0 [] with steps := [⟨60000, 0, 0, []⟩] } })] }; let m := active .running a (loaded { part2 with rank := 1 })
    AdminReady c 8 [] s ∧ (runOrHeld s = true ∧ jId a.job.record = field c.args 0 8 ∧ s.fab.part.rank = 0 ∧ s.recov.noReplay = none ∧
      runOrHeld m = true ∧ m.fab.part.st = .formed ∧ m.fab.part.rank ≠ 0) ∧
      nextIs (exec (.endJob c) s) (fun t => t.run.endStep == some 1 && t.jobs.endCmds.length == 1) ∧
      nextIs (exec (.endJobStepMessage 9) m) (fun t => t.run.endStep == some 9) := by
  refine ⟨adminReady_mk ?_, ?_, ?_, ?_⟩ <;> decide +kernel

/-- A copy into SRAM, a copy out of it, and one that times out in DRAINING and in ARMED. -/
theorem test_JobsEnd_dma :
    let d : Dma := ⟨false, 0, 0x100, 2, 0x4000, 6⟩; let o := { d with out := true }; let a := newActive (job0 0) true
    let s := active .armed { a with dma := [d] } (loaded partReset); let t := active .draining { a with dma := [o] } (loaded partReset)
    let x := { t with sramEcc := [(0x100, 2)] }
    nextDma s = some (a, d) ∧ nextDma t = some (a, o) ∧ nextDma x = some (a, o) ∧ runsOk ((writeMem 0 0x100 [3, 4]).go (putActive (some a) s)) = true ∧
      runsOk ((readMem 0 0x100 2).go (putActive (some a) t)) = true ∧ runsOk ((dmaCopy o []).go (putActive (some a) x)) = false ∧
      nextIs (exec (.hostDmaComplete []) x) (fun t => t.life = .faulted) ∧ t.life = .draining ∧ s.life = .armed ∧
      nextIs (exec (.hostDmaComplete [3, 4]) s) (fun t => rdN t.sram 0x100 2 == [3, 4] && t.jobs.active == some a) ∧
      nextIs (exec (.hostDmaComplete []) t) (fun t => t.out == [.hostWrite 0x4000 [0, 0]]) ∧
      nextIs (exec .hostDmaTimeout t) (fun u => u.jobs.active == some { a with dmaFailed := true } && u.watch == 50000006) ∧
      nextIs (exec .hostDmaTimeout s) (fun u => u.life = .loaded && u.jobs.active.isNone) := by decide +kernel

/-- A job that has drained. -/
theorem test_JobsEnd_drain :
    let a := newActive (job0 0) true; let s := active .draining a (loaded partReset)
    memoriesWf s = true ∧ s.life = .draining ∧ nextDma s = none ∧ s.jobs.active = some a ∧ s.fab.comparing = false ∧ daymarkOff s = false := by
  decide +kernel

/-- A record of the partition with the coordinates 2 and 3 of dimension 0 and PID 8, and the Leading record of the two. -/
theorem test_JobsEnd_leadingSet :
    let other := (record2.set 8 8).set 16 0xC; let r := leBytes 4 0x4441454C ++ leBytes 2 1 ++ [0, 0] ++ leBytes 4 7 ++ leBytes 4 8 ++ leBytes 16 0
    let s := inPart { part2 with record := record2 }; let c := cmd [0]; let e := cmd []
    AdminReady c 8 [] s ∧ AdminReady e 0 [] s ∧ (inRL s = true ∧ leadingOk s r other = true ∧ leadingOk s r record2 = false) ∧
      nextIs (exec (.leadingSet c r other) s) (fun t => statusOf t == some 0 && t.fab.leading == some r && t.fab.pairLink == some 1) ∧
      nextIs (exec (.leadingSet c r record2) s) (fun t => statusOf t == some 0x3030 && t.fab.leading.isNone) ∧
      nextIs (exec (.leadingClear e) s) (fun t => statusOf t == some 0) := by
  refine ⟨adminReady_mk ?_, adminReady_mk ?_, ?_, ?_, ?_, ?_⟩ <;> decide +kernel

/-- The head Keeper of the higher PID gets L; entries that match; a divergence. -/
theorem test_JobsEnd_leading :
    let r := leBytes 4 0x4441454C ++ leBytes 2 1 ++ [0, 0] ++ leBytes 4 6 ++ leBytes 4 7 ++ leBytes 16 0
    let s0 := loaded part2; let s := { s0 with fab := { s0.fab with leading := some r } }; let e := List.replicate 32 (0 : Byte)
    let c := active .running (newActive (job0 7) true) { s with fab := { s.fab with comparing := true, leadOwn := [e] } }
    let m := leadMatch c.fab.leadOwn (c.fab.leadTheirs ++ [e])
    higherPid s = true ∧ s.fab.part.rank = 0 ∧ s.jobs.active = none ∧ c.fab.comparing = true ∧ m.diff = none ∧ m.own.length < 131072 ∧
      m.theirs.length < 131072 ∧ inJob c = true ∧
      nextIs (exec (.leadingLaunchMessage 900) s) (fun t => t.fab.leadLaunch == some 900) ∧
      nextIs (exec (.leadingEntriesRx [e]) c) (fun t => t.fab.leadOwn.isEmpty && t.fab.leadTheirs.isEmpty) ∧
      nextIs (exec (.divergenceMessage e e) c) (fun t => t.life = .faulted && t.recov.terminal == some (0x20A2, 0)) := by decide +kernel

/-- A job of two chips that has ended, and a module that holds its record. -/
def ended0 : Ended := ⟨3, 77, 7, 0, 2, 8, [], false, false, false, [], 50, none, []⟩
def ending (p : Part) (e : Ended) : State := let s := loaded p; { s with jobs := { s.jobs with ended := [e] } }

set_option maxRecDepth 100000 in
/-- A member signs its own, and, with a debug scope open, one that was begun; with the Daymark killed; a certificate that leaves one missing, and the last; a second without one; and a record
that was held back. -/
theorem test_LedgerStore :
    let m := { ended0 with rank := 1 }; let s := ending { part2 with rank := 1 } m; let b := ending { part2 with rank := 1 } { m with begun := true }
    let o := { b with kpr := { b.kpr with sec := { b.kpr.sec with debugOpen := 2 } } }; let k := { s with kpr := { s.kpr with fuses := { s.kpr.fuses with kill := true } } }
    let h := ending part2 ended0; let g := ending part2 { ended0 with certs := [(0, [1])] }; let cert := leBytes 0x34 0 ++ leBytes 4 7 ++ leBytes 8 77
    let d := { loaded part2 with life := .loaded }; let df := { d with jobs := { d.jobs with deferred := [(ended0, [1, 2])] } }
    memoriesWf s = true ∧ s.jobs.halted = false ∧ s.jobs.ended.find? (fun x => !x.signed) = some m ∧ daymarkOff s = false ∧
      notHeadOf m = true ∧ memoriesWf o = true ∧ o.jobs.halted = false ∧ o.kpr.fuses.kill = false ∧ daymarkOff o = true ∧
      o.jobs.ended.find? (fun x => !x.signed) = some { m with begun := true } ∧ memoriesWf k = true ∧ k.jobs.halted = false ∧ daymarkOff k = true ∧
      memoriesWf h = true ∧ h.jobs.halted = false ∧ certFor h 1 cert = some ended0 ∧ gathered { ended0 with certs := tput ended0.certs 1 cert } = false ∧
      certFor g 1 cert = some { ended0 with certs := [(0, [1])] } ∧ gathered { ended0 with certs := tput [(0, [1])] 1 cert } = true ∧
      daymarkOff g = false ∧ gathering h = some ended0 ∧ df.life ≠ .running ∧ df.jobs.deferred = [(ended0, [1, 2])] ∧ memoriesWf df = true ∧
      df.jobs.halted = false ∧
      nextIs (exec (.ledgerSignComplete [9]) s) (fun t => slotState t 3 == 2) ∧ nextIs (exec (.ledgerSignComplete [9]) o) (fun t => slotState t 3 == 2) ∧
      nextIs (exec (.ledgerSignComplete [9]) k) (fun t => slotState t 3 == 3) ∧
      nextIs (exec (.memberCertRx 1 cert []) h) (fun t => t.jobs.ended == [{ ended0 with certs := [(1, cert)] }]) ∧
      nextIs (exec .certGatherTimeout h) (fun t => t.watch == 1000000050) ∧
      nextIs (exec .ledgerDeferredWrite df) (fun t => t.jobs.deferred.isEmpty && t.jobs.ended.length == 1) := by decide +kernel

/-! ### The host's queues, memory and registers -/

/-- Doorbells inside and outside the ring of 16 entries; a pair that is enabled and disabled, and one whose job runs. -/
theorem test_HostQueues :
    let s := idle; let d := { s with jobs := { s.jobs with queues := [] } }; let b := active .running (newActive (job0 0) true) (loaded partReset)
    paused s = false ∧ s.life ≠ .off ∧ (queueOf s 64).enabled = true ∧ (queueOf s 64).error = false ∧ tailOk s 64 2 = true ∧ headOk s 64 0 = true ∧
      tailOk s 64 16 = false ∧ headOk s 64 1 = false ∧ (queueOf d 3).enabled = false ∧ qConfigOk 0x20040 = true ∧ queueBusy s 64 = false ∧
      paused b = false ∧ b.life ≠ .off ∧ queueBusy b 0 = true ∧
      nextIs (exec (.sqTailDoorbell 64 2) s) (fun t => (queueOf t 64).sqTail == 2) ∧
      nextIs (exec (.sqTailDoorbell 64 16) s) (fun t => (queueOf t 64).error && (queueOf t 64).sqTail == 1) ∧
      nextIs (exec (.cqHeadDoorbell 64 1) s) (fun t => (queueOf t 64).error) ∧
      nextIs (exec (.queueEnable 3 0x20041) d) (fun t => (queueOf t 3).enabled) ∧ nextIs (exec (.queueDisable 64 0) s) (fun t => !(queueOf t 64).enabled) ∧
      nextIs (exec (.queueDisable 0 0) b) (fun t => (queueOf t 0).enabled) := by decide +kernel

/-- A completion at the ring's last entry. -/
theorem test_HostQueues_completion :
    let c := compRecord 0x2040 0 0 1 5 0 0 0 0 0 0; let k : Queue := { queueOf idle 64 with comps := [c], cqTail := 15, cqHead := 3 }
    let s := putQueue 64 k idle
    (queueOf s 64).comps = [c] ∧ cqRoom s 64 = true ∧ s.jobs.halted = false ∧
      nextIs (exec (.completionPost 64) s) (fun t => (queueOf t 64).comps.isEmpty && (queueOf t 64).cqTail == 0 && (queueOf t 64).phase != k.phase) := by
  decide +kernel

/-- BAR2 reads and writes of a byte of Station 0's DRAM, and a write into the Keeper's DRAM. -/
theorem test_HostMemoryAndRegisters_window :
    let s := loaded partReset; let top := dramSize - 1
    paused s = false ∧ railsOff s = false ∧ 5 + 1 ≤ bar2Size s ∧ windowAt s 5 = 5 ∧ dramServed s = true ∧ runsOk ((readWindow 5 1 true).go s) = true ∧
      5 + 1 ≤ dramSize ∧ writeBarred s (1, 5, 1) = false ∧ runsOk ((writeMem 1 5 [9]).go s) = true ∧ top + 1 ≤ bar2Size s ∧ windowAt s top = top ∧ top + 1 ≤ dramSize ∧ writeBarred s (1, top, 1) = true ∧
      nextIs (exec (.bar2Read 5 1 []) s) (fun t => t.out == [.data [0]]) ∧ nextIs (exec (.bar2Write 5 [9] []) s) (fun t => rd t.dram 5 == 9) ∧
      nextIs (exec (.bar2Write top [9] []) s) (fun t => rd t.dram top == 0) := by decide +kernel

/-- KPR_IDENT, the low word of TIM_WATCH, the low word of TIM_TOD_SEC, and a counter of the KPR page. -/
theorem test_HostMemoryAndRegisters_words :
    let s := loaded partReset; let f := fun (p a : Nat) => (regFind (regsOf (pageKind p).1) (a % 0x1000)).map fun x => (x.1.wide, x.1.off, x.2)
    (0 % 4 = 0 ∧ 0 ≠ todNsAt ∧ 0 ≠ todSecAt) ∧ wideWord 0 = none ∧ (pageBase pgTim + 0x40 ≠ todNsAt ∧ pageBase pgTim + 0x40 ≠ todSecAt) ∧
      wideWord (pageBase pgTim + 0x40) = some 0 ∧ pageAt todSecAt = some pgTim ∧ f pgTim todSecAt = some (true, 0x50, 0, 0) ∧ pageAt 0x34 = some 0 ∧
      f 0 0x34 = some (false, 0x34, 0, 0) ∧ 0x34 ∉ [0x18, 0x1C, 0x20, 0x30] ∧ (pageKind 0).1 = .kpr ∧
      nextIs (exec (.lowWordRead 0 4) s) (fun t => t.out.length == 1) ∧
      nextIs (exec (.registerWrite todSecAt 4 7) s) (fun t => tget? t.staged todSecAt == some 7) ∧
      nextIs (exec (.registerWrite 0x34 4 0) s) (fun t => regGet t 0x34 == 0) := by decide +kernel

/-- ENGINE_RESET, FREEZE, RESUME, a parameter write, STRICT and OPP; and in RUNNING the first, the fourth and the fifth refused. -/
theorem test_RegisterActions :
    let e := { engReset with present := true, atBreak := some 1, p := [(2, 7)] }
    let s := { idle with engs := [(ekey lan0, e)], regs := idle.regs ++ [(pageBase (pgParam 0) + 0x40, 0x80)] }; let r := { s with life := .running }
    paused s = false ∧ railsOff s = false ∧ engineWriteOk s = true ∧ (engOf s lan0).atBreak = some 1 ∧
      engAt 0 (bits (regGet s (pageBase (pgParam 0) + 0x40)) 4 0) = lan0 ∧ (engOf s lan0).present = true ∧
      bitAt (regGet s (pageBase (pgParam 0) + 0x40)) 5 = false ∧ inKRL s = true ∧ banksFree s = true ∧ pageLocked s pgPwr = false ∧
      paused r = false ∧ railsOff r = false ∧ engineWriteOk r = false ∧ inKRL r = false ∧
      nextIs (exec (.engineReset lan0) s) (fun t => (engOf t lan0).atBreak.isNone && (engOf t lan0).p == [(2, 7)]) ∧
      nextIs (exec (.stationFreeze 0 true) s) (fun t => isFrozen t 0) ∧ nextIs (exec (.stationFreeze 0 false) s) (fun t => !isFrozen t 0) ∧
      nextIs (exec (.engineResume lan0) s) (fun t => (engOf t lan0).atBreak.isNone && (engOf t lan0).resumed) ∧
      nextIs (exec (.paramWrite 0 9) s) (fun t => tget 0 (engOf t lan0).p 2 == 9) ∧ nextIs (exec (.strictWrite true) s) (fun t => strictOn t) ∧
      nextIs (exec (.oppWrite 3) s) (fun t => regGet t (pageBase pgPwr + 0x10) == 3) ∧
      nextIs (exec (.paramWrite 0 9) r) (fun t => tget 0 (engOf t lan0).p 2 == 7) := by decide +kernel

/-! ### Banks and Moorings -/

/-- LOAD_IMAGE of bank 15 and RELEASE_BANK of bank 0; a load under way; one that Strict Timing held back. -/
theorem test_BankCommands :
    let s := loaded partReset; let c := cmd (leBytes 8 15 ++ leBytes 8 0x8000); let r := cmd [0]; let k := cmd [15]
    let l := { s with banks := [(15, { bankReset with st := .loading })] }; let h := { s with banks := [(15, { bankReset with st := .loading, strictHeld := true })] }
    AdminReady c 16 [1, 2, 3, 4, 5, 6, 7] s ∧ AdminReady r 1 [] s ∧ (inLoadStates s = true ∧ field c.args 0 1 < 16 ∧ (bankOf s 15).st ≠ .loading ∧
      bankNamed s 15 = false ∧ 15 ∉ endedBanks s ∧ (bankOf l 15).st = .loading ∧ (bankOf l 15).strictHeld = false ∧ strictHolds l = false ∧ (bankOf h 15).strictHeld = true ∧
      h.life ≠ .running ∧ inBankStates s = true ∧ bankNamed s 0 = false ∧ (bankOf s 0).st ≠ .loading ∧ field k.args 0 1 < 16) ∧
      nextIs (exec (.loadImage c) s) (fun t => (bankOf t 15).st = .loading && (bankOf t 15).hostPtr == 0x8000) ∧
      nextIs (exec (.imageFetchComplete 15 (some [])) l) (fun t => (bankOf t 15).st = .free && (bankOf t 0).st = .free) ∧
      nextIs (exec (.loadStrictRelease 15) h) (fun t => !(bankOf t 15).strictHeld) ∧
      nextIs (exec (.releaseBank r) s) (fun t => bankOf t 0 == bankReset && statusOf t == some 0) := by
  refine ⟨adminReady_mk ?_, adminReady_mk ?_, ?_, ?_, ?_, ?_, ?_⟩ <;> decide +kernel

/-- TENSOR_ADDR of tensor 4, a page of SRAM at 0x2000. -/
theorem test_BankCommands_tensor :
    let im := { image0 [] with tensors := [⟨4, 0, 1, 1, 0, 0xFF, 0⟩] }; let pl := { placement0 with stations := [⟨0, 0, 4, 8, [], [], [⟨4, 0, 0, 0x2000, 1⟩]⟩] }
    let s := { loaded partReset with banks := [(0, { bank0 [] with img := some im, placement := some pl })] }; let c := { cmd [0, 0, 4] with resultPtr := 0x8000 }
    AdminReady c 4 [1] s ∧ (inAddrStates s = true ∧ field c.args 0 1 < 16 ∧ (bankOf s 0).st = .loaded ∧ (tensorResult (bankOf s 0) 4).isSome = true ∧
      tensorResult (bankOf s 0) 4 ≠ some []) ∧ nextIs (exec (.tensorAddr c) s) (fun t => statusOf t == some 0 && t.out.length == 1) := by
  refine ⟨adminReady_mk ?_, ?_, ?_⟩ <;> decide +kernel

/-- A Mooring in a state, of an image with no weights, or with one block of a byte. -/
def moored (st : MoorSt) (held : Bool) (im : Image) : State :=
  let s := loaded partReset; { s with moorings := [(5, { moorReset with st := st, strictHeld := held, img := some im, phys := [0] })] }

/-- MOORING_OPEN of Mooring 63, SEAL, RELEASE, and a verification that Strict Timing held back. -/
theorem test_MooringCommands :
    let s := loaded partReset; let o := cmd [63, 0]; let c := cmd [5]; let f := moored .filling false (image0 []); let h := moored .verifying true (image0 [])
    AdminReady o 2 [] s ∧ AdminReady c 1 [] f ∧ (inBankStates s = true ∧ field o.args 0 1 < 64 ∧ field o.args 1 1 < 16 ∧ (moorOf s 63).st = .empty ∧
      (bankOf s 0).st = .loaded ∧ (bankOf s 0).img = some (image0 []) ∧ (bankOf s 0).placement = some placement0 ∧
      allocExtent s none (moorNeed (image0 [])) = some 0 ∧ inBankStates f = true ∧ field c.args 0 1 < 64 ∧ (moorOf f 5).st = .filling ∧
      moorNamed f 5 = false ∧ (moorOf h 5).strictHeld = true ∧ h.life ≠ .running) ∧
      nextIs (exec (.mooringOpen o) s) (fun t => (moorOf t 63).st = .filling && statusOf t == some 0) ∧
      nextIs (exec (.mooringSeal c) f) (fun t => (moorOf t 5).st = .verifying) ∧
      nextIs (exec (.mooringRelease c) f) (fun t => (moorOf t 5).st = .empty && statusOf t == some 0) ∧
      nextIs (exec (.mooringVerifyResume 5) h) (fun t => !(moorOf t 5).strictHeld) := by
  refine ⟨adminReady_mk ?_, adminReady_mk ?_, ?_, ?_, ?_, ?_, ?_⟩ <;> decide +kernel

/-- A verification that passes, and one that meets an uncorrectable codeword. -/
theorem test_MooringCommands_verify :
    let im := { image0 [] with blocks := [⟨[], 0, 1, 0⟩] }; let s := moored .verifying false (image0 []); let b := { moored .verifying false im with dramEcc := [(0, [1, 2, 3])] }
    (moorOf s 5).st = .verifying ∧ (moorOf s 5).strictHeld = false ∧ strictHolds s = false ∧ (moorOf s 5).img = some (image0 []) ∧ runsOk ((moorVerify (moorOf s 5) (image0 [])).go s) = true ∧
      (moorOf b 5).st = .verifying ∧ (moorOf b 5).strictHeld = false ∧ strictHolds b = false ∧ (moorOf b 5).img = some im ∧ runsOk ((moorVerify (moorOf b 5) im).go b) = false ∧
      nextIs (exec (.mooringVerifyComplete 5) s) (fun t => (moorOf t 5).st = .ready) ∧
      nextIs (exec (.mooringVerifyComplete 5) b) (fun t => (moorOf t 5).st = .failed) := by decide +kernel

/-! ### Security -/

/-- A READY module with a change of its Keeper. -/
def keeping (f : Kpr → Kpr) : State := { idle with kpr := f kprReset }

def secured (f : Sec → Sec) : State := keeping fun k => { k with sec := f k.sec }
def fused (f : Fuses → Fuses) : State := keeping fun k => { k with fuses := f k.fuses }

/-- A record over MCTP with an opcode, and a GET_NONCE request. -/
def mctp (op : Byte) : List Byte := op :: List.replicate 127 0
def nonceRequest : List Byte := leBytes 4 0x4E574F53 ++ leBytes 2 1 ++ leBytes 58 0

theorem test_Attestation :
    let s := idle; let k := fused fun f => { f with kill := true }; let n := secured fun c => { c with nonce := some ([1], 900) }; let p := { idle with life := .keep }
    keeperUp s = true ∧ romRecovery s = false ∧ slotChain s 0 = some [] ∧ daymarkOff s = false ∧ keeperUp k = true ∧ romRecovery k = false ∧
      slotChain k 0 = some [] ∧ daymarkOff k = true ∧ measAsked s 0 = some [90] ∧ getNonceOk nonceRequest = true ∧ keeperUp n = true ∧ romRecovery n = false ∧
      n.kpr.sec.nonce = some ([1], 900) ∧ keeperUp p = true ∧ romRecovery p = false ∧ p.life = .keep ∧ tripBars p = none ∧ inRL s = true ∧
      (∀ op ∈ [(0x01 : Byte), 0x33], argsOk (slice (mctp op) 1 7) (slice (mctp op) 0x18 104) 0 [] = true ∧ field (mctp op) 0 1 = op.toNat) ∧
      nextIs (exec (.spdmGetMeasurements 0 false []) s) (fun t => t.out == [.reply "SPDM MEASUREMENTS" [90]]) ∧
      nextIs (exec (.spdmChallenge 0 []) k) (fun t => t.out.head? == some (.reply "SPDM ERROR Unspecified" [0x31, 0x50])) ∧
      nextIs (exec (.getNonce nonceRequest (List.replicate 32 4)) s) (fun t => t.kpr.sec.nonce == some (List.replicate 32 4, 60000000000)) ∧
      nextIs (exec .nonceExpiry n) (fun t => t.kpr.sec.nonce.isNone && t.watch == 900) ∧
      nextIs (exec (.mctpCommand (mctp 0x01) []) p) (fun t => t.life = .ready) ∧ nextIs (exec (.mctpCommand (mctp 0x33) []) s) (fun t => t.out.length == 1) := by
  decide +kernel

/-- A request of an operation. -/
def request (op : Byte) : List Byte := leBytes 6 0 ++ [op] ++ leBytes 57 0

/-- Requests of every operation meet a Keeper that is up. One that is badly formed consumes the nonce. -/
theorem test_OwnerRequests :
    let s := secured fun c => { c with nonce := some ([1], 900) }
    keeperUp s = true ∧ romRecovery s = false ∧ (∀ op ∈ [(1 : Byte), 2, 3, 4, 5, 6, 7, 8, 0x10], rqOp (request op) = op.toNat ∧ rqFails s (request op) = some 0x5012) ∧
      nextIs (exec (.addKey (request 2)) s) (fun t => t.kpr.sec.nonce.isNone && t.kpr.sec.keys.isEmpty) ∧
      nextIs (exec (.debugUnlock (request 0x10)) s) (fun t => t.kpr.sec.nonce.isNone && t.kpr.sec.debugOpen == 0) := by decide +kernel

/-! ### Firmware updates -/

/-- An UPDATING module whose update is as given. -/
def updating (f : Upd → Upd) : State := { keeping (fun k => { k with upd := f { k.upd with left := .ready } }) with life := .updating }

theorem test_FirmwareUpdate_transfer :
    let r := updating fun u => { u with phase := .requested }; let x := updating fun u => { u with phase := .transfer, size := 8, maxTransfer := 4, bytes := [1, 2] }
    let y := updating fun u => { u with phase := .transfer, size := 8, maxTransfer := 4, fails := 3 }; let z := updating fun u => { u with phase := .transfer, size := 2, bytes := [1, 2] }
    (∀ u ∈ [idle, r, x, y, z], pldmUp u = true) ∧ idle.life ≠ .updating ∧ updateCheck idle = none ∧ r.kpr.upd.phase = .requested ∧ x.kpr.upd.phase = .transfer ∧
      x.kpr.upd.bytes.length < x.kpr.upd.size ∧ [3, 4, 5, (6 : Byte)].length = nextAsk x.kpr.upd ∧ x.kpr.upd.fails < 3 ∧ 3 ≤ y.kpr.upd.fails ∧
      waitsAgent x.kpr.upd = true ∧ beforeApply x.kpr.upd = true ∧ z.kpr.upd.size = z.kpr.upd.bytes.length ∧ romRecovery z = false ∧
      stagedCheck z noBundle = some (0x6004, 0) ∧
      nextIs (exec (.requestUpdate 64) idle) (fun t => t.life = .updating && t.kpr.upd.phase = .requested) ∧
      nextIs (exec (.updateComponent 9) r) (fun t => t.kpr.upd.phase = .transfer && t.kpr.upd.size == 9) ∧
      nextIs (exec (.firmwareDataResponse true [3, 4, 5, 6]) x) (fun t => t.kpr.upd.bytes == [1, 2, 3, 4, 5, 6]) ∧
      nextIs (exec (.firmwareDataResponse false []) x) (fun t => t.kpr.upd.fails == 1) ∧
      nextIs (exec (.firmwareDataResponse false []) y) (fun t => t.kpr.upd.phase = .closed) ∧
      nextIs (exec .firmwareDataTimeout x) (fun t => t.life = .ready && t.kpr.upd.phase = .closed) ∧
      nextIs (exec .cancelUpdate x) (fun t => t.life = .ready && t.kpr.upd.phase = .closed) ∧
      nextIs (exec (.transferComplete noBundle) z) (fun t => t.kpr.upd.phase = .closed) := by decide +kernel

theorem test_FirmwareUpdate_flash :
    let b := { noBundle with present := true, svn := 3 }
    let f := updating fun u => { u with phase := .writeFallback, rec_ := .copying, staged := some b }; let a := updating fun u => { u with phase := .writeActive, rec_ := .writing, staged := some b }
    let w := updating fun u => { u with phase := .applied, rec_ := .written }; let r := updating fun u => { u with rec_ := .reverting }
    let t0 := updating fun u => { u with rec_ := .trial, trialAt := some 0 }
    pldmUp w = true ∧ f.kpr.upd.staged = some b ∧ romRecovery f = false ∧ f.kpr.upd.phase = .writeFallback ∧ a.kpr.upd.staged = some b ∧ romRecovery a = false ∧
      a.kpr.upd.phase = .writeActive ∧ w.kpr.upd.rec_ = .written ∧ w.kpr.upd.phase = .applied ∧ activateCheck w = none ∧ inTrial t0 = true ∧
      r.kpr.upd.rec_ = .reverting ∧
      nextIs (exec (.flashWriteStepDone true) f) (fun t => t.kpr.flash.fallback == f.kpr.boot.bundle && t.kpr.upd.phase = .writeActive) ∧
      nextIs (exec (.flashWriteStepDone true) a) (fun t => t.kpr.flash.active == b && t.kpr.upd.rec_ = .written) ∧
      nextIs (exec .activateTimeout w) (fun t => t.kpr.upd.rec_ = .reverting) ∧ nextIs (exec (.healthConfirmed true) t0) (fun t => t.life = .ready) ∧
      nextIs (exec .trialTimeout t0) (fun t => t.kpr.upd.rec_ = .reverting && t.watch == 0) ∧
      nextIs (exec .revertCopyDone r) (fun t => t.kpr.upd.rec_ = .idle && t.life = .ready) := by decide +kernel

/-! ### Power and resets -/

/-- A module in KEEP, READY and OFF. -/
def lying (l : Life) : State := { idle with life := l }

theorem test_PowerAndFeeds_feeds :
    let c := cmd []; let k := lying .keep; let s := idle; let b := keeping fun k => { k with pwr := { k.pwr with onB := true, mvA := 45000, single := true } }
    AdminReady c 0 [] k ∧ AdminReady c 0 [] s ∧ (k.life = .keep ∧ tripBars k = none ∧ s.life = .ready ∧ s.life ≠ .off ∧ inRange 56000 = true ∧
      inRange 45000 = true ∧ b.life ≠ .off ∧ b.kpr.pwr.onB = true ∧ s.kpr.pwr.single = false ∧ inRange 30000 = false ∧ b.kpr.pwr.single = true) ∧
      nextIs (exec (.powerUp c) k) (fun t => t.life = .ready && statusOf t == some 0) ∧ nextIs (exec (.powerDown c) s) (fun t => t.life = .keep && statusOf t == some 0) ∧
      nextIs (exec (.feedADrop 45999 56000) s) (fun t => t.kpr.pwr.onB) ∧ nextIs (exec (.feedAReturn 47001) b) (fun t => !t.kpr.pwr.onB) ∧
      nextIs (exec (.singleFeedEnter 30000 56000) s) (fun t => t.kpr.pwr.single) ∧ nextIs (exec (.singleFeedExit 56000 56000) b) (fun t => !t.kpr.pwr.single) ∧
      nextIs (exec (.powerFail 43999 43999) s) (fun t => t.life = .off && t.kpr.pwr.brownout) := by
  refine ⟨adminReady_mk ?_, adminReady_mk ?_, ?_, ?_, ?_, ?_, ?_, ?_, ?_, ?_⟩ <;> decide +kernel

/-- Readings below and above the cap, and one that trips a running job; temperatures at band 0's edge, and at 110 °C; a droop. -/
theorem test_PowerAndFeeds_readings :
    let s := idle; let r0 := active .running (newActive (job0 0) true) (loaded partReset)
    let r := { r0 with watch := 10000001, kpr := { r0.kpr with pwr := { r0.kpr.pwr with peakAt := some 0 } } }
    s.life ≠ .off ∧ powerTrips (takePower 1001 s) = false ∧ strictOn s = false ∧ capOf s.kpr.pwr.band < 1001 ∧ r.life ≠ .off ∧
      powerTrips (takePower 1151 r) = true ∧ r.kpr.pwr.trip = none ∧ inJob r = true ∧ s.kpr.pwr.trip = none ∧ s.kpr.pwr.band = 0 ∧ railsOff s = false ∧
      nextIs (exec (.powerSample 1001) s) (fun t => t.kpr.pwr.kt == 1 && t.kpr.pwr.readings == [(0, 1001)]) ∧
      nextIs (exec (.powerSample 1151) r) (fun t => t.life = .faulted && t.kpr.pwr.railsOff) ∧
      nextIs (exec (.temperatureSample 95 7 85) s) (fun t => t.kpr.pwr.band == 0 && t.kpr.pwr.tj == 95 && t.kpr.pwr.hot == 7) ∧
      nextIs (exec (.temperatureSample 110 7 85) r) (fun t => t.life = .faulted && t.kpr.pwr.railsOff) ∧
      nextIs (exec (.droopDetect 3) s) (fun t => (clkOf t 3).k == 4 &&
        nextIs (exec (.droopRelease 3) t) (fun u => (clkOf u 3).k == 3 && !(clkOf u 3).droops)) := by decide +kernel

/-- Power on; the three warm resets; a pin's release; the alert; and JTAG with its scopes shut and open. -/
theorem test_ResetsAndPins :
    let o := lying .off; let s := loaded partReset; let c := cmd []; let p := keeping fun k => { k with pins := { k.pins with perst := true } }
    let a := { idle with regs := (pageBase pgRcv + 0x60, 1) :: idle.regs }; let d := secured fun c => { c with debugOpen := 2 }
    AdminReady c 0 [] s ∧ (o.life = .off ∧ s.life ≠ .off ∧ s.kpr.upd.rec_ = .idle ∧ s.kpr.pins.perst = false ∧ s.kpr.pins.warm = false ∧
      p.kpr.pins.perst = true ∧ smbAlert a = true ∧ bitAt d.kpr.sec.debugOpen 1 = true ∧ bitAt s.kpr.sec.debugOpen 0 = false ∧
      bitAt s.kpr.sec.debugOpen 1 = false ∧ bitAt s.kpr.sec.debugOpen 2 = false) ∧
      nextIs (exec (.powerApplied ⟨0, 0, 0, 0, true, false⟩) o) (fun t => t.life = .keep && t.watch == 0) ∧
      (∀ x ∈ [Instr.functionLevelReset, .warmResetPin true, .resetWarm c], nextIs (exec x s) fun t => t.life = .keep && (bankOf t 0).st = .stale) ∧
      nextIs (exec (.resetRelease ⟨true, 8⟩) p) (fun t => !t.kpr.pins.perst) ∧ nextIs (exec .smbusAlertResponse a) (fun t => t.out == [.reply "SMBus" [0x4D]]) ∧
      nextIs (exec (.jtagInstruction (.engineHalt lan0)) d) (fun t => (engOf t lan0).stopped) ∧
      nextIs (exec (.jtagInstruction (.engineHalt lan0)) s) (fun t => t.out == [.reply "TDO" [0]] && !(engOf t lan0).stopped) := by
  refine ⟨adminReady_mk ?_, ?_, ?_, ?_, ?_, ?_, ?_, ?_⟩ <;> decide +kernel

/-! ### Rules stated whole -/

/-- Flag 63 of an image that has it, at 65,530: 5 more fit, 6 do not; and flag 48, which the image does not have. -/
theorem test_HostFlagDoorbells :
    let s := { lying .running with hostMask := 2 ^ 63, chipFlags := [(63, 65530)] }
    paused s = false ∧ s.life ≠ .off ∧ s.life = .running ∧ bitAt s.hostMask 63 = true ∧ nget s.chipFlags 63 + 5 ≤ 65535 ∧ 65535 < nget s.chipFlags 63 + 6 ∧
      bitAt s.hostMask 48 = false ∧
      nextIs (exec (.hostFlagDoorbell 63 5) s) (fun t => nget t.chipFlags 63 == 65535 && t.led.hostFed) ∧
      nextIs (exec (.hostFlagDoorbell 63 6) s) (fun t => nget t.chipFlags 63 == 65530 && !t.led.hostFed) ∧
      nextIs (exec (.hostFlagDoorbell 48 1) s) (fun t => nget t.chipFlags 48 == 0 && !t.led.hostFed) := by decide +kernel

/-- RMA at lifecycle 3 at the latest; a module whose Daymark is killed, in AUTH, with a record to sign, and with a certificate of a member. -/
theorem test_RmaEndsDaymark :
    let k := fun (s : State) => { s with kpr := { s.kpr with fuses := { s.kpr.fuses with kill := true, lifecycle := 3 } } }
    let a := { newActive (job0 0) true with launch := some 900, switched := true }; let r := k (active .armed a (loaded partReset))
    let l := k (onLink { inSt .auth with chainKey := some [7] }); let e := k (ending part2 ended0); let cert := leBytes 0x34 0 ++ leBytes 4 7 ++ leBytes 8 77
    idle.life ≠ .off ∧ idle.kpr.fuses.lifecycle ≤ 3 ∧ r.kpr.fuses.kill = true ∧ r.kpr.fuses.lifecycle = 3 ∧ (k (lying .off)).life = .off ∧ r.life = .armed ∧
      r.jobs.active = some a ∧ runsOk ((bufHash a.job 0).go (watchTo 900 r)) = true ∧ (linkOf l 0).st = .auth ∧ (linkOf l 0).chainKey = some [7] ∧ memoriesWf e = true ∧ e.jobs.halted = false ∧
      e.jobs.ended.find? (fun x => !x.signed) = some ended0 ∧ certFor e 1 cert = some ended0 ∧ keeperUp r = true ∧ romRecovery r = false ∧ slotChain r 0 = some [] ∧
      nextIs (exec .rmaEntry idle) (fun t => t.kpr.fuses.kill && t.kpr.fuses.lifecycle == 3) ∧ nextIs (step r) (fun t => t.kpr.fuses.kill) ∧
      linkIs (exec (.linkTranscriptSignature 0 [] [] [] []) l) (fun x => x.st = .fenced) ∧ nextIs (exec .launchWatch r) (fun t => t.life = .running) := by
  decide +kernel

/-- An address in no page, and one in the KPR page that holds no register. -/
theorem test_ReservedAddresses :
    0x3000000 % 4 = 0 ∧ pageAt 0x3000000 = none ∧ pageAt 0x800 = some 0 ∧ regFind (regsOf (pageKind 0).1) (0x800 % 0x1000) = none ∧ paused idle = false ∧
      nextIs (exec (.lowWordRead 0x3000000 4) idle) (fun t => t.out == [.data [0, 0, 0, 0]]) ∧
      nextIs (exec (.registerWrite 0x800 4 7) idle) (fun t => t == idle) := by decide +kernel

/-! ### Well-formed commands -/

/-- A refused command beside one that passes, for each check of a command's operands. -/
theorem test_wf_commandRecord :
    let c := cmd []
    (Instr.powerUp c).wf ∧ !(Instr.powerUp { c with tag := 2 ^ 64 }).wf ∧ !(Instr.loadImage { c with resultPtr := 2 ^ 64 }).wf ∧
      !(Instr.partitionForm { c with reserved := [] } []).wf ∧ !(Instr.leadingSet { c with args := [] } [] []).wf := by decide +kernel

theorem test_wf_frames : (Instr.linkFrameRx 0 (List.replicate 280 0)).wf ∧ !(Instr.linkFrameRx 0 (List.replicate 279 0)).wf := by decide +kernel

theorem test_wf_upsets :
    let p := fun u => (Instr.copy tnd0 [u]).wf
    p (.sramSingle 0x3FFFFFFF) ∧ !p (.sramSingle 0x40000000) ∧ !p (.sramDouble 0x40000000) ∧ !p (.sramSilent 0x40000000 1) ∧ p (.dramSymbols 0 [35]) ∧
      !p (.dramSymbols 0x2000000000 []) ∧ !p (.dramSymbols 0 [36]) ∧ !p (.dramSilent 0x2000000000 1) ∧ p (.accumulator 255 255 767) ∧
      !p (.accumulator 256 0 0) ∧ !p (.accumulator 0 256 0) ∧ !p (.accumulator 0 0 768) ∧ p (.rounding 255) ∧ !p (.rounding 256) ∧ p (.gallery 15) := by
  decide +kernel

theorem test_wf_pairs :
    let p := fun u => (Instr.wickInstruction w0 [] false false [u]).wf; let q := fun u => (Instr.pushStore ⟨w0, [u]⟩ 0x60000000 [] true).wf
    p .compare ∧ p (.sramDouble 0x3FFFFFFF) ∧ !p (.sramDouble 0x40000000) ∧ q .compare ∧ !q (.sramSingle 0x40000000) := by decide +kernel

theorem test_wf_hello :
    let z := List.replicate 32 (0 : Byte); let h : Hello := ⟨[0, 0, 0, 31], 2, true, true⟩; let p := fun x n => (Instr.linkHello 0 x n).wf
    p h z ∧ !p { h with pos := [0] } z ∧ !p { h with pos := [0, 0, 0, 32] } z ∧ !p { h with rateMax := 3 } z ∧ !p h [] := by
  decide +kernel

theorem test_wf_records :
    (Instr.jobRecord 0 (mctp 0) none none).wf ∧ !(Instr.jobRecord 0 [] none none).wf ∧ !(Instr.prepare ⟨[], [], [], 0, []⟩).wf ∧ !(Instr.mctpCommand [] []).wf ∧
      (Instr.formationReport 0 0 (List.replicate 32 0)).wf ∧ !(Instr.formationReport 0 0 []).wf := by decide +kernel

theorem test_wf_windows :
    (Instr.registerWrite 0x3FFFFFC 4 0).wf ∧ !(Instr.registerWrite 0x3FFFFFD 4 0).wf ∧ !(Instr.registerWrite 0 0 0).wf ∧ !(Instr.lowWordRead 0x4000000 4).wf ∧
      (Instr.bar2Read 0x3FFFFFFFFF 1 []).wf ∧ !(Instr.bar2Read 0x3FFFFFFFFF 2 []).wf ∧ !(Instr.bar2Write 0x4000000000 [0] []).wf ∧
      (Instr.todSecWrite (2 ^ 64 - 1)).wf ∧ !(Instr.todSecWrite (2 ^ 64)).wf := by decide +kernel

/-- No word spells a command. -/
theorem test_decodeTableWord (nbits w : Nat) : decodeTableWord nbits w = none := rfl

end Sys2Proof.Tests
end

section
/-! Issue and its WAITs (R115, R151): what each part of an attempt to issue does to the flags, what an attempt can come to,
and the statement on issue assembled from both. -/

namespace Sys2Proof.Machine

/-! ### One flag -/

/-- R116, R151: the threshold that a WAIT word names on flag i of scope sc; 0 where it names another flag. -/
def waitOn (sc i w : Nat) : Nat := if waitScope w = sc ∧ waitIdx w = i then waitThr w else 0

theorem waitOn_of_thr_zero {w : Nat} (h : waitThr w = 0) (sc i : Nat) : waitOn sc i w = 0 := by simp [waitOn, h]

theorem waitScope_zero_or_one (w : Nat) : waitScope w = 0 ∨ waitScope w = 1 := by
  unfold waitScope bits
  omega

/-- R150: a flag after a flag of the same Station or of the chip is set. -/
theorem flagGet_flagPut {sc sc' : Nat} (hsc : sc = 0 ∨ sc = 1) (hsc' : sc' = 0 ∨ sc' = 1) (st i i' v : Nat) (s : State) :
    flagGet (flagPut st sc' i' v s) st sc i = if sc' = sc ∧ i' = i then v else flagGet s st sc i := by
  by_cases hi : i' = i
  · subst hi
    rcases hsc with rfl | rfl <;> rcases hsc' with rfl | rfl <;> simp [flagGet, flagPut, stnOf]
  · have hput (t : Tbl Nat) : nget (tput t i' v) i = nget t i := nget_tput_other t v (Ne.symm hi)
    rcases hsc with rfl | rfl <;> rcases hsc' with rfl | rfl <;> simp [flagGet, flagPut, stnOf, hi, hput]

/-! ### The WAITs of a descriptor -/

/-- A WAIT that is met, or waits for nothing, names no more on any flag than the flag holds. -/
theorem waitOn_le_flagGet {s : State} {st v : Nat} (h : waitThr v = 0 ∨ waitThr v ≤ flagGet s st (waitScope v) (waitIdx v)) (sc i : Nat) :
    waitOn sc i v ≤ flagGet s st sc i := by
  unfold waitOn
  split
  case isTrue hflag => rw [← hflag.1, ← hflag.2]; omega
  case isFalse => exact Nat.zero_le _

/-- Two WAITs that both name a threshold on one flag are active WAITs of the same flag. -/
theorem sameFlag_of_waitOn_ne_zero {sc i a b : Nat} (ha : waitOn sc i a ≠ 0) (hb : waitOn sc i b ≠ 0) :
    (waitThr a != 0 && waitThr b != 0 && sameFlag a b) = true := by
  simp only [waitOn, ne_eq, ite_eq_right_iff, Classical.not_imp] at ha hb
  obtain ⟨⟨hscA, hiA⟩, hthrA⟩ := ha
  obtain ⟨⟨hscB, hiB⟩, hthrB⟩ := hb
  simp [sameFlag, hscA, hiA, hthrA, hscB, hiB, hthrB]

/-- R151: WAITs that are met find on every flag the sum of the thresholds that they name on it. -/
theorem waitOn_add_le_of_waitsMet {s : State} {st : Nat} {w : List Nat} (h : waitsMet s st w = true) (sc i : Nat) :
    waitOn sc i (nth w 1) + waitOn sc i (nth w 2) ≤ flagGet s st sc i := by
  unfold waitsMet at h
  dsimp only at h
  split at h
  case isTrue hsame =>
    simp only [sameFlag, Bool.and_eq_true, decide_eq_true_eq] at hsame h
    obtain ⟨-, hidx, hscope⟩ := hsame
    unfold waitOn
    rw [← hidx, ← hscope]
    split
    case isTrue hflag => rwa [← hflag.1, ← hflag.2]
    case isFalse => exact Nat.zero_le _
  case isFalse hdiff =>
    simp only [Bool.and_eq_true, Bool.or_eq_true, decide_eq_true_eq] at h
    have ha := waitOn_le_flagGet h.1 sc i
    have hb := waitOn_le_flagGet h.2 sc i
    have hone : waitOn sc i (nth w 1) = 0 ∨ waitOn sc i (nth w 2) = 0 := by
      by_contra hne
      rw [not_or] at hne
      exact hdiff (sameFlag_of_waitOn_ne_zero hne.1 hne.2)
    omega

/-- R151: one WAIT takes its threshold from the flag that it names and leaves every other flag. -/
theorem flagGet_waitTake {sc : Nat} (hsc : sc = 0 ∨ sc = 1) (st i w : Nat) (s : State) :
    flagGet (waitTake st w s) st sc i = flagGet s st sc i - waitOn sc i w := by
  unfold waitTake
  split
  case isTrue hthr => rw [waitOn_of_thr_zero hthr, Nat.sub_zero]
  case isFalse =>
    rw [flagGet_flagPut hsc (waitScope_zero_or_one w)]
    unfold waitOn
    split
    case isTrue hflag => rw [hflag.1, hflag.2]
    case isFalse => rfl

/-- R151: both thresholds are taken. -/
theorem flagGet_waitsTake {sc : Nat} (hsc : sc = 0 ∨ sc = 1) (st i : Nat) (w : List Nat) (s : State) :
    flagGet (waitsTake st w s) st sc i = flagGet s st sc i - waitOn sc i (nth w 1) - waitOn sc i (nth w 2) := by
  unfold waitsTake
  rw [flagGet_waitTake hsc, flagGet_waitTake hsc]

theorem nth_setNth_other {i j : Nat} (l : List Nat) (v : Nat) (h : i ≠ j) : nth (setNth l j v) i = nth l i := by
  simp [nth, setNth, List.getD_eq_getElem?_getD, List.getElem?_set_ne (Ne.symm h)]

/-- R141, R142: what W14 substitutes stands in W8 to W13, in handle indices and in offsets; W0 to W7 are latched as they are. -/
theorem nth_latchWords {i : Nat} (h : i < 8) (w : List Nat) (p : Nat → W64) : nth (latchWords w p).1 i = nth w i := by
  unfold latchWords
  refine List.foldlRecOn _ _ (motive := fun (acc : List Nat × List Nat × List Int) => nth acc.1 i = nth w i) rfl fun acc hacc e _ => ?_
  dsimp only
  split
  · rw [nth_setNth_other _ _ (by omega), hacc]
  · split <;> exact hacc

/-! ### What leaves the flags -/

/-- Every Station flag and every chip flag reads the same in two states. -/
structure SameFlags (s t : State) : Prop where
  flag : ∀ st sc i, flagGet t st sc i = flagGet s st sc i

theorem SameFlags.refl (s : State) : SameFlags s s := ⟨fun _ _ _ => rfl⟩

theorem SameFlags.trans {s t u : State} (h : SameFlags s t) (k : SameFlags t u) : SameFlags s u :=
  ⟨fun st sc i => (k.flag st sc i).trans (h.flag st sc i)⟩

theorem SameFlags.of_eq {s t : State} (hst : t.stations = s.stations) (hcf : t.chipFlags = s.chipFlags) : SameFlags s t :=
  ⟨fun _ _ _ => by simp only [flagGet, stnOf, hst, hcf]⟩

theorem SameFlags.foldl {α : Type} {f : State → α → State} (h : ∀ t a, SameFlags t (f t a)) (l : List α) (s : State) :
    SameFlags s (l.foldl f s) :=
  List.foldlRecOn l f (motive := SameFlags s) (.refl s) fun _ ht a _ => ht.trans (h _ a)

theorem putEng_sameFlags (g : Eng) (e : Engine) (s : State) : SameFlags s (putEng g e s) := .of_eq rfl rfl

/-- A Station record put back with the same flags. -/
theorem putStn_sameFlags {n : Nat} {x : Station} {s : State} (h : x.flags = (stnOf s n).flags) : SameFlags s (putStn n x s) := by
  refine ⟨fun st sc i => ?_⟩
  unfold flagGet
  by_cases hst : st = n
  · subst hst
    rw [stnOf_putStn_same, h, putStn_chipFlags]
  · rw [stnOf_putStn_other x s hst, putStn_chipFlags]

theorem setWaiting_sameFlags (g : Eng) (kind obj : Nat) (s : State) : SameFlags s (setWaiting g kind obj s) := putEng_sameFlags ..

theorem startWake_sameFlags (g : Eng) (s : State) : SameFlags s (startWake g s) := by
  unfold startWake
  dsimp only
  split_ifs
  · split
    · split_ifs
      · exact .refl s
      · exact .of_eq rfl rfl
    · exact .refl s
  · split
    · split_ifs
      · exact .refl s
      · exact .of_eq rfl rfl
    · exact .refl s
  · exact .refl s

theorem raise_sameFlags (code p bit a b c : Nat) (s : State) : SameFlags s (raise code p bit a b c s) := by
  rw [raise_frame]
  exact .of_eq rfl rfl

theorem settlePause_sameFlags (n : Nat) (s : State) : SameFlags s (settlePause n s) := by
  unfold settlePause
  dsimp only
  split
  · exact putStn_sameFlags rfl
  · split
    · exact .refl s
    · refine SameFlags.trans ?_ (.foldl (fun _ _ => ?_) (List.range 17) _)
      · exact putStn_sameFlags rfl
      · exact putEng_sameFlags ..

/-- R173: a stop at a break freezes and reports; it takes no count. -/
theorem stopAtBreak_sameFlags (g : Eng) (top mask : Nat) (s : State) : SameFlags s (stopAtBreak g top mask s) := by
  unfold stopAtBreak
  dsimp only
  refine SameFlags.trans ?_ (raise_sameFlags ..)
  refine SameFlags.trans ?_ (settlePause_sameFlags ..)
  split
  · exact (putEng_sameFlags ..).trans (putStn_sameFlags rfl)
  · exact putEng_sameFlags ..

theorem sbTake_sameFlags (r : SbReg) (s : State) : SameFlags s (sbTake r s) := .of_eq rfl rfl

theorem breakCount_sameFlags (g : Eng) (top : Nat) (s : State) : SameFlags s (breakCount g top s) := by
  rw [breakCount_frame]
  exact .of_eq rfl rfl

/-- R115: of all that issue does, the WAITs alone touch the flags. -/
theorem issueNow_sameFlags (g : Eng) (l : Latched) (s : State) : SameFlags (waitsTake g.st l.w s) (issueNow g l s) := by
  unfold issueNow
  dsimp only
  refine SameFlags.trans ?_ (putEng_sameFlags ..)
  refine SameFlags.trans ?_ (breakCount_sameFlags ..)
  exact .foldl (fun _ _ => sbTake_sameFlags ..) ..

/-! ### What an attempt to issue comes to -/

/-- R115, R140, R151, R173, R177, R462: where the answers of an attempt to issue come from. What does not issue leaves the state, or
what the engine waits on, a stop at a break, or the start of its unit's wake; what fails leaves the state, or what the check of its
class leaves; what issues is the latched descriptor of the next bytes, its WAITs met and the check of its class passed. -/
def IssueAnswer (cls : Latched → M Unit) (g : Eng) (s : State) : Issue → Prop
  | .no t => t = s ∨ (∃ kind obj, t = setWaiting g kind obj s) ∨ (∃ top mask, t = stopAtBreak g top mask s) ∨ t = startWake g s
  | .bad f t => t = s ∨ ∃ bs, nextBytes s g = some bs ∧ (cls (latch s g bs)).go s = (.error f, t)
  | .ok l t => ∃ bs s1, nextBytes s g = some bs ∧ waitsMet s g.st (descWords bs) = true ∧ l = latch s g bs ∧
      (cls l).go s = (.ok (), s1) ∧ t = issueNow g l s1

theorem tryIssue_answer (op : Nat) (wake : Bool) (cls : Latched → M Unit) (g : Eng) (s : State) :
    IssueAnswer cls g s (tryIssue op wake cls g s) := by
  unfold tryIssue
  dsimp only
  split
  · exact Or.inl rfl
  split
  case h_1 => exact Or.inl rfl
  case h_2 bs hbs =>
    split
    · exact Or.inl rfl
    split
    case isTrue => exact Or.inr (.inl ⟨_, _, rfl⟩)
    case isFalse hmet =>
      split
      · exact Or.inr (.inr (.inl ⟨_, _, rfl⟩))
      split
      · exact Or.inr (.inl ⟨_, _, rfl⟩)
      split
      · exact Or.inr (.inl ⟨_, _, rfl⟩)
      split
      · exact Or.inr (.inr (.inr rfl))
      split
      · exact Or.inl rfl
      split
      case h_1 f s1 hcls => exact Or.inr ⟨bs, hbs, hcls⟩
      case h_2 s1 hcls => exact ⟨bs, s1, hbs, by simpa only [Bool.not_eq_true', Bool.not_eq_false] using hmet, rfl, hcls, rfl⟩

/-- R151: a descriptor issues only when every flag holds the sum of the thresholds that it names there. -/
theorem waitOn_add_le_of_tryIssue_ok {op : Nat} {wake : Bool} {cls : Latched → M Unit} {g : Eng} {s t : State} {l : Latched}
    (h : tryIssue op wake cls g s = .ok l t) (sc i : Nat) :
    waitOn sc i (nth l.w 1) + waitOn sc i (nth l.w 2) ≤ flagGet s g.st sc i := by
  have hans := tryIssue_answer op wake cls g s
  rw [h] at hans
  obtain ⟨bs, -, -, hmet, rfl, -, -⟩ := hans
  have hkeep {k : Nat} (hk : k < 8) : nth (latch s g bs).w k = nth (descWords bs) k := nth_latchWords hk ..
  rw [hkeep (by decide), hkeep (by decide)]
  exact waitOn_add_le_of_waitsMet hmet sc i

/-- R151: no part of the WAITs of a descriptor that does not issue is taken. -/
theorem tryIssue_no_sameFlags {op : Nat} {wake : Bool} {cls : Latched → M Unit} {g : Eng} {s t : State}
    (h : tryIssue op wake cls g s = .no t) : SameFlags s t := by
  have hans := tryIssue_answer op wake cls g s
  rw [h] at hans
  obtain rfl | ⟨kind, obj, rfl⟩ | ⟨top, mask, rfl⟩ | rfl := hans
  · exact .refl _
  · exact setWaiting_sameFlags ..
  · exact stopAtBreak_sameFlags ..
  · exact startWake_sameFlags ..

/-! ### What issue leaves -/

/-- R151: issue takes both thresholds together. -/
theorem flagGet_issueNow {sc : Nat} (hsc : sc = 0 ∨ sc = 1) (g : Eng) (l : Latched) (i : Nat) (s : State) :
    flagGet (issueNow g l s) g.st sc i = flagGet s g.st sc i - waitOn sc i (nth l.w 1) - waitOn sc i (nth l.w 2) := by
  rw [(issueNow_sameFlags g l s).flag, flagGet_waitsTake hsc]

theorem issueNow_issueFrame (g : Eng) (l : Latched) (s : State) : IssueFrame g s (issueNow g l s) :=
  ⟨issueNow_frame .., fun _ hk => issueNow_eng_other l s hk⟩

/-- Settles O9: the inversion of an attempt to issue gives the two clauses on issuing and not issuing, the WAITs' own law the
flags after issue, and the engine's record after issue the rest. -/
theorem issueEffect : Obligations.IssueEffect := by
  unfold Obligations.IssueEffect
  intro g l s
  have heng := issueNow_eng g l s
  refine ⟨fun op wake cls t => ⟨fun h sc i _ => waitOn_add_le_of_tryIssue_ok h sc i, fun h => (tryIssue_no_sameFlags h).flag g.st⟩,
    by rw [heng], by rw [heng], by rw [heng], fun sc i hsc => flagGet_issueNow hsc g l i s, issueNow_issueFrame g l s⟩

end Sys2Proof.Machine
end

section
/-! Host flag doorbells (R401): what an event leaves in the record of what the block sent, the three answers of a doorbell, and the
statement assembled from them. -/

namespace Sys2Proof.Machine

/-! ### An event's report -/

theorem mem_out_afterSummary {o : Out} {s : State} (h : o ∈ s.out) (p : Nat) (was : Bool) : o ∈ (afterSummary p was s).out := by
  unfold afterSummary
  split
  case isTrue => exact List.mem_cons_of_mem _ h
  case isFalse => exact h

/-- R476, R479: an event takes back nothing that was sent. -/
theorem mem_out_setEvent {o : Out} {s : State} (h : o ∈ s.out) (p bit a b c : Nat) : o ∈ (setEvent p bit a b c s).out := by
  unfold setEvent
  refine mem_out_afterSummary ?_ ..
  split
  case isTrue => exact h
  case isFalse => exact h

/-- R475: a raised code is reported by the block of its page. -/
theorem report_mem_out_raise (code p bit a b c : Nat) (s : State) : .report code p ∈ (raise code p bit a b c s).out :=
  mem_out_setEvent List.mem_cons_self ..

/-- R24: a conflict is reported with 0x2040 by the PCI page. -/
theorem report_mem_out_conflict (q a : Nat) (s : State) : .report 0x2040 pgPci ∈ (conflict q a s).out := report_mem_out_raise ..

/-! ### The answers of a doorbell -/

theorem runOrHeld_iff (s : State) : runOrHeld s = true ↔ s.life = .running ∨ s.life = .held := by simp [runOrHeld]

/-- R400: a doorbell that is served, on a host flag's index and with an increment in range, comes to R401. -/
theorem exec_hostFlagDoorbell {i : Fin 64} {v : W32} {s : State} (hp : paused s = false) (hl : s.life ≠ .off) (hi : 48 ≤ i.val)
    (hpos : 0 < v.toNat) (hlt : v.toNat < 65536) :
    exec (.hostFlagDoorbell i v) s = .next (hostFlag i v.toNat (0x10000 + 4 * i.val) s) := by
  have hserved : ¬(paused s || s.life = .off) = true := by simp [hp, hl]
  have hform : ¬(i.val < 48 || v.toNat = 0 || 65536 ≤ v.toNat) = true := by
    simp only [Bool.or_eq_true, decide_eq_true_eq]
    omega
  change execHostFlagDoorbell i v s = _
  unfold execHostFlagDoorbell
  dsimp only
  rw [if_neg hserved, if_neg hform]

/-- R401: outside RUNNING and HELD, or on a flag that is not a host flag, a doorbell is a conflict. -/
theorem hostFlag_of_not_applies {i : Nat} {s : State} (h : ¬((s.life = .running ∨ s.life = .held) ∧ bitAt s.hostMask i = true))
    (n off : Nat) : hostFlag i n off s = conflict 0x7F off s := by
  have hdrop : (!runOrHeld s || !bitAt s.hostMask i) = true := by
    rwa [← runOrHeld_iff, ← Bool.and_eq_true, Bool.not_eq_true, ← Bool.not_eq_true', Bool.not_and] at h
  exact if_pos hdrop

/-- R401: where a doorbell is applied, the flag's room alone decides. -/
theorem hostFlag_of_applies {i : Nat} {s : State} (h : (s.life = .running ∨ s.life = .held) ∧ bitAt s.hostMask i = true) (n off : Nat) :
    hostFlag i n off s =
      if 65535 < nget s.chipFlags i + n then raise 0x20B2 pgPci 3 (0x20B2 + 0x7F * 2 ^ 16) off 0 s else addHostFlag i n s := by
  have hkeep : ¬(!runOrHeld s || !bitAt s.hostMask i) = true := by simp [(runOrHeld_iff s).2 h.1, h.2]
  exact if_neg hkeep

@[simp] theorem nget_addHostFlag_same (i n : Nat) (s : State) : nget (addHostFlag i n s).chipFlags i = nget s.chipFlags i + n :=
  nget_tput_same ..

theorem nget_addHostFlag_other {i j : Nat} (h : j ≠ i) (n : Nat) (s : State) :
    nget (addHostFlag i n s).chipFlags j = nget s.chipFlags j := nget_tput_other _ _ h

/-- Settles O58: a doorbell that is served comes to one of three answers, and each has its own law: an increment changes the flag, the
register slots and HOST_FED; an overflow and a conflict are events, which change registers and messages only. -/
theorem hostFlagDoorbells : Obligations.HostFlagDoorbells := by
  unfold Obligations.HostFlagDoorbells
  intro i v s hp hl hi hpos hlt applies
  have hexec := exec_hostFlagDoorbell hp hl hi hpos hlt
  refine ⟨fun happ hroom => ?applied, fun happ hover => ?overflow, fun hdrop => ?dropped⟩
  case applied =>
    rw [hostFlag_of_applies happ, if_neg (Nat.not_lt.2 hroom)] at hexec
    exact ⟨_, hexec, nget_addHostFlag_same .., fun _ hj => nget_addHostFlag_other hj .., rfl, rfl⟩
  case overflow =>
    rw [hostFlag_of_applies happ, if_pos hover] at hexec
    exact ⟨_, hexec, report_mem_out_raise .., raise_frame ..⟩
  case dropped =>
    rw [hostFlag_of_not_applies hdrop] at hexec
    exact ⟨_, hexec, report_mem_out_conflict .., conflict_frame ..⟩

end Sys2Proof.Machine
end

section
/-! What every command and every step keeps (Safety.Kept): the laws of the commands gathered over the dispatch. -/

namespace Sys2Proof.Machine

/-- Whatever a command is, it keeps what every command keeps: one law per arm of the dispatch. -/
theorem exec_kept {s t : State} : (i : Instr) → exec i s = .next t → Kept s t
  | .nop .., h => execNop_kept _ h
  | .matmul .., h => execMatmul_kept _ _ h
  | .matmulChain .., h => execMatmulChain_kept _ _ h
  | .accDrain .., h => execAccDrain_kept _ _ h
  | .copy .., h => execCopy_kept _ _ h
  | .gather .., h => execGather_kept _ _ h
  | .scatter .., h => execScatter_kept _ _ h
  | .fill .., h => execFill_kept _ _ h
  | .kernel .., h => execKernel_kept _ _ h
  | .reduceScalar .., h => execReduceScalar_kept _ _ h
  | .send .., h => execSend_kept _ _ h
  | .recv .., h => execRecv_kept _ _ h
  | .branch .., h => execBranch_kept _ h
  | .loopback .., h => execLoopback_kept _ h
  | .setparam .., h => execSetparam_kept _ h
  | .waitWatch .., h => execWaitWatch_kept _ h
  | .waitWatchTarget .., h => execWaitWatchTarget_kept _ h
  | .stepEnd .., h => execStepEnd_kept _ h
  | .fork .., h => execFork_kept _ h
  | .tallyVerify .., h => execTallyVerify_kept _ _ h
  | .tap .., h => execTap_kept _ _ h
  | .halt .., h => execHalt_kept _ h
  | .descriptorFetch .., h => execDescriptorFetch_kept _ _ h
  | .descriptorComplete .., h => execDescriptorComplete_kept _ h
  | .fifoPush .., h => execFifoPush_kept _ _ h
  | .fifoPop .., h => execFifoPop_kept _ _ h
  | .wickInstruction .., h => execWickInstruction_kept _ _ _ _ _ h
  | .tlyRed .., h => execTlyRed_kept _ _ _ h
  | .tlyAdd .., h => execTlyAdd_kept _ _ _ _ h
  | .tlyMul .., h => execTlyMul_kept _ _ _ _ h
  | .tlySh .., h => execTlySh_kept _ _ _ _ h
  | .tlyTile .., h => execTlyTile_kept _ _ _ _ h
  | .tlyChk .., h => execTlyChk_kept _ _ _ _ h
  | .tlyBeta .., h => execTlyBeta_kept _ _ _ _ _ _ h
  | .crvEv .., h => execCrvEv_kept _ _ _ _ h
  | .rngU32 .., h => execRngU32_kept _ _ _ _ h
  | .rngF32 .., h => execRngF32_kept _ _ _ _ h
  | .redMax .., h => execRedMax_kept _ _ _ h
  | .redMin .., h => execRedMin_kept _ _ _ h
  | .redAmax .., h => execRedAmax_kept _ _ _ _ h
  | .redAmin .., h => execRedAmin_kept _ _ _ _ h
  | .redSum .., h => execRedSum_kept _ _ _ h
  | .cvtIn .., h => execCvtIn_kept _ _ _ _ h
  | .cvtOut .., h => execCvtOut_kept _ _ _ _ h
  | .cvtMxs .., h => execCvtMxs_kept _ _ _ _ h
  | .ecall .., h => execEcall_kept _ _ h
  | .pushStore .., h => execPushStore_kept _ _ _ _ h
  | .pushQueueRoom .., h => execPushQueueRoom_kept _ h
  | .spareKatTimer .., h => execSpareKatTimer_kept _ h
  | .spareKatComplete .., h => execSpareKatComplete_kept _ _ h
  | .katStart .., h => execKatStart_kept _ h
  | .faultKatComplete .., h => execFaultKatComplete_kept _ _ h
  | .engineWakeDone .., h => execEngineWakeDone_kept _ h
  | .powerGateDelayExpiry .., h => execPowerGateDelayExpiry_kept _ h
  | .stepBoundary, h => execStepBoundary_kept h
  | .stepCommit .., h => execStepCommit_kept _ h
  | .checkpointCopyDone, h => execCheckpointCopyDone_kept h
  | .deadlockWatchdog .., h => execDeadlockWatchdog_kept _ h
  | .sramScrubRead .., h => execSramScrubRead_kept _ _ h
  | .scrubWriteback .., h => execScrubWriteback_kept _ h
  | .scrubPeriodEnd .., h => execScrubPeriodEnd_kept _ h
  | .dramPatrolRead .., h => execDramPatrolRead_kept _ _ h
  | .dramRefresh .., h => execDramRefresh_kept _ h
  | .dramTemperatureRead .., h => execDramTemperatureRead_kept _ _ h
  | .faultReport, h => execFaultReport_kept h
  | .rollbackComplete .., h => execRollbackComplete_kept _ h
  | .replayOrigin, h => execReplayOrigin_kept h
  | .flashStart .., h => execFlashStart_kept _ h
  | .departureBufferFetch .., h => execDepartureBufferFetch_kept _ _ h
  | .departureDeadline .., h => execDepartureDeadline_kept _ h
  | .scheduledFrameRx .., h => execScheduledFrameRx_kept _ _ h
  | .flitRelease .., h => execFlitRelease_kept _ h
  | .recvFlit .., h => execRecvFlit_kept _ _ h
  | .bulkFrameRx .., h => execBulkFrameRx_kept _ _ h
  | .bulkForward .., h => execBulkForward_kept _ h
  | .controlFrameRx .., h => execControlFrameRx_kept _ _ h
  | .linkFrameRx .., h => execLinkFrameRx_kept _ _ h
  | .trainFrameRx .., h => execTrainFrameRx_kept _ _ h
  | .linkHello .., h => execLinkHello_kept _ _ _ h
  | .linkCertChain .., h => execLinkCertChain_kept _ _ _ h
  | .linkTranscriptSignature .., h => execLinkTranscriptSignature_kept _ _ _ _ _ h
  | .delayMeasureDone .., h => execDelayMeasureDone_kept _ _ h
  | .equaliseRateDone .., h => execEqualiseRateDone_kept _ _ _ h
  | .trainingTimeout .., h => execTrainingTimeout_kept _ h
  | .linkDownRetry .., h => execLinkDownRetry_kept _ h
  | .lossOfSignal .., h => execLossOfSignal_kept _ h
  | .resumeProof .., h => execResumeProof_kept _ _ _ _ h
  | .ackTimeout .., h => execAckTimeout_kept _ h
  | .graceExpiry .., h => execGraceExpiry_kept _ h
  | .unfence .., h => execUnfence_kept _ h
  | .retrain .., h => execRetrain_kept _ h
  | .cablePresentChange .., h => execCablePresentChange_kept _ _ h
  | .partitionForm .., h => execPartitionForm_kept _ _ h
  | .formationReport .., h => execFormationReport_kept _ _ _ h
  | .formationTimeout, h => execFormationTimeout_kept h
  | .formedMessage, h => execFormedMessage_kept h
  | .formationAbort, h => execFormationAbort_kept h
  | .partitionDissolve .., h => execPartitionDissolve_kept _ h
  | .watchReferencePulse, h => execWatchReferencePulse_kept h
  | .domainTimeout .., h => execDomainTimeout_kept _ h
  | .ppsInEdge, h => execPpsInEdge_kept h
  | .ppsTimeout, h => execPpsTimeout_kept h
  | .todMessageRx .., h => execTodMessageRx_kept _ h
  | .todTimeout, h => execTodTimeout_kept h
  | .ppsOutPulse, h => execPpsOutPulse_kept h
  | .ppsOutEnd, h => execPpsOutEnd_kept h
  | .todTxSend, h => execTodTxSend_kept h
  | .timeRevert, h => execTimeRevert_kept h
  | .todSecWrite .., h => execTodSecWrite_kept _ h
  | .jobRecord .., h => execJobRecord_kept _ _ _ _ h
  | .jobDispatch, h => execJobDispatch_kept h
  | .prepare .., h => execPrepare_kept _ h
  | .prepareReply .., h => execPrepareReply_kept _ h
  | .switchComplete .., h => execSwitchComplete_kept _ h
  | .launchWatch, h => execLaunchWatch_kept h
  | .leadingSet .., h => execLeadingSet_kept _ _ _ h
  | .leadingClear .., h => execLeadingClear_kept _ h
  | .leadingLaunchMessage .., h => execLeadingLaunchMessage_kept _ h
  | .leadingEntriesRx .., h => execLeadingEntriesRx_kept _ h
  | .divergenceMessage .., h => execDivergenceMessage_kept _ _ h
  | .drainComplete, h => execDrainComplete_kept h
  | .ledgerSignComplete .., h => execLedgerSignComplete_kept _ h
  | .memberCertRx .., h => execMemberCertRx_kept _ _ _ h
  | .certGatherTimeout, h => execCertGatherTimeout_kept h
  | .ledgerDeferredWrite, h => execLedgerDeferredWrite_kept h
  | .sqTailDoorbell .., h => execSqTailDoorbell_kept _ _ h
  | .cqHeadDoorbell .., h => execCqHeadDoorbell_kept _ _ h
  | .hostFlagDoorbell .., h => execHostFlagDoorbell_kept _ _ h
  | .completionPost .., h => execCompletionPost_kept _ h
  | .queueEnable .., h => execQueueEnable_kept _ _ h
  | .queueDisable .., h => execQueueDisable_kept _ _ h
  | .bar2Read .., h => execBar2Read_kept _ _ _ h
  | .bar2Write .., h => execBar2Write_kept _ _ _ h
  | .registerWrite .., h => execRegisterWrite_kept _ _ _ h
  | .hostDmaComplete .., h => execHostDmaComplete_kept _ h
  | .hostDmaTimeout, h => execHostDmaTimeout_kept h
  | .powerUp .., h => execPowerUp_kept _ h
  | .powerDown .., h => execPowerDown_kept _ h
  | .loadImage .., h => execLoadImage_kept _ h
  | .imageFetchComplete .., h => execImageFetchComplete_kept _ _ h
  | .loadStrictRelease .., h => execLoadStrictRelease_kept _ h
  | .releaseBank .., h => execReleaseBank_kept _ h
  | .tensorAddr .., h => execTensorAddr_kept _ h
  | .mooringOpen .., h => execMooringOpen_kept _ h
  | .mooringSeal .., h => execMooringSeal_kept _ h
  | .mooringVerifyComplete .., h => execMooringVerifyComplete_kept _ h
  | .mooringRelease .., h => execMooringRelease_kept _ h
  | .endJob .., h => execEndJob_kept _ h
  | .endJobStepMessage .., h => execEndJobStepMessage_kept _ h
  | .resetWarm .., h => execResetWarm_kept _ h
  | .mctpCommand .., h => execMctpCommand_kept _ _ h
  | .spdmGetVersion, h => execSpdmGetVersion_kept h
  | .spdmGetCertificate .., h => execSpdmGetCertificate_kept _ h
  | .spdmChallenge .., h => execSpdmChallenge_kept _ _ h
  | .spdmGetMeasurements .., h => execSpdmGetMeasurements_kept _ _ _ h
  | .getNonce .., h => execGetNonce_kept _ _ h
  | .nonceExpiry, h => execNonceExpiry_kept h
  | .enrol .., h => execEnrol_kept _ h
  | .addKey .., h => execAddKey_kept _ h
  | .revokeKey .., h => execRevokeKey_kept _ h
  | .setPolicy .., h => execSetPolicy_kept _ h
  | .setOwnerCert .., h => execSetOwnerCert_kept _ h
  | .lock .., h => execLock_kept _ h
  | .unlock .., h => execUnlock_kept _ h
  | .release .., h => execRelease_kept _ h
  | .debugUnlock .., h => execDebugUnlock_kept _ h
  | .requestUpdate .., h => execRequestUpdate_kept _ h
  | .updateComponent .., h => execUpdateComponent_kept _ h
  | .firmwareDataResponse .., h => execFirmwareDataResponse_kept _ _ h
  | .firmwareDataTimeout, h => execFirmwareDataTimeout_kept h
  | .transferComplete .., h => execTransferComplete_kept _ h
  | .flashWriteStepDone .., h => execFlashWriteStepDone_kept _ h
  | .cancelUpdate, h => execCancelUpdate_kept h
  | .cancelUpdateComponent, h => execCancelUpdateComponent_kept h
  | .activateFirmware, h => execActivateFirmware_kept h
  | .activateTimeout, h => execActivateTimeout_kept h
  | .healthConfirmed .., h => execHealthConfirmed_kept _ h
  | .trialTimeout, h => execTrialTimeout_kept h
  | .revertCopyDone, h => execRevertCopyDone_kept h
  | .powerApplied .., h => execPowerApplied_kept _ h
  | .warmResetPin .., h => execWarmResetPin_kept _ h
  | .functionLevelReset, h => execFunctionLevelReset_kept h
  | .feedADrop .., h => execFeedADrop_kept _ _ h
  | .feedAReturn .., h => execFeedAReturn_kept _ h
  | .singleFeedEnter .., h => execSingleFeedEnter_kept _ _ h
  | .singleFeedExit .., h => execSingleFeedExit_kept _ _ h
  | .powerFail .., h => execPowerFail_kept _ _ h
  | .powerSample .., h => execPowerSample_kept _ h
  | .temperatureSample .., h => execTemperatureSample_kept _ _ _ h
  | .oppWrite .., h => execOppWrite_kept _ h
  | .droopDetect .., h => execDroopDetect_kept _ h
  | .droopRelease .., h => execDroopRelease_kept _ h
  | .stationPllLoss .., h => execStationPllLoss_kept _ h
  | .keeperCompareMismatch, h => execKeeperCompareMismatch_kept h
  | .detourLinkTest, h => execDetourLinkTest_kept h
  | .engineReset .., h => execEngineReset_kept _ h
  | .pageLock .., h => execPageLock_kept _ h
  | .eventClear .., h => execEventClear_kept _ _ _ h
  | .eventSet .., h => execEventSet_kept _ _ h
  | .eventEnableWrite .., h => execEventEnableWrite_kept _ _ h
  | .stationFreeze .., h => execStationFreeze_kept _ _ h
  | .engineResume .., h => execEngineResume_kept _ h
  | .paramWrite .., h => execParamWrite_kept _ _ h
  | .strictWrite .., h => execStrictWrite_kept _ h
  | .resetRelease .., h => execResetRelease_kept _ h
  | .signalLock .., h => execSignalLock_kept _ _ _ h
  | .mooringVerifyResume .., h => execMooringVerifyResume_kept _ h
  | .lowWordRead .., h => execLowWordRead_kept _ _ h
  | .smbusAlertResponse, h => execSmbusAlertResponse_kept h
  | .jtagInstruction .., h => execJtagInstruction_kept _ h
  | .tapReset, h => execTapReset_kept h
  | .rmaEntry, h => execRmaEntry_kept h

/-- A step takes the front of the queue and keeps the rest of what every command keeps. -/
theorem step_kept {s t : State} (h : step s = .next t) : Kept { s with pending := s.pending.tail } t := by
  unfold step at h
  split at h
  case h_1 hnil =>
    injection h with h
    subst h
    have hqueue : s.pending = s.pending.tail := by rw [hnil, List.tail_nil]
    have hsame : Kept { s with pending := s.pending.tail } s := Kept.like (.refl _) hqueue rfl rfl rfl rfl rfl rfl
    exact hsame.trans (tick_kept s)
  case h_2 c rest hcons =>
    rw [hcons]
    exact exec_kept c h

/-- R421: no step clears a blown fuse. -/
theorem step_fusesRise {s t : State} (h : step s = .next t) : fusesRise s.kpr.fuses t.kpr.fuses := (step_kept h).fuses

end Sys2Proof.Machine
end

section
/-! The Daymark killed by RMA (R428): that a step never clears the fuse, what boot and launch do all the same, what links, the Ledger and
attestation answer without a Daymark, and the statement assembled from them. -/

namespace Sys2Proof.Machine

/-! ### The fuses -/

/-- R428: RMA entered with power on. -/
theorem exec_rmaEntry {s : State} (hpower : s.life ≠ .off) (hcycle : s.kpr.fuses.lifecycle ≤ 3) :
    exec .rmaEntry s = .next (putFuses { s.kpr.fuses with kill := true, lifecycle := 3 } s) := by
  change execRmaEntry s = _
  have hpowered : powered s = true := by simpa [powered] using hpower
  rw [execRmaEntry, if_pos hpowered, Nat.max_eq_right hcycle]

/-- R428: a killed Daymark is gone, whatever scopes are open. -/
theorem daymarkOff_of_kill {s : State} (h : s.kpr.fuses.kill = true) : daymarkOff s = true := by simp [daymarkOff, h]

/-! ### Boot -/

@[simp] theorem raise_life (code p bit a b c : Nat) (s : State) : (raise code p bit a b c s).life = s.life := by
  rw [raise_frame]

@[simp] theorem report_life (code page : Nat) (s : State) : (report code page s).life = s.life := rfl

theorem foldl_life {α : Type} {f : State → α → State} (h : ∀ t x, (f t x).life = t.life) (l : List α) (s : State) :
    (l.foldl f s).life = s.life :=
  List.foldlRecOn l f (motive := fun t => t.life = s.life) rfl fun t ht x _ => (h t x).trans ht

@[simp] theorem reportAll_life (codes : List Nat) (s : State) : (reportAll codes s).life = s.life := by
  unfold reportAll
  exact foldl_life (fun _ _ => report_life ..) codes s

@[simp] theorem romBoot_life (codes : List Nat) (s : State) : (romBoot codes s).life = s.life := reportAll_life ..

@[simp] theorem bootStages_life (s : State) : (bootStages s).life = s.life := by
  unfold bootStages
  dsimp only
  split
  · exact romBoot_life ..
  · split
    · exact romBoot_life ..
    · exact reportAll_life ..

@[simp] theorem recAtStart_life (s : State) : (recAtStart s).life = s.life := by
  unfold recAtStart
  dsimp only
  split <;> rfl

@[simp] theorem startOwner_life (s : State) : (startOwner s).life = s.life := by
  unfold startOwner
  dsimp only
  split
  · exact raise_life ..
  · rfl

@[simp] theorem confirmSteps_life (s : State) : (confirmSteps s).life = s.life := by
  unfold confirmSteps
  dsimp only
  rw [raise_life, regPut_life, putUpd_life, putFlash_life, putFuses_life]

/-- R422: a start of the Keeper leaves the state of the module. -/
@[simp] theorem keeperStart_life (s : State) : (keeperStart s).life = s.life := by
  have hstart : (startOwner (recAtStart (bootStages s))).life = s.life := by simp
  unfold keeperStart
  dsimp only
  split
  · exact (confirmSteps_life _).trans hstart
  · exact hstart

@[simp] theorem noPart_life (s : State) : (noPart s).life = s.life := rfl

@[simp] theorem sampleStraps_life (x : Straps) (s : State) : (sampleStraps x s).life = s.life := by
  unfold sampleStraps
  dsimp only
  split
  · rw [noPart_life]
  · rw [report_life, foldl_life fun _ _ => putLink_life .., noPart_life]

/-- R415, R416: a cold reset leads to KEEP. -/
theorem coldReset_life (x : Straps) (s : State) : (coldReset x s).life = .keep := by
  unfold coldReset
  dsimp only
  split
  · exact (raise_life ..).trans ((keeperStart_life _).trans (sampleStraps_life ..))
  · exact (keeperStart_life _).trans (sampleStraps_life ..)

/-- R481: a module without power that gets it. -/
theorem exec_powerApplied {s : State} (h : s.life = .off) (x : Straps) : exec (.powerApplied x) s = .next (coldReset x s) := by
  change execPowerApplied x s = _
  rw [execPowerApplied, if_pos h]

/-! ### Launch -/

@[simp] theorem ledEvent_life (type code step rank watch : Nat) (detail : List Byte) (s : State) :
    (ledEvent type code step rank watch detail s).life = s.life := by
  unfold ledEvent
  split
  · rfl
  · exact raise_life ..

@[simp] theorem noteDetours_life (step w : Nat) (s : State) : (noteDetours step w s).life = s.life := by
  refine foldl_life (fun t r => ?_) ..
  split
  · rfl
  · exact ledEvent_life ..

@[simp] theorem putSlot_life (k : Nat) (c : CkSlot) (s : State) : (putSlot k c s).life = s.life := by
  unfold putSlot
  split <;> rfl

/-- R344: a job launched in time runs. -/
theorem launchRun_life (a : Active) (l : Nat) (s : State) : (launchRun a l s).life = .running :=
  (noteDetours_life ..).trans (putSlot_life ..)

/-- R344, R345: at L, the job of an ARMED member that has switched, has not missed its launch, and whose input can be read, is launched. -/
theorem exec_launchWatch {a : Active} {l : Nat} {hash : List Byte} {s t : State} (harmed : s.life = .armed)
    (hact : s.jobs.active = some a) (hl : a.launch = some l) (hsw : a.switched = true) (hlate : a.lateLaunch = false)
    (hread : (bufHash a.job 0).go (watchTo l s) = (.ok hash, t)) :
    exec .launchWatch s = .next (launchRun (launchHashes t a hash) l t) := by
  have hgo : (a.switched && !a.lateLaunch) = true := by rw [hsw, hlate]; rfl
  change execLaunchWatch s = _
  simp only [execLaunchWatch, atLaunch, hact, hl, harmed, hread, hgo, if_true]

/-! ### Link states -/

/-- Every link is in the same state in two states of the module. -/
structure SameLinkSt (s t : State) : Prop where
  st : ∀ l, (linkOf t l).st = (linkOf s l).st

theorem SameLinkSt.refl (s : State) : SameLinkSt s s := ⟨fun _ => rfl⟩

theorem SameLinkSt.trans {s t u : State} (h : SameLinkSt s t) (k : SameLinkSt t u) : SameLinkSt s u :=
  ⟨fun l => (k.st l).trans (h.st l)⟩

theorem SameLinkSt.of_links {s t : State} (h : t.fab.links = s.fab.links) : SameLinkSt s t :=
  ⟨fun _ => by simp only [linkOf, h]⟩

theorem SameLinkSt.foldl {α : Type} {f : State → α → State} (h : ∀ t x, SameLinkSt t (f t x)) (l : List α) (s : State) :
    SameLinkSt s (l.foldl f s) :=
  List.foldlRecOn l f (motive := SameLinkSt s) (.refl s) fun _ ht x _ => ht.trans (h _ x)

/-- A link put back in the state that it was in. -/
theorem putLink_sameLinkSt {l : Nat} {k : Link} {s : State} (h : k.st = (linkOf s l).st) : SameLinkSt s (putLink l k s) := by
  refine ⟨fun m => ?_⟩
  by_cases hm : m = l
  · rw [hm, linkOf_putLink_same, h]
  · rw [linkOf_putLink_other k s hm]

theorem raise_sameLinkSt (code p bit a b c : Nat) (s : State) : SameLinkSt s (raise code p bit a b c s) := by
  rw [raise_frame]
  exact .of_links rfl

theorem setOff_sameLinkSt (l : Nat) (s : State) : SameLinkSt s (setOff l s) := putLink_sameLinkSt rfl

theorem pushBulk_sameLinkSt (o : Nat) (f : BulkFlit) (s : State) : SameLinkSt s (pushBulk o f s) := putLink_sameLinkSt rfl

/-- R183: a write to DRAM has no word to merge first: it ends, and the bytes are put. -/
theorem writeMem_dram_go (a : Nat) (bs : List Byte) (s : State) :
    (writeMem 1 a bs).go s = (.ok (), if bs.isEmpty then s else pokeMem 1 a bs s) := by
  unfold writeMem
  split <;> rfl

theorem bulkFill_sameLinkSt (bs : List Byte) (s : State) : SameLinkSt s (bulkFill bs s) := by
  unfold bulkFill
  dsimp only
  split
  · split
    · rw [writeMem_dram_go]
      split
      · exact .refl s
      · exact .of_links rfl
    · exact .refl s
  · exact .refl s

theorem bulkArrives_sameLinkSt (m : BulkMsg) (s : State) : SameLinkSt s (bulkArrives m s) := by
  unfold bulkArrives
  refine SameLinkSt.trans (t := if m.bchan = 1 then bulkFill (m.parts.flatMap Prod.snd) s else s) ?_ (.of_links rfl)
  split
  · exact bulkFill_sameLinkSt ..
  · exact .refl s

theorem takeBulk_sameLinkSt (f : BulkFlit) (s : State) : SameLinkSt s (takeBulk f s) := by
  unfold takeBulk
  dsimp only
  split
  · exact .refl s
  · split
    · refine SameLinkSt.trans ?_ (bulkArrives_sameLinkSt ..)
      exact .of_links rfl
    · exact .of_links rfl

theorem drainRx_sameLinkSt (l n : Nat) (s : State) : SameLinkSt s (drainRx l n s) := by
  induction n generalizing s with
  | zero => exact .refl s
  | succ n ih =>
    unfold drainRx
    split
    case h_1 => exact .refl s
    case h_2 f r _ =>
      have hput : SameLinkSt s (putLink l { linkOf s l with rxBulk := r } s) := putLink_sameLinkSt rfl
      dsimp only
      split
      · exact (hput.trans (takeBulk_sameLinkSt ..)).trans (ih _)
      · split
        · exact (hput.trans (pushBulk_sameLinkSt ..)).trans (ih _)
        · exact .refl s

theorem drainOut_sameLinkSt (s : State) : SameLinkSt s (drainOut s) := by
  refine SameLinkSt.trans (t := { s with fab := { s.fab with outbox := [] } }) (.of_links rfl) (.foldl (fun t f => ?_) ..)
  split
  · exact .refl t
  · split
    · exact pushBulk_sameLinkSt ..
    · exact .of_links rfl

/-- R303: emptying the receive buffers moves Bulk flits only. -/
theorem drainAll_sameLinkSt (s : State) : SameLinkSt s (drainAll s) := by
  refine SameLinkSt.trans (.foldl (fun t l => ?_) (List.range 96) s) (drainOut_sameLinkSt _)
  split
  · exact .refl t
  · exact (drainRx_sameLinkSt ..).trans (setOff_sameLinkSt ..)

/-! ### Authentication -/

/-- R317: a link that is fenced before it is UP is FENCED. -/
theorem fence_st {l : Nat} {s : State} (h : (linkOf s l).st ≠ .up) (code bit detail : Nat) :
    (linkOf (fence l code bit detail s) l).st = .fenced := by
  unfold fence
  dsimp only
  rw [if_neg h, if_neg h, (drainAll_sameLinkSt _).st, linkOf_putLink_same]

theorem sendSignature_sameLinkSt (l : Nat) (s : State) : SameLinkSt s (sendSignature l s) := putLink_sameLinkSt rfl

theorem takeCipher_sameLinkSt (l : Nat) (kem : List Byte) (s : State) : SameLinkSt s (takeCipher l kem s) := by
  unfold takeCipher
  dsimp only
  split
  · exact .refl s
  · refine SameLinkSt.trans (putLink_sameLinkSt ?_) (sendSignature_sameLinkSt ..)
    split <;> rfl

theorem takeCipher_kpr (l : Nat) (kem : List Byte) (s : State) : (takeCipher l kem s).kpr = s.kpr := by
  unfold takeCipher
  split <;> rfl

/-- R316, R428: a module without its Daymark authenticates no link: the link in AUTH is fenced, whatever the partner signed. -/
theorem takeSignature_st_of_kill {l : Nat} {s : State} (hkill : s.kpr.fuses.kill = true) (hst : (linkOf s l).st = .auth)
    (key sig kem : List Byte) : (linkOf (takeSignature l key sig kem s) l).st = .fenced := by
  have hoff : daymarkOff (takeCipher l kem s) = true := daymarkOff_of_kill (by rwa [takeCipher_kpr])
  have hup : (linkOf (takeCipher l kem s) l).st ≠ .up := by
    rw [(takeCipher_sameLinkSt l kem s).st, hst]
    decide
  unfold takeSignature
  dsimp only
  rw [hoff, Bool.true_or, if_pos rfl]
  exact fence_st hup ..

/-- R316: the partner's signature reaches a link in AUTH that has the partner's key. -/
theorem exec_linkTranscriptSignature {l : LinkNo} {s : State} {key : List Byte} (hst : (linkOf s l).st = .auth)
    (hkey : (linkOf s l).chainKey = some key) (c z h kem : List Byte) :
    exec (.linkTranscriptSignature l c z h kem) s = .next (takeSignature l key (c ++ z ++ h) kem s) := by
  change execLinkTranscriptSignature l c z h kem s = _
  rw [execLinkTranscriptSignature, if_pos hst, hkey]

/-! ### The Ledger -/

@[simp] theorem postComp_dram (q : Nat) (rec_ : List Byte) (s : State) : (postComp q rec_ s).dram = s.dram := by
  unfold postComp
  split <;> rfl

@[simp] theorem postJob_dram (e : Ended) (cert : Bool) (s : State) : (postJob e cert s).dram = s.dram := by
  unfold postJob
  split
  · exact postComp_dram ..
  · rfl

@[simp] theorem closeEnded_dram (cert : Bool) (e : Ended) (s : State) : (closeEnded cert e s).dram = s.dram := postJob_dram ..

theorem slotState_congr {s t : State} (h : t.dram = s.dram) (i : Nat) : slotState t i = slotState s i := by simp only [slotState, h]

/-- R183: a byte put into DRAM reads back. -/
theorem rd_dram_pokeMem_byte {s : State} (hwf : memoriesWf s = true) (a : Nat) (b : Byte) : rd (pokeMem 1 a [b] s).dram a = b := by
  simp only [memoriesWf, Bool.and_eq_true] at hwf
  obtain ⟨⟨⟨-, hdram⟩, -⟩, -⟩ := hwf
  exact rd_wr_same a b hdram

/-- R390: a slot's STATE reads back. -/
theorem slotState_putSlotState_same {s : State} (hwf : memoriesWf s = true) (i : Nat) {v : Nat} (hv : v < 256) :
    slotState (putSlotState i v s) i = v := by
  have hrd := rd_dram_pokeMem_byte hwf (slotAddr i) (BitVec.ofNat 8 v)
  rw [slotState, putSlotState, leBytes, leBytes, hrd, BitVec.toNat_ofNat, Nat.mod_eq_of_lt hv]

/-- R437: a slot whose record stays unsigned is INCOMPLETE. -/
theorem slotState_leaveIncomplete_of_kill {e : Ended} {s : State} (hkill : s.kpr.fuses.kill = true) (hwf : memoriesWf s = true) :
    slotState (leaveIncomplete e s) e.slot = 3 := by
  have hnote : noteWithheld s = s := if_pos hkill
  unfold leaveIncomplete
  rw [hnote, slotState_congr (closeEnded_dram ..)]
  exact slotState_putSlotState_same hwf e.slot (by decide)

/-- R387, R428: the first record without its member certificate is the one being signed, and with the Daymark killed it is left. -/
theorem signNext_of_kill {s : State} {e : Ended} (hkill : s.kpr.fuses.kill = true)
    (hfind : s.jobs.ended.find? (fun x => !x.signed) = some e) (sig : List Byte) :
    signNext sig s = leaveIncomplete { e with begun := false } s := by
  have hsigned : (!e.signed) = true := List.find?_some (p := fun x : Ended => !x.signed) hfind
  have hjob : signingJob s = some e := by rw [signingJob, hfind, Option.some_or]
  have hrefuse : refusesSign s e = true := by rw [refusesSign, hkill, Bool.true_or]
  unfold signNext
  rw [hjob]
  dsimp only
  rw [if_pos hsigned, if_pos hrefuse]

theorem exec_ledgerSignComplete {s : State} (h : s.jobs.halted = false) (sig : List Byte) :
    exec (.ledgerSignComplete sig) s = .next (signNext sig s) := by
  change execLedgerSignComplete sig s = _
  simp [execLedgerSignComplete, h]

/-- R389, R428: a member certificate is kept, and no partition certificate is signed. -/
theorem exec_memberCertRx_of_kill {s : State} {rank : Nat} {cert : List Byte} {e : Ended} (hkill : s.kpr.fuses.kill = true)
    (hhalt : s.jobs.halted = false) (hcert : certFor s rank cert = some e) (sig : List Byte) :
    exec (.memberCertRx rank cert sig) s = .next (setEnded { e with certs := tput e.certs rank cert } s) := by
  change execMemberCertRx rank cert sig s = _
  simp [execMemberCertRx, takeCert, hcert, hhalt, daymarkOff_of_kill hkill]

/-! ### Attestation -/

/-- R434: a challenge of a slot that holds a chain, to a Keeper that serves it, is answered as the Daymark allows. -/
theorem exec_spdmChallenge_of_kill {s : State} {slot : Nat} {chain : List Byte} (hkill : s.kpr.fuses.kill = true)
    (hup : keeperUp s = true) (hrom : romRecovery s = false) (hchain : slotChain s slot = some chain) (message : List Byte) :
    exec (.spdmChallenge slot message) s =
      .next (spdmError "Unspecified" (leBytes 2 0x5031) (raise 0x5031 pgSec 4 0x5031 0 0 s)) := by
  change execSpdmChallenge slot message s = _
  simp [execSpdmChallenge, spdmServe, withDaymark, hup, hrom, hchain, daymarkOff_of_kill hkill]

/-- Settles O59: the fuse by the law that every step keeps, boot and launch by what they leave of the module's state, and each refusal by
what its command comes to without a Daymark. -/
theorem rmaEndsDaymark : Obligations.RmaEndsDaymark := by
  unfold Obligations.RmaEndsDaymark
  intro s
  refine ⟨exec_rmaEntry, fun hkill => ⟨?fuses, ?boot, ?launch, ?link, ?record, ?member, ?challenge⟩⟩
  case fuses =>
    intro t h
    obtain ⟨hkept, -, -, -, hcycle⟩ := step_fusesRise h
    exact ⟨hkept hkill, fun h3 => h3 ▸ hcycle⟩
  case boot => exact fun hoff x => ⟨_, exec_powerApplied hoff x, coldReset_life x s⟩
  case launch =>
    exact fun a l hash s1 harmed hact hl hsw hlate hread =>
      ⟨_, exec_launchWatch harmed hact hl hsw hlate hread, launchRun_life ..⟩
  case link =>
    exact fun l c z h kem key hst hkey =>
      ⟨_, exec_linkTranscriptSignature hst hkey c z h kem, takeSignature_st_of_kill hkill hst ..⟩
  case record =>
    intro e sig hwf hhalt hfind
    refine ⟨_, exec_ledgerSignComplete hhalt sig, ?_⟩
    rw [signNext_of_kill hkill hfind]
    exact slotState_leaveIncomplete_of_kill (e := { e with begun := false }) hkill hwf
  case member => exact fun sig rank cert e hhalt hcert => exec_memberCertRx_of_kill hkill hhalt hcert sig
  case challenge =>
    exact fun slot c m hup hrom hchain => ⟨_, exec_spdmChallenge_of_kill hkill hup hrom hchain m, rfl⟩

end Sys2Proof.Machine
end

section
/-! Reserved addresses of BAR0 (R470): the page index of R485 read both ways, what a read and a write of a reserved word come to, and the
statement assembled from them. -/

namespace Sys2Proof.Machine

/-! ### The page index -/

/-- R485: where a Station's page `j` lies from the Station's base: five Lantern pages, nine Wick pages, six pages of 64 KiB each. -/
def stationOffset (j : Nat) : Nat :=
  if j < 5 then 0x10000 + j * 0x1000 else if j < 14 then 0x20000 + (j - 5) * 0x1000 else (j - 11) * 0x10000

theorem pageBase_station {n j : Nat} (hn : n < 16) (hj : j < 20) :
    pageBase (5 + 20 * n + j) = 0x100000 + n * 0x100000 + stationOffset j := by
  have hdiv : (5 + 20 * n + j - 5) / 20 = n := by omega
  have hmod : (5 + 20 * n + j - 5) % 20 = j := by omega
  have hlt : 5 + 20 * n + j < 325 := by omega
  have hkind (k : Nat) (hk : k < 5) : ¬5 + 20 * n + j = k := by omega
  simp only [pageBase, pageKind, hkind, hdiv, hmod, hlt, Nat.reduceLT, if_true, if_false, stationOffset]
  split_ifs <;> dsimp only <;> omega

theorem stationOffset_pageStart {j : Nat} (hj : j < 20) : stationOffset j < 0x100000 ∧ stationOffset j % 0x1000 = 0 := by
  unfold stationOffset
  split_ifs <;> omega

/-- The Lantern pages, the Wick pages and the rest are found each by their own arithmetic on the offset. -/
theorem pageAt_pageBase_station {n j : Nat} (hn : n < 16) (hj : j < 20) :
    pageAt (pageBase (5 + 20 * n + j)) = some (5 + 20 * n + j) := by
  have hlisted : 5 + 20 * n + j < 442 := by omega
  obtain ⟨hlt, haligned⟩ := stationOffset_pageStart hj
  have ha := pageBase_station hn hj
  generalize hbase : pageBase (5 + 20 * n + j) = a at ha ⊢
  have hstart : a / 0x1000 * 0x1000 = a := by omega
  have hlow : ¬a < 0x100000 := by omega
  have hhigh : a < 0x1100000 := by omega
  have hstation : (a - 0x100000) / 0x100000 = n := by omega
  have hwithin : a % 0x100000 = stationOffset j := by omega
  simp only [pageAt, hstart, hstation, hwithin, if_neg hlow, if_pos hhigh]
  obtain hlnt | hwck | hrest : j < 5 ∨ (5 ≤ j ∧ j < 14) ∨ 14 ≤ j := by omega
  · have hoff : stationOffset j = 0x10000 + j * 0x1000 := if_pos hlnt
    have hgroup : stationOffset j / 0x10000 = 1 := by omega
    have hpage : stationOffset j % 0x10000 / 0x1000 = j := by omega
    simp [hgroup, hpage, hlnt, pgLnt, hlisted, hbase]
  · have hoff : stationOffset j = 0x20000 + (j - 5) * 0x1000 := (if_neg (by omega)).trans (if_pos hwck.2)
    have hgroup : stationOffset j / 0x10000 = 2 := by omega
    have hpage : stationOffset j % 0x10000 / 0x1000 = j - 5 := by omega
    have hpair : j - 5 < 9 := by omega
    have hno : pgWck n (j - 5) = 5 + 20 * n + j := by unfold pgWck; omega
    simp [hgroup, hpage, hpair, hno, hlisted, hbase]
  · have hoff : stationOffset j = (j - 11) * 0x10000 := (if_neg (by omega)).trans (if_neg (by omega))
    have hgroup : stationOffset j / 0x10000 = j - 11 := by omega
    have hpage : stationOffset j % 0x10000 / 0x1000 = 0 := by omega
    have hblock : j - 11 ≠ 1 ∧ j - 11 ≠ 2 ∧ 3 ≤ j - 11 ∧ j - 11 ≤ 8 := by omega
    have hno : 16 + 20 * n + (j - 11) = 5 + 20 * n + j := by omega
    simp [hgroup, hpage, hblock, hno, hlisted, hbase]

theorem pageBase_link {l : Nat} (hl : l < 96) : pageBase (pgLnk l) = 0x2000000 + l * 0x1000 := by
  have hkind (k : Nat) (hk : k < 5) : ¬325 + l = k := by omega
  have hstations : ¬325 + l < 325 := by omega
  have hlinks : 325 + l < 421 := by omega
  have hindex : 325 + l - 325 = l := by omega
  simp only [pageBase, pageKind, pgLnk, hkind, hstations, hlinks, hindex, Nat.reduceLT, if_true, if_false]

theorem pageAt_pageBase_link {l : Nat} (hl : l < 96) : pageAt (pageBase (pgLnk l)) = some (pgLnk l) := by
  have ha := pageBase_link hl
  generalize pageBase (pgLnk l) = a at ha ⊢
  have hstart : a / 0x1000 * 0x1000 = a := by omega
  have hindex : (a - 0x2000000) / 0x1000 = l := by omega
  have hranges : ¬a < 0x100000 ∧ ¬a < 0x1100000 ∧ a < 0x2300000 ∧ 0x2000000 ≤ a := by omega
  simp only [pageAt, hstart, hindex, hranges, hl, if_true, if_false]

/-- R485: the pages of the chip as a whole and of the DRAM groups, listed one by one. -/
theorem pageAt_pageBase_single (p : Nat) (hp : p < 5 ∨ 421 ≤ p ∧ p < 442) : pageAt (pageBase p) = some p := by
  obtain hp | ⟨hge, hlt⟩ := hp
  · interval_cases p <;> decide
  · interval_cases p <;> decide

/-- R470, R485: the 442 pages, each found at its own base. -/
theorem pageAt_pageBase (p : PageNo) : pageAt (pageBase p) = some p.val := by
  obtain ⟨p, hp⟩ := p
  change pageAt (pageBase p) = some p
  obtain hsingle | hstation | hlink : (p < 5 ∨ 421 ≤ p ∧ p < 442) ∨ (5 ≤ p ∧ p < 325) ∨ (325 ≤ p ∧ p < 421) := by omega
  · exact pageAt_pageBase_single p hsingle
  · have hno : 5 + 20 * ((p - 5) / 20) + (p - 5) % 20 = p := by omega
    rw [← hno]
    exact pageAt_pageBase_station (by omega) (by omega)
  · obtain ⟨l, rfl⟩ := Nat.exists_eq_add_of_le hlink.1
    exact pageAt_pageBase_link (by omega)

/-- R470: no address lies in a page past the last of the index, whichever range of BAR0 it is looked up in. -/
theorem pageAt_lt {a p : Nat} (h : pageAt a = some p) : p < 442 := by
  unfold pageAt at h
  dsimp only at h
  split_ifs at h <;>
    simp only [Option.some.injEq, Bool.and_eq_true, decide_eq_true_eq, pgLnk, pgXch, pgDrm, pgPci, pgPwr, pgTim, pgFus] at * <;> omega

/-! ### Reserved words -/

/-- R470: an address that lies in no page, or at which its page has no register. -/
def Reserved (a : Nat) : Prop :=
  pageAt a = none ∨ ∃ p, pageAt a = some p ∧ regFind (regsOf (pageKind p).1) (a % 0x1000) = none

theorem not_reserved_of_regFind {a p : Nat} (hp : pageAt a = some p) (hr : regFind (regsOf (pageKind p).1) (a % 0x1000) ≠ none) :
    ¬Reserved a := by
  rintro (hnone | ⟨q, hq, hfree⟩)
  · exact Option.some_ne_none p (hp.symm.trans hnone)
  · obtain rfl : q = p := Option.some.inj (hq.symm.trans hp)
    exact hr hfree

/-- R470, R472: the two words of the time of day, whose reads latch, hold registers. -/
theorem ne_tod_of_reserved {a : Nat} (h : Reserved a) : a ≠ todNsAt ∧ a ≠ todSecAt := by
  constructor
  · rintro rfl
    exact not_reserved_of_regFind (p := pgTim) (by decide) (by decide) h
  · rintro rfl
    exact not_reserved_of_regFind (p := pgTim) (by decide) (by decide) h

theorem readWord_of_reserved {a : Nat} (h : Reserved a) (s : State) : readWord s a = 0 := by
  obtain hpage | ⟨p, hpage, hreg⟩ := h
  · simp only [readWord, hpage]
  · simp only [readWord, hpage, hreg]

theorem wideWord_of_reserved {a : Nat} (h : Reserved a) : wideWord a = none := by
  obtain hpage | ⟨p, hpage, hreg⟩ := h
  · simp only [wideWord, hpage]
  · simp only [wideWord, hpage, hreg]

theorem writeWord_of_reserved {a : Nat} (h : Reserved a) (v : Nat) (s : State) : writeWord a v s = s := by
  obtain hpage | ⟨p, hpage, hreg⟩ := h
  · simp only [writeWord, hpage]
  · simp only [writeWord, hpage, hreg]

/-- R470, R472: a reserved word reads 0 and latches nothing. -/
theorem readLatch_of_reserved {a : Nat} (h : Reserved a) (s : State) : readLatch a s = (0, s) := by
  obtain ⟨hns, hsec⟩ := ne_tod_of_reserved h
  simp only [readLatch, if_neg hns, if_neg hsec, wideWord_of_reserved h, readWord_of_reserved h]

theorem bar0Read_of_reserved {a : Nat} (h : Reserved a) (ha : a % 4 = 0) (s : State) : bar0Read a 4 s = ([0, 0, 0, 0], s) := by
  have hword : a / 4 * 4 = a := Nat.div_mul_cancel (Nat.dvd_of_mod_eq_zero ha)
  have hzero : leBytes 4 0 = [0, 0, 0, 0] := by decide
  simp [bar0Read, ha, hword, readLatch_of_reserved h, hzero]

/-- Settles O60: the page index is read both ways, and a reserved word answers 0, latches nothing and takes no write, since the two words
whose reads act beyond their own are registers. -/
theorem reservedAddresses : Obligations.ReservedAddresses := by
  unfold Obligations.ReservedAddresses
  refine ⟨pageAt_pageBase, fun a p => pageAt_lt, fun a s ha (h : Reserved a) => ⟨fun hrun => ?read, fun v => ?write⟩⟩
  case read =>
    change execLowWordRead a 4 s = _
    simp [execLowWordRead, hrun, bar0Read_of_reserved h ha]
  case write =>
    change execRegisterWrite a 4 v s = _
    simp [execRegisterWrite, bar0Write, ha, writeWord_of_reserved h]

end Sys2Proof.Machine
end

section
/-! Steps and runs of steps (R180, R421): the memories' canonical form and the fuses, by the law that every step keeps, and by induction over
the run. -/

namespace Sys2Proof.Machine

theorem step_memoriesWf {s t : State} (h : step s = .next t) (hwf : memoriesWf s = true) : memoriesWf t = true :=
  (step_kept h).memories hwf

theorem step_dieIdentity {s t : State} (h : step s = .next t) : dieIdentity t = dieIdentity s := (step_kept h).identity

theorem step_pending {s t : State} (h : step s = .next t) : t.pending = s.pending.tail := (step_kept h).pending

/-- Settles O5: a step keeps what every command keeps. -/
theorem stepKeepsMemories : Obligations.StepKeepsMemories := fun _ _ hwf h => step_memoriesWf h hwf

/-- Settles O6: a step keeps what every command keeps. -/
theorem stepKeepsFuses : Obligations.StepKeepsFuses := fun _ _ h => ⟨step_fusesRise h, step_dieIdentity h⟩

/-- A run of one step and more takes a step first. -/
theorem runN_succ_next {n : Nat} {s t : State} (h : runN (n + 1) s = .next t) : ∃ u, step s = .next u ∧ runN n u = .next t := by
  unfold runN at h
  split at h
  case h_1 u hstep => exact ⟨u, hstep, h⟩
  case h_2 hstop => exact absurd h (hstop t)

/-- Settles O7: by induction over the run, each step keeping what every step keeps. -/
theorem runsKeepInvariants : Obligations.RunsKeepInvariants := by
  unfold Obligations.RunsKeepInvariants
  intro n
  induction n with
  | zero =>
    intro s t h
    obtain rfl : s = t := by simpa only [runN, Host.Outcome.next.injEq] using h
    exact ⟨id, fusesRise_refl _, rfl, rfl⟩
  | succ n ih =>
    intro s t h
    obtain ⟨u, hstep, hrun⟩ := runN_succ_next h
    obtain ⟨hmem, hfuses, hid, hqueue⟩ := ih u t hrun
    refine ⟨fun hwf => hmem (step_memoriesWf hstep hwf), fusesRise_trans (step_fusesRise hstep) hfuses, hid.trans (step_dieIdentity hstep), ?_⟩
    rw [hqueue, step_pending hstep, List.drop_tail]

end Sys2Proof.Machine
end

section
/-! Computations that can fail (Machine.M): what each way to build one comes to when it runs. -/

namespace Sys2Proof.Machine

variable {α β : Type} {m : M α} {k : α → M β} {s t u : State} {a : α} {b : β} {f : Fail}

@[simp] theorem go_pure (a : α) (s : State) : (pure a : M α).go s = (.ok a, s) := rfl

theorem go_bind_ok (h : m.go s = (.ok a, t)) : (m >>= k).go s = (k a).go t := by
  unfold M.go at h ⊢
  simp only [ExceptT.run_bind, StateT.run_bind]
  rw [h]
  rfl

theorem go_bind_error (h : m.go s = (.error f, t)) : (m >>= k).go s = (.error f, t) := by
  unfold M.go at h ⊢
  simp only [ExceptT.run_bind, StateT.run_bind]
  rw [h]
  rfl

@[simp] theorem go_get_bind (k : State → M β) (s : State) : (get >>= k).go s = (k s).go s := go_bind_ok rfl

@[simp] theorem go_set_bind (k : PUnit → M β) (s t : State) : ((set t : M PUnit) >>= k).go s = (k ⟨⟩).go t := go_bind_ok rfl

@[simp] theorem go_modify_bind (f : State → State) (k : PUnit → M β) (s : State) :
    ((modify f : M PUnit) >>= k).go s = (k ⟨⟩).go (f s) := go_bind_ok rfl

end Sys2Proof.Machine
end

section
/-! Issue of control descriptors (R115, R121, R122, R147, R164, R166, R168, R170): a descriptor that can issue issues, what issue leaves
for the opcode's own work to read, and what each opcode then does to its engine. -/

namespace Sys2Proof.Machine

/-! ### A descriptor that can issue -/

/-- R115: the latched descriptor keeps W0 to W7 of the bytes. -/
theorem nth_latch {i : Nat} (h : i < 8) (s : State) (g : Eng) (bs : List Byte) : nth (latch s g bs).w i = nth (descWords bs) i :=
  nth_latchWords h ..

theorem dOp_latch (s : State) (g : Eng) (bs : List Byte) : dOp (latch s g bs).w = dOp (descWords bs) := by
  unfold dOp
  rw [nth_latch (by decide)]

@[simp] theorem latch_pos (s : State) (g : Eng) (bs : List Byte) : (latch s g bs).pos = (engOf s g).pos := rfl

@[simp] theorem latch_pushed (s : State) (g : Eng) (bs : List Byte) : (latch s g bs).pushed = (engOf s g).pushed := rfl

theorem tryIssue_of_canIssue {op : Nat} {wake : Bool} {cls : Latched → M Unit} {g : Eng} {bs : List Byte} {s s1 : State}
    (h : CanIssue op wake g bs s) (hcls : (cls (latch s g bs)).go s = (.ok (), s1)) :
    tryIssue op wake cls g s = .ok (latch s g bs) (issueNow g (latch s g bs) s1) := by
  obtain ⟨hfree, hbytes, hop, hwaits, hbreak, hsb, hgate, hcopier, hwake, hsubst, hchecks⟩ := h
  have hsb' : (latch s g bs).sb.find? (fun r => !sbFree s (nget (engOf s g).issues (engOf s g).pos) r) = none := by
    simpa only [List.find?_eq_none, Bool.not_eq_true', Bool.not_eq_false, List.all_eq_true] using hsb
  have hbreak' : ¬(!(engOf s g).resumed && breakMask s g (dTop (descWords bs)) != 0) = true := by
    rcases hbreak with h | h <;> simp [h]
  have hgate' : ¬(gateCloses s g.st op (dW7 (descWords bs)) (latch s g bs).h || (engClass g.e = 2 && s.recov.copying.isSome)) = true := by
    by_cases hc : engClass g.e = 2
    · simp [hgate, hcopier hc]
    · simp [hgate, hc]
  have hwake' : ¬(wake && !engAwake s g) = true := by
    cases wake
    · simp
    · simp [hwake rfl]
  unfold tryIssue
  dsimp only
  rw [hfree, hbytes, if_neg (by decide)]
  dsimp only
  rw [hop, if_neg (by simp), hwaits, if_neg (by decide), if_neg hbreak', hsb']
  dsimp only
  rw [if_neg hgate', if_neg hwake', hsubst]
  by_cases hp : (engOf s g).pushed = true
  · rw [if_pos hp] at hchecks ⊢
    rw [hchecks]
    dsimp only
    rw [if_pos rfl]
    dsimp only
    rw [hcls]
  · rw [if_neg hp] at hchecks ⊢
    rw [hchecks, Bool.and_self, if_pos rfl]
    dsimp only
    rw [hcls]

/-- Settles O8: each condition of CanIssue passes one test of an attempt to issue. -/
theorem descriptorIssues : Obligations.DescriptorIssues := fun _ _ _ _ _ _ _ h hcls => tryIssue_of_canIssue h hcls

theorem issueThen_of_canIssue {op : Nat} {wake : Bool} {cls : Latched → M Unit} {run : Latched → State → State} {g : Eng}
    {bs : List Byte} {s s1 : State} (h : CanIssue op wake g bs s) (hcls : (cls (latch s g bs)).go s = (.ok (), s1)) :
    issueThen op wake cls run g s = run (latch s g bs) (issueNow g (latch s g bs) s1) := by
  unfold issueThen
  rw [tryIssue_of_canIssue h hcls]

/-! ### What issue leaves -/

theorem IssueFrame.trans {g : Eng} {s t u : State} (h : IssueFrame g s t) (k : IssueFrame g t u) : IssueFrame g s u := by
  obtain ⟨ht, hst⟩ := h
  obtain ⟨hu, htu⟩ := k
  refine ⟨?_, fun q hq => (htu q hq).trans (hst q hq)⟩
  rw [ht] at hu
  exact hu

theorem putEng_issueFrame (g : Eng) (e : Engine) (s : State) : IssueFrame g s (putEng g e s) :=
  ⟨rfl, fun _ hk => engOf_putEng_other e s hk⟩

theorem finish_issueFrame (g : Eng) (l : Latched) (s : State) : IssueFrame g s (finish g l s) := putEng_issueFrame ..

/-- An operation that only puts the engine back, after issue. -/
theorem issueNow_putEng_issueFrame (g : Eng) (l : Latched) (e : Engine) (s : State) : IssueFrame g s (putEng g e (issueNow g l s)) :=
  (issueNow_issueFrame ..).trans (putEng_issueFrame ..)

@[simp] theorem issueNow_engAwake (g k : Eng) (l : Latched) (s : State) : engAwake (issueNow g l s) k = engAwake s k := by
  rw [issueNow_frame]
  rfl

@[simp] theorem issueNow_watch (g : Eng) (l : Latched) (s : State) : (issueNow g l s).watch = s.watch := by
  rw [issueNow_frame]

@[simp] theorem issueNow_run (g : Eng) (l : Latched) (s : State) : (issueNow g l s).run = s.run := by
  rw [issueNow_frame]

@[simp] theorem issueNow_streamDescs (g k : Eng) (l : Latched) (s : State) : streamDescs (issueNow g l s) k = streamDescs s k := by
  rw [issueNow_frame]
  rfl

@[simp] theorem issueNow_engs_p (g : Eng) (l : Latched) (s : State) : (engOf (issueNow g l s) g).p = (engOf s g).p := by
  rw [issueNow_eng]

@[simp] theorem issueNow_engs_s (g : Eng) (l : Latched) (s : State) : (engOf (issueNow g l s) g).s = (engOf s g).s := by
  rw [issueNow_eng]

@[simp] theorem issueNow_engs_loops (g : Eng) (l : Latched) (s : State) : (engOf (issueNow g l s) g).loops = (engOf s g).loops := by
  rw [issueNow_eng]

@[simp] theorem issueNow_engs_forkId (g : Eng) (l : Latched) (s : State) : (engOf (issueNow g l s) g).forkId = (engOf s g).forkId := by
  rw [issueNow_eng]

/-- R112: a descriptor of a stream that is no HALT moves the Stream Position on by one. -/
theorem issueNow_engs_pos {op : Nat} {wake : Bool} {g : Eng} {bs : List Byte} {s : State} (h : CanIssue op wake g bs s) (hop : op ≠ 0x7F)
    (hpushed : (engOf s g).pushed = false) : (engOf (issueNow g (latch s g bs) s) g).pos = (engOf s g).pos + 1 := by
  rw [issueNow_eng]
  have hne : dOp (latch s g bs).w ≠ 0x7F := by rwa [dOp_latch, h.opcode]
  simp [hpushed, hne]

/-! ### NOP and HALT -/

theorem exec_nop_of_canIssue {g : Eng} {bs : List Byte} {s : State} (h : CanIssue 0x00 false g bs s) (hawake : engAwake s g = true) :
    exec (.nop g) s = .next (finish g (latch s g bs) (issueNow g (latch s g bs) s)) := by
  change execNop g s = _
  rw [execNop, issueThen_of_canIssue h (s1 := s) rfl, runNop, issueNow_engAwake, if_pos hawake]

theorem exec_halt_of_canIssue {g : Eng} {bs : List Byte} {s : State} (h : CanIssue 0x7F false g bs s) :
    exec (.halt g) s = .next (finish g (latch s g bs) (issueNow g (latch s g bs) s)) := by
  change execHalt g s = _
  rw [execHalt, issueThen_of_canIssue h (s1 := s) rfl]

/-- R112: a HALT leaves the Stream Position. -/
theorem issueNow_engs_pos_of_halt {wake : Bool} {g : Eng} {bs : List Byte} {s : State} (h : CanIssue 0x7F wake g bs s) :
    (engOf (issueNow g (latch s g bs) s) g).pos = (engOf s g).pos := by
  rw [issueNow_eng]
  have hop : dOp (latch s g bs).w = 0x7F := by rw [dOp_latch, h.opcode]
  simp [hop]

theorem issueNow_finish_issueFrame (g : Eng) (l k : Latched) (s : State) : IssueFrame g s (finish g k (issueNow g l s)) :=
  (issueNow_issueFrame ..).trans (finish_issueFrame ..)

/-! ### BRANCH and LOOPBACK -/

theorem exec_branch_of_canIssue {g : Eng} {bs : List Byte} {s : State} (h : CanIssue 0x50 false g bs s) :
    exec (.branch g) s = .next (runBranch g (latch s g bs) (issueNow g (latch s g bs) s)) := by
  change execBranch g s = _
  rw [execBranch, issueThen_of_canIssue h (s1 := s) rfl]

theorem jumpTo_issueFrame (g : Eng) (pos : Nat) (s : State) : IssueFrame g s (jumpTo g pos s) := putEng_issueFrame ..

theorem runBranch_issueFrame (g : Eng) (l : Latched) (s : State) : IssueFrame g s (runBranch g l s) := by
  unfold runBranch
  dsimp only
  split
  · exact (finish_issueFrame ..).trans (jumpTo_issueFrame ..)
  · exact finish_issueFrame ..

/-- R164: the engine after a BRANCH: done, and moved forward when the branch is taken. -/
theorem runBranch_eng (g : Eng) (l : Latched) (s : State) :
    engOf (runBranch g l s) g =
      (if branchTaken (bits (dW7 l.w) 13 11) (tget 0 (engOf s g).s (bits (dW7 l.w) 3 0)) (branchRhs (engOf s g) (dW7 l.w))
        then { engOf s g with pos := l.pos + bits (dW7 l.w) 31 14, prefetch := [], cur := some { l with done := true, blocked := 0 } }
        else { engOf s g with cur := some { l with done := true, blocked := 0 } }) := by
  unfold runBranch jumpTo
  dsimp only
  split <;> simp

@[simp] theorem branchRhs_issueNow (g : Eng) (l : Latched) (s : State) (w7 : Nat) :
    branchRhs (engOf (issueNow g l s) g) w7 = branchRhs (engOf s g) w7 := by
  simp [branchRhs]

theorem exec_loopback_of_canIssue {g : Eng} {bs : List Byte} {s : State} (h : CanIssue 0x51 false g bs s) :
    exec (.loopback g) s = .next (runLoopback g (latch s g bs) (issueNow g (latch s g bs) s)) := by
  change execLoopback g s = _
  rw [execLoopback, issueThen_of_canIssue h (s1 := s) rfl]

/-- R166: the iterations that remain at a depth after a LOOPBACK there. -/
def loopLeft (e : Engine) (d w7 : Nat) : Nat := if (loopOf e d).active then (loopOf e d).remaining - 1 else bits w7 30 15 - 1

/-- R166: a LOOPBACK at depth d that leaves `left` iterations. -/
theorem runLoopback_eq {g : Eng} {l : Latched} {s : State} {d left : Nat} (hd : loopDepth (streamDescs s g) l.pos = d)
    (hleft : loopLeft (engOf s g) d (dW7 l.w) = left) :
    runLoopback g l s =
      if 0 < left then
        jumpTo g (l.pos - bits (dW7 l.w) 14 0) (finish g l (putEng g { engOf s g with loops := tput (engOf s g).loops d ⟨true, left⟩ } s))
      else finish g l (putEng g { engOf s g with loops := tput (engOf s g).loops d ⟨false, left⟩ } s) := by
  subst hd hleft
  rfl

theorem runLoopback_issueFrame (g : Eng) (l : Latched) (s : State) : IssueFrame g s (runLoopback g l s) := by
  rw [runLoopback_eq rfl rfl]
  split
  · exact ((putEng_issueFrame ..).trans (finish_issueFrame ..)).trans (jumpTo_issueFrame ..)
  · exact (putEng_issueFrame ..).trans (finish_issueFrame ..)

/-- R166: the engine after a LOOPBACK: done, its loop counted down, and moved back while iterations remain. -/
theorem runLoopback_eng {g : Eng} {l : Latched} {s : State} {d left : Nat} (hd : loopDepth (streamDescs s g) l.pos = d)
    (hleft : loopLeft (engOf s g) d (dW7 l.w) = left) :
    engOf (runLoopback g l s) g =
      if 0 < left then { engOf s g with
          loops := tput (engOf s g).loops d ⟨true, left⟩, cur := some { l with done := true, blocked := 0 }
          pos := l.pos - bits (dW7 l.w) 14 0, prefetch := [] }
        else { engOf s g with
          loops := tput (engOf s g).loops d ⟨false, left⟩, cur := some { l with done := true, blocked := 0 } } := by
  rw [runLoopback_eq hd hleft]
  split <;> simp [jumpTo]

/-- Settles O10: each opcode issues, and what it then does to its engine is read off the engine's record. -/
theorem controlFlowIssues : Obligations.ControlFlowIssues := by
  unfold Obligations.ControlFlowIssues
  intro g bs s l e w7
  refine ⟨fun h hawake => ?nop, fun h => ?halt, fun h hpushed => ?branch, fun h hpushed => ?loopback⟩
  case nop =>
    refine ⟨_, exec_nop_of_canIssue h hawake, ?_, issueNow_finish_issueFrame ..⟩
    rw [finish_eng]
  case halt =>
    refine ⟨_, exec_halt_of_canIssue h, ?_, ?_, issueNow_finish_issueFrame ..⟩
    · rw [finish_eng]
    · rw [finish_eng]
      exact issueNow_engs_pos_of_halt h
  case branch =>
    have hpos := issueNow_engs_pos h (by decide) hpushed
    have heng := runBranch_eng g l (issueNow g l s)
    rw [branchRhs_issueNow, issueNow_engs_s] at heng
    refine ⟨_, exec_branch_of_canIssue h, ?_, ?_, ?_, ?_, (issueNow_issueFrame ..).trans (runBranch_issueFrame ..)⟩ <;> rw [heng] <;>
      split <;> simp [hpos, l, e, w7]
  case loopback =>
    intro d left
    have hpos := issueNow_engs_pos h (by decide) hpushed
    have heng := runLoopback_eng (g := g) (l := l) (s := issueNow g l s) (d := d) (left := left) (by rw [issueNow_streamDescs]; rfl)
      (by simp only [loopLeft, loopOf, issueNow_engs_loops]; rfl)
    refine ⟨_, exec_loopback_of_canIssue h, ?_, ?_, ?_, (issueNow_issueFrame ..).trans (runLoopback_issueFrame ..)⟩ <;> rw [heng] <;>
      by_cases hleft : 0 < left <;> simp [hpos, hleft, loopOf, l, e, w7]

/-! ### SETPARAM, WAIT_WATCH, STEP_END and FORK -/

theorem checkSetparam_go {g : Eng} {l : Latched} {s : State} {d : ParamDecl} (hd : paramDecl s g (bits (dW7 l.w) 5 0) = some d)
    (hmin : d.min ≤ (setparamValue (engOf s g) (dW7 l.w)).toInt) (hmax : (setparamValue (engOf s g) (dW7 l.w)).toInt ≤ d.max) :
    (checkSetparam g l).go s = (.ok (), s) := by
  simp [checkSetparam, hd, hmin, hmax]

@[simp] theorem setparamValue_issueNow (g : Eng) (l : Latched) (s : State) (w7 : Nat) :
    setparamValue (engOf (issueNow g l s) g) w7 = setparamValue (engOf s g) w7 := by
  simp [setparamValue]

theorem exec_setparam_of_canIssue {g : Eng} {bs : List Byte} {s : State} (h : CanIssue 0x52 false g bs s)
    (hcheck : (checkSetparam g (latch s g bs)).go s = (.ok (), s)) :
    exec (.setparam g) s = .next (runSetparam g (latch s g bs) (issueNow g (latch s g bs) s)) := by
  change execSetparam g s = _
  rw [execSetparam, issueThen_of_canIssue h hcheck]

theorem runSetparam_eng (g : Eng) (l : Latched) (s : State) :
    engOf (runSetparam g l s) g = { engOf s g with
      p := tput (engOf s g).p (bits (dW7 l.w) 5 0) (setparamValue (engOf s g) (dW7 l.w))
      cur := some { l with done := true, blocked := 0 } } := by
  unfold runSetparam
  simp

@[simp] theorem watchTarget_issueNow (g : Eng) (l : Latched) (s : State) (w7 : Nat) :
    watchTarget (issueNow g l s) (engOf (issueNow g l s) g) w7 = watchTarget s (engOf s g) w7 := by
  simp [watchTarget]

theorem exec_waitWatch_of_canIssue {g : Eng} {bs : List Byte} {s : State} (h : CanIssue 0x53 false g bs s) :
    exec (.waitWatch g) s = .next (runWaitWatch g (latch s g bs) (issueNow g (latch s g bs) s)) := by
  change execWaitWatch g s = _
  rw [execWaitWatch, issueThen_of_canIssue h (s1 := s) rfl]

theorem runWaitWatch_issueFrame (g : Eng) (l : Latched) (s : State) : IssueFrame g s (runWaitWatch g l s) := by
  unfold runWaitWatch
  dsimp only
  split
  · exact finish_issueFrame ..
  · exact (putEng_issueFrame ..).trans (putEng_issueFrame ..)

/-- R122: the descriptor after a WAIT_WATCH has issued: done when its target has passed. -/
theorem runWaitWatch_cur {g : Eng} {l : Latched} {s : State} {w : Nat} (hw : watchTarget s (engOf s g) (dW7 l.w) = w)
    (hdone : l.done = false) :
    (engOf (runWaitWatch g l s) g).cur =
      some { l with target := w, done := decide (w ≤ s.watch), blocked := if w ≤ s.watch then 0 else l.blocked } := by
  subst hw
  unfold runWaitWatch
  dsimp only
  split
  case isTrue hpast => simp [hpast]
  case isFalse hpast => simp [hpast, setWaiting, hdone]

theorem exec_stepEnd_of_canIssue {g : Eng} {bs : List Byte} {s : State} (h : CanIssue 0x54 false g bs s) :
    exec (.stepEnd g) s = .next (runStepEnd g (latch s g bs) (issueNow g (latch s g bs) s)) := by
  change execStepEnd g s = _
  rw [execStepEnd, issueThen_of_canIssue h (s1 := s) rfl]

theorem exec_fork_of_canIssue {g : Eng} {bs : List Byte} {s : State} (h : CanIssue 0x55 false g bs s) :
    exec (.fork g) s = .next (runFork g (latch s g bs) (issueNow g (latch s g bs) s)) := by
  change execFork g s = _
  rw [execFork, issueThen_of_canIssue h (s1 := s) rfl]

/-- R170: a FORK changes the run, and its engine as issue does. -/
theorem runFork_issueFrame (g : Eng) (l : Latched) (s : State) : IssueFrame g { s with run := (runFork g l s).run } (runFork g l s) :=
  ⟨rfl, fun _ hk => engOf_putEng_other _ _ hk⟩

theorem IssueFrame.withRun {g : Eng} {s t : State} (h : IssueFrame g s t) (r : Run) :
    IssueFrame g { s with run := r } { t with run := r } := by
  obtain ⟨ht, hst⟩ := h
  refine ⟨?_, hst⟩
  exact congrArg (fun x : State => { x with run := r }) ht

/-- Settles O11: each opcode issues, and what it then does to its engine and, for a FORK, to the run is read off their records. -/
theorem stepControlIssues : Obligations.StepControlIssues := by
  unfold Obligations.StepControlIssues
  intro g bs s l e w7
  refine ⟨fun d h hd hmin hmax => ?setparam, fun h => ?waitWatch, fun h => ?stepEnd, fun h => ?fork⟩
  case setparam =>
    have heng := runSetparam_eng g l (issueNow g l s)
    rw [setparamValue_issueNow] at heng
    refine ⟨_, exec_setparam_of_canIssue h (checkSetparam_go hd hmin hmax), ?_, fun i hi => ?_, ?_, ?_, ?frame⟩
    case frame => exact ((issueNow_issueFrame ..).trans (putEng_issueFrame ..)).trans (finish_issueFrame ..)
    · rw [heng]
      exact tget_tput_same ..
    · rw [heng]
      dsimp only
      rw [tget_tput_other _ _ _ hi, issueNow_engs_p]
    · rw [heng]
      exact issueNow_engs_s ..
    · rw [heng]
  case waitWatch =>
    refine ⟨_, exec_waitWatch_of_canIssue h, ?_, (issueNow_issueFrame ..).trans (runWaitWatch_issueFrame ..)⟩
    rw [runWaitWatch_cur (watchTarget_issueNow ..) rfl, issueNow_watch]
  case stepEnd =>
    refine ⟨_, exec_stepEnd_of_canIssue h, ?_, ?_, ?_, issueNow_putEng_issueFrame ..⟩ <;> rw [runStepEnd, engOf_putEng_same]
    exact issueNow_engs_forkId ..
  case fork =>
    have hframe := ((issueNow_issueFrame g l s).withRun _).trans (runFork_issueFrame g l (issueNow g l s))
    refine ⟨_, exec_fork_of_canIssue h, ?_, ?_, ?_, rfl, ?_, hframe⟩
    · rw [runFork, engOf_putEng_same]
    · rw [runFork, engOf_putEng_same]
    · rw [runFork, engOf_putEng_same]
    · rw [runFork]
      simp [l, e, w7]

end Sys2Proof.Machine
end

section
/-! Descriptors that run in segments (R133, R134): what a segment's end moves, the last segment of a descriptor, and the statements on the
opcodes that run so, on the FIFOs and on REDUCE_SCALAR. -/

namespace Sys2Proof.Machine

/-! ### The entries of the FIFOs -/

theorem fifoPopped_foldl_frame (st : Nat) (f : Nat → Nat) (ks : List Nat) (s : State) :
    ks.foldl (fun t k => fifoPopped st (f k) t) s = { s with stations := (ks.foldl (fun t k => fifoPopped st (f k) t) s).stations } := by
  induction ks generalizing s with
  | nil => rfl
  | cons k ks ih => exact (ih (fifoPopped st (f k) s)).trans rfl

/-- R133: the end of a segment moves entries in the Station's FIFOs. -/
theorem moveEntries_frame (g : Eng) (l : Latched) (s : State) :
    moveEntries g l s = { s with stations := (moveEntries g l s).stations } := by
  unfold moveEntries
  dsimp only
  rw [fifoPopped_foldl_frame]
  split <;> rfl

/-! ### The last segment -/

/-- R133: the descriptor as its segment leaves it: a segment further, with the results that the segment recorded. -/
def afterSegment (g : Eng) (l : Latched) (s : State) : Latched :=
  { l with seg := l.seg + 1, blocked := 0, res := ((engOf s g).cur.map Latched.res).getD l.res }

/-- R133: the last segment of a descriptor, not held up by a FIFO, ends the descriptor. -/
theorem runFrom_last {body : Latched → M Unit} {g : Eng} {l : Latched} {s s2 : State} (hseg : l.nseg = l.seg + 1)
    (hblock : segBlock s g l = 0) (hbody : (body l).go s = (.ok (), s2)) :
    runFrom body g l s = finish g (afterSegment g l s2) (moveEntries g l s2) := by
  have hleft : l.nseg - l.seg = 1 := by omega
  unfold runFrom
  rw [hleft]
  unfold runSegs
  dsimp only
  rw [hblock, if_neg (by decide), hbody]
  rfl

/-- R133: what a descriptor whose last segment has run leaves. -/
theorem finish_moveEntries_frame (g : Eng) (k l : Latched) (s : State) :
    finish g k (moveEntries g l s) = { s with engs := (finish g k (moveEntries g l s)).engs, stations := (moveEntries g l s).stations } := by
  rw [finish_frame, moveEntries_frame]

theorem finish_cur (g : Eng) (l : Latched) (s : State) : (engOf (finish g l s) g).cur = some { l with done := true, blocked := 0 } := by
  rw [finish_eng]

/-- Settles O13: each of the nine issues and runs its only segment. -/
theorem computeDescriptorsRun : Obligations.ComputeDescriptorsRun := by
  unfold Obligations.ComputeDescriptorsRun
  intro g bs us s s2 u l s1 c op body hmem hissue hlan hseg hblock hbody
  have hend := runFrom_last (l := l) (show l.nseg = l.seg + 1 from hseg) hblock hbody
  have hexec : exec c s = .next (runFrom body g l s1) := by
    simp only [List.mem_cons, Prod.mk.injEq, List.not_mem_nil, or_false] at hmem
    have lantern (h : op < 0x20) : issueThen op true (checkLan g) (runFrom body g) g u = runFrom body g l s1 :=
      issueThen_of_canIssue hissue (hlan h)
    have tender : issueThen op true noCheck (runFrom body g) g u = runFrom body g l s1 := issueThen_of_canIssue hissue rfl
    obtain ⟨rfl, rfl, rfl⟩ | ⟨rfl, rfl, rfl⟩ | ⟨rfl, rfl, rfl⟩ | ⟨rfl, rfl, rfl⟩ | ⟨rfl, rfl, rfl⟩ | ⟨rfl, rfl, rfl⟩ | ⟨rfl, rfl, rfl⟩ |
      ⟨rfl, rfl, rfl⟩ | ⟨rfl, rfl, rfl⟩ := hmem
    · exact congrArg Host.Outcome.next (lantern (by decide))
    · exact congrArg Host.Outcome.next (lantern (by decide))
    · exact congrArg Host.Outcome.next (lantern (by decide))
    all_goals exact congrArg Host.Outcome.next tender
  refine ⟨_, hexec.trans (by rw [hend]), ?_, ?_⟩
  · rw [finish_cur]
    rfl
  · rw [finish_moveEntries_frame]

/-! ### REDUCE_SCALAR -/

/-- R19, R81, R82, R108: without an upset a command passes the gates of its datapath. -/
theorem go_galleryGate_nil_bind {α : Type} (k : Unit → M α) (s : State) : (galleryGate [] >>= k).go s = (k ()).go s := go_bind_ok rfl

theorem go_localGate_nil_bind {α : Type} (k : Unit → M α) (s : State) : (localGate [] >>= k).go s = (k ()).go s := go_bind_ok rfl

theorem go_commitGate_nil_bind {α : Type} (k : Unit → M α) (s : State) :
    (commitGate [] >>= k).go s = (k ()).go (chk 3 false s) := go_bind_ok rfl

theorem reduceBody_go {g : Eng} {l : Latched} {s s2 : State} {o : Opnd} {cs : List Nat} (hopnd : (opnd s g l 0 false).go s = (.ok o, s))
    (helems : (reduceElems g l o).go s = (.ok cs, s2)) :
    (reduceBody g [] l).go s = (.ok (), setCur g { l with
      res := if bitAt (dW7 l.w) 12 then [(bits (dW7 l.w) 11 8, (reduceVal (bits (dW7 l.w) 2 0) o.h.fmt cs).1),
          (bits (dW7 l.w) 11 8 + 1, (reduceVal (bits (dW7 l.w) 2 0) o.h.fmt cs).2)]
        else [(bits (dW7 l.w) 11 8, (reduceVal (bits (dW7 l.w) 2 0) o.h.fmt cs).1)] } (chk 3 false s2)) := by
  unfold reduceBody
  rw [go_galleryGate_nil_bind, go_get_bind, go_bind_ok hopnd, go_bind_ok helems, go_commitGate_nil_bind]
  rfl

/-- Settles O14: the only segment records the results, and its end leaves them to the completion. -/
theorem reduceScalarRuns : Obligations.ReduceScalarRuns := by
  unfold Obligations.ReduceScalarRuns
  intro g bs s s2 o cs l s1 hissue hcheck hseg hblock hopnd helems hengs r d
  have hend := runFrom_last (l := l) (show l.nseg = l.seg + 1 from hseg) hblock (reduceBody_go hopnd helems)
  have hrun : runReduce g [] l s1 = runFrom (reduceBody g []) g l s1 := if_neg (by rw [hseg]; decide)
  have hexec : exec (.reduceScalar g []) s = .next (runReduce g [] l s1) :=
    congrArg Host.Outcome.next (issueThen_of_canIssue (s := s) hissue hcheck)
  refine ⟨_, hexec.trans (by rw [hrun, hend]), ?_⟩
  rw [finish_cur, afterSegment, setCur_eng]
  rfl

/-! ### SEND and RECV -/

theorem issueNow_sendSlots (g : Eng) (l : Latched) (st w7 : Nat) (s : State) : sendSlots (issueNow g l s) st w7 = sendSlots s st w7 := by
  rw [issueNow_frame]
  rfl

/-- Settles O12: issue, and the transfer's Tally put into the descriptor. -/
theorem transfersIssue : Obligations.TransfersIssue := by
  unfold Obligations.TransfersIssue
  intro g bs us s u l
  refine ⟨fun h => ?send, fun h => ?recv⟩
  case send =>
    have hexec : exec (.send g us) s = .next (runSend g l (issueNow g l u)) :=
      congrArg Host.Outcome.next (issueThen_of_canIssue (cls := noCheck) h rfl)
    refine ⟨_, hexec, ?_, issueNow_putEng_issueFrame ..⟩
    unfold runSend
    dsimp only
    rw [setCur_eng, issueNow_sendSlots]
  case recv =>
    have hexec : exec (.recv g us) s = .next (runRecv g l (issueNow g l u)) :=
      congrArg Host.Outcome.next (issueThen_of_canIssue (cls := noCheck) h rfl)
    refine ⟨_, hexec, ?_, issueNow_putEng_issueFrame ..⟩
    rw [runRecv, setCur_eng]

/-! ### KERNEL -/

theorem wOf_runtimeRun (w v : WickRef) (s : State) : wOf (runtimeRun w s) v = wOf s v := wOf_congr rfl v

theorem engOf_enter (w : WickRef) (g k : Eng) (l : Latched) (s : State) : engOf (enter w g l s) k = engOf s k := engOf_congr rfl k

/-- R89: a KERNEL whose code becomes resident, with its entries at hand, enters its first invocation. -/
theorem runKernel_enters {g : Eng} {l : Latched} {s s2 : State} {w : WickRef} {o : Opnd} (hw : wickRef s g = some w)
    (hcode : codeOpnd s g l = some o) (hseg : l.seg < l.nseg) (hres : (makeResident w g o).go s = (.ok (), s2))
    (hblock : segBlock s2 g l = 0) : runKernel g [] l s = enter w g l (setCur g { l with blocked := 0 } s2) := by
  have hgo : (do galleryGate []; localGate []; makeResident w g o : M Unit).go s = (.ok (), s2) := by
    rw [go_galleryGate_nil_bind, go_localGate_nil_bind, hres]
  unfold runKernel
  rw [hw, hcode]
  dsimp only
  rw [hgo]
  unfold nextInvocation
  dsimp only
  rw [if_neg (Nat.not_le.2 hseg), hblock, if_neg (by decide)]

/-- Settles O15: the entry state is the record that `enter` puts in place of the pair's. -/
theorem kernelStarts : Obligations.KernelStarts := by
  unfold Obligations.KernelStarts
  intro g bs s s2 w o l s1 hissue hcheck hw hcode hseg hres hblock
  have hexec : exec (.kernel g []) s = .next (runKernel g [] l s1) :=
    congrArg Host.Outcome.next (issueThen_of_canIssue (s := s) hissue hcheck)
  have hfirst : l.seg = 0 := rfl
  refine ⟨_, hexec.trans (by rw [runKernel_enters hw hcode hseg hres hblock]), ?_⟩
  rw [engOf_enter, setCur_eng, enter]
  dsimp only
  rw [wOf_runtimeRun, wOf_putW_same]
  simp [xr, tget, hfirst]

/-! ### FIFOs -/

/-- R133: an operation on a FIFO leaves the Station's handles and flags. -/
theorem putFifo_handle_flag (st i : Nat) (f : Fifo) (s : State) :
    (∀ h, handleOf (putFifo st i f s) st h = handleOf s st h) ∧ ∀ sc j, flagGet (putFifo st i f s) st sc j = flagGet s st sc j := by
  constructor
  · intro h
    simp [handleOf, putFifo]
  · intro sc j
    simp [flagGet, putFifo]

theorem fifoOf_putFifo_same (st i : Nat) (f : Fifo) (s : State) : fifoOf (putFifo st i f s) st i = f := by simp [fifoOf, putFifo]

theorem fifoOf_putFifo_other {st i j : Nat} (f : Fifo) (s : State) (h : j ≠ i) : fifoOf (putFifo st i f s) st j = fifoOf s st j := by
  simp [fifoOf, putFifo, tget_tput_other _ _ _ h]

/-- R133: when the wait is over, the descriptor in hand goes on from its next segment, whatever its opcode. -/
theorem resumeDesc_eq {g : Eng} {l : Latched} {op : Nat} {body : Latched → M Unit}
    (h : (op, body) ∈ [(0x20, copyBody g []), (0x61, copyBody g []), (0x21, indexBody g []), (0x22, indexBody g []), (0x23, fillBody g []),
      (0x31, reduceBody g []), (0x60, verifyBody g [])]) (hop : dOp l.w = op) (s : State) :
    resumeDesc g [] l s = runFrom body g l s := by
  subst hop
  simp only [List.mem_cons, Prod.mk.injEq, List.not_mem_nil, or_false] at h
  unfold resumeDesc
  dsimp only
  obtain ⟨hop, rfl⟩ | ⟨hop, rfl⟩ | ⟨hop, rfl⟩ | ⟨hop, rfl⟩ | ⟨hop, rfl⟩ | ⟨hop, rfl⟩ | ⟨hop, rfl⟩ := h <;> rw [hop] <;> rfl

/-- Settles O18: the descriptor that waited runs its last segment; and each FIFO operation puts one FIFO back. -/
theorem fifosMove : Obligations.FifosMove := by
  unfold Obligations.FifosMove
  refine ⟨?segment, ?fifo⟩
  case segment =>
    intro g l s s2 s1 c k hc hready op body hmem hop hseg hblock hbody
    have hexec : exec c s = .next (resumeDesc g [] l s1) := by
      simp only [List.mem_cons, Prod.mk.injEq, List.not_mem_nil, or_false] at hc
      obtain ⟨rfl, rfl⟩ | ⟨rfl, rfl⟩ := hc
      · change execFifoPush g [] s = _
        rw [execFifoPush, hready]
        rfl
      · change execFifoPop g [] s = _
        rw [execFifoPop, hready]
        rfl
    rw [resumeDesc_eq hmem hop, runFrom_last hseg hblock hbody] at hexec
    refine ⟨_, hexec, ?_, finish_moveEntries_frame ..⟩
    rw [finish_cur]
    rfl
  case fifo =>
    intro st i s
    refine ⟨fifoOf_putFifo_same .., fifoOf_putFifo_same .., fun j hj => ⟨fifoOf_putFifo_other _ _ hj, fifoOf_putFifo_other _ _ hj⟩,
      fun h => ⟨(putFifo_handle_flag ..).1 h, (putFifo_handle_flag ..).1 h⟩,
      fun sc j => ⟨(putFifo_handle_flag ..).2 sc j, (putFifo_handle_flag ..).2 sc j⟩⟩

/-! ### Fetch and WAIT_WATCH -/

/-- Settles O16: a fetch with no upset either takes the descriptor or reports it. -/
theorem fetchTakesDescriptor : Obligations.FetchTakesDescriptor := by
  unfold Obligations.FetchTakesDescriptor
  intro g s hcan p
  have hexec : exec (.descriptorFetch g []) s = .next (fetchDesc g [] s) := congrArg Host.Outcome.next (if_pos hcan)
  have hfetch : fetchDesc g [] s =
      if fetchFails s g p then detect 0x2080 (.eng g) (some (2, istoreAddr s g p)) (report 0x2080 (engPage s g) s)
      else putEng g { engOf s g with prefetch := (engOf s g).prefetch ++ [(p, fetchBytes s g p)] } s := rfl
  refine ⟨fun hgood => ⟨_, hexec.trans (by rw [hfetch, hgood]; rfl), engOf_putEng_same .., rfl, fun k hk => engOf_putEng_other _ _ hk⟩,
    fun hbad => ⟨_, hexec.trans (by rw [hfetch, if_pos hbad]), rfl, rfl⟩⟩

/-- Settles O19: the Watch moves on to the target, and the descriptor is done. -/
theorem watchTargetReached : Obligations.WatchTargetReached := by
  unfold Obligations.WatchTargetReached
  intro g l s hpending
  have hexec : exec (.waitWatchTarget g) s = .next (waitReached g l s) := by
    change execWaitWatchTarget g s = _
    rw [execWaitWatchTarget, hpending]
  refine ⟨_, hexec, rfl, ?_, rfl, fun k hk => ?_⟩
  · rw [waitReached, engOf_putEng_same, finish_eng]
    rfl
  · rw [waitReached, engOf_putEng_other _ _ hk, finish_eng_other _ _ hk]
    rfl

end Sys2Proof.Machine
end

section
/-! Completion of a descriptor (R101, R121, R152, R384): its results, its SIGNALs, the entry of a TAP, and the job that goes on while an
engine of it has not halted. -/

namespace Sys2Proof.Machine

/-! ### SIGNALs -/

/-- R116, R152: the increment that a SIGNAL word makes on flag i of scope sc; 0 where it names another flag. -/
def signalOn (sc i w : Nat) : Nat := if waitScope w = sc ∧ waitIdx w = i then sigInc w else 0

theorem signalOn_own (w : Nat) : signalOn (waitScope w) (waitIdx w) w = sigInc w := if_pos ⟨rfl, rfl⟩

theorem signalOn_of_inc_zero {w : Nat} (h : sigInc w = 0) (sc i : Nat) : signalOn sc i w = 0 := by simp [signalOn, h]

/-- R154: a SIGNAL increments nothing, or its flag has room for the increment. -/
def SignalFits (s : State) (st w : Nat) : Prop := sigInc w = 0 ∨ flagGet s st (waitScope w) (waitIdx w) + sigInc w ≤ 65535

/-- R154: a SIGNAL that its flag has room for is applied. -/
theorem signalOne_fst {st w : Nat} {s : State} (h : SignalFits s st w) : (signalOne st w s).1 = false := by
  unfold signalOne
  split
  case isTrue => rfl
  case isFalse hinc =>
    dsimp only
    rw [if_neg (Nat.not_lt.2 (h.resolve_left hinc))]

/-- R152: a SIGNAL that is applied adds its increment to the flag that it names, and leaves every other. -/
theorem flagGet_signalOne {st w sc : Nat} {s : State} (h : SignalFits s st w) (hsc : sc = 0 ∨ sc = 1) (i : Nat) :
    flagGet (signalOne st w s).2 st sc i = flagGet s st sc i + signalOn sc i w := by
  unfold signalOne
  split
  case isTrue hinc => rw [signalOn_of_inc_zero hinc, Nat.add_zero]
  case isFalse hinc =>
    dsimp only
    rw [if_neg (Nat.not_lt.2 (h.resolve_left hinc)), flagGet_flagPut hsc (waitScope_zero_or_one w)]
    unfold signalOn
    split
    case isTrue hflag => rw [hflag.1, hflag.2]
    case isFalse => rfl

theorem signalOne_frame (st w : Nat) (s : State) :
    (signalOne st w s).2 = { s with stations := (signalOne st w s).2.stations, chipFlags := (signalOne st w s).2.chipFlags } := by
  unfold signalOne
  split
  · rfl
  · dsimp only
    split
    · rfl
    · exact flagPut_frame ..

/-! ### Retirement -/

theorem nowIdle_frame (g : Eng) (s : State) : nowIdle g s = { s with lanterns := (nowIdle g s).lanterns, wicks := (nowIdle g s).wicks } := by
  unfold nowIdle
  split
  · split <;> rfl
  · split
    · split <;> rfl
    · rfl

theorem retire_frame (g : Eng) (l : Latched) (s : State) :
    retire g l s = { s with
      sb := (retire g l s).sb, engs := (retire g l s).engs, lanterns := (retire g l s).lanterns, wicks := (retire g l s).wicks } := by
  unfold retire
  dsimp only
  rw [nowIdle_frame, sbDone_foldl_frame]
  rfl

/-- R121, R152: the engine that has retired its descriptor. -/
theorem retire_eng (g : Eng) (l : Latched) (s : State) :
    engOf (retire g l s) g =
      { engOf s g with cur := none, halted := (engOf s g).halted || dOp l.w = 0x7F, lastAct := s.watch, wdFrom := s.watch } := by
  unfold retire
  dsimp only
  rw [nowIdle_frame, sbDone_foldl_frame]
  exact engOf_putEng_same ..

theorem retire_eng_other {g k : Eng} (l : Latched) (s : State) (h : k ≠ g) : engOf (retire g l s) k = engOf s k := by
  unfold retire
  dsimp only
  rw [nowIdle_frame, sbDone_foldl_frame]
  exact engOf_putEng_other _ _ h

/-! ### The job goes on -/

/-- A value that is not a table's default stands in the table. -/
theorem mem_of_tget_ne {α : Type} {d : α} {t : Tbl α} {k : Nat} (h : tget d t k ≠ d) : (k, tget d t k) ∈ t := by
  induction t with
  | nil => exact absurd rfl h
  | cons e t ih =>
    obtain ⟨j, v⟩ := e
    unfold tget at h ⊢
    split
    case isTrue hj => simp [hj]
    case isFalse hj =>
      rw [if_neg hj] at h
      exact List.mem_cons_of_mem _ (ih h)

/-- R415: while an engine that runs a stream has not halted, the job does not drain. -/
theorem checkLast_of_not_halted {k : Eng} {s : State} (hpresent : (engOf s k).present = true) (hpushed : (engOf s k).pushed = false)
    (hhalted : (engOf s k).halted = false) : checkLast s = s := by
  have hne : engOf s k ≠ engReset := by
    intro h
    rw [h] at hpresent
    exact absurd hpresent (by decide)
  have hall : allHalted s = false := by
    unfold allHalted
    rw [List.all_eq_false]
    exact ⟨_, mem_of_tget_ne hne, by simp [engOf] at hpresent hpushed hhalted; simp [hpresent, hpushed, hhalted]⟩
  simp [checkLast, hall]

/-! ### Completion -/

theorem writeScalars_engs (g : Eng) (res : List (Nat × W64)) (s : State) :
    engOf (writeScalars g res s) g = { engOf s g with s := res.foldl (fun t r => tput t r.1 r.2) (engOf s g).s } := engOf_putEng_same ..

/-- R152: both SIGNALs of a descriptor, in their order. -/
def signalBoth (st : Nat) (w : List Nat) (s : State) : State := (signalOne st (nth w 4) (signalOne st (nth w 3) s).2).2

theorem signalBoth_frame (st : Nat) (w : List Nat) (s : State) :
    signalBoth st w s = { s with stations := (signalBoth st w s).stations, chipFlags := (signalBoth st w s).chipFlags } := by
  unfold signalBoth
  rw [signalOne_frame, signalOne_frame]

/-- R152: a completion both of whose SIGNALs are applied retires the descriptor. -/
theorem complete_eq {g : Eng} {l : Latched} {s s1 : State} (hs1 : tapDone g l (writeScalars g l.res s) = s1)
    (h3 : SignalFits s1 g.st (nth l.w 3)) (h4 : SignalFits (signalOne g.st (nth l.w 3) s1).2 g.st (nth l.w 4)) :
    complete g l s = retire g l (signalBoth g.st l.w s1) := by
  unfold complete
  dsimp only
  rw [hs1, signalOne_fst h3, if_neg (by decide), signalOne_fst h4, if_neg (by decide)]
  rfl

/-- R154: two SIGNALs that no flag overflows under fit one after the other, and add up. -/
theorem signalBoth_fits {st : Nat} {w : List Nat} {s : State}
    (h : ∀ sc i, (sc = 0 ∨ sc = 1) → 0 < signalOn sc i (nth w 3) + signalOn sc i (nth w 4) →
      flagGet s st sc i + (signalOn sc i (nth w 3) + signalOn sc i (nth w 4)) ≤ 65535) :
    SignalFits s st (nth w 3) ∧ SignalFits (signalOne st (nth w 3) s).2 st (nth w 4) ∧
      ∀ sc i, (sc = 0 ∨ sc = 1) →
        flagGet (signalBoth st w s) st sc i = flagGet s st sc i + (signalOn sc i (nth w 3) + signalOn sc i (nth w 4)) := by
  have h3 : SignalFits s st (nth w 3) := by
    refine (Nat.eq_zero_or_pos _).imp id fun hpos => ?_
    have := h (waitScope (nth w 3)) (waitIdx (nth w 3)) (waitScope_zero_or_one _)
    rw [signalOn_own] at this
    omega
  have h4 : SignalFits (signalOne st (nth w 3) s).2 st (nth w 4) := by
    refine (Nat.eq_zero_or_pos _).imp id fun hpos => ?_
    have := h (waitScope (nth w 4)) (waitIdx (nth w 4)) (waitScope_zero_or_one _)
    rw [signalOn_own] at this
    rw [flagGet_signalOne h3 (waitScope_zero_or_one _)]
    omega
  refine ⟨h3, h4, fun sc i hsc => ?_⟩
  unfold signalBoth
  rw [flagGet_signalOne h4 hsc, flagGet_signalOne h3 hsc, Nat.add_assoc]

/-- R152: the due descriptor of an engine completes, and while another engine of the job has not halted the job goes on. -/
theorem exec_descriptorComplete {g k : Eng} {l : Latched} {s u : State} (hdue : dueDesc s g = some l)
    (hcomp : complete g l s = retire g l u) (hu : u.engs = (writeScalars g l.res s).engs) (hk : k ≠ g)
    (hpresent : (engOf s k).present = true) (hpushed : (engOf s k).pushed = false) (hhalted : (engOf s k).halted = false) :
    exec (.descriptorComplete g) s = .next (retire g l u) := by
  have hkeep : engOf (retire g l u) k = engOf s k :=
    ((retire_eng_other l u hk).trans (engOf_congr hu k)).trans (engOf_putEng_other _ _ hk)
  change execDescriptorComplete g s = _
  rw [execDescriptorComplete, hdue]
  dsimp only
  rw [hcomp, checkLast_of_not_halted (k := k) (by rwa [hkeep]) (by rwa [hkeep]) (by rwa [hkeep])]

theorem tapDone_of_op_ne {l : Latched} (h : dOp l.w ≠ 0x61) (g : Eng) (s : State) : tapDone g l s = s := by
  simp [tapDone, h]

/-- R384: a TAP that visits an element, while the Ledger has room. -/
theorem tapDone_of_room {l : Latched} {s : State} (hop : dOp l.w = 0x61) (hnest : nestCount (levels l.w) ≠ 0)
    (hroom : s.led.taps.length < 4096) (g : Eng) :
    tapDone g l s = { s with led := { s.led with taps := s.led.taps ++ [tapEntry s g l] } } := by
  simp [tapDone, hop, hnest, hroom]

/-- Settles O17: a completion whose SIGNALs have room retires the descriptor; what each part leaves is its own law. -/
theorem descriptorCompletes : Obligations.DescriptorCompletes := by
  unfold Obligations.DescriptorCompletes
  refine ⟨?results, ?tap⟩
  case results =>
    intro g k l s hdue hop hk hpresent hpushed hhalted add hadd
    have hs1 : tapDone g l (writeScalars g l.res s) = writeScalars g l.res s := tapDone_of_op_ne hop ..
    obtain ⟨h3, h4, hflags⟩ := signalBoth_fits (s := writeScalars g l.res s) hadd
    have hframe := signalBoth_frame g.st l.w (writeScalars g l.res s)
    have heng : engOf (signalBoth g.st l.w (writeScalars g l.res s)) g = engOf (writeScalars g l.res s) g :=
      engOf_congr (by rw [hframe]) g
    refine ⟨_, exec_descriptorComplete hdue (complete_eq hs1 h3 h4) (by rw [hframe]) hk hpresent hpushed hhalted,
      ?_, ?_, ?_, ?_, fun sc i hsc => ?_, ?_, ?_, ?_, ?_⟩
    · rw [retire_eng]
    · rw [retire_eng, heng, writeScalars_engs]
    · rw [retire_eng, heng, writeScalars_engs]
    · rw [retire_eng, heng, writeScalars_engs]
    · have hkeep : ∀ u, flagGet (retire g l u) g.st sc i = flagGet u g.st sc i := fun u => by rw [retire_frame]; rfl
      rw [hkeep, hflags sc i hsc]
      rfl
    all_goals
      rw [retire_frame, hframe]
      rfl
  case tap =>
    intro g k l s hdue hop hnest hroom h3 h4 hk hpresent hpushed hhalted
    have hs1 := tapDone_of_room (s := writeScalars g l.res s) hop hnest hroom g
    have hsig3 (u : State) : signalOne g.st (nth l.w 3) u = (false, u) := if_pos h3
    have hsig4 (u : State) : signalOne g.st (nth l.w 4) u = (false, u) := if_pos h4
    have hcomp := complete_eq hs1 (Or.inl h3) (Or.inl h4)
    rw [signalBoth, hsig3, hsig4] at hcomp
    refine ⟨_, exec_descriptorComplete hdue hcomp rfl hk hpresent hpushed hhalted, ?_, ?_⟩
    · rw [retire_eng]
    · rw [retire_frame]
      rfl

end Sys2Proof.Machine
end

section
/-! The block and its queue: what a step takes, what it answers, and the state after reset. -/

namespace Sys2Proof.Machine

/-- Settles O1: the command put at the front is the one that a step takes. -/
theorem stepRunsFrontCommand : Obligations.StepRunsFrontCommand := fun _ _ => rfl

/-- Settles O2: a step of an empty queue is a tick, and the Watch at the next count is past none. -/
theorem emptyQueueTicks : Obligations.EmptyQueueTicks := by
  unfold Obligations.EmptyQueueTicks
  intro s hempty
  have hwatch : max s.watch (s.watch + 1) = s.watch + 1 := Nat.max_eq_right (Nat.le_succ _)
  have htick : step s = .next (tick s) := by
    unfold step
    rw [hempty]
  rw [htick, tick, watchTo, hwatch]

/-! ### Answers -/

/-- R94: every fetched Xseltar instruction has a next state. -/
theorem xseltarRun_next (i : Instr) (s : State) : ∃ t, xseltarRun i s = .next t := by
  unfold xseltarRun
  split <;> exact ⟨_, rfl⟩

/-- R80: whatever stands at the pc, a pair that runs it has a next state. -/
theorem wickAt_next (w : WickRef) (us : List Upset) (s : State) : ∃ t, wickAt w us s = .next t := by
  unfold wickAt
  split
  · exact ⟨_, rfl⟩
  · split
    · exact ⟨_, rfl⟩
    · split
      · exact xseltarRun_next ..
      · exact ⟨_, rfl⟩

/-- R436, R499: every JTAG instruction has a next state but the one whose effect the spec leaves out. -/
theorem execJtagInstruction_answers (op : JtagOp) (s : State) :
    (∃ t, execJtagInstruction op s = .next t) ∨
      (op = .keeper ∧ bitAt s.kpr.sec.debugOpen 2 = true ∧ execJtagInstruction op s = .refused .jtagKeeperAccess) := by
  cases op
  case keeper =>
    unfold execJtagInstruction
    by_cases hscope : bitAt s.kpr.sec.debugOpen 2 = true
    · exact Or.inr ⟨rfl, hscope, if_pos hscope⟩
    · exact Or.inl ⟨_, if_neg hscope⟩
  all_goals exact Or.inl ⟨_, rfl⟩

/-- Settles O3: every arm of the dispatch is a next state by its form, but a pair's instruction, which goes by what stands at the pc, and a
JTAG instruction. -/
theorem everyCommandAnswers : Obligations.EveryCommandAnswers := by
  unfold Obligations.EveryCommandAnswers
  intro c s
  cases c
  case wickInstruction => exact Or.inl (wickAt_next ..)
  case jtagInstruction op =>
    refine (execJtagInstruction_answers op s).imp id fun ⟨hop, hscope, hexec⟩ => ⟨?_, hscope, hexec⟩
    rw [hop]
  all_goals exact Or.inl ⟨_, rfl⟩

/-! ### Reset -/

/-- Settles O4: nothing is stored at reset, so that every register reads its reset value. -/
theorem resetState : Obligations.ResetState := by
  unfold Obligations.ResetState
  refine ⟨rfl, rfl, rfl, rfl, rfl, rfl, rfl, rfl, fun _ => rfl, ?power⟩
  case power => decide

end Sys2Proof.Machine
end

section
/-! The instructions of a Wick pair's kernel (R80 to R82, R94, R97 to R100): what an instruction that ends leaves, and the statements on the
Tally, vector and conversion instructions. -/

namespace Sys2Proof.Machine

/-! ### A run that ends -/

@[simp] theorem wOf_chk (i : Nat) (b : Bool) (s : State) (w : WickRef) : wOf (chk i b s) w = wOf s w := wOf_congr rfl w

@[simp] theorem wOf_wickRetire (v : WickRef) (s : State) (w : WickRef) : wOf (wickRetire v s) w = wOf s w := wOf_congr rfl w

@[simp] theorem go_wickMod (w : WickRef) (f : Wick → Wick) (s : State) : (wickMod w f).go s = (.ok (), putW w (f (wOf s w)) s) := rfl

/-- R82, R110: an instruction without an upset that ends retires. -/
theorem wickRun_ok {w : WickRef} {x : Eng → Latched → M Unit} {s s1 : State} {g : Eng} {l : Latched} (hk : inKernel s w = some (g, l))
    (hx : (x g l).go (chk 3 false s) = (.ok (), s1)) : wickRun w [] x s = wickRetire w s1 := by
  have hgo : (do galleryGate []; x g l : M Unit).go (chk 3 false s) = (.ok (), s1) := by rw [go_galleryGate_nil_bind, hx]
  unfold wickRun
  rw [hk]
  change (match (do galleryGate []; x g l : M Unit).go (chk 3 false s) with
    | (.error f, s1) => wickFail w g l f s1
    | (.ok _, s1) => wickRetire w s1) = _
  rw [hgo]

/-- R82: an instruction without an upset that fails stops the pair. -/
theorem wickRun_error {w : WickRef} {x : Eng → Latched → M Unit} {s s1 : State} {g : Eng} {l : Latched} {f : Fail}
    (hk : inKernel s w = some (g, l)) (hx : (x g l).go (chk 3 false s) = (.error f, s1)) : wickRun w [] x s = wickFail w g l f s1 := by
  have hgo : (do galleryGate []; x g l : M Unit).go (chk 3 false s) = (.error f, s1) := by rw [go_galleryGate_nil_bind, hx]
  unfold wickRun
  rw [hk]
  change (match (do galleryGate []; x g l : M Unit).go (chk 3 false s) with
    | (.error f, s1) => wickFail w g l f s1
    | (.ok _, s1) => wickRetire w s1) = _
  rw [hgo]

theorem wickNext_ok {w : WickRef} {x : Eng → Latched → M Unit} {s s1 : State} {g : Eng} {l : Latched} (hk : inKernel s w = some (g, l))
    (hx : (x g l).go (chk 3 false s) = (.ok (), s1)) : wickNext w [] x s = wickRetire w (putW w (advance 4 (wOf s1 w)) s1) :=
  wickRun_ok hk ((go_bind_ok hx).trans (go_wickMod ..))

theorem wickNext_error {w : WickRef} {x : Eng → Latched → M Unit} {s s1 : State} {g : Eng} {l : Latched} {f : Fail}
    (hk : inKernel s w = some (g, l)) (hx : (x g l).go (chk 3 false s) = (.error f, s1)) : wickNext w [] x s = wickFail w g l f s1 :=
  wickRun_error hk (go_bind_error hx)

/-! ### Scalar forms -/

/-- R94: a scalar form writes rd, and the pc goes on. -/
theorem wOf_scalarRun {w : WickRef} {s : State} {gl : Eng × Latched} (hk : inKernel s w = some gl) (rd : Fin 32) (f : Wick → W64) :
    wOf (scalarRun w [] rd f s) w = advance 4 (xw rd (f (wOf s w)) (wOf s w)) := by
  unfold scalarRun
  rw [wickNext_ok hk (go_wickMod ..), wOf_wickRetire, wOf_putW_same, wOf_putW_same, wOf_chk]

theorem wickRetire_frame (w : WickRef) (s : State) : wickRetire w s = { s with regs := (wickRetire w s).regs } := regAdd64_frame ..

/-- R80, R81: a form that changes its pair's registers alone, and retires. -/
theorem wickRetire_putW_frame (w : WickRef) (k j : Wick) (s : State) :
    wickRetire w (putW w k (putW w j (chk 3 false s))) = { s with
      wicks := (wickRetire w (putW w k (putW w j (chk 3 false s)))).wicks
      regs := (wickRetire w (putW w k (putW w j (chk 3 false s)))).regs
      led := (wickRetire w (putW w k (putW w j (chk 3 false s)))).led } := by
  rw [wickRetire_frame]
  rfl

theorem scalarRun_frame {w : WickRef} {s : State} {gl : Eng × Latched} (hk : inKernel s w = some gl) (rd : Fin 32) (f : Wick → W64) :
    scalarRun w [] rd f s = { s with
      wicks := (scalarRun w [] rd f s).wicks, regs := (scalarRun w [] rd f s).regs, led := (scalarRun w [] rd f s).led } := by
  unfold scalarRun
  rw [wickNext_ok hk (go_wickMod ..)]
  exact wickRetire_putW_frame ..

theorem wOf_scalarRun_other {w v : WickRef} {s : State} {gl : Eng × Latched} (hk : inKernel s w = some gl) (rd : Fin 32)
    (f : Wick → W64) (hv : v ≠ w) : wOf (scalarRun w [] rd f s) v = wOf s v := by
  unfold scalarRun
  rw [wickNext_ok hk (go_wickMod ..), wOf_wickRetire, wOf_putW_other _ _ hv, wOf_putW_other _ _ hv, wOf_chk]

/-- A register write changes the registers alone. -/
theorem xw_frame (i : Fin 32) (v : W64) (k : Wick) : xw i v k = { k with x := (xw i v k).x } := by
  unfold xw
  split <;> rfl

theorem xr_xw (i : Fin 32) (v : W64) (k : Wick) : xr (xw i v k) i = if i.val = 0 then 0 else v := by
  split
  case isTrue h => simp [xr, h]
  case isFalse h => exact xr_xw_same v k h

/-! ### Residues -/

theorem res_natCast (x : Int) : (res x : Int) = x % (tallyP : Int) := Int.toNat_of_nonneg (Int.emod_nonneg x (by decide))

/-- R94: a residue of a value that is congruent to a number is that number's residue. -/
theorem res_eq_of_emod_eq {n : Nat} {x : Int} (h : (n : Int) % (tallyP : Int) = x % (tallyP : Int)) : n % tallyP = res x := by
  have hcast : ((n % tallyP : Nat) : Int) = (res x : Int) := by rw [res_natCast, ← h, Int.natCast_mod]
  exact Int.natCast_inj.1 hcast

theorem res_add (x y : Int) : (res x + res y) % tallyP = res (x + y) := by
  refine res_eq_of_emod_eq ?_
  rw [Int.natCast_add, res_natCast, res_natCast, ← Int.add_emod]

theorem res_mul (x y : Int) : res x * res y % tallyP = res (x * y) := by
  refine res_eq_of_emod_eq ?_
  rw [Int.natCast_mul, res_natCast, res_natCast, ← Int.mul_emod]

theorem res_mul_natCast (x : Int) (n : Nat) : res x * n % tallyP = res (x * n) := by
  refine res_eq_of_emod_eq ?_
  rw [Int.natCast_mul, res_natCast, Int.mul_emod, Int.emod_emod_of_dvd _ (dvd_refl _), ← Int.mul_emod]

/-- Settles O20: each form is a scalar form whose value is the residue of its sum, product or shift. -/
theorem tallyArithmetic : Obligations.TallyArithmetic := by
  unfold Obligations.TallyArithmetic
  intro w rd rs1 rs2 s gl hk k c v hmem
  have hform : ∃ f : Wick → W64, exec c s = .next (scalarRun w [] rd f s) ∧ f k = BitVec.ofNat 64 (res v) := by
    simp only [List.mem_cons, Prod.mk.injEq, List.not_mem_nil, or_false] at hmem
    obtain ⟨rfl, rfl⟩ | ⟨rfl, rfl⟩ | ⟨rfl, rfl⟩ | ⟨rfl, rfl⟩ := hmem
    · exact ⟨_, rfl, rfl⟩
    · exact ⟨_, rfl, congrArg _ (res_add ..)⟩
    · exact ⟨_, rfl, congrArg _ (res_mul ..)⟩
    · refine ⟨_, rfl, congrArg _ ((res_mul_natCast ..).trans ?_)⟩
      push_cast
      rfl
  obtain ⟨f, hexec, hf⟩ := hform
  have hw := wOf_scalarRun hk rd f
  refine ⟨_, hexec, ?_, fun r hr => ?_, ?_, scalarRun_frame hk rd f, fun u hu => wOf_scalarRun_other hk rd f hu⟩
  · rw [hw]
    change xr (xw rd (f k) k) rd = _
    rw [xr_xw, hf]
    rfl
  · rw [hw]
    exact xr_xw_other _ _ hr
  · rw [hw]
    change advance 4 (xw rd (f k) k) = _
    rw [xw_frame]
    rfl

end Sys2Proof.Machine
end

section
/-! A pair that fails (R70, R82, R92, R110), and the vector and conversion forms of Xseltar (R94, R97 to R100). -/

namespace Sys2Proof.Machine

/-! ### A unit that fails -/

/-- R70, R82, R140: a failing engine in its parts: event words and messages, the stopped engine, and the detected fault. -/
theorem engFail_parts (g : Eng) (top pos : Nat) (f : Fail) (s : State) : ∃ rg o u,
    engFail g top pos f s = detect f.code u f.tile
      (putEng g { engOf s g with stopped := true, pos := pos, waiting := none } { s with regs := rg, out := o }) := by
  have hevent (code a b c : Nat) (t : State) : ∃ rg o, raiseEng g code a b c t = { t with regs := rg, out := o } :=
    ⟨_, _, raiseEng_frame ..⟩
  have hraise : ∃ rg o, (if f.also = 0 then raiseEng g f.code (f.code + top * 2 ^ 16) (engCaps g pos f).1 (engCaps g pos f).2 s
      else raiseEng g f.also (f.also + top * 2 ^ 16) (engCaps g pos f).1 (engCaps g pos f).2
        (raiseEng g f.code (f.code + top * 2 ^ 16) (engCaps g pos f).1 (engCaps g pos f).2 s)) = { s with regs := rg, out := o } := by
    obtain ⟨rg, o, hone⟩ := hevent f.code (f.code + top * 2 ^ 16) (engCaps g pos f).1 (engCaps g pos f).2 s
    rw [hone]
    split
    · exact ⟨rg, o, rfl⟩
    · exact hevent ..
  obtain ⟨rg, o, hraise⟩ := hraise
  unfold engFail
  dsimp only
  rw [hraise]
  split
  · exact ⟨_, o, _, rfl⟩
  · split
    · exact ⟨_, o, _, rfl⟩
    · exact ⟨rg, o, _, rfl⟩

theorem engFail_eng (g : Eng) (top pos : Nat) (f : Fail) (s : State) :
    engOf (engFail g top pos f s) g = { engOf s g with stopped := true, pos := pos, waiting := none } := by
  obtain ⟨rg, o, u, h⟩ := engFail_parts g top pos f s
  rw [h]
  exact engOf_putEng_same ..

/-- R355: the fault of a failing engine is the last detected one. -/
theorem engFail_faults (g : Eng) (top pos : Nat) (f : Fail) (s : State) :
    (engFail g top pos f s).recov.faults.map FaultRec.code = s.recov.faults.map FaultRec.code ++ [f.code] := by
  obtain ⟨rg, o, u, h⟩ := engFail_parts g top pos f s
  rw [h, detect_faults, List.map_append]
  rfl

theorem runBad_eng (g : Eng) (l : Latched) (f : Fail) (s : State) :
    engOf (runBad g l f s) g = { engOf s g with stopped := true, pos := l.pos, waiting := none } := engFail_eng ..

theorem runBad_faults (g : Eng) (l : Latched) (f : Fail) (s : State) :
    (runBad g l f s).recov.faults.map FaultRec.code = s.recov.faults.map FaultRec.code ++ [f.code] := engFail_faults ..

theorem runBad_frame (g : Eng) (l : Latched) (f : Fail) (s : State) :
    runBad g l f s = { s with
      regs := (runBad g l f s).regs, out := (runBad g l f s).out, engs := (runBad g l f s).engs, recov := (runBad g l f s).recov } :=
  engFail_frame ..

/-! ### A pair that fails -/

theorem withRegs_self (s : State) : { s with regs := s.regs } = s := rfl

theorem regPut64_twice_frame (a b v u : Nat) (s : State) :
    regPut64 a v (regPut64 b u s) = { s with regs := (regPut64 a v (regPut64 b u s)).regs } := rfl

/-- R110: a failing pair in its parts: it leaves its kernel, its engine fails, and the captures of its page fill in. -/
theorem wickFail_parts (w : WickRef) (g : Eng) (l : Latched) (f : Fail) (s : State) : ∃ f' rg, f'.code = f.code ∧
    wickFail w g l f s = { runBad g l f' (putW w { wOf s w with inKernel := false } s) with regs := rg } := by
  refine ⟨{ f with
      detail := (if [0x2071, 0x2072, 0x2074, 0x2030].contains f.code then f.detail % 2 ^ 16 else 0) + (wOf s w).inv % 2 ^ 16 * 2 ^ 16
      row := 0 }, ?_⟩
  unfold wickFail
  dsimp only
  split
  · exact ⟨_, rfl, regPut64_twice_frame ..⟩
  · exact ⟨_, rfl, (withRegs_self _).symm⟩

theorem wickFail_eng_stopped (w : WickRef) (g : Eng) (l : Latched) (f : Fail) (s : State) :
    (engOf (wickFail w g l f s) g).stopped = true := by
  obtain ⟨f', rg, -, h⟩ := wickFail_parts w g l f s
  rw [h]
  exact congrArg Engine.stopped (runBad_eng ..)

theorem wickFail_faults (w : WickRef) (g : Eng) (l : Latched) (f : Fail) (s : State) :
    (wickFail w g l f s).recov.faults.map FaultRec.code = s.recov.faults.map FaultRec.code ++ [f.code] := by
  obtain ⟨f', rg, hcode, h⟩ := wickFail_parts w g l f s
  rw [h, ← hcode]
  exact runBad_faults ..

/-- R82: a failing pair keeps its registers. -/
theorem wOf_wickFail (w : WickRef) (g : Eng) (l : Latched) (f : Fail) (s : State) :
    wOf (wickFail w g l f s) w = { wOf s w with inKernel := false } := by
  obtain ⟨f', rg, -, h⟩ := wickFail_parts w g l f s
  rw [h, runBad_frame]
  exact wOf_putW_same ..

theorem wickFail_frame (w : WickRef) (g : Eng) (l : Latched) (f : Fail) (s : State) :
    wickFail w g l f s = { s with
      regs := (wickFail w g l f s).regs, out := (wickFail w g l f s).out, engs := (wickFail w g l f s).engs
      recov := (wickFail w g l f s).recov, wicks := (wickFail w g l f s).wicks } := by
  obtain ⟨f', rg, -, h⟩ := wickFail_parts w g l f s
  rw [h, runBad_frame]
  rfl

/-! ### Vector forms -/

/-- R94: a vector form at SEW 32 changes its pair, and the pc goes on. -/
theorem wOf_vecRun {w : WickRef} {s : State} {gl : Eng × Latched} (hk : inKernel s w = some gl) (hvec : vecOk (wOf s w) = true)
    (f : State → Wick → Wick) : wOf (vecRun w [] f s) w = advance 4 (f (chk 3 false s) (wOf s w)) := by
  have hgo : (do let s ← get; if vecOk (wOf s w) then wickMod w (f s) else illegal : M Unit).go (chk 3 false s) =
      (.ok (), putW w (f (chk 3 false s) (wOf s w)) (chk 3 false s)) := by
    rw [go_get_bind, wOf_chk, if_pos hvec, go_wickMod, wOf_chk]
  unfold vecRun
  rw [wickNext_ok hk hgo, wOf_wickRetire, wOf_putW_same, wOf_putW_same]

/-- R94: the failure of an illegal instruction. -/
def illegalTrap : Fail := { code := 0x2071, tile := none, detail := 2, row := 0 }

theorem go_illegal (s : State) : illegal.go s = (.error illegalTrap, s) := rfl

/-- R94: a vector form at another SEW is illegal. -/
theorem vecRun_illegal {w : WickRef} {s : State} {g : Eng} {l : Latched} (hk : inKernel s w = some (g, l)) (hvec : vecOk (wOf s w) = false)
    (f : State → Wick → Wick) : vecRun w [] f s = wickFail w g l illegalTrap (chk 3 false s) := by
  refine wickNext_error hk ?_
  rw [go_get_bind, wOf_chk, hvec]
  exact go_illegal _

/-- R100: a conversion under a well-formed rs1 changes its pair, and the pc goes on. -/
theorem wOf_cvtRun {w : WickRef} {rs1 : Fin 32} {s : State} {gl : Eng × Latched} (hk : inKernel s w = some gl)
    (hvec : vecOk (wOf s w) = true) (hcvt : cvtOk (xr (wOf s w) rs1).toNat = true) (f : Nat → State → Wick → Wick) :
    wOf (cvtRun w [] rs1 f s) w = advance 4 (f (xr (wOf s w) rs1).toNat (chk 3 false s) (wOf s w)) := by
  have hok : ¬(!vecOk (wOf s w) || !cvtOk (xr (wOf s w) rs1).toNat) = true := by simp [hvec, hcvt]
  unfold cvtRun
  rw [wickNext_ok (s1 := { putW w (f (xr (wOf s w) rs1).toNat (chk 3 false s) (wOf s w)) (chk 3 false s) with free := s.free + 128 }) hk,
    wOf_wickRetire, wOf_putW_same]
  · exact congrArg (advance 4) (wOf_putW_same ..)
  · rw [go_get_bind]
    dsimp only
    rw [wOf_chk, if_neg hok, go_bind_ok (go_wickMod ..), wOf_chk]
    rfl

theorem cvtRun_illegal {w : WickRef} {rs1 : Fin 32} {s : State} {g : Eng} {l : Latched} (hk : inKernel s w = some (g, l))
    (hvec : vecOk (wOf s w) = false) (f : Nat → State → Wick → Wick) :
    cvtRun w [] rs1 f s = wickFail w g l illegalTrap (chk 3 false s) := by
  have hbad : (!vecOk (wOf s w) || !cvtOk (xr (wOf s w) rs1).toNat) = true := by simp [hvec]
  refine wickNext_error hk ?_
  rw [go_get_bind]
  dsimp only
  rw [wOf_chk, if_pos hbad]
  exact go_illegal _

/-- R94: what an illegal instruction leaves of its pair and engine. -/
theorem wickFail_illegal (w : WickRef) (g : Eng) (l : Latched) (s : State) :
    let t := wickFail w g l illegalTrap (chk 3 false s)
    (engOf t g).stopped = true ∧ (wOf t w).inKernel = false ∧ (wOf t w).x = (wOf s w).x ∧ (wOf t w).v = (wOf s w).v ∧
      (wOf t w).pc = (wOf s w).pc ∧ t.recov.faults.map FaultRec.code = s.recov.faults.map FaultRec.code ++ [0x2071] := by
  intro t
  have hw : wOf t w = { wOf s w with inKernel := false } := (wOf_wickFail ..).trans (by rw [wOf_chk])
  rw [hw]
  exact ⟨wickFail_eng_stopped .., rfl, rfl, rfl, rfl, wickFail_faults ..⟩

/-- R99: the index of the extreme element, from a base; all ones where there is none. -/
theorem redArg_eq (a : W64) (r : Option (Nat × Nat)) :
    (match r with
      | some (i, _) => a + BitVec.ofNat 64 i
      | none => BitVec.allOnes 64) = (r.map fun e => a + BitVec.ofNat 64 e.1).getD (BitVec.allOnes 64) := by
  cases r <;> rfl

theorem vputElem_pc (r n j v : Nat) (k : Wick) : (vputElem r n j v k).pc = k.pc := by
  unfold vputElem
  dsimp only
  split
  · rfl
  · rfl

theorem vputAll_pc (r n : Nat) (vs : List Nat) (k : Wick) : (vputAll r n vs k).pc = k.pc :=
  List.foldlRecOn _ _ (motive := fun t : Wick => t.pc = k.pc) rfl fun _ ht _ _ => (vputElem_pc ..).trans ht

theorem xw_pc (i : Fin 32) (v : W64) (k : Wick) : (xw i v k).pc = k.pc := by rw [xw_frame]

theorem advance_eq {j k : Wick} (h : j.pc = k.pc) : advance 4 j = { j with pc := k.pc + 4 } := by
  rw [← h]
  rfl

/-- Settles O22: each form is a vector form or a conversion, which changes the pair at SEW 32 and is illegal elsewhere. -/
theorem vectorForms : Obligations.VectorForms := by
  unfold Obligations.VectorForms
  refine ⟨?runs, ?traps⟩
  case runs =>
    intro w vd rd vs2 rs1 rs2 s gl hk k xs c a hvec
    have vector {i : Instr} (f : State → Wick → Wick) (hexec : exec i s = .next (vecRun w [] f s)) {j : Wick}
        (hf : f (chk 3 false s) k = j) (hpc : j.pc = k.pc) : ∃ t, exec i s = .next t ∧ wOf t w = { j with pc := k.pc + 4 } :=
      ⟨_, hexec, by rw [wOf_vecRun hk hvec, hf, advance_eq hpc]⟩
    refine ⟨fun i n vs hmem => ?toVector, fun i v hmem => ?toScalar, fun hcvt hfmt => ?convert⟩
    case toVector =>
      simp only [List.mem_cons, Prod.mk.injEq, List.not_mem_nil, or_false] at hmem
      obtain ⟨rfl, rfl, rfl⟩ | ⟨rfl, rfl, rfl⟩ | ⟨rfl, rfl, rfl⟩ := hmem
      · refine vector _ rfl ?_ (vputAll_pc ..)
        dsimp only [c]
        cases tget? k.curves ((xr k rs1).toNat % 16) <;> rfl
      · exact vector _ rfl rfl (vputAll_pc ..)
      · refine vector _ rfl ?_ (vputAll_pc ..)
        rw [rngWords, List.map_map]
        rfl
    case toScalar =>
      simp only [List.mem_cons, Prod.mk.injEq, List.not_mem_nil, or_false] at hmem
      obtain ⟨rfl, rfl⟩ | ⟨rfl, rfl⟩ | ⟨rfl, rfl⟩ | ⟨rfl, rfl⟩ | ⟨rfl, rfl⟩ := hmem
      · exact vector _ rfl rfl (xw_pc ..)
      · exact vector _ rfl rfl (xw_pc ..)
      · exact vector _ rfl (congrArg (fun v => xw rd v k) (redArg_eq a (redExt true xs))) (xw_pc ..)
      · exact vector _ rfl (congrArg (fun v => xw rd v k) (redArg_eq a (redExt false xs))) (xw_pc ..)
      · exact vector _ rfl rfl (xw_pc ..)
    case convert =>
      have conversion {i : Instr} (f : Nat → State → Wick → Wick) (hexec : exec i s = .next (cvtRun w [] rs1 f s)) {j : Wick}
          (hf : f c (chk 3 false s) k = j) (hpc : j.pc = k.pc) : ∃ t, exec i s = .next t ∧ wOf t w = { j with pc := k.pc + 4 } :=
        ⟨_, hexec, by rw [wOf_cvtRun hk hvec hcvt, hf, advance_eq hpc]⟩
      refine ⟨conversion _ rfl (if_pos hfmt) (vputAll_pc ..), conversion _ rfl (if_pos hfmt) (vputAll_pc ..), fun hmx hvl => ?_⟩
      exact conversion _ rfl (if_pos (by simp [hfmt, hmx, hvl])) (xw_pc ..)
  case traps =>
    intro w vd rd vs2 rs1 rs2 s g l hk hvec i hi
    have htrap : exec i s = .next (wickFail w g l illegalTrap (chk 3 false s)) := by
      simp only [List.mem_cons, List.not_mem_nil, or_false] at hi
      obtain rfl | rfl | rfl | rfl | rfl | rfl | rfl | rfl | rfl | rfl | rfl := hi
      iterate 8 exact congrArg Host.Outcome.next (vecRun_illegal hk hvec _)
      all_goals exact congrArg Host.Outcome.next (cvtRun_illegal hk hvec _)
    exact ⟨_, htrap, wickFail_illegal w g l s⟩

end Sys2Proof.Machine
end

section
/-! Fetched instructions, ecall and push stores of a Wick pair (R80 to R82, R92, R103, R104). -/

namespace Sys2Proof.Machine

/-! ### The standard instructions -/

/-- R80: a plan that loads and stores nothing commits its registers. -/
theorem go_planRun {w : WickRef} {g : Eng} {l : Latched} {p : RvPlan} {r : Rv} {vec : Bool} (hloads : p.loads = [])
    (hact : p.act [] = .done r [] vec) (s : State) : (planRun w g l p).go s = (.ok (), putW w (withRv r (wOf s w)) s) := by
  unfold planRun
  rw [hloads, List.mapM_nil, go_bind_ok (go_pure [] s), hact]
  rfl

/-- R80: a pair that runs an instruction of the standard sets which is no CSR access and whose plan loads and stores nothing. -/
theorem go_stdRun {w : WickRef} {g : Eng} {l : Latched} {n len word : Nat} {p : RvPlan} {r : Rv} {vec : Bool} {s : State}
    (hword : len = 2 ∧ rvExpand n = some word ∨ len = 4 ∧ word = n) (hcsr : isCsr word = false)
    (hplan : rvPlan s.free (fun a => regionOf w.st a = .none) word (wOf s w).pc.toNat
      { toRv (wOf s w) with pc := ((wOf s w).pc.toNat + len) % 2 ^ 64 } = some p)
    (hloads : p.loads = []) (hact : p.act [] = .done r [] vec) :
    ∃ fr, (stdRun w n len g l).go s = (.ok (), { putW w (withRv r (wOf s w)) s with free := fr }) := by
  have hexpand : (if len = 2 then rvExpand n else some n) = some word := by
    obtain ⟨rfl, h⟩ | ⟨rfl, rfl⟩ := hword
    · exact h
    · rfl
  unfold stdRun
  rw [go_get_bind]
  dsimp only
  rw [hexpand]
  dsimp only
  rw [hcsr, if_neg (by decide), hplan]
  dsimp only
  rw [go_bind_ok (go_planRun hloads hact s)]
  split
  · exact ⟨_, rfl⟩
  · exact ⟨s.free, rfl⟩

/-- R80: a word that is neither ecall nor Xseltar is one of the standard sets. -/
theorem exec_wickInstruction_std {w : WickRef} {s : State} {n len : Nat} (hfetch : fetched (wOf s w) = some (n, len))
    (hecall : ¬(len = 4 ∧ n = 0x73)) (hxs : len = 4 → decodeXseltar w n [] = none) :
    exec (.wickInstruction w [] false false []) s = .next (wickRun w [] (stdRun w n len) s) := by
  have hxs' : (if len = 4 then decodeXseltar w n [] else none) = none := by
    split
    case isTrue h => exact hxs h
    case isFalse => rfl
  change wickAt w [] s = _
  unfold wickAt
  rw [hfetch]
  dsimp only
  rw [if_neg (by simpa using hecall), hxs']

theorem wickRetire_withFree_frame (w : WickRef) (k : Wick) (fr : Nat) (s : State) :
    wickRetire w { putW w k (chk 3 false s) with free := fr } = { s with
      wicks := (putW w k s).wicks, regs := (wickRetire w { putW w k (chk 3 false s) with free := fr }).regs
      led := (chk 3 false s).led, free := fr } := by
  rw [wickRetire_frame]
  rfl

/-- R80 to R82: a standard instruction commits its plan's registers, and nothing else in the module changes. -/
theorem exec_wickInstruction_commits {w : WickRef} {s : State} {g : Eng} {l : Latched} {n len word : Nat} {p : RvPlan} {r : Rv} {vec : Bool}
    (hk : inKernel s w = some (g, l)) (hfetch : fetched (wOf s w) = some (n, len)) (hecall : ¬(len = 4 ∧ n = 0x73))
    (hxs : len = 4 → decodeXseltar w n [] = none) (hword : len = 2 ∧ rvExpand n = some word ∨ len = 4 ∧ word = n)
    (hcsr : isCsr word = false)
    (hplan : rvPlan s.free (fun a => regionOf w.st a = .none) word (wOf s w).pc.toNat
      { toRv (wOf s w) with pc := ((wOf s w).pc.toNat + len) % 2 ^ 64 } = some p)
    (hloads : p.loads = []) (hact : p.act [] = .done r [] vec) :
    ∃ t, exec (.wickInstruction w [] false false []) s = .next t ∧ wOf t w = withRv r (wOf s w) ∧ (∀ v, v ≠ w → wOf t v = wOf s v) ∧
      t = { s with wicks := t.wicks, regs := t.regs, led := t.led, free := t.free } := by
  obtain ⟨fr, hgo⟩ := go_stdRun (g := g) (l := l) (s := chk 3 false s) hword hcsr (by rwa [wOf_chk]) hloads hact
  rw [wOf_chk] at hgo
  have hframe := wickRetire_withFree_frame w (withRv r (wOf s w)) fr s
  refine ⟨_, (exec_wickInstruction_std hfetch hecall hxs).trans (congrArg _ (wickRun_ok hk hgo)), ?_, fun v hv => ?_, ?_⟩
  · rw [wOf_wickRetire]
    exact wOf_putW_same ..
  · rw [wOf_wickRetire]
    exact wOf_putW_other _ _ hv
  · rw [hframe]

/-! ### ADD -/

/-- R80: the word of ADD over three registers. -/
def addWord (rd rs1 rs2 : Fin 32) : Nat := 0x33 + 2 ^ 7 * rd.val + 2 ^ 15 * rs1.val + 2 ^ 20 * rs2.val

theorem addWord_fields (rd rs1 rs2 : Fin 32) : bits (addWord rd rs1 rs2) 6 0 = 0x33 ∧ bits (addWord rd rs1 rs2) 11 7 = rd.val ∧
    bits (addWord rd rs1 rs2) 14 12 = 0 ∧ bits (addWord rd rs1 rs2) 19 15 = rs1.val ∧ bits (addWord rd rs1 rs2) 24 20 = rs2.val ∧
    bits (addWord rd rs1 rs2) 31 25 = 0 := by
  have hd := rd.isLt
  have h1 := rs1.isLt
  have h2 := rs2.isLt
  unfold bits addWord
  omega

theorem decodeXseltar_addWord (w : WickRef) (rd rs1 rs2 : Fin 32) : decodeXseltar w (addWord rd rs1 rs2) [] = none := by
  have hop : addWord rd rs1 rs2 % 128 = 0x33 := by
    unfold addWord
    omega
  simp [decodeXseltar, hop]

/-- R80: ADD puts the sum of its operands into its destination. -/
theorem rvPlan_addWord (fr : Nat) (fault : Nat → Bool) (rd rs1 rs2 : Fin 32) (pc : Nat) (r : Rv) :
    rvPlan fr fault (addWord rd rs1 rs2) pc r = some (rvPure (setX rd.val (rx r rs1.val + rx r rs2.val) r)) := by
  obtain ⟨hop, hrd, hf3, hrs1, hrs2, hf7⟩ := addWord_fields rd rs1 rs2
  simp [rvPlan, rvScalar, hop, hrd, hf3, hrs1, hrs2, hf7, opReg]

theorem rx_toRv (k : Wick) (i : Fin 32) : rx (toRv k) i.val = (xr k i).toNat := by
  unfold rx xr
  split <;> rfl

/-- R80: the pair after ADD: a register write, and the pc goes on. -/
theorem withRv_add (rd rs1 rs2 : Fin 32) (k : Wick) :
    withRv (setX rd.val (rx (toRv k) rs1.val + rx (toRv k) rs2.val) { toRv k with pc := (k.pc.toNat + 4) % 2 ^ 64 }) k =
      advance 4 (xw rd (xr k rs1 + xr k rs2) k) := by
  have hsum : BitVec.ofNat 64 ((xr k rs1).toNat + (xr k rs2).toNat) = xr k rs1 + xr k rs2 := by
    rw [BitVec.ofNat_add, BitVec.ofNat_toNat, BitVec.ofNat_toNat, BitVec.setWidth_eq, BitVec.setWidth_eq]
  have hpc : BitVec.ofNat 64 ((k.pc.toNat + 4) % 2 ^ 64) = k.pc + BitVec.ofNat 64 4 := by
    apply BitVec.eq_of_toNat_eq
    simp [BitVec.toNat_add]
  rw [rx_toRv, rx_toRv]
  unfold setX xw
  rw [hsum]
  split <;>
  · unfold withRv advance
    dsimp only
    rw [hpc]
    rfl

/-! ### Cores that differ -/

/-- R81, R82: whatever a pair runs, a commit that the cores do not share stops it with 0x2002. -/
def differingCommit : Fail := { code := 0x2002, tile := none, detail := 0, row := 0 }

theorem wickRun_compare {w : WickRef} {s : State} {g : Eng} {l : Latched} (hk : inKernel s w = some (g, l)) (x : Eng → Latched → M Unit) :
    wickRun w [.compare] x s = wickFail w g l differingCommit (chk 3 true s) := by
  unfold wickRun
  rw [hk]
  rfl

theorem ecallStep_compare {w : WickRef} {s : State} {g : Eng} {l : Latched} (hk : inKernel s w = some (g, l)) :
    ecallStep w [.compare] s = wickFail w g l differingCommit (chk 3 true s) := by
  unfold ecallStep
  rw [hk]
  rfl

/-- R94: every Xseltar instruction that a pair fetches is a run of that pair. -/
theorem xseltarRun_decoded {w : WickRef} {n : Nat} {us : List Upset} {i : Instr} (h : decodeXseltar w n us = some i) (s : State) :
    ∃ x, xseltarRun i s = .next (wickRun w us x s) := by
  unfold decodeXseltar at h
  dsimp only at h
  repeat' split at h
  all_goals simp only [Option.some.injEq, reduceCtorEq] at h
  all_goals
    subst h
    exact ⟨_, rfl⟩

theorem exec_wickInstruction_differ {w : WickRef} {s : State} {g : Eng} {l : Latched} {n len : Nat} {c0 c1 : Bool}
    (hk : inKernel s w = some (g, l)) (hfetch : fetched (wOf s w) = some (n, len)) (hdiffer : (c0 || c1) = true) :
    exec (.wickInstruction w [] c0 c1 []) s = .next (wickFail w g l differingCommit (chk 3 true s)) := by
  have hstruck : wickStruck [] c0 c1 [] = [.compare] := by
    unfold wickStruck
    rw [hdiffer]
    rfl
  change wickAt w (wickStruck [] c0 c1 []) s = _
  rw [hstruck]
  unfold wickAt
  rw [hfetch]
  dsimp only
  split
  · rw [ecallStep_compare hk]
  · split
    case h_1 i hxs =>
      have hdecode : decodeXseltar w n [.compare] = some i := by
        split at hxs
        · exact hxs
        · cases hxs
      obtain ⟨x, hrun⟩ := xseltarRun_decoded hdecode s
      rw [hrun, wickRun_compare hk]
    case h_2 => rw [wickRun_compare hk]

/-- Settles O23: a standard instruction commits its plan, ADD is one whose plan is known, and a differing commit fails whatever runs. -/
theorem standardInstruction : Obligations.StandardInstruction := by
  unfold Obligations.StandardInstruction
  refine ⟨fun w s g l n len word p r vec hk => ?plan, fun w rd rs1 rs2 s gl hk => ?add, fun w s g l n len c0 c1 hk hfetch hdiffer => ?differ⟩
  case plan =>
    intro k hfetch hecall hxs hword hcsr hplan hloads hact
    exact exec_wickInstruction_commits hk hfetch hecall hxs hword hcsr hplan hloads hact
  case add =>
    intro k hfetch
    have hop := (addWord_fields rd rs1 rs2).1
    obtain ⟨t, hexec, hw, -, hframe⟩ := exec_wickInstruction_commits (n := addWord rd rs1 rs2) (word := addWord rd rs1 rs2) hk hfetch
      (fun h => absurd (h.2 ▸ hop) (by decide)) (fun _ => decodeXseltar_addWord ..) (Or.inr ⟨rfl, rfl⟩) (by simp [isCsr, hop])
      (rvPlan_addWord ..) rfl rfl
    have hadd := hw.trans (withRv_add rd rs1 rs2 k)
    refine ⟨t, hexec, ?_, fun q hq => ?_, ?_, ?_, ?_, ?_, by rw [hframe], by rw [hframe]⟩
    · rw [hadd]
      exact xr_xw ..
    · rw [hadd]
      exact xr_xw_other _ _ hq
    all_goals
      rw [hadd, xw_frame]
      rfl
  case differ =>
    refine ⟨_, exec_wickInstruction_differ hk hfetch hdiffer, ?_, wickFail_eng_stopped .., ?_, ?_, wickFail_faults ..⟩
    · rw [wOf_wickFail, wOf_chk]
    all_goals
      rw [wickFail_frame]
      rfl

/-! ### ecall -/

theorem exec_ecall {w : WickRef} {s : State} {g : Eng} {l : Latched} (hk : inKernel s w = some (g, l)) :
    exec (.ecall w []) s = .next (ecallRun w g l (chk 3 false s)) := by
  change execEcall w [] s = _
  unfold execEcall ecallStep
  rw [hk]
  rfl

/-- R92: what a failing ecall leaves. -/
theorem wickFail_ecall (w : WickRef) (g : Eng) (l : Latched) (f : Fail) (s : State) : let t := wickFail w g l f (chk 3 false s)
    (engOf t g).stopped = true ∧ (wOf t w).inKernel = false ∧
      t.recov.faults.map FaultRec.code = s.recov.faults.map FaultRec.code ++ [f.code] :=
  ⟨wickFail_eng_stopped .., by rw [wOf_wickFail], wickFail_faults ..⟩

/-- R92, R93: the last invocation of a kernel whose tiles are sealed ends its descriptor. -/
theorem ecallRun_last {w : WickRef} {g : Eng} {l : Latched} {s s1 : State} (ha7 : xr (wOf s w) 17 = 0)
    (hseal : (sealSet w g l).go s = (.ok (), s1)) (hlast : l.nseg ≤ l.seg + 1) : ecallRun w g l s =
      finish g { l with seg := l.seg + 1 } (let u := moveEntries g l (wickRetire w s1); putW w { wOf u w with inKernel := false } u) := by
  unfold ecallRun
  dsimp only
  rw [if_pos ha7]
  unfold endInvocation
  rw [hseal]
  exact if_pos hlast

/-- Settles O24: a7 selects the end of the invocation or one of two failures. -/
theorem ecallByA7 : Obligations.EcallByA7 := by
  unfold Obligations.EcallByA7
  intro w s g l hk s0 a7
  have hexec := exec_ecall hk
  refine ⟨fun s1 ha7 hseal hlast => ?ends, fun ha7 => ?aborts, fun h0 h1 => ?traps⟩
  case ends =>
    refine ⟨_, hexec.trans (congrArg _ (ecallRun_last (by rwa [wOf_chk]) hseal hlast)), ?_, ?_, ?_, ?_⟩
    · rw [finish_cur]
    · rw [finish_frame]
      exact congrArg Wick.inKernel (wOf_putW_same ..)
    all_goals
      rw [finish_frame]
      dsimp only
      rw [moveEntries_frame]
      rfl
  case aborts =>
    have hrun : ecallRun w g l s0 = wickFail w g l
        { code := 0x2072, tile := none, detail := (xr (wOf s0 w) 10).toNat % 2 ^ 16, row := 0 } s0 := by
      unfold ecallRun
      dsimp only
      rw [wOf_chk, if_neg (by rw [show xr (wOf s w) 17 = 1 from ha7]; decide), if_pos ha7]
    exact ⟨_, hexec.trans (congrArg _ hrun), wickFail_ecall ..⟩
  case traps =>
    have hrun : ecallRun w g l s0 = wickFail w g l { code := 0x2071, tile := none, detail := 8, row := 0 } s0 := by
      unfold ecallRun
      dsimp only
      rw [wOf_chk, if_neg h0, if_neg h1]
    exact ⟨_, hexec.trans (congrArg _ hrun), wickFail_ecall ..⟩

/-! ### Push stores -/

theorem wOf_enqueue (t : Eng) (d : List Byte) (s : State) (w : WickRef) : wOf (enqueue t d s) w = wOf s w := wOf_congr rfl w

theorem enqueue_queue (t : Eng) (d : List Byte) (s : State) : (engOf (enqueue t d s) t).queue = (engOf s t).queue ++ [d] :=
  congrArg Engine.queue (engOf_putEng_same ..)

theorem wickRetire_engs (w : WickRef) (s : State) : (wickRetire w s).engs = s.engs := by rw [wickRetire_frame]

theorem wickRetire_sram (w : WickRef) (s : State) : (wickRetire w s).sram = s.sram := by rw [wickRetire_frame]

/-- R103: a 64-byte store to a window of a pushed stream: the queue has room, or the store stalls. -/
theorem go_pushRun {w : WickRef} {off : Nat} {data : List Byte} {s : State} {k : Eng} (htarget : pushTarget s w.st off = .eng k)
    (hlen : data.length = 64) (hoff : off % 0x1000 = 0) (hpushed : (engOf s k).pushed = true) :
    (pushRun w off data true).go s = (.ok (),
      if 8 ≤ (engOf s k).queue.length then putW w { wOf s w with stalled := some (k, data) } s else enqueue k data s) := by
  unfold pushRun
  rw [go_get_bind, htarget]
  dsimp only
  rw [if_neg (by simp [hlen, hoff]), if_neg (by simp [hpushed])]
  split <;> rfl

/-- Settles O25: a push store enters its queue or stalls by the queue's length, and a stalled one enters when an entry frees. -/
theorem pushStoreEnqueues : Obligations.PushStoreEnqueues := by
  unfold Obligations.PushStoreEnqueues
  intro w addr off data s gl k
  refine ⟨fun hk hregion htarget hlen hoff hpushed => ?store, fun hstalled => ?room⟩
  case store =>
    have hgo := go_pushRun (s := chk 3 false s) htarget hlen hoff hpushed
    have hexec : exec (.pushStore ⟨w, []⟩ addr data true) s = .next (wickNext w [] (fun _ _ => pushRun w off data true) s) := by
      change execPushStore ⟨w, []⟩ addr data true s = _
      unfold execPushStore
      rw [hregion]
    refine ⟨fun hroom => ?_, fun hfull => ?_⟩
    · rw [if_neg (show ¬8 ≤ (engOf (chk 3 false s) k).queue.length from Nat.not_le.2 hroom)] at hgo
      refine ⟨_, hexec.trans (congrArg _ (wickNext_ok hk hgo)), ?_, ?_, ?_⟩
      · rw [engOf_congr (wickRetire_engs ..)]
        exact enqueue_queue ..
      · rw [wOf_wickRetire, wOf_putW_same, wOf_enqueue, wOf_chk]
        rfl
      · rw [wickRetire_sram]
        rfl
    · rw [if_pos (show 8 ≤ (engOf (chk 3 false s) k).queue.length from hfull)] at hgo
      refine ⟨_, hexec.trans (congrArg _ (wickNext_ok hk hgo)), ?_, ?_⟩
      · rw [wOf_wickRetire, wOf_putW_same, wOf_putW_same]
        rfl
      · rw [wickRetire_engs]
        rfl
  case room =>
    have hexec : exec (.pushQueueRoom w) s = .next (enqueue k data (putW w { wOf s w with stalled := none } s)) := by
      change execPushQueueRoom w s = _
      unfold execPushQueueRoom
      rw [hstalled]
    refine ⟨_, hexec, enqueue_queue .., ?_, rfl⟩
    rw [wOf_enqueue, wOf_putW_same]

end Sys2Proof.Machine
end

section
/-! What a computation leaves: a part of the state that is the same after it, whether it ends or fails; and with it the Tally instructions on
memory (R94, R95), whose checks leave the pc. -/

namespace Sys2Proof.Machine

/-! ### Computations that leave a part of the state -/

/-- A computation leaves a part of the state as it was, whether it ends or fails. -/
structure Leaves {α β : Type} (p : State → β) (m : M α) : Prop where
  snd : ∀ s, p (m.go s).2 = p s

section
variable {α β γ : Type} {p : State → β}

theorem Leaves.of_go {m : M α} (h : Leaves p m) {s t : State} {r : Except Fail α} (hgo : m.go s = (r, t)) : p t = p s := by
  have hs := h.snd s
  rwa [hgo] at hs

theorem leaves_pure (a : α) : Leaves p (pure a : M α) := ⟨fun _ => rfl⟩

theorem leaves_get : Leaves p (get : M State) := ⟨fun _ => rfl⟩

theorem leaves_throw (f : Fail) : Leaves p (throw f : M α) := ⟨fun _ => rfl⟩

theorem leaves_failM (code : Nat) (tile : Option (Nat × Nat)) (detail row : Nat) : Leaves p (failM code tile detail row : M α) := ⟨fun _ => rfl⟩

theorem leaves_modify {f : State → State} (h : ∀ s, p (f s) = p s) : Leaves p (modify f : M PUnit) := ⟨h⟩

theorem Leaves.bind {m : M α} {k : α → M γ} (hm : Leaves p m) (hk : ∀ a, Leaves p (k a)) : Leaves p (m >>= k) := by
  refine ⟨fun s => ?_⟩
  cases hgo : m.go s with
  | mk r t =>
    have ht : p t = p s := hm.of_go hgo
    cases r with
    | ok a =>
      rw [go_bind_ok hgo]
      exact ((hk a).snd t).trans ht
    | error f =>
      rw [go_bind_error hgo]
      exact ht

/-- A computation that reads the state may use what it read. -/
theorem leaves_get_bind {k : State → M γ} (hk : ∀ s, p ((k s).go s).2 = p s) : Leaves p (get >>= k) := by
  refine ⟨fun s => ?_⟩
  rw [go_get_bind]
  exact hk s

theorem leaves_ite {a b : M α} {c : Prop} [Decidable c] (ha : Leaves p a) (hb : Leaves p b) : Leaves p (if c then a else b) := by
  split
  · exact ha
  · exact hb

theorem leaves_forM {f : α → M PUnit} (h : ∀ x, Leaves p (f x)) (l : List α) : Leaves p (l.forM f) := by
  induction l with
  | nil => exact leaves_pure _
  | cons x l ih => exact Leaves.bind (h x) fun _ => ih

theorem leaves_tryCatch {m : M α} {k : Fail → M α} (hm : Leaves p m) (hk : ∀ f, Leaves p (k f)) : Leaves p (tryCatch m k) := by
  refine ⟨fun s => ?_⟩
  have hgo : (MonadExcept.tryCatch m k : M α).go s = match m.go s with
      | (Except.ok a, t) => (Except.ok a, t)
      | (Except.error f, t) => (k f).go t := by
    simp only [M.go, MonadExcept.tryCatch, tryCatchThe, MonadExceptOf.tryCatch, ExceptT.tryCatch]
    change StateT.run (m.run >>= _) s = _
    rw [StateT.run_bind]
    cases m.run.run s with
    | mk r t => cases r <;> rfl
  change p ((MonadExcept.tryCatch m k : M α).go s).2 = p s
  rw [hgo]
  cases h : m.go s with
  | mk r t =>
    have ht : p t = p s := hm.of_go h
    cases r with
    | ok a => exact ht
    | error f => exact ((hk f).snd t).trans ht

end

/-! ### Memory under its codes leaves the pairs -/

theorem sramCorrected_wicks (b : Bool) (a : Nat) (s : State) : (sramCorrected b a s).wicks = s.wicks := by
  unfold sramCorrected
  dsimp only
  split
  · rw [bumpFree_wicks, raise_frame]
    rfl
  · rfl

theorem sramWord_wicks (b : Bool) (a : Nat) (s : State) : (sramWord b a s).2.wicks = s.wicks := by
  unfold sramWord
  dsimp only
  split
  · rfl
  · split
    · exact sramCorrected_wicks ..
    · dsimp only
      rw [bumpFree_wicks, raise_frame]
      rfl

theorem dramCorrected_wicks (b : Bool) (a y : Nat) (s : State) : (dramCorrected b a y s).wicks = s.wicks := by
  unfold dramCorrected
  dsimp only
  split
  · rw [raise_frame]
    rfl
  · rfl

theorem dramWord_wicks (b : Bool) (a : Nat) (s : State) : (dramWord b a s).2.wicks = s.wicks := by
  unfold dramWord
  dsimp only
  split
  · rfl
  · refine (dramCorrected_wicks ..).trans ?_
    split <;> rfl
  · dsimp only
    rw [raise_frame]
    rfl

theorem sramCheck_wicks (n w : Nat) : Leaves State.wicks (sramCheck n w) := by
  induction n generalizing w with
  | zero => exact leaves_pure _
  | succ n ih =>
    refine leaves_get_bind fun s => ?_
    rw [go_set_bind]
    refine Eq.trans ?_ (sramWord_wicks false w s)
    split
    · exact (ih ..).snd _
    · rfl

theorem dramCheck_wicks (n w : Nat) : Leaves State.wicks (dramCheck n w) := by
  induction n generalizing w with
  | zero => exact leaves_pure _
  | succ n ih =>
    refine leaves_get_bind fun s => ?_
    rw [go_set_bind]
    refine Eq.trans ?_ (dramWord_wicks false w s)
    split
    · exact (ih ..).snd _
    · rfl

theorem readMem_wicks (space a n : Nat) : Leaves State.wicks (readMem space a n) := by
  unfold readMem
  refine leaves_ite (leaves_pure _) (leaves_ite ?_ ?_)
  · exact (dramCheck_wicks ..).bind fun _ => leaves_get.bind fun _ => leaves_pure _
  · exact (sramCheck_wicks ..).bind fun _ => leaves_get.bind fun _ => leaves_pure _

theorem pokeMem_wicks (space a : Nat) (bs : List Byte) (s : State) : (pokeMem space a bs s).wicks = s.wicks := by
  unfold pokeMem
  split
  · rfl
  · unfold dropWritebacks
    dsimp only
    split <;> rfl

theorem mergeCheck_wicks (a n : Nat) : Leaves State.wicks (mergeCheck a n) := by
  have hlast : Leaves State.wicks (if (a + n) % 8 = 0 then pure () else sramCheck 1 ((a + n - 1) / 8 * 8) : M Unit) :=
    leaves_ite (leaves_pure _) (sramCheck_wicks ..)
  exact leaves_ite hlast ((sramCheck_wicks ..).bind fun _ => hlast)

theorem writeMem_wicks (space a : Nat) (bs : List Byte) : Leaves State.wicks (writeMem space a bs) := by
  have hpoke : Leaves State.wicks (modify (pokeMem space a bs) : M Unit) := leaves_modify fun _ => pokeMem_wicks ..
  exact leaves_ite (leaves_pure _) (leaves_ite hpoke ((mergeCheck_wicks ..).bind fun _ => hpoke))

theorem verifyTile_wicks (st : Nat) (h : Handle) (addr j slot : Nat) : Leaves State.wicks (verifyTile st h addr j slot) := by
  unfold verifyTile
  refine leaves_get.bind fun s => ?_
  split
  · exact leaves_pure _
  · refine (readMem_wicks ..).bind fun _ => (readMem_wicks ..).bind fun _ => Leaves.bind (leaves_modify (f := chk _ _) fun _ => rfl) fun _ => ?_
    exact leaves_ite (leaves_pure _) (leaves_failM ..)

theorem sealTile_wicks (st : Nat) (h : Handle) (addr j slot : Nat) : Leaves State.wicks (sealTile st h addr j slot) := by
  unfold sealTile
  refine leaves_get.bind fun s => ?_
  split
  · exact leaves_pure _
  · exact (readMem_wicks ..).bind fun _ => (writeMem_wicks ..).bind fun _ => leaves_pure _

theorem sealOne_wicks (g : Eng) (l : Latched) (o : Opnd) (t : Nat) : Leaves State.wicks (sealOne g l o t) := by
  unfold sealOne
  refine (sealTile_wicks ..).bind fun r => ?_
  split
  · exact leaves_pure _
  · exact leaves_modify fun _ => rfl

theorem sealDirty_wicks (g : Eng) (l : Latched) (n : Nat) : Leaves State.wicks (sealDirty g l n) := by
  unfold sealDirty
  refine leaves_get.bind fun s => ?_
  split
  · exact leaves_pure _
  · exact sealOne_wicks ..

/-! ### What the checks of a kernel's accesses leave of its pair -/

/-- The pc of a pair, as a part of the state. -/
def pcOf (w : WickRef) (s : State) : W64 := (wOf s w).pc

/-- A computation that leaves the pairs leaves the pc. -/
theorem Leaves.pcOf {α : Type} {m : M α} (h : Leaves State.wicks m) (w : WickRef) : Leaves (pcOf w) m := ⟨fun s => congrArg Wick.pc (wOf_congr (h.snd s) w)⟩

/-- A change of the pair's record that leaves its pc. -/
theorem pcOf_putW {w : WickRef} {k : Wick} {s : State} (h : k.pc = (wOf s w).pc) : pcOf w (putW w k s) = pcOf w s := by
  unfold Machine.pcOf
  rw [wOf_putW_same, h]

theorem readTile_pc (w : WickRef) (g : Eng) (l : Latched) (t : Nat) : Leaves (pcOf w) (readTile w g l t) := by
  unfold readTile
  refine leaves_get.bind fun s => leaves_ite (leaves_pure _) ?_
  split
  · exact leaves_pure _
  · exact ((verifyTile_wicks ..).pcOf w).bind fun _ => leaves_modify fun _ => pcOf_putW rfl

theorem loadTiles_pc (w : WickRef) (g : Eng) (l : Latched) (a : Nat) (breach : Bool) (ts : List Nat) :
    Leaves (pcOf w) (loadTiles w g l a breach ts) :=
  leaves_tryCatch (leaves_forM (fun t => readTile_pc w g l t) ts) fun _ => leaves_throw _

theorem kLoad_pc (w : WickRef) (g : Eng) (l : Latched) (a n : Nat) : Leaves (pcOf w) (kLoad w g l a n) := by
  unfold kLoad
  refine leaves_get.bind fun s => leaves_ite (leaves_pure _) (leaves_ite ?_ ?_)
  · exact (leaves_failM ..).bind fun _ => leaves_pure _
  · split
    · exact leaves_ite ((leaves_failM ..).bind fun _ => leaves_pure _) (leaves_pure _)
    · exact leaves_pure _
    · refine (loadTiles_pc ..).bind fun _ => leaves_ite ((leaves_failM ..).bind fun _ => ?_) ?_
      · exact (readMem_wicks ..).pcOf w
      · exact (readMem_wicks ..).pcOf w
    · exact (leaves_failM ..).bind fun _ => leaves_pure _

theorem tileTally_pc (w : WickRef) (g : Eng) (l : Latched) (a : Nat) : Leaves (pcOf w) (tileTally w g l a) := by
  unfold tileTally
  dsimp only
  split
  · refine leaves_get.bind fun s => ?_
    split
    · exact (leaves_failM ..).bind fun _ => leaves_pure _
    · exact (readTile_pc ..).bind fun _ => ((readMem_wicks ..).pcOf w).bind fun _ => leaves_pure _
  · exact (leaves_failM ..).bind fun _ => leaves_pure _
  · exact (leaves_failM ..).bind fun _ => leaves_pure _

theorem wickMod_pc {w : WickRef} {f : Wick → Wick} (h : ∀ k, (f k).pc = k.pc) : Leaves (pcOf w) (wickMod w f) :=
  leaves_modify fun _ => pcOf_putW (h _)

theorem chkAt_pc (w : WickRef) (g : Eng) (l : Latched) (m : Nat) (c : Bool) : Leaves (pcOf w) (do
    if c then do
      sealDirty g l (m / 4096)
      wickMod w fun k => { k with dirty := k.dirty.filter (· != m / 4096) }
    wickMod w fun k => { k with verified := k.verified.filter (· != m / 4096) }
    readTile w g l m : M Unit) := by
  have hend : Leaves (pcOf w) (do
      wickMod w fun k => { k with verified := k.verified.filter (· != m / 4096) }
      readTile w g l m : M Unit) := by
    refine Leaves.bind ?_ fun _ => readTile_pc ..
    exact wickMod_pc fun _ => rfl
  refine leaves_ite (((sealDirty_wicks ..).pcOf w).bind fun _ => Leaves.bind ?_ fun _ => hend) hend
  exact wickMod_pc fun _ => rfl

theorem chkRun_pc (w : WickRef) (rd rs1 : Fin 32) (g : Eng) (l : Latched) : Leaves (pcOf w) (chkRun w rd rs1 g l) := by
  unfold chkRun
  refine leaves_ite (leaves_failM ..) (leaves_get.bind fun s => ?_)
  dsimp only
  split
  · exact leaves_ite ((leaves_failM ..).bind fun _ => chkAt_pc ..) (chkAt_pc ..)
  · exact leaves_failM ..
  · exact leaves_failM ..

/-! ### The statement -/

/-- R95: the residues summed one by one are the residue of the sum. -/
theorem foldl_res (f : Nat → Int) (l : List Nat) (a : Int) :
    l.foldl (fun t i => (t + res (f i)) % tallyP) (res a) = res (a + (l.map f).sum) := by
  induction l generalizing a with
  | nil => simp
  | cons i l ih => rw [List.foldl_cons, res_add, ih, List.map_cons, List.sum_cons, Int.add_assoc]

theorem res_zero : res 0 = 0 := by decide

theorem wickRetire_dram (w : WickRef) (s : State) : (wickRetire w s).dram = s.dram := by rw [wickRetire_frame]

/-- R95: tly.beta in its stated range. -/
theorem go_betaRun {w : WickRef} {rd rs1 rs2 rs3 : Fin 32} {g : Eng} {l : Latched} {s s1 s2 : State} {n fmt : Nat} {bs sc : List Byte}
    (hn : bits (xr (wOf s w) rs2).toNat 15 0 = n) (hfmt : bits (xr (wOf s w) rs2).toNat 20 16 = fmt)
    (hrange : 1 ≤ n ∧ n ≤ 1024 ∧ 1 ≤ fmt ∧ fmt ≤ 15) (hblk : bitAt (xr (wOf s w) rs2).toNat 21 = true → isMx fmt = true)
    (hrow : (kLoad w g l (xr (wOf s w) rs1).toNat (ceilDiv (n * elemBits fmt) 8)).go s = (.ok bs, s1))
    (hscale : if isMx fmt then (kLoad w g l (xr (wOf s w) rs3).toNat
        (ceilDiv n (if bitAt (xr (wOf s w) rs2).toNat 21 then 16 else 32))).go s1 = (.ok sc, s2) else sc = [] ∧ s2 = s1) :
    (betaRun w rd rs1 rs2 rs3 g l).go s = (.ok (), putW w (xw rd (BitVec.ofNat 64 (res
      ((List.range n).map fun i => alpha150 (betaElem fmt (bitAt (xr (wOf s w) rs2).toNat 21) bs sc i)).sum)) (wOf s2 w)) s2) := by
  obtain ⟨hn1, hn2, hf1, hf2⟩ := hrange
  have hin : ¬(n = 0 || 1024 < n || fmt = 0 || 15 < fmt || (bitAt (xr (wOf s w) rs2).toNat 21 && !isMx fmt)) = true := by
    have hb : (bitAt (xr (wOf s w) rs2).toNat 21 && !isMx fmt) = false := by
      cases h : bitAt (xr (wOf s w) rs2).toNat 21
      · rfl
      · simp [hblk h]
    simp [hb]
    omega
  have hsum := foldl_res (fun i => alpha150 (betaElem fmt (bitAt (xr (wOf s w) rs2).toNat 21) bs sc i)) (List.range n) 0
  rw [Int.zero_add, res_zero] at hsum
  unfold betaRun
  rw [go_get_bind]
  dsimp only
  rw [hn, hfmt, if_neg hin, go_bind_ok hrow]
  by_cases hmx : isMx fmt = true
  · rw [if_pos hmx] at hscale ⊢
    rw [go_bind_ok hscale, hsum, go_wickMod]
  · rw [if_neg hmx] at hscale ⊢
    obtain ⟨rfl, rfl⟩ := hscale
    rw [go_bind_ok (go_pure ..), hsum, go_wickMod]

/-- Settles O21: each form ends with one register write or none, and what it read before left the pc. -/
theorem tallyMemory : Obligations.TallyMemory := by
  unfold Obligations.TallyMemory
  intro w rd rs1 rs2 rs3 s g l hk k s0 c n fmt
  refine ⟨fun v s1 hgo => ?tile, fun s1 hgo => ?chk, fun bs s1 sc s2 hn1 hn2 hf1 hf2 hblk hrow hscale => ?beta⟩
  case tile =>
    have hpc : (wOf s1 w).pc = k.pc := ((tileTally_pc w ..).of_go hgo).trans (congrArg Wick.pc (wOf_chk ..))
    have hrun : (do let v ← tileTally w g l (xr (wOf (← get) w) rs1).toNat; wickMod w (xw rd (BitVec.ofNat 64 v)) : M Unit).go s0 =
        (.ok (), putW w (xw rd (BitVec.ofNat 64 v) (wOf s1 w)) s1) := by
      rw [go_get_bind, wOf_chk, go_bind_ok hgo, go_wickMod]
    refine ⟨_, congrArg Host.Outcome.next (wickNext_ok hk hrun), ?_, ?_, ?_, ?_⟩
    · rw [wOf_wickRetire, wOf_putW_same, wOf_putW_same]
      exact xr_xw ..
    · rw [wOf_wickRetire, wOf_putW_same, wOf_putW_same, advance_eq ((xw_pc ..).trans hpc)]
    · rw [wickRetire_sram]
      rfl
    · rw [wickRetire_dram]
      rfl
  case chk =>
    have hpc : (wOf s1 w).pc = k.pc := ((chkRun_pc w ..).of_go hgo).trans (congrArg Wick.pc (wOf_chk ..))
    refine ⟨_, congrArg Host.Outcome.next (wickNext_ok hk hgo), ?_, ?_, ?_⟩
    · rw [wOf_wickRetire, wOf_putW_same, advance_eq hpc]
    · rw [wickRetire_sram]
      rfl
    · rw [wickRetire_dram]
      rfl
  case beta =>
    have hrun := go_betaRun (rd := rd) (rs1 := rs1) (rs2 := rs2) (rs3 := rs3) (s := s0) rfl rfl ⟨hn1, hn2, hf1, hf2⟩ hblk hrow hscale
    have hpc2 : pcOf w s2 = pcOf w s1 := by
      by_cases hmx : isMx fmt = true
      · rw [if_pos hmx] at hscale
        exact (kLoad_pc ..).of_go hscale
      · rw [if_neg hmx] at hscale
        rw [hscale.2]
    have hpc : (wOf s2 w).pc = k.pc := (hpc2.trans ((kLoad_pc w ..).of_go hrow)).trans (congrArg Wick.pc (wOf_chk ..))
    refine ⟨_, congrArg Host.Outcome.next (wickNext_ok hk hrun), ?_, ?_⟩
    · rw [wOf_wickRetire, wOf_putW_same, wOf_putW_same]
      exact xr_xw ..
    · rw [wOf_wickRetire, wOf_putW_same, wOf_putW_same, advance_eq ((xw_pc ..).trans hpc)]

end Sys2Proof.Machine
end

section
/-! Units, their tests and the spares (R70 to R77, R107, R461, R462), and what the records of a job's end leave. -/

namespace Sys2Proof.Machine

/-! ### The records of a job's end -/

/-- What the records of a job's end may change: registers, messages, the Ledger's lists, the queues, and the Ledger store in DRAM. -/
def Booked (s t : State) : Prop :=
  t = { s with
    regs := t.regs, out := t.out, led := t.led, jobs := { t.jobs with halted := s.jobs.halted }, dram := t.dram, dramEcc := t.dramEcc
    kpr := { s.kpr with dram := t.kpr.dram } }

theorem Booked.refl (s : State) : Booked s s := rfl

theorem Booked.trans {s t u : State} (h : Booked s t) (k : Booked t u) : Booked s u := by
  unfold Booked at h k ⊢
  rw [h] at k
  exact k

theorem Booked.foldl {α : Type} {f : State → α → State} (h : ∀ t x, Booked t (f t x)) (l : List α) (s : State) : Booked s (l.foldl f s) :=
  List.foldlRecOn l f (motive := Booked s) (Booked.refl s) fun _ ht x _ => ht.trans (h _ x)

theorem Booked.life {s t : State} (h : Booked s t) : t.life = s.life := by rw [h]
theorem Booked.recov {s t : State} (h : Booked s t) : t.recov = s.recov := by rw [h]
theorem Booked.fab {s t : State} (h : Booked s t) : t.fab = s.fab := by rw [h]
theorem Booked.banks {s t : State} (h : Booked s t) : t.banks = s.banks := by rw [h]
theorem Booked.engs {s t : State} (h : Booked s t) : t.engs = s.engs := by rw [h]
theorem Booked.watch {s t : State} (h : Booked s t) : t.watch = s.watch := by rw [h]
theorem Booked.stations {s t : State} (h : Booked s t) : t.stations = s.stations := by rw [h]
theorem Booked.halted {s t : State} (h : Booked s t) : t.jobs.halted = s.jobs.halted := by rw [h]
theorem Booked.pwr {s t : State} (h : Booked s t) : t.kpr.pwr = s.kpr.pwr := by rw [h]

theorem raise_booked (code p bit a b c : Nat) (s : State) : Booked s (raise code p bit a b c s) := by
  unfold Booked
  rw [raise_frame]

theorem ledEvent_booked (type code step rank watch : Nat) (detail : List Byte) (s : State) :
    Booked s (ledEvent type code step rank watch detail s) := by
  unfold ledEvent
  split
  · rfl
  · exact Booked.trans (t := { s with led := { s.led with eventsLost := min 0xFFFF (s.led.eventsLost + 1) } }) rfl (raise_booked ..)

theorem assertFog_booked (code : Nat) (s : State) : Booked s (assertFog code s) := by
  unfold Booked
  rw [assertFog_frame]

theorem postComp_booked (q : Nat) (bs : List Byte) (s : State) : Booked s (postComp q bs s) := by
  unfold postComp
  split <;> rfl

theorem cmdDone_booked (c : CmdFrom) (status : Nat) (result : List Byte) (s : State) : Booked s (cmdDone c status result s) := by
  unfold cmdDone
  dsimp only
  split
  · rfl
  · refine Booked.trans ?_ (postComp_booked ..)
    split <;> rfl

theorem regPut_booked (a v : Nat) (s : State) : Booked s (regPut a v s) := rfl

theorem jobs_booked {j : JobSt} {s : State} (h : j.halted = s.jobs.halted) : Booked s { s with jobs := j } := by
  unfold Booked
  rw [← h]

/-- What writing DRAM changes. -/
theorem pokeDram_eq (a : Nat) (bs : List Byte) (s : State) : pokeMem 1 a bs s = { s with
    dram := wrN s.dram a bs, dramEcc := clearDram a bs.length s.dramEcc
    kpr := { s.kpr with dram := tmap (fun _ d => dropPatrolled a bs.length d) s.kpr.dram } } := if_pos rfl

theorem pokeDram_booked (a : Nat) (bs : List Byte) (s : State) : Booked s (pokeMem 1 a bs s) := by
  unfold Booked
  rw [pokeDram_eq]

theorem storeRecord_booked (jobId : Nat) (bs : List Byte) (s : State) : Booked s (storeRecord jobId bs s).2 := by
  unfold storeRecord
  dsimp only
  refine Booked.trans (Booked.trans ?_ (pokeDram_booked ..)) (regPut_booked ..)
  split
  · exact raise_booked ..
  · rfl

theorem postJob_booked (e : Ended) (cert : Bool) (s : State) : Booked s (postJob e cert s) := by
  unfold postJob
  split
  · exact postComp_booked ..
  · rfl

theorem noteWithheld_booked (s : State) : Booked s (noteWithheld s) := by
  unfold noteWithheld
  split
  · rfl
  · exact raise_booked ..

theorem bookRecord_booked (e : Ended) (bs : List Byte) (s : State) : Booked s (bookRecord e bs s) := by
  have hstore := storeRecord_booked e.jobId bs s
  unfold bookRecord
  dsimp only
  split
  · exact ((hstore.trans (noteWithheld_booked _)).trans (pokeDram_booked ..)).trans (postJob_booked ..)
  · exact hstore.trans (jobs_booked rfl)

theorem writeLedger_booked (a : Active) (s : State) : Booked s (writeLedger a s) := by
  unfold writeLedger
  dsimp only
  split
  · rfl
  · exact bookRecord_booked ..

theorem answerEnds_booked (id : Nat) (s : State) : Booked s (answerEnds id s) := by
  unfold answerEnds
  dsimp only
  exact Booked.trans (jobs_booked rfl) (Booked.foldl (fun _ _ => cmdDone_booked ..) _ _)

/-- R364: after a terminal cause the module is FAULTED with that cause; the Stations stay, and so does the Keeper. -/
theorem faulted_spec (code step rank : Nat) (s : State) :
    (faulted code step rank s).life = .faulted ∧ (faulted code step rank s).recov.terminal = some (code, rank) ∧
      (faulted code step rank s).stations = s.stations ∧ (faulted code step rank s).jobs.halted = s.jobs.halted := by
  unfold faulted
  dsimp only
  generalize hs1 : ledEvent 5 code step rank s.watch [] (stopAll (sendHold ⟨step, code, rank⟩ s)) = s1
  have hled := ledEvent_booked 5 code step rank s.watch [] (stopAll (sendHold ⟨step, code, rank⟩ s))
  rw [hs1] at hled
  generalize hs2 : assertFog code _ = s2
  have hfog := assertFog_booked code { s1 with life := .faulted, recov := { s1.recov with terminal := some (code, rank), origin := none } }
  rw [hs2] at hfog
  have hlife : s2.life = .faulted := hfog.life
  have hterm : s2.recov.terminal = some (code, rank) := by rw [hfog.recov]
  have hstn : s2.stations = s.stations := hfog.stations.trans hled.stations
  have hhalt : s2.jobs.halted = s.jobs.halted := hfog.halted.trans hled.halted
  split
  · exact ⟨hlife, hterm, hstn, hhalt⟩
  · have hend := fun i a t => (writeLedger_booked a t).trans (answerEnds_booked i _)
    rw [(hend _ _ _).life, (hend _ _ _).recov, (hend _ _ _).stations, (hend _ _ _).halted]
    exact ⟨hlife, hterm, hstn, hhalt⟩

theorem faulted_life (code step rank : Nat) (s : State) : (faulted code step rank s).life = .faulted := (faulted_spec ..).1

theorem faulted_terminal (code step rank : Nat) (s : State) : (faulted code step rank s).recov.terminal = some (code, rank) := (faulted_spec ..).2.1

/-! ### Units -/

theorem putUnit_frame (u : UnitRef) (v : UnitSt) (s : State) :
    putUnit u v s = { s with lanterns := (putUnit u v s).lanterns, wicks := (putUnit u v s).wicks } := by
  cases u <;> rfl

theorem unitOf_congr {s t : State} (hl : t.lanterns = s.lanterns) (hw : t.wicks = s.wicks) (u : UnitRef) : unitOf t u = unitOf s u := by
  cases u
  · simp only [unitOf, lanOf, hl]
  · simp only [unitOf, wickOf, hw]

theorem unitOf_putUnit_other {u w : UnitRef} (v : UnitSt) (s : State) (h : w ≠ u) : unitOf (putUnit u v s) w = unitOf s w := by
  cases u with
  | lantern st p =>
    cases w with
    | wick st' q => rfl
    | lantern st' q =>
      refine congrArg Lantern.unit (lanOf_putLan_other _ _ fun e => h ?_)
      rw [show st' = st by omega, show q = p by omega]
  | wick st p =>
    cases w with
    | lantern st' q => rfl
    | wick st' q =>
      refine congrArg Wick.unit (wickOf_putWick_other _ _ fun e => h ?_)
      rw [show st' = st by omega, show q = p by omega]

theorem bitAt_orBit_same (w i : Nat) : bitAt (orBit w i) i = true := by
  unfold orBit
  split
  · assumption
  · rename_i h
    have h0 : w / 2 ^ i % 2 ≠ 1 := by simpa [bitAt] using h
    have hdiv : (w + 2 ^ i) / 2 ^ i = w / 2 ^ i + 1 := Nat.add_div_right w (Nat.two_pow_pos i)
    simp only [bitAt, hdiv, beq_iff_eq]
    omega

/-- A function over every entry of a table acts on what is read, where it leaves the default. -/
theorem tget_tmap {α : Type} {f : Nat → α → α} {d : α} (hd : ∀ k, f k d = d) (t : Tbl α) (k : Nat) : tget d (tmap f t) k = f k (tget d t k) := by
  induction t with
  | nil => exact (hd k).symm
  | cons e t ih =>
    obtain ⟨j, v⟩ := e
    by_cases hj : j = k
    · simp [tmap, tget, hj]
    · simp [tmap, tget, hj, ih]

/-- R236: a LOADED bank becomes STALE. -/
theorem bankOf_staleBanks_of_loaded {s : State} {b : Nat} (h : (bankOf s b).st = .loaded) : (bankOf (staleBanks s) b).st = .stale := by
  have hmap : bankOf (staleBanks s) b = if (bankOf s b).st = .loaded then { bankOf s b with st := .stale } else
      if (bankOf s b).st = .loading then { bankOf s b with staleOnLoad := true } else bankOf s b := tget_tmap (fun _ => rfl) _ b
  rw [hmap, if_pos h]

/-- R71, R74, R439: what marking a unit dark does. -/
theorem darken_spec (u : UnitRef) (s : State) :
    (unitOf (darken u s) u).role = .dark ∧ (unitOf (darken u s) u).logical = none ∧
      bitAt (regGet (darken u s) (darkReg (uStn u))) (darkBit u) = true ∧ (darken u s).out = s.out ∧
      ∀ b, (bankOf s b).st = .loaded → (bankOf (darken u s) b).st = .stale := by
  have hunit : unitOf (darken u s) u = { unitOf s u with role := .dark, katRunning := false, logical := none } :=
    (unitOf_congr rfl rfl u).trans (unitOf_putUnit_same ..)
  refine ⟨congrArg UnitSt.role hunit, congrArg UnitSt.logical hunit, ?_, ?_, fun b hb => bankOf_staleBanks_of_loaded ?_⟩
  · have hreg : regGet (darken u s) (darkReg (uStn u)) = orBit (regGet (putUnit u _ s) (darkReg (uStn u))) (darkBit u) := regGet_regPut_same ..
    rw [hreg]
    exact bitAt_orBit_same ..
  · cases u <;> rfl
  · cases u <;> exact hb

theorem unitOf_darken_other {u w : UnitRef} (s : State) (h : w ≠ u) : unitOf (darken u s) w = unitOf s w :=
  (unitOf_congr rfl rfl w).trans (unitOf_putUnit_other _ _ h)

/-- R74: a test starts on a unit. -/
theorem katBegin_frame (u : UnitRef) (s : State) : katBegin u s = { s with lanterns := (katBegin u s).lanterns, wicks := (katBegin u s).wicks } :=
  putUnit_frame ..

theorem unitOf_katBegin (u : UnitRef) (s : State) :
    unitOf (katBegin u s) u = { unitOf s u with role := .test, katRunning := true, katAt := s.watch } := unitOf_putUnit_same ..

/-- R76: waking changes the unit and, where a NOP waits, its engine. -/
theorem wakeUnit_spec (u : UnitRef) (s : State) :
    unitOf (wakeUnit u s) u = { unitOf s u with gate := .awake, waking := false, idleSince := s.watch } ∧
      wakeUnit u s = { s with lanterns := (wakeUnit u s).lanterns, wicks := (wakeUnit u s).wicks, engs := (wakeUnit u s).engs } := by
  have hput := putUnit_frame u { unitOf s u with gate := .awake, waking := false, idleSince := s.watch } s
  have hself := unitOf_putUnit_same u { unitOf s u with gate := .awake, waking := false, idleSince := s.watch } s
  have hframe : ∀ e, ({ putUnit u { unitOf s u with gate := .awake, waking := false, idleSince := s.watch } s with engs := e } : State) =
      { s with
        lanterns := (putUnit u { unitOf s u with gate := .awake, waking := false, idleSince := s.watch } s).lanterns
        wicks := (putUnit u { unitOf s u with gate := .awake, waking := false, idleSince := s.watch } s).wicks, engs := e } := by
    intro e
    rw [hput]
  unfold wakeUnit
  dsimp only
  split
  · exact ⟨hself, hframe _⟩
  · split
    · exact ⟨(unitOf_congr rfl rfl u).trans hself, hframe _⟩
    · exact ⟨hself, hframe _⟩

/-- Settles O26: each command is its one change of the unit. -/
theorem sparesAndGating : Obligations.SparesAndGating := by
  unfold Obligations.SparesAndGating
  refine ⟨fun u s => ⟨fun hrole hpow => ?timer, fun hrole hp hoff hrails => ?start, fun hrole hrun => ⟨?pass, ?fail⟩⟩,
    fun u s => ⟨fun hwake => ?wake, fun hgate => ?gate⟩⟩
  case timer =>
    have hexec : exec (.spareKatTimer u) s = .next (katBegin u (watchTo ((unitOf s u).katAt + katInterval s u) s)) := by
      change execSpareKatTimer u s = _
      simp only [execSpareKatTimer, hrole, hpow, decide_true, Bool.and_self, if_true]
    have hunit := unitOf_katBegin u (watchTo ((unitOf s u).katAt + katInterval s u) s)
    have hframe := katBegin_frame u (watchTo ((unitOf s u).katAt + katInterval s u) s)
    have hwatch : (katBegin u (watchTo ((unitOf s u).katAt + katInterval s u) s)).watch = max s.watch ((unitOf s u).katAt + katInterval s u) := by
      rw [hframe, watchTo]
    refine ⟨_, hexec, hwatch, ?_, ?_⟩
    · rw [hunit, hwatch]
      dsimp only
      rw [unitOf_congr (s := s) (t := watchTo _ s) rfl rfl]
      rfl
    · rw [hwatch]
      exact hframe
  case start =>
    have hserved : paused s = false ∧ s.life ≠ .off ∧ (railsOff s = false ∨ servedOff (pageKind (unitPage u)).1 = true) := ⟨hp, hoff, .inl hrails⟩
    have hexec : exec (.katStart u) s = .next (katBegin u s) := by
      change execKatStart u s = _
      rw [execKatStart, hostWrite_served _ _ _ hserved.1 hserved.2.1 hserved.2.2, if_pos hrole]
    exact ⟨_, hexec, unitOf_katBegin u s, katBegin_frame u s⟩
  case pass =>
    have hexec : exec (.spareKatComplete u true) s = .next (putUnit u { katDone true (unitOf s u) with role := .spare } s) := by
      change execSpareKatComplete u true s = _
      simp only [execSpareKatComplete, hrole, hrun, decide_true,
        Bool.and_self, if_true]
      rfl
    exact ⟨_, hexec, unitOf_putUnit_same .., putUnit_frame ..⟩
  case fail =>
    have hexec : exec (.spareKatComplete u false) s = .next (darken u (raise (katCode u).1 (unitPage u) (katCode u).2 (katCode u).1 0 0
        (putUnit u { katDone false (unitOf s u) with role := .spare } s))) := by
      change execSpareKatComplete u false s = _
      simp only [execSpareKatComplete, hrole, hrun, decide_true,
        Bool.and_self, if_true]
      rfl
    obtain ⟨hdark, hlog, hbit, hout, hbanks⟩ := darken_spec u (raise (katCode u).1 (unitPage u) (katCode u).2 (katCode u).1 0 0
      (putUnit u { katDone false (unitOf s u) with role := .spare } s))
    refine ⟨_, hexec, hdark, hlog, hbit, ?_, fun b hb => hbanks b ?_⟩
    · rw [hout]
      exact report_mem_out_raise ..
    · rw [raise_frame, putUnit_frame]
      exact hb
  case wake =>
    have hexec : exec (.engineWakeDone u) s = .next (wakeUnit u s) := by
      change execEngineWakeDone u s = _
      rw [execEngineWakeDone, if_pos hwake]
    exact ⟨_, hexec, wakeUnit_spec u s⟩
  case gate =>
    have hexec : exec (.powerGateDelayExpiry u) s = .next (powerGate u s) := by
      change execPowerGateDelayExpiry u s = _
      rw [execPowerGateDelayExpiry, if_pos hgate]
    have hframe := putUnit_frame u { unitOf s u with gate := .powerGated } (watchTo ((unitOf s u).idleSince + gateDelay s) s)
    have hgated : powerGate u s = putUnit u { unitOf s u with gate := .powerGated } (watchTo ((unitOf s u).idleSince + gateDelay s) s) := by
      unfold powerGate
      dsimp only
      rw [unitOf_congr (s := s) (t := watchTo ((unitOf s u).idleSince + gateDelay s) s) rfl rfl]
    have hwatch : (powerGate u s).watch = max s.watch ((unitOf s u).idleSince + gateDelay s) := by
      rw [hgated, hframe]
      rfl
    refine ⟨_, hexec, ?_, hwatch, ?_⟩
    · rw [hgated]
      exact unitOf_putUnit_same ..
    · rw [hwatch, hgated]
      exact hframe

/-! ### The test of a faulting unit -/

theorem remapPlacement_frame (u v : UnitRef) (i : Nat) (s : State) : remapPlacement u v i s = { s with banks := (remapPlacement u v i s).banks } := by
  unfold remapPlacement
  dsimp only
  split <;> rfl

theorem carryCurves_frame (u v : UnitRef) (s : State) : carryCurves u v s = { s with wicks := (carryCurves u v s).wicks } := by
  unfold carryCurves
  split <;> rfl

/-- R75, R362: after a swap the spare runs under the unit's number, the unit is dark, and both are recorded as swapped. -/
theorem swapIn_spec {u v : UnitRef} {s : State} (hvu : v ≠ u) :
    (unitOf (swapIn u v s) v).role = .enabled ∧ (unitOf (swapIn u v s) v).logical = some ((unitOf s u).logical.getD 0) ∧
      (unitOf (swapIn u v s) u).role = .dark ∧ (unitOf (swapIn u v s) u).logical = none ∧ (swapIn u v s).life = s.life ∧
      u ∈ (swapIn u v s).recov.swapped := by
  unfold swapIn
  dsimp only
  generalize hs1 : carryCurves u v (remapPlacement u v _ s) = s1
  have hlife1 : s1.life = s.life := by rw [← hs1, carryCurves_frame, remapPlacement_frame]
  generalize hk : ({ unitOf s1 v with role := .enabled, logical := some ((unitOf s u).logical.getD 0), katRunning := false, idleSince := _ } : UnitSt) = k
  have hrole : k.role = .enabled := by rw [← hk]
  have hlog : k.logical = some ((unitOf s u).logical.getD 0) := by rw [← hk]
  generalize hs2 : enableUnit (unitPage v) (putUnit v k s1) = s2
  have hv2 : unitOf s2 v = k := by
    rw [← hs2]
    exact (unitOf_congr rfl rfl v).trans (unitOf_putUnit_same ..)
  have hlife2 : s2.life = s.life := by
    rw [← hs2, putUnit_frame]
    exact hlife1
  generalize hs3 : darken u (putUnit u { unitOf s2 u with suspect := false } s2) = s3
  have hv3 : unitOf s3 v = k := by
    rw [← hs3, unitOf_darken_other _ hvu, unitOf_putUnit_other _ _ hvu, hv2]
  have hlife3 : s3.life = s.life := by
    rw [← hs3, ← hlife2]
    cases u <;> rfl
  have hdark := darken_spec u (putUnit u { unitOf s2 u with suspect := false } s2)
  rw [hs3] at hdark
  obtain ⟨hu, hulog, -⟩ := hdark
  generalize hs4 : emit _ (regCount _ (raise _ _ _ _ _ _ s3)) = s4
  have hunits : ∀ w, unitOf s4 w = unitOf s3 w := by
    rw [← hs4, raise_frame]
    exact fun w => unitOf_congr rfl rfl w
  have hlife4 : s4.life = s.life := by
    rw [← hs4, raise_frame]
    exact hlife3
  have hend := fun t => ledEvent_booked 2 0x0081 s.run.step s.fab.part.rank s.watch
    [BitVec.ofNat 8 (uStn u), BitVec.ofNat 8 (uKind u), BitVec.ofNat 8 (uIdx u), BitVec.ofNat 8 (uIdx v)] t
  have hfinal : ∀ w t, unitOf (ledEvent 2 0x0081 s.run.step s.fab.part.rank s.watch
      [BitVec.ofNat 8 (uStn u), BitVec.ofNat 8 (uKind u), BitVec.ofNat 8 (uIdx u), BitVec.ofNat 8 (uIdx v)] t) w = unitOf t w := fun w t => by
    rw [hend t]
    exact unitOf_congr rfl rfl w
  simp only [hfinal, (hend _).life, (hend _).recov]
  refine ⟨?_, ?_, ?_, ?_, hlife4, List.mem_cons_self ..⟩
  · exact (congrArg UnitSt.role ((hunits v).trans hv3)).trans hrole
  · exact (congrArg UnitSt.logical ((hunits v).trans hv3)).trans hlog
  · exact (congrArg UnitSt.role (hunits u)).trans hu
  · exact (congrArg UnitSt.logical (hunits u)).trans hulog

/-- R71: the test of a unit that is suspected while the module is HELD ends. -/
theorem exec_faultKatComplete {u : UnitRef} {s : State} (hs : (unitOf s u).suspect = true) (hl : s.life = .held) (pass : Bool) :
    exec (.faultKatComplete u pass) s = .next (faultKatEnd u pass s) := by
  change execFaultKatComplete u pass s = _
  simp only [execFaultKatComplete, hs, hl, decide_true, Bool.and_self, if_true]

/-- Settles O27: a pass clears the unit, a failure swaps or ends the job. -/
theorem faultingUnitTest : Obligations.FaultingUnitTest := by
  unfold Obligations.FaultingUnitTest
  intro u v s hsus hheld s1
  have hframe1 := putUnit_frame u { katDone false (unitOf s u) with suspect := false } s
  have hlife1 : s1.life = .held := (congrArg State.life hframe1).trans hheld
  refine ⟨?_, fun hspare hvu => ?_, fun hnone => ?_⟩
  · have hunit : unitOf (faultKatEnd u true s) u = { katDone true (unitOf s u) with suspect := false } := unitOf_putUnit_same ..
    exact ⟨_, exec_faultKatComplete hsus hheld true, by rw [hunit], by rw [hunit]; rfl, by rw [hunit]; rfl,
      putUnit_frame ..⟩
  · have hend : faultKatEnd u false s = swapIn u v s1 := by
      simp only [faultKatEnd, katFailed, Bool.false_eq_true, if_false, show testedSpare (putUnit u _ s) u = some v from hspare]
      rfl
    have hunit1 : unitOf s1 u = { katDone false (unitOf s u) with suspect := false } := unitOf_putUnit_same ..
    have hlog : (unitOf s1 u).logical = (unitOf s u).logical := (congrArg UnitSt.logical hunit1).trans rfl
    obtain ⟨hrole, hnum, hdark, hgone, hlife, hswap⟩ := swapIn_spec (s := s1) hvu
    rw [hlog] at hnum
    exact ⟨_, (exec_faultKatComplete hsus hheld false).trans (congrArg _ hend), hrole, hnum, hdark, hgone, hlife.trans hlife1, hswap⟩
  · have hend : faultKatEnd u false s =
        faulted (noSpareCode u) s1.run.step (myRank s1) (darken u (report (noSpareCode u) (unitPage u) s1)) := by
      simp only [faultKatEnd, katFailed, Bool.false_eq_true, if_false, show testedSpare (putUnit u _ s) u = none from hnone]
      rfl
    have hrank : myRank s1 = s.fab.part.rank := (congrArg (fun t : State => t.fab.part.rank) hframe1).trans rfl
    rw [hrank] at hend
    exact ⟨_, (exec_faultKatComplete hsus hheld false).trans (congrArg _ hend), faulted_life .., faulted_terminal ..⟩

end Sys2Proof.Machine
end

section
/-! Step boundaries, commits and the watchdog (R169 to R175, R274, R352, R353). -/

namespace Sys2Proof.Machine

/-! ### The next step -/

theorem putSlot_frame (k : Nat) (c : CkSlot) (s : State) : putSlot k c s = { s with ck0 := (putSlot k c s).ck0, ck1 := (putSlot k c s).ck1 } := by
  unfold putSlot
  split <;> rfl

theorem applyFork_frame (s : State) : applyFork s = { s with engs := (applyFork s).engs } := by
  unfold applyFork
  split <;> rfl

theorem forkEng_p (s : State) (v seg k : Nat) (e : Engine) : (forkEng s v seg k e).p = e.p := by
  unfold forkEng
  dsimp only
  split
  · rfl
  · split <;> (split <;> rfl)

/-- A fork writes S15 and the Stream Position of the engines; their parameters stay. -/
theorem applyFork_p (s : State) (g : Eng) : (engOf (applyFork s) g).p = (engOf s g).p := by
  unfold applyFork
  split
  · exact (congrArg Engine.p (tget_tmap (fun _ => rfl) ..)).trans (forkEng_p ..)
  · rfl

/-- An entry read from a table whose every value a function changes. -/
theorem tget_map {α : Type} {f : α → α} (d : α) (t : Tbl α) (k : Nat) : tget d (t.map fun e => (e.1, f e.2)) k = if t.any (·.1 == k) then f (tget d t k) else d := by
  induction t with
  | nil => rfl
  | cons e t ih =>
    obtain ⟨j, v⟩ := e
    by_cases hj : j = k
    · simp [tget, hj]
    · have hne : (j == k) = false := beq_false_of_ne hj
      rw [List.map_cons, List.any_cons, hne, Bool.false_or, tget, if_neg hj, tget, if_neg hj, ih]

theorem engOf_releaseStep (s : State) (g : Eng) :
    engOf (releaseStep s) g = { engOf s g with stepEnded := false, forkId := none, issues := [] } := tget_tmap (fun _ => rfl) ..

/-- R159: turns start again. -/
theorem sbOf_releaseStep (s : State) (k : Nat) : (sbOf (releaseStep s) k).turn = 0 ∧ (sbOf (releaseStep s) k).count = 0 := by
  have hmap : sbOf (releaseStep s) k = if s.sb.any (·.1 == k) then { sbOf s k with turn := 0, count := 0 } else ⟨0, 0, 0, 0⟩ :=
    tget_map (f := fun e : SbEntry => { e with turn := 0, count := 0 }) ..
  rw [hmap]
  split <;> exact ⟨rfl, rfl⟩

/-- R169: the state in which the next step begins, its streams not yet released. -/
def forked (s : State) : State := applyFork (if forkUnmapped s then bumpFree s else s)

theorem forked_frame (s : State) : forked s = { s with free := (forked s).free, engs := (forked s).engs } := by
  unfold forked
  rw [applyFork_frame]
  split <;> rfl

theorem forked_p (s : State) (g : Eng) : (engOf (forked s) g).p = (engOf s g).p := by
  unfold forked
  rw [applyFork_p]
  split <;> rfl

/-- R169, R351: what the next step leaves of the released streams. -/
theorem nextStep_frame (s : State) : nextStep s = { releaseStep (forked s) with
    run := (nextStep s).run, fab := (nextStep s).fab, ck0 := (nextStep s).ck0, ck1 := (nextStep s).ck1 } := by
  unfold nextStep
  rw [putSlot_frame]
  rfl

theorem nextStep_run (s : State) : (nextStep s).run = { s.run with
    step := s.run.step + 1, rec_ := nextRec s, start := nextStart1024 s, forkId := none, forkValue := none
    gen := s.run.gen + 1, grid := ceilDiv (nextStart1024 s) 1024 } := by
  have hrun : (forked s).run = s.run := by rw [forked_frame]
  unfold nextStep
  rw [putSlot_frame, ← hrun]
  rfl

theorem nextRec_of_no_fork {s : State} (h : s.run.forkId = none) : nextRec s = s.run.rec_ + 1 := by simp [nextRec, h]

/-! ### The boundary -/

theorem syncEvent_frame (code bit : Nat) (g : Eng) (s : State) :
    syncEvent code bit g s = { s with regs := (syncEvent code bit g s).regs, out := (syncEvent code bit g s).out } := raise_frame ..

theorem exec_stepBoundary {s : State} (h : s.life = .running) :
    exec .stepBoundary s = .next (boundary (watchTo (ceilDiv (nextStart1024 s) 1024) s)) := by
  change execStepBoundary s = _
  rw [execStepBoundary, if_pos h]

/-- R169: the first late engine is a detected fault of the step, once. -/
theorem stepOverrun_of_late {s : State} {g : Eng} (hlate : firstLate s = some g)
    (honce : (s.recov.faults.any fun f => f.code = 0x2022 && f.step = s.run.step) = false) :
    stepOverrun s = detect 0x2022 (.eng g) none (syncEvent 0x2022 2 g s) := by
  simp only [stepOverrun, honce, hlate, Bool.false_eq_true, if_false]

/-- Settles O28: the boundary is nextStep where the step has ended, and one fault where it has not. -/
theorem stepBoundaryAdvances : Obligations.StepBoundaryAdvances := by
  unfold Obligations.StepBoundaryAdvances
  intro s hrun s1
  refine ⟨fun hissued hended hstays hfork hlate => ?_, fun g hissued hended hfirst honce => ?_⟩
  · have hstep : boundary s1 = nextStep s1 := by
      simp only [boundary, hissued, hended, hstays, hfork, hlate, Bool.not_true, Bool.or_self, Bool.false_eq_true, if_false]
    have hframe := nextStep_frame s1
    rw [forked_frame s1] at hframe
    refine ⟨nextStep s1, (exec_stepBoundary hrun).trans (congrArg _ hstep), ?_, ?_, ?_, ?_, fun hnone => ?_, fun g => ?_, fun k => ?_, ?_, ?_, ?_, ?_⟩
    · rw [nextStep_run]
      rfl
    · rw [nextStep_run]
      rfl
    · rw [hframe]
      rfl
    · rw [nextStep_run]
    · rw [nextStep_run]
      exact nextRec_of_no_fork hnone
    · have heng : engOf (nextStep s1) g = engOf (releaseStep (forked s1)) g := engOf_congr (by rw [nextStep_frame]) g
      rw [heng, engOf_releaseStep]
      exact ⟨rfl, rfl, forked_p s1 g⟩
    · have hsb : sbOf (nextStep s1) k = sbOf (releaseStep (forked s1)) k := by
        unfold sbOf
        rw [nextStep_frame]
      rw [hsb]
      exact sbOf_releaseStep ..
    · rw [hframe]
      exact hrun
    · rw [hframe]
      rfl
    · rw [hframe]
      rfl
    · rw [hframe]
      rfl
  · have hover : boundary s1 = detect 0x2022 (.eng g) none (syncEvent 0x2022 2 g s1) := by
      simp only [boundary, hissued, hended, Bool.not_false, Bool.false_eq_true, if_false, if_true]
      exact stepOverrun_of_late hfirst honce
    rw [syncEvent_frame] at hover
    exact ⟨_, (exec_stepBoundary hrun).trans (congrArg _ hover), rfl, rfl, rfl, hrun⟩

/-! ### The commit -/

theorem exec_stepCommit {s : State} (h : canCommit s = true) (us : List Upset) :
    exec (.stepCommit us) s = .next (commit us (watchTo (commitAt s) s)) := by
  change execStepCommit us s = _
  rw [execStepCommit, if_pos h]

/-- R369: without a comparison a commit drops the step's leading entries. -/
theorem commitLead_of_not_comparing {s : State} (h : s.fab.comparing = false) (k : Nat) :
    commitLead k s = { s with run := { s.run with leadLog := s.run.leadLog.filter fun e => field e 0 4 != k % 2 ^ 32 } } := by
  simp only [commitLead, h, Bool.false_eq_true, if_false]

/-- R352: a commit whose tiles are all copied. -/
theorem commit_of_copied {s s2 s3 : State} (h1 : (((copyTiles (ckTensors s)).take 1).forM copyOne).go s = (.ok (), s2))
    (h2 : (((copyTiles (ckTensors s)).drop 1).forM copyOne).go s2 = (.ok (), s3)) :
    commit [] s = commitLead s.recov.committed
      (putRecov { s3.recov with copying := some s.recov.committed, replaying := s3.recov.replaying.filter (· != s.recov.committed) } s3) := by
  simp only [commit, strikes, List.foldl_nil, h1, h2]

/-- Settles O29: the commit, the end of its copy and the watchdog. -/
theorem stepCommits : Obligations.StepCommits := by
  unfold Obligations.StepCommits
  refine fun s => ⟨fun s2 s3 hcan => ?_, fun k hcopy hrun => ?_, fun g hcounts => ?_⟩
  · intro s1 h1 h2 hcmp
    have hexec := exec_stepCommit hcan []
    rw [commit_of_copied h1 h2, commitLead_of_not_comparing (by exact hcmp)] at hexec
    exact ⟨_, hexec, rfl, rfl, rfl, rfl, rfl⟩
  · change execCheckpointCopyDone s = _
    simp only [execCheckpointCopyDone, hcopy, hrun, if_true, copyDone, putRecov]
  · have hexec : exec (.deadlockWatchdog g) s = .next (watchdogFires g (watchTo ((engOf s g).wdFrom + wdLimit s g.st) s)) := by
      change execDeadlockWatchdog g s = _
      rw [execDeadlockWatchdog, if_pos hcounts]
    unfold watchdogFires at hexec
    rw [syncEvent_frame] at hexec
    exact ⟨_, hexec, rfl, rfl, rfl, rfl, rfl⟩

end Sys2Proof.Machine
end

section
/-! Memory under its codes: what a write changes (R183, R185), what a read of a word does, and the scrubber and the patrol (R184, R186, R187). -/

namespace Sys2Proof.Machine

/-! ### Tables with some keys left out -/

/-- What is read from a table after the keys that fail a test are left out. -/
theorem tget_filter {α : Type} (d : α) (p : Nat → Bool) (t : Tbl α) (k : Nat) :
    tget d (t.filter fun e => p e.1) k = if p k then tget d t k else d := by
  induction t with
  | nil => simp [tget]
  | cons e t ih =>
    obtain ⟨j, v⟩ := e
    by_cases hp : p j = true
    · rw [List.filter_cons, if_pos (by exact hp)]
      by_cases hj : j = k
      · simp [tget, hj, hj ▸ hp]
      · simp only [tget, if_neg hj, ih]
    · rw [List.filter_cons, if_neg (by exact hp), ih]
      by_cases hj : j = k
      · simp [hj ▸ hp]
      · simp only [tget, if_neg hj]

theorem nget_terase_same (t : Tbl Nat) (k : Nat) : nget (terase t k) k = 0 := by
  induction t with
  | nil => rfl
  | cons e t ih =>
    obtain ⟨j, v⟩ := e
    unfold terase
    split
    · exact ih
    · rename_i hj
      exact (if_neg hj).trans ih

/-! ### Writes -/

theorem dropWritebacks_frame (a n : Nat) (s : State) : dropWritebacks a n s = { s with stations := (dropWritebacks a n s).stations } := by
  unfold dropWritebacks
  dsimp only
  split <;> rfl

theorem pokeSram_frame (a : Nat) (bs : List Byte) (s : State) : pokeMem 0 a bs s = { s with
    sram := wrN s.sram a bs, sramEcc := clearSram a bs.length s.sramEcc, stations := (pokeMem 0 a bs s).stations } := by
  have h : pokeMem 0 a bs s =
      dropWritebacks a bs.length { s with sram := wrN s.sram a bs, sramEcc := clearSram a bs.length s.sramEcc } := if_neg (by decide)
  rw [h, dropWritebacks_frame]

/-- Settles O30: both spaces are written by wrN, and the marks of the words written whole are filtered out. -/
theorem memoryReadsBack : Obligations.MemoryReadsBack := by
  unfold Obligations.MemoryReadsBack
  intro a bs s hwf
  obtain ⟨hsram, hdram⟩ : Mem.wf s.sram = true ∧ Mem.wf s.dram = true := by
    simp only [memoriesWf, Bool.and_eq_true] at hwf
    exact ⟨hwf.1.1.1, hwf.1.1.2⟩
  rw [pokeDram_eq, pokeSram_frame]
  refine ⟨rdN_wrN a bs hsram, rfl, rdN_wrN a bs hdram, rfl, fun x hx => ⟨rd_wrN_other bs hx, rd_wrN_other bs hx⟩, fun w h1 h2 => ?_, fun w h1 h2 => ?_⟩
  · refine (tget_filter 0 (fun j => j + 8 ≤ a || a + bs.length ≤ j) s.sramEcc w).trans (if_neg ?_)
    simp
    omega
  · refine (tget_filter [] (fun j => j < a || a + bs.length < j + 64) s.dramEcc w).trans (if_neg ?_)
    simp
    omega

/-! ### SRAM words -/

/-- R183: a corrected word counts at its bank; besides, registers, messages and the counts of the Ledger change. -/
theorem sramCorrected_frame (b : Bool) (a : Nat) (s : State) : sramCorrected b a s = { s with
    free := (sramCorrected b a s).free, out := (sramCorrected b a s).out, regs := (sramCorrected b a s).regs, led := (sramCorrected b a s).led
    stations := tput s.stations (sramStn a) { stnOf s (sramStn a) with scrub := { (stnOf s (sramStn a)).scrub with
      perBank := tput (stnOf s (sramStn a)).scrub.perBank (sramBank a) (nget (stnOf s (sramStn a)).scrub.perBank (sramBank a) + 1) } } } := by
  unfold sramCorrected
  dsimp only
  split
  · rw [raise_frame]
    rfl
  · rfl

theorem stnOf_sramCorrected (b : Bool) (a : Nat) (s : State) :
    stnOf (sramCorrected b a s) (sramStn a) = { stnOf s (sramStn a) with scrub := { (stnOf s (sramStn a)).scrub with
      perBank := tput (stnOf s (sramStn a)).scrub.perBank (sramBank a) (nget (stnOf s (sramStn a)).scrub.perBank (sramBank a) + 1) } } := by
  unfold stnOf
  rw [sramCorrected_frame]
  exact tget_tput_same ..

/-- Settles O31: the three outcomes of sramWord. -/
theorem sramCodeWord : Obligations.SramCodeWord := by
  unfold Obligations.SramCodeWord
  intro a s w
  refine ⟨fun h0 => ?_, fun h1 => ?_, fun h2 => ?_⟩
  · exact if_pos h0
  · have hword : sramWord false a s = (true, sramCorrected false w { s with sramEcc := terase s.sramEcc w }) :=
      (if_neg (by rw [h1]; decide)).trans (if_pos h1)
    rw [hword]
    refine ⟨rfl, ?_, ?_, ?_⟩
    · rw [sramCorrected_frame]
      exact nget_terase_same ..
    · rw [sramCorrected_frame]
    · rw [stnOf_sramCorrected]
      exact nget_tput_same ..
  · have hword : sramWord false a s = (false, bumpFree (raise 0x2090 (pgSram (sramStn w)) 2 0x2090 (w % 0x4000000) (syndrome s + b2n false * 256)
        (regCount (pageBase (pgSram (sramStn w)) + 0x50) (chkEcc true s)))) :=
      (if_neg (show ¬nget s.sramEcc w = 0 by omega)).trans (if_neg (show ¬nget s.sramEcc w = 1 by omega))
    rw [hword]
    refine ⟨rfl, report_mem_out_raise .., ?_, ?_⟩
    · rw [bumpFree_sram, raise_frame]
      rfl
    · rw [bumpFree_sramEcc, raise_frame]
      rfl

/-! ### The scrubber -/

/-- R184: what reading some words of a line, none with more than one bad bit, keeps, and what waits for its write-back afterwards. -/
structure Scrubbed (st a : Nat) (s t : State) : Prop where
  sram : t.sram = s.sram
  dram : t.dram = s.dram
  ecc : t.sramEcc = s.sramEcc
  left : (stnOf t st).scrub.left = (stnOf s st).scrub.left
  line : (stnOf t st).scrub.line = (stnOf s st).scrub.line
  pending : a ∈ (stnOf s st).scrub.pending → a ∈ (stnOf t st).scrub.pending

theorem Scrubbed.refl (st a : Nat) (s : State) : Scrubbed st a s s := ⟨rfl, rfl, rfl, rfl, rfl, id⟩

theorem Scrubbed.trans {st a : Nat} {s t u : State} (h : Scrubbed st a s t) (k : Scrubbed st a t u) : Scrubbed st a s u :=
  ⟨k.sram.trans h.sram, k.dram.trans h.dram, k.ecc.trans h.ecc, k.left.trans h.left, k.line.trans h.line, k.pending ∘ h.pending⟩

/-- R184: a corrected word puts its line among those that wait. -/
theorem scrubWord_of_one {w : Nat} {s : State} (h : nget s.sramEcc w = 1) :
    Scrubbed (sramStn w) (w / 64 * 64) s (scrubWord w s) ∧ w / 64 * 64 ∈ (stnOf (scrubWord w s) (sramStn w)).scrub.pending := by
  have hword : scrubWord w s = putScrub (sramStn w) { (stnOf (sramCorrected true w s) (sramStn w)).scrub with
      pending := (stnOf (sramCorrected true w s) (sramStn w)).scrub.pending.filter (· != w / 64 * 64) ++ [w / 64 * 64] } (sramCorrected true w s) :=
    (if_neg (by rw [h]; decide)).trans (if_pos h)
  have hstn := stnOf_sramCorrected true w s
  have hpend : w / 64 * 64 ∈ (stnOf (scrubWord w s) (sramStn w)).scrub.pending := by
    rw [hword, putScrub, stnOf_putStn_same]
    exact List.mem_append_right _ (List.mem_singleton_self _)
  refine ⟨⟨?_, ?_, ?_, ?_, ?_, fun _ => hpend⟩, hpend⟩
  · rw [hword, putScrub, putStn_sram, sramCorrected_frame]
  · rw [hword, putScrub, putStn_dram, sramCorrected_frame]
  · rw [hword, putScrub, putStn_sramEcc, sramCorrected_frame]
  · rw [hword, putScrub, stnOf_putStn_same, hstn]
  · rw [hword, putScrub, stnOf_putStn_same, hstn]

/-- R184: a word with at most one bad bit. -/
theorem scrubWord_scrubbed {w : Nat} {s : State} (h : nget s.sramEcc w ≤ 1) : Scrubbed (sramStn w) (w / 64 * 64) s (scrubWord w s) := by
  by_cases h0 : nget s.sramEcc w = 0
  · rw [show scrubWord w s = s from if_pos h0]
    exact Scrubbed.refl ..
  · exact (scrubWord_of_one (by omega)).1

/-- R184: words of one line of a Station, in any order. -/
theorem scrubWords_scrubbed {st a : Nat} (l : List Nat) {s : State} (hplace : ∀ i ∈ l, sramStn (a + 8 * i) = st ∧ (a + 8 * i) / 64 * 64 = a)
    (hbad : ∀ i ∈ l, nget s.sramEcc (a + 8 * i) ≤ 1) :
    Scrubbed st a s (l.foldl (fun t i => scrubWord (a + 8 * i) t) s) ∧
      ((∃ i ∈ l, nget s.sramEcc (a + 8 * i) = 1) → a ∈ (stnOf (l.foldl (fun t i => scrubWord (a + 8 * i) t) s) st).scrub.pending) := by
  induction l generalizing s with
  | nil => exact ⟨Scrubbed.refl .., fun ⟨_, h, _⟩ => absurd h (List.not_mem_nil)⟩
  | cons i l ih =>
    have hi := hplace i (List.mem_cons_self ..)
    have hfirst : Scrubbed st a s (scrubWord (a + 8 * i) s) := by
      have h := scrubWord_scrubbed (hbad i (List.mem_cons_self ..))
      rwa [hi.1, hi.2] at h
    obtain ⟨hrest, hpend⟩ := ih (s := scrubWord (a + 8 * i) s) (fun j hj => hplace j (List.mem_cons_of_mem _ hj))
      (fun j hj => by rw [hfirst.ecc]; exact hbad j (List.mem_cons_of_mem _ hj))
    refine ⟨hfirst.trans hrest, fun ⟨j, hj, hone⟩ => ?_⟩
    rcases List.mem_cons.mp hj with rfl | hj
    · have h := (scrubWord_of_one hone).2
      rw [hi.1, hi.2] at h
      exact hrest.pending h
    · exact hpend ⟨j, hj, by rw [hfirst.ecc]; exact hone⟩

/-- The words of a scrub line lie in the line, and the line in its Station. -/
theorem scrubLine_place (st : Fin 16) (s : State) {i : Nat} (hi : i < 8) :
    sramStn (scrubLine s st + 8 * i) = st ∧ (scrubLine s st + 8 * i) / 64 * 64 = scrubLine s st := by
  have hline : (stnOf s st).scrub.line % 0x100000 < 0x100000 := Nat.mod_lt _ (by decide)
  have hst := st.isLt
  unfold sramStn scrubLine scrubLines
  generalize (stnOf s st).scrub.line % 0x100000 = k at hline ⊢
  omega

/-! ### The patrol -/

theorem dramOf_putDramSt_same (n : Nat) (d : DramSt) (s : State) : dramOf (putDramSt n d s) n = d := tget_tput_same ..

/-- R186: what the write-backs of a channel leave of the marks. -/
theorem dramEcc_patrolBack (ch : Nat) (s : State) (c : Nat) :
    tget [] (patrolBack ch s).dramEcc c = if dramChan c = ch ∧ c ∈ (dramOf s (ch / 16)).pending then [] else tget [] s.dramEcc c := by
  refine (tget_filter [] (fun j => !(decide (dramChan j = ch) && (dramOf s (ch / 16)).pending.contains j)) s.dramEcc c).trans ?_
  by_cases h : dramChan c = ch ∧ c ∈ (dramOf s (ch / 16)).pending
  · rw [if_pos h, if_neg (by simp [h.1, h.2])]
  · rw [if_neg h, if_pos (by simpa [imp_iff_not_or] using h)]

theorem patrolBack_patrol (ch : Nat) (s : State) : (dramOf (patrolBack ch s) (ch / 16)).patrol = (dramOf s (ch / 16)).patrol := by
  rw [patrolBack, dramOf_putDramSt_same]

/-- R185: a codeword without bad symbols is delivered, and nothing changes. -/
theorem dramWord_of_clean {a : Nat} {s : State} (h : tget [] s.dramEcc (a / 64 * 64) = []) (b : Bool) : dramWord b a s = (true, s) := by
  simp only [dramWord, h, nub, List.filter_nil]

/-- R185, R186: a codeword with one bad symbol that the channel has not retired is corrected. -/
theorem dramWord_patrol_of_one {a y : Nat} {s : State} (h : tget [] s.dramEcc (a / 64 * 64) = [y])
    (hret : retiredSym s (dramChan (a / 64 * 64)) ≠ some y) :
    dramWord true a s = (true, dramCorrected true (a / 64 * 64) y (awaitPatrol (a / 64 * 64) s)) := by
  have hne : (some y != retiredSym s (dramChan (a / 64 * 64))) = true := by
    rw [bne_iff_ne]
    exact fun e => hret e.symm
  simp only [dramWord, h, nub, List.filter_nil, List.filter_cons, hne, if_true]

/-- R186: correcting a symbol changes no byte, no mark and nothing of the DRAM groups. -/
theorem dramCorrected_frame (b : Bool) (a y : Nat) (s : State) : dramCorrected b a y s = { s with
    regs := (dramCorrected b a y s).regs, out := (dramCorrected b a y s).out, led := (dramCorrected b a y s).led
    symCount := (dramCorrected b a y s).symCount } := by
  unfold dramCorrected
  dsimp only
  split
  · rw [raise_frame]
    rfl
  · rfl

/-- R186: the end of a patrol read, after the codeword: the line advances. -/
theorem patrolRead_frame (ch : Nat) (s u : State)
    (hu : (dramWord true (chanLine ch (nget (dramOf s (ch / 16)).patrol (ch % 16))) (patrolBack ch s)).2 = u) :
    patrolRead ch s = { u with
      symCount := (patrolRead ch s).symCount
      kpr := (putDramSt (ch / 16) { dramOf u (ch / 16) with
        patrol := tput (dramOf u (ch / 16)).patrol (ch % 16) ((nget (dramOf s (ch / 16)).patrol (ch % 16) + 1) % patrolLines) } u).kpr } := by
  unfold patrolRead
  dsimp only
  rw [patrolBack_patrol, hu]
  split <;> rfl

theorem dramOf_congr {s t : State} (h : t.kpr.dram = s.kpr.dram) (n : Nat) : dramOf t n = dramOf s n := by simp only [dramOf, h]

theorem exec_dramPatrolRead {ch : Fin 256} {s : State} (h : canPatrol s ch = true) : exec (.dramPatrolRead ch []) s = .next (patrolRead ch s) := by
  change execDramPatrolRead ch [] s = _
  rw [execDramPatrolRead, if_pos h]
  rfl

/-- R186: the patrol reads a clean line. -/
theorem patrolRead_of_clean {ch : Nat} {s : State}
    (h : tget [] s.dramEcc (chanLine ch (nget (dramOf s (ch / 16)).patrol (ch % 16)) / 64 * 64) = []) :
    nget (dramOf (patrolRead ch s) (ch / 16)).patrol (ch % 16) = (nget (dramOf s (ch / 16)).patrol (ch % 16) + 1) % 0x800000 ∧
      (patrolRead ch s).dram = s.dram ∧ (patrolRead ch s).dramEcc = (patrolBack ch s).dramEcc := by
  have hclean : tget [] (patrolBack ch s).dramEcc (chanLine ch (nget (dramOf s (ch / 16)).patrol (ch % 16)) / 64 * 64) = [] := by
    rw [dramEcc_patrolBack, h, ite_self]
  rw [patrolRead_frame ch s (patrolBack ch s) (by rw [dramWord_of_clean hclean])]
  refine ⟨?_, rfl, rfl⟩
  have hd : ∀ d sc, dramOf { patrolBack ch s with symCount := sc, kpr := (putDramSt (ch / 16) d (patrolBack ch s)).kpr } (ch / 16) = d :=
    fun d sc => dramOf_putDramSt_same ..
  rw [hd, nget_tput_same]
  rfl

/-- R186: a line with one bad symbol waits for its write-back. -/
theorem patrolRead_of_one {ch c y : Nat} {s : State} (hc : c = chanLine ch (nget (dramOf s (ch / 16)).patrol (ch % 16)) / 64 * 64)
    (h : tget [] s.dramEcc c = [y]) (hch : dramChan c = ch) (hret : retiredSym s ch ≠ some y) (hnot : c ∉ (dramOf s (ch / 16)).pending) :
    c ∈ (dramOf (patrolRead ch s) (ch / 16)).pending ∧ tget [] (patrolRead ch s).dramEcc c = [y] ∧ (patrolRead ch s).dram = s.dram := by
  have hone : tget [] (patrolBack ch s).dramEcc c = [y] := by
    rw [dramEcc_patrolBack, if_neg (fun k => hnot k.2), h]
  have hword := dramWord_patrol_of_one (s := patrolBack ch s) (hc ▸ hone) (by rw [← hc, hch]; exact hret)
  rw [← hc] at hword
  generalize hu : dramCorrected true c y (awaitPatrol c (patrolBack ch s)) = u at hword
  have hframe : u = { awaitPatrol c (patrolBack ch s) with regs := u.regs, out := u.out, led := u.led, symCount := u.symCount } := by
    rw [← hu]
    exact dramCorrected_frame ..
  have hpend : c ∈ (dramOf u (ch / 16)).pending := by
    rw [dramOf_congr (s := awaitPatrol c (patrolBack ch s)) (by rw [hframe]), awaitPatrol, hch, dramOf_putDramSt_same]
    exact List.mem_append_right _ (List.mem_singleton_self _)
  rw [patrolRead_frame ch s u (by rw [hword])]
  refine ⟨?_, ?_, ?_⟩
  · have hd : ∀ d sc, dramOf { u with symCount := sc, kpr := (putDramSt (ch / 16) d u).kpr } (ch / 16) = d := fun d sc => dramOf_putDramSt_same ..
    rw [hd]
    exact hpend
  · rw [hframe]
    exact hone
  · rw [hframe]
    rfl

/-! ### Upkeep -/

/-- R184: the scrubber reads one line. -/
theorem scrubRead_spec {st : Fin 16} {s : State} (hbad : ∀ i, i < 8 → nget s.sramEcc (scrubLine s st + 8 * i) ≤ 1) :
    (stnOf (scrubRead st s) st).scrub.left = (stnOf s st).scrub.left - 1 ∧
      (stnOf (scrubRead st s) st).scrub.line = ((stnOf s st).scrub.line + 1) % scrubLines ∧ (scrubRead st s).sram = s.sram ∧
      (scrubRead st s).dram = s.dram ∧ (scrubRead st s).sramEcc = s.sramEcc ∧
      ((∃ i, i < 8 ∧ nget s.sramEcc (scrubLine s st + 8 * i) = 1) → scrubLine s st ∈ (stnOf (scrubRead st s) st).scrub.pending) := by
  obtain ⟨hkept, hpend⟩ := scrubWords_scrubbed (List.range 8) (fun i hi => scrubLine_place st s (List.mem_range.mp hi))
    (fun i hi => hbad i (List.mem_range.mp hi))
  unfold scrubRead
  dsimp only
  generalize (List.range 8).foldl (fun t i => scrubWord (scrubLine s st + 8 * i) t) s = s1 at hkept hpend ⊢
  rw [putScrub, stnOf_putStn_same]
  refine ⟨?_, ?_, hkept.sram, hkept.dram, hkept.ecc, fun ⟨i, hi, hone⟩ => hpend ⟨i, List.mem_range.mpr hi, hone⟩⟩
  · exact congrArg (· - 1) hkept.left
  · exact congrArg (fun n => (n + 1) % scrubLines) hkept.line

/-- R184: the end of a scrub period. -/
theorem scrubEnd_spec (st : Nat) (s : State) :
    (stnOf (scrubEnd st s) st).scrub.left = scrubLines ∧ (stnOf (scrubEnd st s) st).scrub.perBank = [] ∧
      (0 < (stnOf s st).scrub.left → .report 0x0030 (pgSram st) ∈ (scrubEnd st s).out) := by
  have hput : stnOf (putScrub st { (stnOf s st).scrub with left := scrubLines, perBank := [] } s) st =
      { stnOf s st with scrub := { (stnOf s st).scrub with left := scrubLines, perBank := [] } } := stnOf_putStn_same ..
  unfold scrubEnd
  dsimp only
  split
  · have hstn : ∀ t : State, stnOf (raise 0x0030 (pgSram st) 0 0x0030 0 0 t) st = stnOf t st := fun t => by
      rw [raise_frame]
      rfl
    rw [hstn, hput]
    exact ⟨rfl, rfl, fun _ => report_mem_out_raise ..⟩
  · rename_i h
    rw [hput]
    exact ⟨rfl, rfl, fun hpos => absurd hpos h⟩

/-- Settles O32: each upkeep command is the one operation that its lemma above describes. -/
theorem memoryUpkeep : Obligations.MemoryUpkeep := by
  unfold Obligations.MemoryUpkeep
  refine ⟨fun st s hcan => ?scrub, fun s => ⟨fun st l r hpend => ?back, fun st hrails => ?period, fun ch hcan hclean => ?clean,
    fun ch y hcan => ?one, fun ch hrails hself => ?refresh, fun g c hrails => ?temp⟩⟩
  case scrub =>
    intro a c hbad
    have hexec : exec (.sramScrubRead st []) s = .next (scrubRead st s) := by
      change execSramScrubRead st [] s = _
      rw [execSramScrubRead, if_pos hcan]
      rfl
    exact ⟨_, hexec, scrubRead_spec hbad⟩
  case back =>
    have hexec : exec (.scrubWriteback st) s = .next (writeBack st l s) := by
      change execScrubWriteback st s = _
      simp only [execScrubWriteback, hpend]
    refine ⟨_, hexec, ?_, fun e he => ?_, rfl⟩
    · rw [writeBack, putScrub, stnOf_putStn_same]
      simp
    · have hkept : e ∈ s.sramEcc.filter fun e => !(e.2 = 1 && e.1 / 64 * 64 = l) := he
      simpa [imp_iff_not_or] using (List.mem_filter.mp hkept).2
  case period =>
    have hexec : exec (.scrubPeriodEnd st) s = .next (scrubEnd st s) := by
      change execScrubPeriodEnd st s = _
      rw [execScrubPeriodEnd, if_neg (by rw [hrails]; decide)]
    exact ⟨_, hexec, scrubEnd_spec st s⟩
  case clean =>
    obtain ⟨hline, hdram, hecc⟩ := patrolRead_of_clean hclean
    refine ⟨_, exec_dramPatrolRead hcan, hline, hdram, fun c => ?_⟩
    rw [hecc]
    exact dramEcc_patrolBack ..
  case one =>
    intro c hone hch hret hnot
    exact ⟨_, exec_dramPatrolRead hcan, patrolRead_of_one rfl hone hch hret hnot⟩
  case refresh =>
    have hexec : exec (.dramRefresh ch) s = .next (refresh ch s) := by
      change execDramRefresh ch s = _
      rw [execDramRefresh, if_neg (by rw [hrails, hself]; decide)]
    refine ⟨_, hexec, ?_, rfl, rfl⟩
    rw [refresh, dramOf_putDramSt_same]
    exact nget_tput_same ..
  case temp =>
    have hexec : exec (.dramTemperatureRead g c) s = .next (putDramSt g { dramOf s g with temp := c % 256 } s) := by
      change execDramTemperatureRead g c s = _
      rw [execDramTemperatureRead, if_neg (by rw [hrails]; decide)]
    refine ⟨_, hexec, ?_, rfl⟩
    rw [dramOf_putDramSt_same]

end Sys2Proof.Machine
end

section
/-! Faults at the hold unit, rollback and replay (R355 to R360), and the failures that end a job (R363 to R371). -/

namespace Sys2Proof.Machine

/-! ### Notices and entries -/

/-- What a notice and its entry of the Ledger may change: registers, messages and the Ledger's lists. -/
def Noted (s t : State) : Prop := t = { s with regs := t.regs, out := t.out, led := t.led }

theorem Noted.refl (s : State) : Noted s s := rfl

theorem Noted.trans {s t u : State} (h : Noted s t) (k : Noted t u) : Noted s u := by
  unfold Noted at h k ⊢
  rw [h] at k
  exact k

theorem Noted.foldl {α : Type} {f : State → α → State} (h : ∀ t x, Noted t (f t x)) (l : List α) (s : State) : Noted s (l.foldl f s) :=
  List.foldlRecOn l f (motive := Noted s) (Noted.refl s) fun _ ht x _ => ht.trans (h _ x)

theorem raise_noted (code p bit a b c : Nat) (s : State) : Noted s (raise code p bit a b c s) := by
  unfold Noted
  rw [raise_frame]

theorem ledEvent_noted (type code step rank watch : Nat) (detail : List Byte) (s : State) :
    Noted s (ledEvent type code step rank watch detail s) := by
  unfold ledEvent
  split
  · rfl
  · exact Noted.trans (t := { s with led := { s.led with eventsLost := min 0xFFFF (s.led.eventsLost + 1) } }) rfl (raise_noted ..)

theorem regCount_noted (a : Nat) (s : State) : Noted s (regCount a s) := rfl

theorem report_noted (code page : Nat) (s : State) : Noted s (report code page s) := rfl

theorem noteDetours_noted (step w : Nat) (s : State) : Noted s (noteDetours step w s) := by
  refine Noted.foldl (fun t r => ?_) _ s
  split
  · exact Noted.refl _
  · exact (report_noted ..).trans (ledEvent_noted ..)

/-! ### Rollback -/

/-- An entry read after a function over the table is the default or the changed entry. -/
theorem tget_tmap_or {α : Type} (f : Nat → α → α) (d : α) (t : Tbl α) (k : Nat) :
    tget d (tmap f t) k = d ∨ tget d (tmap f t) k = f k (tget d t k) := by
  induction t with
  | nil => exact .inl rfl
  | cons e t ih =>
    obtain ⟨j, v⟩ := e
    by_cases hj : j = k
    · exact .inr (by simp [tmap, tget, hj])
    · simpa [tmap, tget, hj] using ih

/-- R357: an engine that has been stopped and does not stand at a fault. -/
def Idle (e : Engine) : Prop := e.cur = none ∧ e.stopped = false

theorem engReset_idle : Idle engReset := ⟨rfl, rfl⟩

theorem wipeEng_idle (e : Engine) : Idle (wipeEng e) := ⟨rfl, rfl⟩

theorem wipeAttempt_idle (j : Nat) (s : State) (g : Eng) : Idle (engOf (wipeAttempt j s) g) := by
  rcases tget_tmap_or (fun _ e => wipeEng e) engReset (stopAll s).engs (ekey g) with h | h
  · exact (congrArg Idle h).mpr engReset_idle
  · exact (congrArg Idle h).mpr (wipeEng_idle _)

/-- R357: loading a slot stops nothing and starts nothing. -/
theorem loadSlot_idle {c : CkSlot} {s : State} {g : Eng} (h : Idle (engOf s g)) : Idle (engOf (loadSlot c s) g) := by
  have hor : engOf (loadSlot c s) g = engReset ∨ engOf (loadSlot c s) g = match tget? c.engs (ekey g) with
    | some x => loadEng x (engOf s g)
    | none => engOf s g := tget_tmap_or _ engReset s.engs (ekey g)
  rcases hor with e | e
  · rw [e]
    exact engReset_idle
  · rw [e]
    split
    · exact h
    · exact h

/-- R357: a slot's registers where it holds the target step. -/
theorem rollback_spec (j : Nat) (s : State) :
    (rollback j s).life = .held ∧ (rollback j s).recov.target = some j ∧ (rollback j s).recov.faults = s.recov.faults ∧
      (rollback j s).recov.holds = s.recov.holds ∧ (∀ g, Idle (engOf (rollback j s) g)) ∧ (rollback j s).sram = s.sram ∧
      (rollback j s).dram = s.dram := by
  have hslot : ∃ t, (∀ g, Idle (engOf t g)) ∧ t.recov = s.recov ∧ t.sram = s.sram ∧ t.dram = s.dram ∧ ∃ b c : Bool, rollback j s =
      putRecov { t.recov with target := some j, restoring := b, rolledBack := c } { t with life := .held } := by
    unfold rollback
    dsimp only
    split
    · split
      · exact ⟨_, fun g => loadSlot_idle (wipeAttempt_idle j s g), rfl, rfl, rfl, _, _, rfl⟩
      · exact ⟨_, wipeAttempt_idle j s, rfl, rfl, rfl, _, _, rfl⟩
    · exact ⟨_, wipeAttempt_idle j s, rfl, rfl, rfl, _, _, rfl⟩
  obtain ⟨t, hidle, hrecov, hsram, hdram, b, c, heq⟩ := hslot
  rw [heq]
  exact ⟨rfl, rfl, (congrArg Recov.faults hrecov).trans rfl, (congrArg Recov.holds hrecov).trans rfl, hidle, hsram, hdram⟩

/-! ### The first hold -/

/-- R358: fixing the replay origin changes the origin and the GO message. -/
theorem fixOrigin_frame (s : State) : fixOrigin s = { s with
    recov := { s.recov with origin := (fixOrigin s).recov.origin }, fab := { s.fab with go := (fixOrigin s).fab.go } } := by
  unfold fixOrigin
  dsimp only
  split <;> rfl

/-- R356, R357: the first hold of a job that can replay rolls back to the step that it names. -/
theorem takeHold_first {h : Hold} {s : State} (hcause : isTerminal h.cause = false) (hlost : h.cause ≠ 0x0050) (hrun : runOrHeld s = true)
    (hrep : s.recov.replaying.contains h.step = false) (hoff : replayOff s = false) (hholds : s.recov.holds = []) :
    takeHold h s = rollback h.step (fixOrigin (putRecov { s.recov with holds := [h] } s)) := by
  have hlearn : ∀ t, learnDetour h t = t := fun t => if_pos (by simpa [linkLostCause] using hlost)
  have hnew : newHold h s = rollback h.step (fixOrigin (putRecov { s.recov with holds := [h] } s)) := by
    simp only [newHold, hholds, isNews, List.isEmpty_nil, List.all_nil, List.nil_append, if_true, hlearn]
  simp only [takeHold, hcause, hrun, hrep, hoff, Bool.not_true, Bool.false_eq_true, if_false, hnew]

/-- R355: a fault of the chip, with no tile to repair, is raised as a hold. -/
theorem reportFault_chip {code step : Nat} {s : State} (hrouter : findNat (routerBad s) 16 0 = none) :
    reportFault ⟨code, step, .chip, none⟩ s = raiseHold ⟨step, code, myRank s⟩ s := by
  have hmark : markLocal ⟨code, step, .chip, none⟩ s = s := rfl
  unfold reportFault
  dsimp only
  rw [hmark, if_neg (by simp [localAgain, afterSwap]), hrouter]
  dsimp only [katFor, repairTile]
  rw [ite_self]

theorem exec_faultReport {f : FaultRec} {r : List FaultRec} {s : State} (h : s.recov.faults = f :: r) :
    exec .faultReport s = .next (reportFault f (putRecov { s.recov with faults := r } s)) := by
  change execFaultReport s = _
  simp only [execFaultReport, h]

/-! ### The replay -/

/-- R359: what the replay begins with. -/
theorem beginReplay_spec (o j : Nat) (s : State) :
    (beginReplay o j s).life = .running ∧ (beginReplay o j s).run.start = o * 1024 ∧ (beginReplay o j s).recov.holds = [] ∧
      (beginReplay o j s).recov.origin = none ∧ (beginReplay o j s).recov.replaying = j :: s.recov.replaying ∧
      (beginReplay o j s).watch = s.watch ∧ (beginReplay o j s).sram = s.sram ∧ (beginReplay o j s).dram = s.dram := by
  unfold beginReplay
  dsimp only
  generalize hs3 : ledEvent 1 _ j _ o _ (regCount _ (raise 0x0080 pgRcv 0 0x0080 (j % 2 ^ 32) _ (releaseAll s))) = s3
  have h3 : Noted (releaseAll s) s3 := by
    rw [← hs3]
    exact ((raise_noted ..).trans (regCount_noted ..)).trans (ledEvent_noted ..)
  have hrecov : s3.recov = s.recov := by rw [h3]; rfl
  have hwatch : s3.watch = s.watch := by rw [h3]; rfl
  have hsram : s3.sram = s.sram := by rw [h3]; rfl
  have hdram : s3.dram = s.dram := by rw [h3]; rfl
  generalize hs4 : noteDetours j o _ = s5
  have h5 := noteDetours_noted j o { s3 with
    life := .running, ck0 := laterSlot (o * 1024 - s.run.start) s3.ck0, ck1 := laterSlot (o * 1024 - s.run.start) s3.ck1
    run := { s3.run with l1024 := s3.run.l1024 + (o * 1024 - s.run.start), start := o * 1024, gen := s3.run.gen + 1, grid := o }
    fab := { s3.fab with go := none }
    jobs := { s3.jobs with active := s3.jobs.active.map fun a => { a with replays := a.replays + 1 } } }
  rw [hs4] at h5
  rw [h5]
  exact ⟨rfl, rfl, rfl, rfl, (congrArg (fun r : Recov => j :: r.replaying) hrecov).trans rfl, hwatch, hsram, hdram⟩

theorem exec_replayOrigin {o : Nat} {s : State} (hheld : s.life = .held) (ho : s.recov.origin = some o) :
    exec .replayOrigin s = .next (atOrigin o (watchTo o s)) := by
  change execReplayOrigin s = _
  simp only [execReplayOrigin, ho, hheld, if_true]

/-- R359: at a replay origin where everything is ready. -/
theorem atOrigin_of_ready {o : Nat} {s : State} (hsw : notSwitched s = false) (hready : replayReady s = true) (hlim : overLimit s = false) :
    atOrigin o s = beginReplay o (s.recov.target.getD s.run.step) s := by
  simp only [atOrigin, hsw, hready, hlim, Bool.not_true, Bool.false_eq_true, if_false]

/-- Settles O33: the first hold, the end of the rollback and the replay. -/
theorem holdAndReplay : Obligations.HoldAndReplay := by
  unfold Obligations.HoldAndReplay
  refine ⟨fun s code step r hfaults hrun hholds hcode hlost hrep hoff hrouter => ?_, fun s hheld => ⟨fun s1 hrest hgo => ?_, fun o ho => ?_⟩⟩
  · generalize hs1 : sendHold ⟨step, code, s.fab.part.rank⟩ (putRecov { s.recov with faults := r } s) = s1
    have hrunning : runOrHeld (putRecov { s.recov with faults := r } s) = true := (runOrHeld_iff _).mpr (.inl hrun)
    have hraise : raiseHold ⟨step, code, s.fab.part.rank⟩ (putRecov { s.recov with faults := r } s) = takeHold ⟨step, code, s.fab.part.rank⟩ s1 := by
      rw [← hs1, raiseHold, if_pos (by rw [hcode, hrunning]; rfl)]
    have hheld : takeHold ⟨step, code, s.fab.part.rank⟩ s1 =
        rollback step (fixOrigin (putRecov { s1.recov with holds := [⟨step, code, s.fab.part.rank⟩] } s1)) := by
      rw [← hs1]
      exact takeHold_first hcode hlost hrunning hrep hoff hholds
    have hexec := exec_faultReport hfaults
    rw [reportFault_chip (by exact hrouter)] at hexec
    have hspec := rollback_spec step (fixOrigin (putRecov { s1.recov with holds := [⟨step, code, s.fab.part.rank⟩] } s1))
    rw [fixOrigin_frame] at hspec
    obtain ⟨hlife, htarget, hf, hh, hidle, hsram, hdram⟩ := hspec
    rw [fixOrigin_frame] at hheld
    refine ⟨_, hexec.trans (congrArg Host.Outcome.next (hraise.trans hheld)), hlife, ?_, hh, htarget, hidle, ?_, ?_⟩
    · rw [hf, ← hs1]
      rfl
    · rw [hsram, ← hs1]
      rfl
    · rw [hdram, ← hs1]
      rfl
  · change execRollbackComplete [] s = _
    simp only [execRollbackComplete, hheld, hrest, decide_true, Bool.and_self, if_true, restoreDone, strikes, List.foldl_nil, hgo, putRecov]
  · intro s1 hsw hready hlim
    have hexec := exec_replayOrigin hheld ho
    rw [atOrigin_of_ready (by exact hsw) (by exact hready) hlim] at hexec
    obtain ⟨hlife, hstart, hholds, horigin, hrep, hwatch, hsram, hdram⟩ := beginReplay_spec o (s1.recov.target.getD s1.run.step) s1
    exact ⟨_, hexec, hlife, hstart, hholds, horigin, hrep, hwatch, hsram, hdram⟩

/-! ### Failures of the module -/

/-- R371: the Fog signal is driven afterwards. -/
theorem fog_assertFog (code : Nat) (s : State) : bitAt (regGet (assertFog code s) (pageBase pgRcv + 0x60)) 0 = true := by
  unfold assertFog
  dsimp only
  split
  · assumption
  · have hreg : regGet (emit (.msix 0) (emit (.pin "FOG_N" 0) (regPut (pageBase pgRcv + 0x60) (1 + code * 2 ^ 16) s))) (pageBase pgRcv + 0x60) =
        1 + code * 2 ^ 16 := regGet_regPut_same ..
    rw [hreg]
    simp only [bitAt, beq_iff_eq]
    omega

theorem mem_out_assertFog {o : Out} {s : State} (h : o ∈ s.out) (code : Nat) : o ∈ (assertFog code s).out := by
  unfold assertFog
  dsimp only
  split
  · exact h
  · exact List.mem_cons_of_mem _ (List.mem_cons_of_mem _ h)

/-- R363: a lost Station of a running job. -/
theorem stationLost_of_inJob {n : Nat} {s : State} (h : inJob s = true) :
    (stnOf (stationLost n s) n).dark = true ∧ (stationLost n s).life = .faulted ∧
      (stationLost n s).recov.terminal = some (0x20A4, s.fab.part.rank) := by
  unfold stationLost
  dsimp only
  rw [if_pos h]
  obtain ⟨hlife, hterm, hstn, -⟩ := faulted_spec 0x20A4 s.run.step (myRank s) (raise 0x20A4 pgRcv 7 0x20A4 (s.run.step % 2 ^ 32) (myRank s)
    (staleBanks (markDark n 30 (putStn n { stnOf s n with dark := true } s))))
  refine ⟨?_, hlife, hterm⟩
  unfold stnOf at hstn ⊢
  rw [hstn, raise_frame]
  exact congrArg Station.dark (tget_tput_same _ s.stations n _)

/-- R370: a Keeper whose cores differ halts. -/
theorem keeperHalt_spec (s : State) :
    (keeperHalt s).life = .faulted ∧ (keeperHalt s).jobs.halted = true ∧
      (inJob s = false → bitAt (regGet (keeperHalt s) (pageBase pgRcv + 0x60)) 0 = true ∧ .report 0x20A6 pgRcv ∈ (keeperHalt s).out) := by
  unfold keeperHalt
  dsimp only
  split
  · next hjob =>
    obtain ⟨hlife, -, -, hhalt⟩ := faulted_spec 0x20A6 s.run.step (myRank s) { assertFog 0x20A6 (raise 0x20A6 pgRcv 9 0x20A6 (s.run.step % 2 ^ 32)
      (myRank s) s) with jobs := { (assertFog 0x20A6 (raise 0x20A6 pgRcv 9 0x20A6 (s.run.step % 2 ^ 32) (myRank s) s)).jobs with halted := true } }
    exact ⟨hlife, hhalt, fun h => absurd hjob (by rw [h]; decide)⟩
  · exact ⟨rfl, rfl, fun _ => ⟨fog_assertFog .., mem_out_assertFog (report_mem_out_raise ..) _⟩⟩

/-- R366: where every link of the records passes, the test only starts the counts again. -/
theorem testDetours_of_ok {s : State} (h : ∀ r ∈ detourRecs s s.run.bank, ∀ l ∈ detourLinks s r, detourLinkOk s l = true) :
    testDetours s = { s with
      recov := { s.recov with linkTestAt := s.watch }
      fab := { s.fab with links := tmap (fun _ k => { k with frames := 0, fec := 0 }) s.fab.links } } := by
  unfold testDetours
  generalize ({ s with
    recov := { s.recov with linkTestAt := s.watch }
    fab := { s.fab with links := tmap (fun _ k => { k with frames := 0, fec := 0 }) s.fab.links } } : State) = t0
  refine List.foldlRecOn (motive := fun t => t = t0) _ _ rfl fun t ht x hx => ?_
  have hrec : x.1 ∈ detourRecs s s.run.bank := List.fst_mem_of_mem_zipIdx hx
  refine List.foldlRecOn (motive := fun u => u = t0) _ _ ht fun u hu l hl => ?_
  rw [if_pos (h x.1 hrec l hl)]
  exact hu

/-- Settles O34: the three failures. -/
theorem moduleFailures : Obligations.ModuleFailures := by
  unfold Obligations.ModuleFailures
  refine fun s => ⟨fun st hrails hjob => ?_, fun hoff => ?_, fun hrun hok => ?_⟩
  · have hexec : exec (.stationPllLoss st) s =
        .next (stationLost st { s with kpr := { s.kpr with clk := tput s.kpr.clk st { clkOf s st with locked := false } } }) := by
      change execStationPllLoss st s = _
      rw [execStationPllLoss, if_neg (by rw [hrails]; decide)]
    obtain ⟨hdark, hlife, hterm⟩ := stationLost_of_inJob (n := st)
      (s := { s with kpr := { s.kpr with clk := tput s.kpr.clk st { clkOf s st with locked := false } } }) hjob
    exact ⟨_, hexec, hdark, hlife, hterm⟩
  · have hexec : exec .keeperCompareMismatch s = .next (keeperHalt s) := by
      change execKeeperCompareMismatch s = _
      rw [execKeeperCompareMismatch, if_pos (by simpa [powered] using hoff)]
    exact ⟨_, hexec, keeperHalt_spec s⟩
  · have hexec : exec .detourLinkTest s =
        .next (testDetours (watchTo (s.recov.linkTestAt + bits (regGet s (pageBase pgRcv + 0x54)) 11 0 * 1000000000) s)) := by
      change execDetourLinkTest s = _
      rw [execDetourLinkTest, if_pos ((runOrHeld_iff s).mpr hrun)]
    rw [testDetours_of_ok (by exact hok)] at hexec
    refine ⟨_, hexec, rfl, rfl, rfl, fun l => ?_⟩
    have hlink : ∀ t : State, t.fab.links = tmap (fun _ k => { k with frames := 0, fec := 0 }) s.fab.links →
        linkOf t l = { linkOf s l with frames := 0, fec := 0 } := fun t ht => by
      unfold linkOf
      rw [ht]
      exact tget_tmap (fun _ => rfl) ..
    rw [hlink _ rfl]
    exact ⟨rfl, rfl, rfl⟩

end Sys2Proof.Machine
end

section
/-! The Port engine's buffers (R280 to R285). -/

namespace Sys2Proof.Machine

/-! ### The departure buffer -/

theorem noteSlack_frame (st slack : Nat) (s : State) : noteSlack st slack s = { s with regs := (noteSlack st slack s).regs } := by
  unfold noteSlack
  dsimp only
  split <;> rfl

/-- R282, R284: a flit whose payload can be read enters the departure buffer. -/
theorem depFetch_of_read {st : Fin 16} {s s0 s1 : State} {l : Latched} {x : Slot} {due : Nat} {a : Opnd} {bs : List Byte}
    (hsend : sendOf s st = some l) (hslot : nextSlot s st l = some (x, due)) (hopnd : (opnd s (portEng st) l 0 false).go s = (.ok a, s0))
    (hread : (sendPayload (portEng st) l a l.flits).go s0 = (.ok bs, s1)) :
    depFetch st [] s = noteSlack st (due - 4 - s.watch)
      (putPort st { portOf s1 st with dep := (portOf s1 st).dep ++ [⟨physLink s (phLink x.2), x.1, due, phStag x.2, l.flits,
          if l.flits + 1 = (sendSlots s st (dW7 l.w)).length then transferAdd l.tally l.flits bs % tallyP else 0, bs⟩] }
        (setCur (portEng st) { l with flits := l.flits + 1, tally := transferAdd l.tally l.flits bs } s1)) := by
  have hrun : (do galleryGate []; let a ← opnd (← get) (portEng st) l 0 false; sendPayload (portEng st) l a l.flits : M (List Byte)).go s =
      (.ok bs, s1) := by
    rw [go_galleryGate_nil_bind, go_get_bind, go_bind_ok hopnd, hread]
  simp only [depFetch, hsend, hslot, hrun]

theorem exec_departureBufferFetch {st : Fin 16} {s : State} (h : canDepFetch s st = true) :
    exec (.departureBufferFetch st []) s = .next (depFetch st [] s) := by
  change execDepartureBufferFetch st [] s = _
  rw [execDepartureBufferFetch, if_pos h]
  rfl

theorem exec_departureDeadline {st : Fin 16} {s : State} {l : Latched} {x : Slot} {due : Nat} (hsend : sendOf s st = some l)
    (hslot : nextSlot s st l = some (x, due)) :
    exec (.departureDeadline st) s = .next (missDeadline st l x (watchTo (due - 4) s)) := by
  change execDepartureDeadline st s = _
  simp only [execDepartureDeadline, hsend, hslot]

/-! ### RECV -/

theorem exec_recvFlit {st : Fin 16} {s : State} {l : Latched} {f : LandFlit} (hrecv : recvOf s st = some l) (hflit : flitFor s st l = some f)
    (hroom : recvRoom s st l = true) : exec (.recvFlit st []) s = .next (recvTake st [] l f s) := by
  change execRecvFlit st [] s = _
  simp only [execRecvFlit, hrecv, hflit, hroom, if_true]
  rfl

/-- R283: a flit before the last. -/
theorem recvTake_of_not_last {st : Fin 16} {s s1 : State} {l : Latched} {f : LandFlit} (hlast : l.flits + 1 ≠ rvFlits (dW7 l.w))
    (hbody : (recvBody (portEng st) [] l f.payload).go (putPort st { portOf s st with land := (portOf s st).land.filter (· != f) } s) = (.ok (), s1)) :
    recvTake st [] l f s = setCur (portEng st) { l with flits := l.flits + 1, tally := transferAdd l.tally l.flits f.payload } s1 := by
  simp only [recvTake, if_neg hlast, go_bind_ok hbody, go_pure]

/-- R283, R284: the last flit, by what follows it. -/
theorem recvTake_of_last {st : Fin 16} {s s1 s2 : State} {l : Latched} {f : LandFlit} (hlast : l.flits + 1 = rvFlits (dW7 l.w))
    (hbody : (recvBody (portEng st) [] l f.payload).go (putPort st { portOf s st with land := (portOf s st).land.filter (· != f) } s) = (.ok (), s1))
    (hend : (recvLast (portEng st) l f (transferAdd l.tally l.flits f.payload)).go s1 = (.ok (), s2)) :
    recvTake st [] l f s = finish (portEng st) { l with flits := l.flits + 1, tally := transferAdd l.tally l.flits f.payload } s2 := by
  simp only [recvTake, if_pos hlast, go_bind_ok hbody, hend]

/-- R284: a transfer whose Tally differs ends with 0x2012. -/
theorem go_recvLast_of_differs {g : Eng} {l : Latched} {f : LandFlit} {t : Nat} {s : State} (h : t % tallyP ≠ f.tally) :
    (recvLast g l f t).go s = (.error { code := 0x2012, tile := none, detail := f.stag, row := f.index }, chk 2 true s) := by
  have hne : (t % tallyP != f.tally) = true := by simpa using h
  rw [recvLast, go_modify_bind, hne, if_pos rfl]
  rfl

theorem recvTake_of_differs {st : Fin 16} {s s1 : State} {l : Latched} {f : LandFlit} (hlast : l.flits + 1 = rvFlits (dW7 l.w))
    (hbody : (recvBody (portEng st) [] l f.payload).go (putPort st { portOf s st with land := (portOf s st).land.filter (· != f) } s) = (.ok (), s1))
    (hdiff : transferAdd l.tally l.flits f.payload % tallyP ≠ f.tally) :
    recvTake st [] l f s = runBad (portEng st) l { code := 0x2012, tile := none, detail := f.stag + f.origin * 2 ^ 12, row := l.flits } (chk 2 true s1) := by
  simp only [recvTake, if_pos hlast, go_bind_ok hbody, go_recvLast_of_differs hdiff]

/-- Settles O37: the fetch and its deadline, the release, and what a RECV takes. -/
theorem portBuffers : Obligations.PortBuffers := by
  unfold Obligations.PortBuffers
  refine ⟨fun st s l x due hsend hslot => ⟨fun a s0 bs s1 hcan hopnd hread => ?_, ?_⟩, fun st s f => ⟨fun hrel => ?_, fun l s1 hrecv hflit hroom => ?_⟩⟩
  · have hexec := exec_departureBufferFetch hcan
    rw [depFetch_of_read hsend hslot hopnd hread, noteSlack_frame] at hexec
    refine ⟨_, hexec, ?_, ?_, rfl⟩
    · exact (congrArg Port.dep (portOf_putPort_same ..)).trans rfl
    · exact (congrArg Engine.cur (setCur_eng ..)).trans rfl
  · have hframe := runBad_frame (portEng st) l { code := 0x2010, tile := none, detail := phStag x.2 + x.1 * 2 ^ 12, row := l.flits } (watchTo (due - 4) s)
    refine ⟨_, exec_departureDeadline hsend hslot, ?_, ?_, ?_, ?_, ?_, ?_⟩
    · rw [missDeadline, hframe]
      rfl
    · rw [missDeadline, hframe]
      rfl
    · rw [missDeadline, runBad_eng]
    · exact runBad_faults ..
    · rw [missDeadline, hframe]
      rfl
    · rw [missDeadline, hframe]
      rfl
  · have hexec : exec (.flitRelease st) s = .next (releaseFlit st f (watchTo f.release s)) := by
      change execFlitRelease st s = _
      simp only [execFlitRelease, hrel]
    exact ⟨_, hexec, rfl, portOf_putPort_same .., rfl⟩
  · intro s0 t' hbody
    have hexec := exec_recvFlit hrecv hflit hroom
    refine ⟨fun hlast => ?_, fun s2 hlast hend => ?_, fun hlast hdiff => ?_⟩
    · rw [recvTake_of_not_last hlast hbody] at hexec
      refine ⟨_, hexec, ?_, rfl⟩
      rw [setCur_eng]
    · have hagree : t' % tallyP = f.tally := by
        by_contra hdiff
        rw [go_recvLast_of_differs hdiff] at hend
        cases hend
      rw [recvTake_of_last hlast hbody hend] at hexec
      refine ⟨hagree, _, hexec, rfl, ?_⟩
      rw [finish_eng]
    · rw [recvTake_of_differs hlast hbody hdiff] at hexec
      refine ⟨_, hexec, ?_, ?_, ?_, ?_⟩
      · rw [runBad_eng]
      · exact runBad_faults ..
      · rw [runBad_frame]
        rfl
      · rw [runBad_frame]
        rfl

end Sys2Proof.Machine
end

section
/-! What leaves on a link (R267 to R269, R280, R288, R303, R307), and what moving Bulk flits leaves. -/

namespace Sys2Proof.Machine

/-! ### Links put twice -/

theorem tput_tput_same {α : Type} (t : Tbl α) (k : Nat) (v w : α) : tput (tput t k v) k w = tput t k w := by
  induction t with
  | nil => simp [tput]
  | cons e t ih =>
    obtain ⟨j, u⟩ := e
    by_cases hlt : k < j
    · simp [tput, hlt]
    · by_cases hj : j = k
      · simp [tput, hj]
      · simp [tput, hlt, hj, ih]

theorem putLink_putLink (l : Nat) (k m : Link) (s : State) : putLink l m (putLink l k s) = putLink l m s := by
  unfold putLink
  dsimp only
  rw [tput_tput_same]

theorem linkOf_congr {s t : State} (h : t.fab.links = s.fab.links) (l : Nat) : linkOf t l = linkOf s l := by simp only [linkOf, h]

theorem linkOf_emit (o : Out) (s : State) (l : Nat) : linkOf (emit o s) l = linkOf s l := rfl

/-! ### Sending -/

theorem sentOne_eq (k : Link) : ∃ n key, sentOne k = { k with sentUnder := n, keyTx := key } := by
  unfold sentOne
  split
  · exact ⟨k.sentUnder, k.keyTx, rfl⟩
  · split
    · exact ⟨0, ratchet k.keyTx, rfl⟩
    · exact ⟨k.sentUnder + 1, k.keyTx, rfl⟩

/-- R298, R317: a frame leaves, and the count under the key moves. -/
theorem transmit_eq (l h : Nat) (p : List Byte) (s : State) :
    ∃ fr n key, transmit l h p s = emit (.wire l fr) (putLink l { linkOf s l with sentUnder := n, keyTx := key } s) := by
  obtain ⟨n, key, hsent⟩ := sentOne_eq (linkOf s l)
  unfold transmit
  dsimp only
  rw [hsent]
  exact ⟨_, n, key, rfl⟩

/-- R306, R307: a new DATA or CONTROL frame leaves with the next SEQ and enters the replay buffer. -/
theorem sendNew_eq (l : Nat) (kind : TxKind) (h : Nat) (p : List Byte) (s : State) :
    ∃ fr n key at_, sendNew l kind h p s = emit (.wire l fr) (putLink l { linkOf s l with
      seq := ((linkOf s l).seq + 1) % 4096
      buf := (linkOf s l).buf ++ [⟨(linkOf s l).seq, kind, s.run.gen, withSeq h (linkOf s l).seq, p, false⟩]
      ackAt := at_, sentUnder := n, keyTx := key } s) := by
  unfold sendNew
  dsimp only
  obtain ⟨fr, n, key, ht⟩ := transmit_eq l (withSeq h (linkOf s l).seq) p (putLink l { linkOf s l with
    seq := ((linkOf s l).seq + 1) % 4096
    buf := (linkOf s l).buf ++ [⟨(linkOf s l).seq, kind, s.run.gen, withSeq h (linkOf s l).seq, p, false⟩]
    ackAt := if (linkOf s l).buf.isEmpty then s.watch else (linkOf s l).ackAt } s)
  rw [ht, linkOf_putLink_same, putLink_putLink]
  exact ⟨fr, n, key, _, rfl⟩

/-- R306, R307: what a new frame leaves of its link's replay buffer. -/
theorem sendNew_spec (l : Nat) (kind : TxKind) (h : Nat) (p : List Byte) (s : State) :
    (∃ fr, (sendNew l kind h p s).out = .wire l fr :: s.out) ∧
      (linkOf (sendNew l kind h p s) l).buf = (linkOf s l).buf ++ [⟨(linkOf s l).seq, kind, s.run.gen, withSeq h (linkOf s l).seq, p, false⟩] ∧
      (linkOf (sendNew l kind h p s) l).seq = ((linkOf s l).seq + 1) % 4096 ∧
      sendNew l kind h p s = { s with out := (sendNew l kind h p s).out, fab := { s.fab with links := (sendNew l kind h p s).fab.links } } := by
  obtain ⟨fr, n, key, at_, hsend⟩ := sendNew_eq l kind h p s
  rw [hsend, linkOf_emit, linkOf_putLink_same]
  exact ⟨⟨fr, rfl⟩, rfl, rfl, rfl⟩

/-- R280, R289: a Scheduled flit leaves with its occupancy. -/
theorem sendSched_spec (l h start : Nat) (p : List Byte) (s : State) :
    (∃ fr, (sendSched l h start p s).out = .wire l fr :: s.out) ∧
      (linkOf (sendSched l h start p s) l).buf =
        (linkOf s l).buf ++ [⟨(linkOf s l).seq, .scheduled, s.run.gen, withSeq h (linkOf s l).seq, p, false⟩] ∧
      sendSched l h start p s = { s with out := (sendSched l h start p s).out, fab := { s.fab with links := (sendSched l h start p s).fab.links } } := by
  obtain ⟨hout, hbuf, -, hframe⟩ := sendNew_spec l .scheduled h p (putLink l { linkOf s l with occ := (linkOf s l).occ ++ [start] } s)
  rw [linkOf_putLink_same] at hbuf
  exact ⟨hout, hbuf, hframe⟩

/-! ### Moving Bulk flits -/

/-- R303: moving Bulk flits changes the queues of the links, the messages in parts and what the endpoints are given; a message given is
added to those of before. -/
structure BulkMoves (s t : State) : Prop where
  links : ∀ l, ∃ q r o, linkOf t l = { linkOf s l with bulkQ := q, rxBulk := r, offOut := o }
  out : ∀ o ∈ s.out, o ∈ t.out
  rest : t = { s with
    out := t.out, dram := t.dram, dramEcc := t.dramEcc, kpr := { s.kpr with dram := t.kpr.dram }
    fab := { s.fab with links := t.fab.links, outbox := t.fab.outbox, bulk := t.fab.bulk, bulkDone := t.fab.bulkDone } }

theorem BulkMoves.refl (s : State) : BulkMoves s s := ⟨fun _ => ⟨_, _, _, rfl⟩, fun _ h => h, rfl⟩

theorem BulkMoves.trans {s t u : State} (h : BulkMoves s t) (k : BulkMoves t u) : BulkMoves s u := by
  refine ⟨fun l => ?_, fun o ho => k.out o (h.out o ho), ?_⟩
  · obtain ⟨q, r, o, hl⟩ := h.links l
    obtain ⟨q', r', o', kl⟩ := k.links l
    rw [hl] at kl
    exact ⟨q', r', o', kl⟩
  · have hu := k.rest
    rw [h.rest] at hu
    exact hu

theorem BulkMoves.foldl {α : Type} {f : State → α → State} (h : ∀ t x, BulkMoves t (f t x)) (l : List α) (s : State) :
    BulkMoves s (l.foldl f s) :=
  List.foldlRecOn l f (motive := BulkMoves s) (.refl s) fun _ ht x _ => ht.trans (h _ x)

theorem BulkMoves.buf {s t : State} (h : BulkMoves s t) (l : Nat) : (linkOf t l).buf = (linkOf s l).buf := by
  obtain ⟨q, r, o, hl⟩ := h.links l
  rw [hl]

theorem BulkMoves.st {s t : State} (h : BulkMoves s t) (l : Nat) : (linkOf t l).st = (linkOf s l).st := by
  obtain ⟨q, r, o, hl⟩ := h.links l
  rw [hl]

theorem BulkMoves.seq {s t : State} (h : BulkMoves s t) (l : Nat) : (linkOf t l).seq = (linkOf s l).seq := by
  obtain ⟨q, r, o, hl⟩ := h.links l
  rw [hl]

theorem BulkMoves.cable {s t : State} (h : BulkMoves s t) (l : Nat) : (linkOf t l).cable = (linkOf s l).cable := by
  obtain ⟨q, r, o, hl⟩ := h.links l
  rw [hl]

theorem BulkMoves.retryAt {s t : State} (h : BulkMoves s t) (l : Nat) : (linkOf t l).retryAt = (linkOf s l).retryAt := by
  obtain ⟨q, r, o, hl⟩ := h.links l
  rw [hl]

theorem BulkMoves.watch {s t : State} (h : BulkMoves s t) : t.watch = s.watch := by rw [h.rest]
theorem BulkMoves.life {s t : State} (h : BulkMoves s t) : t.life = s.life := by rw [h.rest]

/-- A link whose Bulk queues and OFF change. -/
theorem putLink_bulkMoves (l : Nat) (q r : List BulkFlit) (o : Bool) (s : State) :
    BulkMoves s (putLink l { linkOf s l with bulkQ := q, rxBulk := r, offOut := o } s) := by
  refine ⟨fun m => ?_, fun _ h => h, rfl⟩
  by_cases hm : m = l
  · rw [hm, linkOf_putLink_same]
    exact ⟨_, _, _, rfl⟩
  · rw [linkOf_putLink_other _ _ hm]
    exact ⟨_, _, _, rfl⟩

theorem setOff_bulkMoves (l : Nat) (s : State) : BulkMoves s (setOff l s) := putLink_bulkMoves ..

theorem pushBulk_bulkMoves (o : Nat) (f : BulkFlit) (s : State) : BulkMoves s (pushBulk o f s) := putLink_bulkMoves ..

theorem emit_bulkMoves (o : Out) (s : State) : BulkMoves s (emit o s) :=
  ⟨fun _ => ⟨_, _, _, rfl⟩, fun _ h => List.mem_cons_of_mem _ h, rfl⟩

theorem pokeDram_bulkMoves (a : Nat) (bs : List Byte) (s : State) : BulkMoves s (pokeMem 1 a bs s) := by
  rw [pokeDram_eq]
  exact ⟨fun _ => ⟨_, _, _, rfl⟩, fun _ h => h, rfl⟩

theorem bulkFill_bulkMoves (bs : List Byte) (s : State) : BulkMoves s (bulkFill bs s) := by
  unfold bulkFill
  dsimp only
  split
  · split
    · rw [writeMem_dram_go]
      split
      · exact .refl s
      · exact pokeDram_bulkMoves ..
    · exact .refl s
  · exact .refl s

theorem bulkArrives_bulkMoves (m : BulkMsg) (s : State) : BulkMoves s (bulkArrives m s) := by
  unfold bulkArrives
  refine BulkMoves.trans ?_ (emit_bulkMoves ..)
  split
  · exact bulkFill_bulkMoves ..
  · exact .refl s

/-- The messages in parts and the keys of those that have arrived. -/
theorem putParts_bulkMoves (b : List BulkMsg) (d : List (Nat × Nat)) (s : State) : BulkMoves s { s with fab := { s.fab with bulk := b, bulkDone := d } } :=
  ⟨fun _ => ⟨_, _, _, rfl⟩, fun _ h => h, rfl⟩

theorem takeBulk_bulkMoves (f : BulkFlit) (s : State) : BulkMoves s (takeBulk f s) := by
  unfold takeBulk
  dsimp only
  split
  · exact .refl s
  · split
    · exact (putParts_bulkMoves ..).trans (bulkArrives_bulkMoves ..)
    · exact putParts_bulkMoves ..

theorem drainRx_bulkMoves (l n : Nat) (s : State) : BulkMoves s (drainRx l n s) := by
  induction n generalizing s with
  | zero => exact .refl s
  | succ n ih =>
    unfold drainRx
    split
    case h_1 => exact .refl s
    case h_2 f r _ =>
      have hput : BulkMoves s (putLink l { linkOf s l with rxBulk := r } s) := putLink_bulkMoves ..
      dsimp only
      split
      · exact (hput.trans (takeBulk_bulkMoves ..)).trans (ih _)
      · split
        · exact (hput.trans (pushBulk_bulkMoves ..)).trans (ih _)
        · exact .refl s

theorem putOutbox_bulkMoves (o : List BulkFlit) (s : State) : BulkMoves s { s with fab := { s.fab with outbox := o } } :=
  ⟨fun _ => ⟨_, _, _, rfl⟩, fun _ h => h, rfl⟩

theorem drainOut_bulkMoves (s : State) : BulkMoves s (drainOut s) := by
  refine (putOutbox_bulkMoves [] s).trans (.foldl (fun t f => ?_) ..)
  split
  · exact .refl t
  · split
    · exact pushBulk_bulkMoves ..
    · exact putOutbox_bulkMoves ..

theorem drainAll_bulkMoves (s : State) : BulkMoves s (drainAll s) := by
  refine BulkMoves.trans (.foldl (fun t l => ?_) (List.range 96) s) (drainOut_bulkMoves _)
  split
  · exact .refl t
  · exact (drainRx_bulkMoves ..).trans (setOff_bulkMoves ..)

/-- R303: this chip's own flits join queues, and nothing else moves. -/
theorem drainOut_frame (s : State) : drainOut s = { s with fab := { s.fab with links := (drainOut s).fab.links, outbox := (drainOut s).fab.outbox } } := by
  unfold drainOut
  refine List.foldlRecOn (motive := fun t : State => t = { s with fab := { s.fab with links := t.fab.links, outbox := t.fab.outbox } }) _ _ rfl fun t ht f _ => ?_
  split
  · exact ht
  · split
    · unfold pushBulk putLink
      rw [ht]
    · rw [ht]

/-- R303: with no flit in any receive buffer only this chip's own flits move. -/
theorem drainAll_of_empty {s : State} (h : ∀ j, j < 96 → (linkOf s j).rxBulk = []) : drainAll s = drainOut s := by
  have hfold : (List.range 96).foldl (fun t l => if (linkOf t l).rxBulk.isEmpty then t else setOff l (drainRx l 128 t)) s = s := by
    refine List.foldlRecOn (motive := fun t => t = s) _ _ rfl fun t ht l hl => ?_
    rw [ht, h l (List.mem_range.mp hl)]
    rfl
  rw [drainAll, hfold]

/-! ### A SEND's flit -/

/-- R280: after a SEND's flit the departure buffer holds the others; the SEND moves on. -/
theorem flitLeft_spec (st : Fin 16) (d : DepFlit) (s : State) :
    (portOf (flitLeft st d s) st).dep = (portOf s st).dep.filter (· != d) ∧ (flitLeft st d s).fab.links = s.fab.links ∧
      (flitLeft st d s).out = s.out ∧ (flitLeft st d s).sram = s.sram ∧ (flitLeft st d s).dram = s.dram := by
  have hdep : (portOf (putPort st { portOf s st with dep := (portOf s st).dep.filter (· != d) } s) st).dep = (portOf s st).dep.filter (· != d) := by
    rw [portOf_putPort_same]
  unfold flitLeft
  dsimp only
  split
  · exact ⟨hdep, rfl, rfl, rfl, rfl⟩
  · split
    · split
      · exact ⟨hdep, rfl, rfl, rfl, rfl⟩
      · exact ⟨hdep, rfl, rfl, rfl, rfl⟩
    · exact ⟨hdep, rfl, rfl, rfl, rfl⟩

theorem exec_flashStart_up {l : LinkNo} {s : State} {f : FlashAt} (hrails : railsOff s = false) (hup : (linkOf s l).st = .up)
    (hf : nextFlash s l = some f) : exec (.flashStart l) s = .next (upFlash l f s) := by
  change execFlashStart l s = _
  simp only [execFlashStart, hrails, hup, hf, Bool.false_eq_true, if_false, if_true]

/-- R289: a SEND's flit whose occupancy is free leaves. -/
theorem depart_of_free {l : Nat} {f : FlashAt} {st : Fin 16} {d : DepFlit} {s : State} (hroom : (linkOf s l).buf.length < 1008)
    (hocc : (linkOf s l).occ.any (occOverlap f.ticks f.start) = false) :
    depart l f st d s = flitLeft st d (sendSched l (schedHeader s.run.gen d.origin 0 d.stag d.index d.tally) f.start d.payload s) := by
  simp only [depart, hocc, if_neg (Nat.not_le.mpr hroom), Bool.false_eq_true, if_false]

/-- R268: a Flash that is neither of control nor of retry, and is not cut, is schedulable. -/
theorem upFlash_of_schedulable {l : Nat} {f : FlashAt} {s : State} (hcut : f.cut = false) (hres : isReserved f.num = false) :
    upFlash l f s = schedFlash l f (pruneOcc l f (watchTo f.start s)) := by
  obtain ⟨hctl, hretry⟩ : isControlFlash f.num = false ∧ isRetryFlash f.num = false := by simpa [isReserved] using hres
  simp only [upFlash, hcut, hctl, hretry, Bool.false_eq_true, if_false]

theorem schedFlash_of_departing {l : Nat} {f : FlashAt} {st : Fin 16} {d : DepFlit} {s : State} (hpart : f.part = true) (hrun : s.life = .running)
    (hdep : departing s l f.num = some (st, d)) : schedFlash l f s = depart l f st d s := by
  simp only [schedFlash, hpart, hrun, hdep, decide_true, Bool.and_self, if_true]

/-- R267: the Flash of a link, its occupancies that have ended left out. -/
theorem pruneOcc_spec (l : Nat) (f : FlashAt) (s : State) :
    (∃ a o, linkOf (pruneOcc l f s) l = { linkOf s l with flashAt := a, occ := o }) ∧
      pruneOcc l f s = { s with fab := { s.fab with links := (pruneOcc l f s).fab.links } } :=
  ⟨⟨_, _, linkOf_putLink_same ..⟩, rfl⟩

/-- R268, R280: what a departing flit leaves, in the state that its Flash begins with. -/
theorem depart_spec {l : Nat} {f : FlashAt} {st : Fin 16} {d : DepFlit} {s : State} (hroom : (linkOf s l).buf.length < 1008)
    (hocc : (linkOf s l).occ.any (occOverlap f.ticks f.start) = false) :
    (∃ fr, (depart l f st d s).out = .wire l fr :: s.out) ∧
      (linkOf (depart l f st d s) l).buf = (linkOf s l).buf ++ [⟨(linkOf s l).seq, .scheduled, s.run.gen,
        withSeq (schedHeader s.run.gen d.origin 0 d.stag d.index d.tally) (linkOf s l).seq, d.payload, false⟩] ∧
      (portOf (depart l f st d s) st).dep = (portOf s st).dep.filter (· != d) ∧
      (depart l f st d s).sram = s.sram ∧ (depart l f st d s).dram = s.dram := by
  rw [depart_of_free hroom hocc]
  obtain ⟨⟨fr, hout⟩, hbuf, hframe⟩ := sendSched_spec l (schedHeader s.run.gen d.origin 0 d.stag d.index d.tally) f.start d.payload s
  generalize sendSched l (schedHeader s.run.gen d.origin 0 d.stag d.index d.tally) f.start d.payload s = u at hout hbuf hframe ⊢
  obtain ⟨hport, hlinks, hout', hsram, hdram⟩ := flitLeft_spec st d u
  have hdep : portOf u st = portOf s st := by
    unfold portOf
    rw [hframe]
  refine ⟨⟨fr, hout'.trans hout⟩, (congrArg Link.buf (linkOf_congr hlinks l)).trans hbuf, ?_, ?_, ?_⟩
  · rw [hport, hdep]
  · rw [hsram, hframe]
  · rw [hdram, hframe]

/-- R288, R303: a Bulk flit that leaves. -/
theorem sendBulk_of_queued {l : Nat} {b : BulkFlit} {r : List BulkFlit} {s : State} (hroom : (linkOf s l).buf.length < 1008)
    (hoff : (linkOf s l).offIn = false) (hagain : againOf (linkOf s l) true = none) (hq : (linkOf s l).bulkQ = b :: r) :
    sendBulk l s = some (drainAll (sendNew l .bulk b.header b.payload (putLink l { linkOf s l with bulkQ := r } s))) := by
  simp only [sendBulk, hoff, hagain, hq, if_neg (Nat.not_le.mpr hroom), Bool.false_eq_true, if_false]

/-- R306, R307: a new frame leaves the receive buffers. -/
theorem rxBulk_sendNew (l : Nat) (kind : TxKind) (h : Nat) (p : List Byte) (s : State) (j : Nat) :
    (linkOf (sendNew l kind h p s) j).rxBulk = (linkOf s j).rxBulk := by
  obtain ⟨fr, n, key, at_, hsend⟩ := sendNew_eq l kind h p s
  rw [hsend, linkOf_emit]
  by_cases hj : j = l
  · rw [hj, linkOf_putLink_same]
  · rw [linkOf_putLink_other _ _ hj]

theorem rxBulk_putLink {l : Nat} {k : Link} {s : State} (h : k.rxBulk = (linkOf s l).rxBulk) (j : Nat) :
    (linkOf (putLink l k s) j).rxBulk = (linkOf s j).rxBulk := by
  by_cases hj : j = l
  · rw [hj, linkOf_putLink_same, h]
  · rw [linkOf_putLink_other _ _ hj]

/-- R303: what a Bulk flit that leaves changes. -/
theorem sendBulk_spec {l : Nat} {b : BulkFlit} {r : List BulkFlit} {s : State} (hroom : (linkOf s l).buf.length < 1008)
    (hoff : (linkOf s l).offIn = false) (hagain : againOf (linkOf s l) true = none) (hq : (linkOf s l).bulkQ = b :: r) :
    ∃ t, sendBulk l s = some t ∧ (∃ fr, .wire l fr ∈ t.out) ∧
      (linkOf t l).buf = (linkOf s l).buf ++ [⟨(linkOf s l).seq, .bulk, s.run.gen, withSeq b.header (linkOf s l).seq, b.payload, false⟩] ∧
      (linkOf t l).seq = ((linkOf s l).seq + 1) % 4096 ∧ t.watch = s.watch ∧
      ((∀ j, j < 96 → (linkOf s j).rxBulk = []) → t.sram = s.sram ∧ t.dram = s.dram) := by
  obtain ⟨⟨fr, hout⟩, hbuf, hseq, hframe⟩ := sendNew_spec l .bulk b.header b.payload (putLink l { linkOf s l with bulkQ := r } s)
  generalize ht : drainAll (sendNew l .bulk b.header b.payload (putLink l { linkOf s l with bulkQ := r } s)) = t
  have hrx : ∀ j, (linkOf (sendNew l .bulk b.header b.payload (putLink l { linkOf s l with bulkQ := r } s)) j).rxBulk = (linkOf s j).rxBulk :=
    fun j => (rxBulk_sendNew ..).trans (rxBulk_putLink (by rfl) j)
  have hmoves := drainAll_bulkMoves (sendNew l .bulk b.header b.payload (putLink l { linkOf s l with bulkQ := r } s))
  have hnone : (∀ j, j < 96 → (linkOf s j).rxBulk = []) → t = drainOut (sendNew l .bulk b.header b.payload (putLink l { linkOf s l with bulkQ := r } s)) :=
    fun h => ht.symm.trans (drainAll_of_empty fun j hj => (hrx j).trans (h j hj))
  have hbulk := sendBulk_of_queued hroom hoff hagain hq
  rw [ht] at hmoves hbulk
  rw [linkOf_putLink_same] at hbuf hseq
  refine ⟨t, hbulk, ⟨fr, hmoves.out _ (by rw [hout]; exact List.mem_cons_self ..)⟩, (hmoves.buf l).trans hbuf, (hmoves.seq l).trans hseq, ?_, fun h => ?_⟩
  · rw [hmoves.watch, hframe]
    rfl
  · rw [hnone h, drainOut_frame, hframe]
    exact ⟨rfl, rfl⟩

/-- Settles O36: the SEND's flit and the Bulk flit each leave by one sendNew. -/
theorem schedulableFlash : Obligations.SchedulableFlash := by
  unfold Obligations.SchedulableFlash
  intro l s f hrails hup hroom k
  obtain ⟨⟨a, o, hlink⟩, hprune⟩ := pruneOcc_spec l f (watchTo f.start s)
  refine ⟨fun st d hf hcut hres hpart hrun hdep hocc => ?_, fun b r hf hoff hagain hq => ?_⟩
  · have hexec := exec_flashStart_up hrails hup hf
    rw [upFlash_of_schedulable hcut hres, schedFlash_of_departing hpart (by exact hrun) (by exact hdep)] at hexec
    have hroom' : (linkOf (pruneOcc l f (watchTo f.start s)) l).buf.length < 1008 := by
      rw [hlink]
      exact hroom
    obtain ⟨⟨fr, hout⟩, hbuf, hport, hsram, hdram⟩ := depart_spec (st := st) (d := d) hroom' (by exact hocc)
    rw [hlink] at hbuf
    refine ⟨_, _, fr, hexec, ?_, hbuf, ?_, ?_, ?_, ?_, hport, hsram, hdram⟩
    · rw [hout]
      rfl
    · rfl
    · rfl
    · rfl
    · rfl
  · have hexec : exec (.bulkForward l) s = .next ((sendBulk l (pruneOcc l f (watchTo f.start s))).getD s) := by
      change execBulkForward l s = _
      simp only [execBulkForward, hrails, hup, hf, bne_self_eq_false, Bool.or_self, Bool.false_eq_true, if_false]
    obtain ⟨t, hbulk, ⟨fr, hout⟩, hbuf, hseq, hwatch, hmem⟩ := sendBulk_spec (l := l) (b := b) (r := r) (s := pruneOcc l f (watchTo f.start s))
      (by rw [hlink]; exact hroom) (by rw [hlink]; exact hoff) (by rw [hlink]; exact hagain) (by rw [hlink]; exact hq)
    rw [hbulk] at hexec
    rw [hlink] at hbuf hseq
    refine ⟨_, fr, hexec, hout, hbuf, hseq, hwatch, fun h => hmem fun j hj => ?_⟩
    exact (rxBulk_putLink (by rfl) j).trans (h j hj)

end Sys2Proof.Machine
end

section
/-! What a link does with the frames that it receives (R285, R303, R307 to R313). -/

namespace Sys2Proof.Machine

/-! ### Frames that open -/

/-- R312: a frame that opens on an UP link is handed on when it has its command's kind. -/
theorem arrive_of_open {l : Nat} {fr : Frame} {kind : Nat → Bool} {handle : Nat → List Byte → State → State} {s s1 : State} {h : Nat}
    {p : List Byte} (hrails : railsOff s = false) (hup : (linkOf s l).st = .up) (hopen : openFrame l fr s = (some (h, p), s1))
    (hkind : kind h = true) : arrive l fr kind handle s = handle h p s1 := by
  simp only [arrive, hrails, hup, hopen, hkind, bne_self_eq_false, Bool.or_self, Bool.false_eq_true, if_false, if_true]

theorem sequenced_of_duplicate {l h : Nat} {handle : Nat → Nat → List Byte → State → State} {p : List Byte} {s : State}
    (hseq : takeSeq (hSeq h) (linkOf s l) = none) : sequenced l handle h p s = regCount (lnkReg l 0x8C) s := by
  unfold sequenced
  rw [hseq]

theorem sequenced_of_new {l h : Nat} {handle : Nat → Nat → List Byte → State → State} {p : List Byte} {s : State} {k : Link}
    (hseq : takeSeq (hSeq h) (linkOf s l) = some k) : sequenced l handle h p s = handle l h p (putLink l k s) := by
  unfold sequenced
  rw [hseq]

/-! ### Scheduled flits -/

theorem ite_regPut_regs (c : Prop) [Decidable c] (a v : Nat) (s : State) : ∃ rg, (if c then regPut a v s else s) = { s with regs := rg } := by
  split
  · exact ⟨_, rfl⟩
  · exact ⟨_, rfl⟩

/-- R283, R285: a flit that a landing buffer with room takes; counts aside, nothing else changes. -/
theorem deliver_eq {st : Nat} {f : LandFlit} {rel : Nat} {s : State} (hroom : (portOf s st).land.length < 512) :
    ∃ rg led, deliver st f rel s = { putPort st { portOf s st with land := (portOf s st).land ++ [{ f with
      release := if strictOn s then max rel f.release else f.release
      free := decide ((if strictOn s then max rel f.release else f.release) ≤ s.watch) }] } s with regs := rg, led := led } := by
  unfold deliver
  dsimp only
  rw [if_neg (Nat.not_le.mpr hroom)]
  generalize putPort st _ s = s0
  obtain ⟨rg, hcount⟩ := ite_regPut_regs
    (bits (regGet (regAdd64 (pageBase (pgPrt st) + 0x48) 1 s0) (pageBase (pgPrt st) + 0x58)) 9 0 < (portOf s st).land.length + 1)
    (pageBase (pgPrt st) + 0x58) ((portOf s st).land.length + 1) (regAdd64 (pageBase (pgPrt st) + 0x48) 1 s0)
  rw [hcount]
  split
  · exact ⟨_, _, rfl⟩
  · exact ⟨_, _, rfl⟩

theorem deliver_spec {st : Nat} {f : LandFlit} {rel : Nat} {s : State} (hroom : (portOf s st).land.length < 512) :
    (portOf (deliver st f rel s) st).land = (portOf s st).land ++ [{ f with
      release := if strictOn s then max rel f.release else f.release
      free := decide ((if strictOn s then max rel f.release else f.release) ≤ s.watch) }] ∧
      (deliver st f rel s).sram = s.sram ∧ (deliver st f rel s).dram = s.dram := by
  obtain ⟨rg, led, heq⟩ := deliver_eq (f := f) (rel := rel) hroom
  rw [heq]
  refine ⟨?_, rfl, rfl⟩
  have hport : ∀ k t, portOf { putPort st k t with regs := rg, led := led } st = k := fun _ _ => portOf_putPort_same ..
  rw [hport]

/-- R271: a flit that the staging buffer has room for. -/
theorem stageFlit_of_room {l t : Nat} {s : State} (hroom : ((linkOf s l).staged.filter fun w => decide (s.watch < w)).length < 24) :
    ∃ k, stageFlit l t s = some (putLink l k s) := by
  unfold stageFlit
  dsimp only
  rw [if_pos hroom]
  exact ⟨_, rfl⟩

/-- R272, R277, R312: a Scheduled flit on time for a landing buffer here. -/
theorem takeSched_of_on_time {l h ph : Nat} {p : List Byte} {s : State} (hmem : isMember s l = true) (hrun : s.life = .running)
    (hgen : hGen h = s.run.gen % 4) (hph : phraseFor s l h = some ph) (htime : onTime s h (leftAt s l) = true)
    (hstage : ((linkOf s l).staged.filter fun w => decide (s.watch < w)).length < 24) (hfwd : phForwards ph = false) :
    ∃ k, takeSched l h p s = deliver (physStn s (phStation ph))
      ⟨hStag h, hIndex h, hTally h, p, hOrigin h, landsAt s (leftAt s l), false⟩ (releaseAt s h) (putLink l k s) := by
  obtain ⟨k, hk⟩ := stageFlit_of_room (t := leftAt s l) hstage
  refine ⟨k, ?_⟩
  simp only [takeSched, hmem, hrun, hgen, hph, htime, hk, bne_self_eq_false, Bool.or_self, Bool.true_or, Bool.not_true, Bool.false_eq_true,
    if_false, if_true, routeFlit, hfwd]
  rfl

/-! ### Bulk flits -/

theorem drainRx_of_empty {l : Nat} {s : State} (h : (linkOf s l).rxBulk = []) (n : Nat) : drainRx l n s = s := by
  cases n with
  | zero => rfl
  | succ n =>
    unfold drainRx
    rw [h]

theorem setOff_frame (l : Nat) (s : State) : setOff l s = { s with fab := { s.fab with links := (setOff l s).fab.links } } := rfl

theorem setOff_bulk (l : Nat) (s : State) (m : Nat) :
    (linkOf (setOff l s) m).bulkQ = (linkOf s m).bulkQ ∧ (linkOf (setOff l s) m).rxBulk = (linkOf s m).rxBulk := by
  by_cases hm : m = l
  · rw [hm, setOff, linkOf_putLink_same]
    exact ⟨rfl, rfl⟩
  · rw [setOff, linkOf_putLink_other _ _ hm]
    exact ⟨rfl, rfl⟩

/-- R303: a flit of a range that the receive buffer, empty before, takes. -/
theorem takeBulkFlit_of_empty {l h : Nat} {p : List Byte} {s : State} (hdest : hDest h < 390625) (hchan : hBchan h ≤ 3)
    (hempty : (linkOf s l).rxBulk = []) :
    takeBulkFlit l h p s = setOff l (drainRx l 128 (putLink l { linkOf s l with rxBulk := [⟨h, p⟩] } s)) := by
  have hin : ¬(decide (390625 ≤ hDest h) || decide (3 < hBchan h) || decide (128 ≤ (linkOf s l).rxBulk.length)) = true := by
    simp [hempty]
    omega
  unfold takeBulkFlit
  dsimp only
  rw [if_neg hin, hempty, List.nil_append]

/-- R303: the one flit of the receive buffer ends here. -/
theorem drainRx_of_here {l n : Nat} {f : BulkFlit} {s : State} (hone : (linkOf s l).rxBulk = [f]) (hroute : bulkRoute s (hDest f.header) = none) :
    drainRx l (n + 1) s = drainRx l n (takeBulk f (putLink l { linkOf s l with rxBulk := [] } s)) := by
  rw [drainRx, hone]
  dsimp only
  rw [hroute]

/-- R303: the one flit of the receive buffer goes to an output queue with room. -/
theorem drainRx_of_route {l n o : Nat} {f : BulkFlit} {s : State} (hone : (linkOf s l).rxBulk = [f])
    (hroute : bulkRoute s (hDest f.header) = some o)
    (hroom : (linkOf (putLink l { linkOf s l with rxBulk := [] } s) o).bulkQ.length < 128) :
    drainRx l (n + 1) s = drainRx l n (pushBulk o f (putLink l { linkOf s l with rxBulk := [] } s)) := by
  rw [drainRx, hone]
  dsimp only
  rw [hroute]
  exact if_pos hroom

/-- R303: a flit that finds the receive buffer empty and a queue with room. -/
theorem takeBulkFlit_of_route {l h o : Nat} {p : List Byte} {s : State} (hdest : hDest h < 390625) (hchan : hBchan h ≤ 3)
    (hempty : (linkOf s l).rxBulk = []) (hroute : bulkRoute s (hDest h) = some o) (hroom : (linkOf s o).bulkQ.length < 128) :
    (linkOf (takeBulkFlit l h p s) o).bulkQ = (linkOf s o).bulkQ ++ [⟨h, p⟩] ∧ (linkOf (takeBulkFlit l h p s) l).rxBulk = [] ∧
      takeBulkFlit l h p s = { s with fab := { s.fab with links := (takeBulkFlit l h p s).fab.links } } := by
  have hone : (linkOf (putLink l { linkOf s l with rxBulk := [⟨h, p⟩] } s) l).rxBulk = [⟨h, p⟩] := by rw [linkOf_putLink_same]
  have hq : ∀ m, (linkOf (putLink l { linkOf s l with rxBulk := [] } s) m).bulkQ = (linkOf s m).bulkQ := fun m => by
    by_cases hm : m = l
    · rw [hm, linkOf_putLink_same]
    · rw [linkOf_putLink_other _ _ hm]
  have hpush : (linkOf (pushBulk o ⟨h, p⟩ (putLink l { linkOf s l with rxBulk := [] } s)) l).rxBulk = [] := by
    by_cases hm : l = o
    · rw [pushBulk, hm, linkOf_putLink_same, linkOf_putLink_same]
    · rw [pushBulk, linkOf_putLink_other _ _ hm, linkOf_putLink_same]
  have hdrain : drainRx l 128 (putLink l { linkOf s l with rxBulk := [⟨h, p⟩] } s) =
      pushBulk o ⟨h, p⟩ (putLink l { linkOf s l with rxBulk := [] } s) := by
    have hback : putLink l { linkOf (putLink l { linkOf s l with rxBulk := [⟨h, p⟩] } s) l with rxBulk := [] }
        (putLink l { linkOf s l with rxBulk := [⟨h, p⟩] } s) = putLink l { linkOf s l with rxBulk := [] } s := by
      rw [linkOf_putLink_same, putLink_putLink]
    rw [drainRx_of_route (n := 127) hone (by exact hroute) (by rw [hback, hq]; exact hroom), hback, drainRx_of_empty hpush]
  rw [takeBulkFlit_of_empty hdest hchan hempty, hdrain]
  refine ⟨?_, ?_, rfl⟩
  · rw [(setOff_bulk ..).1, pushBulk, linkOf_putLink_same, hq]
  · rw [(setOff_bulk ..).2, hpush]

/-! ### Whole messages -/

/-- R194: what a Mooring fill writes depends on the Moorings and on DRAM. -/
theorem bulkFill_dram_congr {s t : State} (hm : t.moorings = s.moorings) (hd : t.dram = s.dram) (bs : List Byte) :
    (bulkFill bs t).dram = (bulkFill bs s).dram := by
  have hat : mooringAt t (field bs 0 8) = mooringAt s (field bs 0 8) := by
    unfold mooringAt moorOf
    rw [hm]
  have hof : ∀ m, moorOf t m = moorOf s m := fun m => by simp only [moorOf, hm]
  have hwrite : ((writeMem 1 (field bs 0 8) (bs.drop 8)).go t).2.dram = ((writeMem 1 (field bs 0 8) (bs.drop 8)).go s).2.dram := by
    rw [writeMem_dram_go, writeMem_dram_go]
    split
    · exact hd
    · rw [pokeDram_eq, pokeDram_eq, hd]
  unfold bulkFill
  dsimp only
  rw [hat]
  split
  · rw [hof]
    split
    · exact hwrite
    · exact hd
  · exact hd

theorem bulkFill_frame (bs : List Byte) (s : State) : bulkFill bs s = { s with
    dram := (bulkFill bs s).dram, dramEcc := (bulkFill bs s).dramEcc, kpr := { s.kpr with dram := (bulkFill bs s).kpr.dram } } := by
  unfold bulkFill
  dsimp only
  split
  · split
    · rw [writeMem_dram_go]
      split
      · rfl
      · rw [pokeDram_eq]
    · rfl
  · rfl

/-- R303: a message of one flit that has not come before is whole, and goes to its endpoint. -/
theorem takeBulk_of_whole {h : Nat} {p : List Byte} {s : State} (hindex : hBIndex h = 0) (hlast : hLast h = true)
    (hnew : (hSrc h, hMsgid h) ∉ s.fab.bulkDone) (hnone : ∀ m ∈ s.fab.bulk, ¬(m.src = hSrc h ∧ m.msgid = hMsgid h)) :
    ∃ b d, takeBulk ⟨h, p⟩ s = emit (.bulk (hBchan h) (hSrc h) (p.take (hLen h)))
      (if hBchan h = 1 then bulkFill (p.take (hLen h)) { s with fab := { s.fab with bulk := b, bulkDone := d } }
        else { s with fab := { s.fab with bulk := b, bulkDone := d } }) := by
  have hmsg : msgOf s ⟨h, p⟩ = ⟨hSrc h, hMsgid h, hBchan h, [], none⟩ := by
    have hfind : (s.fab.bulk.find? fun m => m.src = hSrc h && m.msgid = hMsgid h) = none :=
      List.find?_eq_none.mpr fun m hm => by simpa using hnone m hm
    rw [msgOf, hfind]
    rfl
  have hpart : addPart ⟨h, p⟩ ⟨hSrc h, hMsgid h, hBchan h, [], none⟩ = ⟨hSrc h, hMsgid h, hBchan h, [(0, p.take (hLen h))], some 0⟩ := by
    simp [addPart, hindex, hlast, tput]
  have hwhole : msgWhole ⟨hSrc h, hMsgid h, hBchan h, [(0, p.take (hLen h))], some 0⟩ = true := rfl
  refine ⟨s.fab.bulk.filter fun x => !(x.src = hSrc h && x.msgid = hMsgid h), ((hSrc h, hMsgid h) :: s.fab.bulkDone).take 1024, ?_⟩
  unfold takeBulk
  dsimp only
  rw [hmsg, if_neg (by simpa [tget?] using hnew), hpart, if_pos hwhole, bulkArrives]
  simp only [List.flatMap_cons, List.flatMap_nil, List.append_nil]

/-- R303: a whole message that finds the receive buffer empty and ends here. -/
theorem takeBulkFlit_of_here {l h : Nat} {p : List Byte} {s : State} (hdest : hDest h < 390625) (hchan : hBchan h ≤ 3)
    (hempty : (linkOf s l).rxBulk = []) (hroute : bulkRoute s (hDest h) = none) (hindex : hBIndex h = 0) (hlast : hLast h = true)
    (hnew : (hSrc h, hMsgid h) ∉ s.fab.bulkDone) (hnone : ∀ m ∈ s.fab.bulk, ¬(m.src = hSrc h ∧ m.msgid = hMsgid h)) :
    (takeBulkFlit l h p s).out = .bulk (hBchan h) (hSrc h) (p.take (hLen h)) :: s.out ∧ (takeBulkFlit l h p s).sram = s.sram ∧
      (takeBulkFlit l h p s).dram = (if hBchan h = 1 then bulkFill (p.take (hLen h)) s else s).dram ∧ (takeBulkFlit l h p s).life = s.life := by
  have hone : (linkOf (putLink l { linkOf s l with rxBulk := [⟨h, p⟩] } s) l).rxBulk = [⟨h, p⟩] := by rw [linkOf_putLink_same]
  obtain ⟨b, d, htake⟩ := takeBulk_of_whole (p := p) (s := putLink l { linkOf s l with rxBulk := [] } s) hindex hlast hnew hnone
  generalize hu : takeBulk ⟨h, p⟩ (putLink l { linkOf s l with rxBulk := [] } s) = u at htake
  have hframe : u.fab.links = (putLink l { linkOf s l with rxBulk := [] } s).fab.links ∧ u.sram = s.sram ∧ u.life = s.life ∧
      u.out = .bulk (hBchan h) (hSrc h) (p.take (hLen h)) :: s.out := by
    rw [htake]
    split
    · rw [bulkFill_frame]
      exact ⟨rfl, rfl, rfl, rfl⟩
    · exact ⟨rfl, rfl, rfl, rfl⟩
  obtain ⟨hlinks, hsram, hlife, hout⟩ := hframe
  have hrx : (linkOf u l).rxBulk = [] := by rw [linkOf_congr hlinks, linkOf_putLink_same]
  have hdrain : drainRx l 128 (putLink l { linkOf s l with rxBulk := [⟨h, p⟩] } s) = u := by
    have hback : putLink l { linkOf (putLink l { linkOf s l with rxBulk := [⟨h, p⟩] } s) l with rxBulk := [] }
        (putLink l { linkOf s l with rxBulk := [⟨h, p⟩] } s) = putLink l { linkOf s l with rxBulk := [] } s := by
      rw [linkOf_putLink_same, putLink_putLink]
    rw [drainRx_of_here (n := 127) hone (by exact hroute), hback, hu, drainRx_of_empty hrx]
  have hdram : u.dram = (if hBchan h = 1 then bulkFill (p.take (hLen h)) s else s).dram := by
    rw [htake]
    split
    · exact bulkFill_dram_congr (by rfl) (by rfl) _
    · rfl
  rw [takeBulkFlit_of_empty hdest hchan hempty, hdrain, setOff_frame]
  exact ⟨hout, hsram, hdram, hlife⟩

/-! ### DATA frames -/

/-- Settles O38: a duplicate counts, a Scheduled flit is delivered, a Bulk flit goes on or ends here. -/
theorem dataFrames : Obligations.DataFrames := by
  unfold Obligations.DataFrames
  intro l fr s s1 h p hrails hup hopen
  have hsched : isSched h = true → exec (.scheduledFrameRx l fr) s = .next (sequenced l takeSched h p s1) := fun hk =>
    congrArg Host.Outcome.next (arrive_of_open hrails hup hopen hk)
  have hbulk : isBulk h = true → exec (.bulkFrameRx l fr) s = .next (sequenced l takeBulkFlit h p s1) := fun hk =>
    congrArg Host.Outcome.next (arrive_of_open hrails hup hopen hk)
  refine ⟨fun hdup c hc => ?_, fun k hseq => ?_⟩
  · rcases hc with ⟨rfl, hk⟩ | ⟨rfl, hk⟩
    · rw [hsched hk, sequenced_of_duplicate hdup]
      rfl
    · rw [hbulk hk, sequenced_of_duplicate hdup]
      rfl
  · intro s2
    refine ⟨fun ph hk hmem hrun hgen hph htime hstage hfwd hland => ?_, fun hk hdest hchan hempty => ⟨fun o hroute hroom => ?_,
      fun hroute hindex hlast hnew hnone => ?_⟩⟩
    · obtain ⟨k', htake⟩ := takeSched_of_on_time (p := p) hmem hrun hgen hph htime hstage hfwd
      obtain ⟨hpush, hsram, hdram⟩ := deliver_spec (f := ⟨hStag h, hIndex h, hTally h, p, hOrigin h, landsAt s2 (leftAt s2 l), false⟩)
        (rel := releaseAt s2 h) (st := physStn s2 (phStation ph)) (s := putLink l k' s2) hland
      have hexec := hsched hk
      rw [sequenced_of_new hseq, htake] at hexec
      exact ⟨_, _, hexec, hpush, rfl, rfl, rfl, rfl, rfl, rfl, decide_eq_true_iff, hsram, hdram⟩
    · have hexec := hbulk hk
      rw [sequenced_of_new hseq] at hexec
      have hrx : (linkOf s2 l).rxBulk = [] := by rw [linkOf_putLink_same, hempty]
      exact ⟨_, hexec, takeBulkFlit_of_route hdest hchan hrx hroute hroom⟩
    · have hexec := hbulk hk
      rw [sequenced_of_new hseq] at hexec
      have hrx : (linkOf s2 l).rxBulk = [] := by rw [linkOf_putLink_same, hempty]
      exact ⟨_, hexec, takeBulkFlit_of_here hdest hchan hrx hroute hindex hlast hnew hnone⟩

/-! ### ACK blocks -/

/-- R307: what freeing leaves of the entries. -/
theorem freeAcked_buf (w blk : Nat) (k : Link) :
    (freeAcked w blk k).buf = if bitAt blk 12 = true ∧ (∃ e, k.buf.head? = some e ∧ ahead (bits blk 11 0) (e.seq + 4095) = true)
      then k.buf.filter fun x => ahead x.seq (bits blk 11 0) else k.buf := by
  unfold freeAcked
  cases hb : k.buf with
  | nil => simp [hb]
  | cons e r => by_cases hc : bitAt blk 12 = true ∧ ahead (bits blk 11 0) (e.seq + 4095) = true <;> simp [hc, hb]

theorem freeAcked_frame (w blk : Nat) (k : Link) :
    ∃ b a n, freeAcked w blk k = { k with buf := b, ackAt := a, timeouts := n } := by
  unfold freeAcked
  split
  · exact ⟨_, _, _, rfl⟩
  · split
    · exact ⟨_, _, _, rfl⟩
    · exact ⟨_, _, _, rfl⟩

/-- R309: a block that requests nothing marks nothing. -/
theorem takeNak_of_none {blk : Nat} (h : bits blk 28 25 = 0) (k : Link) : takeNak blk k = k := by
  have hmap : (k.buf.map fun x => if (x.seq + 4096 - bits blk 24 13) % 4096 < bits blk 28 25 then { x with again := true } else x) = k.buf := by
    simp [h]
  unfold takeNak
  dsimp only
  rw [hmap]

theorem freeAcked_of_invalid {blk : Nat} (h : bitAt blk 12 = false) (w : Nat) (k : Link) : freeAcked w blk k = k := by
  unfold freeAcked
  split
  · rfl
  · rw [h]
    rfl

/-- R319: without an error limit an error only counts. -/
theorem noteErr_of_no_limit {l : Nat} {s : State} (h : bits (regGet s (lnkReg l 0x44)) 15 0 = 0) :
    ∃ es, noteErr l s = putLink l { linkOf s l with errAt := es } s := by
  unfold noteErr
  dsimp only
  rw [h]
  exact ⟨_, rfl⟩

/-- R304: a CONTROL frame sent again, with no hold and no fork value, is its ACK block. -/
theorem takeControl_of_replay {l h : Nat} {p : List Byte} {s : State} (hrep : hReplay h = true) (hhold : bitAt (field p 0 1) 0 = false)
    (hfork : bitAt (field p 0x10 1) 0 = false) : takeControl l h p s = takeAck l p s := by
  simp only [takeControl, takeTime, takeFields, hrep, hhold, hfork, Bool.not_true, Bool.not_false, Bool.false_and, Bool.and_self,
    Bool.false_eq_true, if_false, if_true]

/-- R307, R313: an ACK block that requests nothing. -/
theorem takeAck_of_no_nak {l : Nat} {p : List Byte} {s : State} (h : bits (field p 0x40 8) 28 25 = 0) :
    takeAck l p s = putLink l { freeAcked s.watch (field p 0x40 8) (linkOf s l) with offIn := bitAt (field p 0x40 8) 29 } s := by
  unfold takeAck
  dsimp only
  rw [if_pos h, takeNak_of_none h]

/-- R309, R313: an ACK block with no ACKSEQ, where errors have no limit. -/
theorem takeAck_of_nak {l : Nat} {p : List Byte} {s : State} (h : bitAt (field p 0x40 8) 12 = false)
    (hlim : bits (regGet s (lnkReg l 0x44)) 15 0 = 0) :
    ∃ es, takeAck l p s = putLink l { takeNak (field p 0x40 8) (linkOf s l) with offIn := bitAt (field p 0x40 8) 29, errAt := es } s := by
  unfold takeAck
  dsimp only
  rw [freeAcked_of_invalid h]
  split
  · exact ⟨_, rfl⟩
  · obtain ⟨es, he⟩ := noteErr_of_no_limit (l := l)
      (s := putLink l { takeNak (field p 0x40 8) (linkOf s l) with offIn := bitAt (field p 0x40 8) 29 } s) hlim
    rw [he, linkOf_putLink_same, putLink_putLink]
    exact ⟨es, rfl⟩

/-- R301, R304: the two frames that are their ACK block alone, by the link as it stands when the block is taken. -/
theorem exec_ackFrame {l : LinkNo} {fr : Frame} {s s1 : State} {h : Nat} {p : List Byte} {c : Instr} {k : Link} (hrails : railsOff s = false)
    (hup : (linkOf s l).st = .up) (hopen : openFrame l fr s = (some (h, p), s1))
    (hc : (c = Instr.linkFrameRx l fr ∧ hKind h = 2 ∧ k = linkOf s1 l) ∨
      (c = .controlFrameRx l fr ∧ hKind h = 1 ∧ hReplay h = true ∧ bitAt (field p 0 1) 0 = false ∧ bitAt (field p 0x10 1) 0 = false ∧
        takeSeq (hSeq h) (linkOf s1 l) = some k)) :
    ∃ u, exec c s = .next (takeAck l p u) ∧ linkOf u l = k ∧ u = { s1 with fab := { s1.fab with links := u.fab.links } } := by
  rcases hc with ⟨rfl, hkind, rfl⟩ | ⟨rfl, hkind, hrep, hhold, hfork, hseq⟩
  · exact ⟨s1, congrArg Host.Outcome.next (arrive_of_open hrails hup hopen (by simpa using hkind)), rfl, rfl⟩
  · have hexec : exec (.controlFrameRx l fr) s = .next (sequenced l takeControl h p s1) :=
      congrArg Host.Outcome.next (arrive_of_open hrails hup hopen (by simpa using hkind))
    rw [sequenced_of_new hseq, takeControl_of_replay hrep hhold hfork] at hexec
    exact ⟨_, hexec, linkOf_putLink_same .., rfl⟩

/-- Settles O39: both frames are their ACK block, which puts the link once. -/
theorem ackBlocks : Obligations.AckBlocks := by
  unfold Obligations.AckBlocks
  intro l fr s s1 h p hrails hup hopen blk
  refine fun c k hc => ?_
  obtain ⟨u, hexec, hlink, hu⟩ := exec_ackFrame hrails hup hopen hc
  refine ⟨fun hnak => ?_, fun hack hlim => ?_⟩
  · obtain ⟨b, a, n, hfree⟩ := freeAcked_frame u.watch blk k
    rw [takeAck_of_no_nak hnak, hlink] at hexec
    refine ⟨_, hexec, ?_, ?_, ?_, ?_, ?_⟩
    · rw [linkOf_putLink_same]
    · rw [linkOf_putLink_same, hfree]
    · rw [linkOf_putLink_same, hfree]
    · rw [linkOf_putLink_same]
      exact freeAcked_buf ..
    · rw [putLink, hu]
  · have hreg : bits (regGet u (lnkReg l 0x44)) 15 0 = 0 := by
      rw [hu]
      exact hlim
    obtain ⟨es, htake⟩ := takeAck_of_nak (l := l) (p := p) hack hreg
    rw [htake, hlink] at hexec
    refine ⟨_, hexec, ?_, ?_, ?_⟩
    · rw [linkOf_putLink_same]
      rfl
    · rw [linkOf_putLink_same]
    · rw [putLink, hu]

end Sys2Proof.Machine
end

section
/-! Training of a link (R314 to R317, R271), and what the loss of a member link leaves of the links (R263 to R265). -/

namespace Sys2Proof.Machine

/-! ### Links that stay but for their Bulk queues -/

/-- Every link is as it was but for its Bulk queues and OFF, nothing sent is taken back, and no time passes. -/
structure LinksStay (s t : State) : Prop where
  links : ∀ l, ∃ q r o, linkOf t l = { linkOf s l with bulkQ := q, rxBulk := r, offOut := o }
  out : ∀ o ∈ s.out, o ∈ t.out
  watch : t.watch = s.watch

theorem LinksStay.refl (s : State) : LinksStay s s := ⟨fun _ => ⟨_, _, _, rfl⟩, fun _ h => h, rfl⟩

theorem LinksStay.trans {s t u : State} (h : LinksStay s t) (k : LinksStay t u) : LinksStay s u := by
  refine ⟨fun l => ?_, fun o ho => k.out o (h.out o ho), k.watch.trans h.watch⟩
  obtain ⟨q, r, o, hl⟩ := h.links l
  obtain ⟨q', r', o', kl⟩ := k.links l
  rw [hl] at kl
  exact ⟨q', r', o', kl⟩

theorem LinksStay.foldl {α : Type} {f : State → α → State} (h : ∀ t x, LinksStay t (f t x)) (l : List α) (s : State) :
    LinksStay s (l.foldl f s) :=
  List.foldlRecOn l f (motive := LinksStay s) (.refl s) fun _ ht x _ => ht.trans (h _ x)

/-- A state with the same links that has sent more. -/
theorem LinksStay.of_links {s t : State} (h : t.fab.links = s.fab.links) (hwatch : t.watch = s.watch) (hout : ∀ o ∈ s.out, o ∈ t.out) :
    LinksStay s t :=
  ⟨fun l => ⟨_, _, _, linkOf_congr h l⟩, hout, hwatch⟩

theorem BulkMoves.linksStay {s t : State} (h : BulkMoves s t) : LinksStay s t := ⟨h.links, h.out, h.watch⟩

theorem emit_linksStay (o : Out) (s : State) : LinksStay s (emit o s) := .of_links rfl rfl fun _ => List.mem_cons_of_mem _

theorem report_linksStay (code page : Nat) (s : State) : LinksStay s (report code page s) := emit_linksStay ..

theorem setEvent_linksStay (p bit a b c : Nat) (s : State) : LinksStay s (setEvent p bit a b c s) :=
  .of_links (by rw [setEvent_frame]) (by rw [setEvent_frame]) fun _ ho => mem_out_setEvent ho ..

theorem raise_linksStay (code p bit a b c : Nat) (s : State) : LinksStay s (raise code p bit a b c s) :=
  (report_linksStay ..).trans (setEvent_linksStay ..)

theorem sendBytes_linksStay (dest bchan : Nat) (bs : List Byte) (s : State) : LinksStay s (sendBytes dest bchan bs s) := by
  refine LinksStay.trans ?_ (drainOut_bulkMoves _).linksStay
  exact .of_links rfl rfl fun _ h => h

theorem sendMsg_linksStay (bchan r : Nat) (name : String) (data : List Byte) (s : State) : LinksStay s (sendMsg bchan r name data s) :=
  (emit_linksStay ..).trans (sendBytes_linksStay ..)

theorem toMembersOn_linksStay (bchan : Nat) (name : String) (data : List Byte) (s : State) : LinksStay s (toMembersOn bchan name data s) :=
  .foldl (fun _ _ => sendMsg_linksStay ..) _ s

theorem postComp_linksStay (q : Nat) (bs : List Byte) (s : State) : LinksStay s (postComp q bs s) := by
  unfold postComp
  split
  · exact .refl s
  · exact .of_links rfl rfl fun _ h => h

theorem cmdDone_linksStay (c : CmdFrom) (status : Nat) (result : List Byte) (s : State) : LinksStay s (cmdDone c status result s) := by
  unfold cmdDone
  dsimp only
  split
  · exact emit_linksStay ..
  · refine LinksStay.trans ?_ (postComp_linksStay ..)
    split
    · exact emit_linksStay ..
    · exact .refl s

theorem formDone_linksStay (status : Nat) (s : State) : LinksStay s (formDone status s) := by
  unfold formDone
  split
  · exact .refl s
  · refine LinksStay.trans ?_ (cmdDone_linksStay ..)
    exact .of_links rfl rfl fun _ h => h

theorem putPart_linksStay (p : Part) (s : State) : LinksStay s (putPart p s) := .of_links rfl rfl fun _ h => h

theorem noPart_linksStay (s : State) : LinksStay s (noPart s) := .of_links rfl rfl fun _ h => h

theorem staleBanks_linksStay (s : State) : LinksStay s (staleBanks s) := .of_links rfl rfl fun _ h => h

theorem headAbort_linksStay (s : State) : LinksStay s (headAbort s) := by
  unfold headAbort
  dsimp only
  refine LinksStay.trans ?_ (staleBanks_linksStay _)
  refine LinksStay.trans ?_ (noPart_linksStay _)
  refine LinksStay.trans ?_ (formDone_linksStay ..)
  exact ((toMembersOn_linksStay ..).trans (emit_linksStay ..)).trans (report_linksStay ..)

theorem formingLost_linksStay (l : Nat) (s : State) : LinksStay s (formingLost l s) := by
  unfold formingLost
  dsimp only
  have hreport : ∀ p : Part, LinksStay s (report 0x3004 pgKpr (emit (.msg 0 "FORMATION_LINK" (leBytes 1 l)) (putPart p s))) := fun p =>
    ((putPart_linksStay p s).trans (emit_linksStay ..)).trans (report_linksStay ..)
  split
  · exact (hreport _).trans (headAbort_linksStay _)
  · exact (hreport _).trans (sendMsg_linksStay ..)

theorem adoptDetour_linksStay {k a b : Nat} {s t : State} (h : adoptDetour k a b s = some t) : LinksStay s t := by
  unfold adoptDetour at h
  split at h
  · cases h
  · split at h
    · cases h
      exact .refl s
    · split at h
      · cases h
        exact .of_links rfl rfl fun _ h => h
      · cases h

/-- R263 to R265: the loss of a member link is told and waits for the hold unit; the links themselves stay. -/
theorem linkLost_linksStay (l : Nat) (s : State) : LinksStay s (linkLost l s) := by
  unfold linkLost
  split
  · exact .refl s
  · split
    · exact formingLost_linksStay ..
    · split
      · exact .refl s
      · dsimp only
        split
        case h_1 hadopt => exact (adoptDetour_linksStay hadopt).trans (.of_links rfl rfl fun _ h => h)
        case h_2 => exact (report_linksStay ..).trans (.of_links rfl rfl fun _ h => h)

/-! ### Out of training -/

theorem links_only_trans {s t u : State} (h : t = { s with fab := { s.fab with links := t.fab.links } })
    (k : u = { t with fab := { t.fab with links := u.fab.links } }) : u = { s with fab := { s.fab with links := u.fab.links } } := by
  rw [h] at k
  exact k

theorem linkEvent_frame (l code bit detail : Nat) (s : State) : linkEvent l code bit detail s = { s with
    regs := (linkEvent l code bit detail s).regs, out := (linkEvent l code bit detail s).out } := raise_frame ..

/-- R314, R315: training that fails ends in DOWN, is reported, and the next try comes after twice the time. -/
theorem trainFailed_spec (l : Nat) (s : State) :
    (linkOf (trainFailed l s) l).st = .down ∧ (linkOf (trainFailed l s) l).backoff = min (2 * (linkOf s l).backoff) 1000000000 ∧
      .report 0x4011 (pgLnk l) ∈ (trainFailed l s).out ∧ (trainFailed l s).watch = s.watch := by
  have hreport : Out.report 0x4011 (pgLnk l) ∈ (linkEvent l 0x4011 5 0 s).out := report_mem_out_raise ..
  have hframe := linkEvent_frame l 0x4011 5 0 s
  unfold trainFailed toDown
  generalize linkEvent l 0x4011 5 0 s = u at hreport hframe ⊢
  have hlink : linkOf u l = linkOf s l := by
    rw [hframe]
    rfl
  rw [linkOf_putLink_same, hlink]
  refine ⟨rfl, rfl, hreport, ?_⟩
  rw [hframe]
  rfl

/-- R317: fencing reports its code. -/
theorem report_mem_out_fence (l code bit detail : Nat) (s : State) : .report code (pgLnk l) ∈ (fence l code bit detail s).out := by
  have hreport : Out.report code (pgLnk l) ∈ (linkEvent l code bit detail s).out := report_mem_out_raise ..
  unfold fence
  dsimp only
  refine (drainAll_bulkMoves _).out _ ?_
  split
  · exact (linkLost_linksStay ..).out _ ((setEvent_linksStay ..).out _ hreport)
  · exact hreport

/-! ### AUTH -/

/-- R316: with a HELLO that needs no seal it cannot have, the chain goes out. -/
theorem takeHello_of_sealable {l : Nat} {h : Hello} {s : State} (hseal : h.sealCapable = true ∨ bitAt (lnkCtl s l) 3 = false) (nonce : List Byte) :
    takeHello l h nonce s = sendChain l (putLink l { linkOf s l with
      helloGot := some (helloBytes h nonce), partnerPos := h.pos, claimed := chipAt h.pos
      sealed := h.sealCapable && (h.sealRequire || bitAt (lnkCtl s l) 3) } s) := by
  have hneed : ¬(bitAt (lnkCtl s l) 3 && !h.sealCapable) = true := by
    rcases hseal with h | h <;> simp [h]
  exact if_neg hneed

/-- R316, R317: the second message. -/
theorem sendChain_spec (l : Nat) (s : State) :
    linkOf (sendChain l s) l = { linkOf s l with
      kemNo := s.free, kemKey := if (linkOf s l).sealed && isInitiator s l then Config.kemPublic s.free else []
      msg := s.kpr.flash.identity ++ s.kpr.sec.ownerCert.getD [] ++ (if (linkOf s l).sealed && isInitiator s l then Config.kemPublic s.free else [])
      msgAt := 0 } ∧
    isInitiator (sendChain l s) l = isInitiator s l ∧
    sendChain l s = { s with free := (sendChain l s).free, fab := { s.fab with links := (sendChain l s).fab.links } } := by
  have hlink : linkOf (sendChain l s) l = { linkOf s l with
      kemNo := s.free, kemKey := if (linkOf s l).sealed && isInitiator s l then Config.kemPublic s.free else []
      msg := s.kpr.flash.identity ++ s.kpr.sec.ownerCert.getD [] ++ (if (linkOf s l).sealed && isInitiator s l then Config.kemPublic s.free else [])
      msgAt := 0 } := linkOf_putLink_same ..
  refine ⟨hlink, ?_, rfl⟩
  unfold isInitiator
  rw [hlink]
  rfl

/-- R317: the ciphertext and the signature change only the link's own message and secret. -/
theorem takeCipher_spec (l : Nat) (kem : List Byte) (s : State) :
    (∃ c sh m n, linkOf (takeCipher l kem s) l = { linkOf s l with kemCipher := c, shared := sh, msg := m, msgAt := n }) ∧
      takeCipher l kem s = { s with fab := { s.fab with links := (takeCipher l kem s).fab.links } } := by
  unfold takeCipher sendSignature
  split
  · exact ⟨⟨_, _, _, _, rfl⟩, rfl⟩
  · dsimp only
    rw [linkOf_putLink_same, linkOf_putLink_same]
    refine ⟨?_, rfl⟩
    split
    · exact ⟨_, _, _, _, rfl⟩
    · exact ⟨_, _, _, _, rfl⟩

/-- R316: the transcript does not depend on the message under way. -/
theorem transcriptOf_putLink_msg (l role : Nat) (m : List Byte) (n : Nat) (s : State) :
    transcriptOf (putLink l { linkOf s l with msg := m, msgAt := n } s) l role = transcriptOf s l role := by
  unfold transcriptOf isInitiator
  rw [linkOf_putLink_same]
  rfl

/-- R316, R317: the third message of a responder. -/
theorem sendSignature_spec {l : Nat} {s : State} (hresp : isInitiator s l = false) :
    (∃ m, linkOf (sendSignature l s) l = { linkOf s l with msg := m, msgAt := 0 } ∧
      (daymarkOff s = false → m = (if (linkOf s l).sealed then (linkOf s l).kemCipher else []) ++
        Config.dsaSign s.kpr.fuses.seed (transcriptOf (sendSignature l s) l 2))) ∧
      sendSignature l s = { s with fab := { s.fab with links := (sendSignature l s).fab.links } } := by
  have hrole : ownRole s l = 2 := by rw [ownRole, hresp]; rfl
  unfold sendSignature
  dsimp only
  rw [linkOf_putLink_same, transcriptOf_putLink_msg, hrole, hresp, Bool.not_false, Bool.and_true]
  refine ⟨⟨_, rfl, fun hmark => ?_⟩, rfl⟩
  rw [hmark]
  rfl

/-- R316, R317: what a responder that signs leaves of its link. -/
theorem linkRespond_spec {l : Nat} {s : State} (hresp : isInitiator s l = false) (kem : List Byte) :
    (linkOf (linkRespond l kem s) l).st = (linkOf s l).st ∧ (linkOf (linkRespond l kem s) l).chainKey = (linkOf s l).chainKey ∧
      ((linkOf s l).sealed = true → (linkOf (linkRespond l kem s) l).kemKey = kem ∧
        (linkOf (linkRespond l kem s) l).kemCipher = Config.kemEncaps kem (linkOf s l).kemNo ∧
        (linkOf (linkRespond l kem s) l).shared = Config.kemSecret kem (linkOf s l).kemNo) ∧
      (daymarkOff s = false → (linkOf (linkRespond l kem s) l).msg =
        (if (linkOf s l).sealed then (linkOf (linkRespond l kem s) l).kemCipher else []) ++
          Config.dsaSign s.kpr.fuses.seed (transcriptOf (linkRespond l kem s) l 2)) ∧
      linkRespond l kem s = { s with fab := { s.fab with links := (linkRespond l kem s).fab.links } } := by
  unfold linkRespond
  dsimp only
  generalize hk : (if (linkOf s l).sealed = true then { linkOf s l with
    kemKey := kem, kemCipher := Config.kemEncaps kem (linkOf s l).kemNo, shared := Config.kemSecret kem (linkOf s l).kemNo } else linkOf s l) = k
  obtain ⟨hst, hchain, hseal, hclaimed, hkem⟩ : k.st = (linkOf s l).st ∧ k.chainKey = (linkOf s l).chainKey ∧ k.sealed = (linkOf s l).sealed ∧
      k.claimed = (linkOf s l).claimed ∧ ((linkOf s l).sealed = true → k.kemKey = kem ∧ k.kemCipher = Config.kemEncaps kem (linkOf s l).kemNo ∧
        k.shared = Config.kemSecret kem (linkOf s l).kemNo) := by
    rw [← hk]
    split
    · exact ⟨rfl, rfl, rfl, rfl, fun _ => ⟨rfl, rfl, rfl⟩⟩
    · next h => exact ⟨rfl, rfl, rfl, rfl, fun h' => absurd h' h⟩
  have hrole : isInitiator (putLink l k s) l = false := by
    unfold isInitiator at hresp ⊢
    rw [linkOf_putLink_same, hclaimed]
    exact hresp
  obtain ⟨⟨m, hlink, hmsg⟩, hframe⟩ := sendSignature_spec hrole
  rw [linkOf_putLink_same] at hlink hmsg
  rw [hlink, hst, hchain, ← hseal]
  exact ⟨rfl, rfl, by rw [hseal]; exact hkem, hmsg, hframe⟩

/-- R316, R432: a chain that the owner's policy accepts gives the partner's key, and a responder signs. -/
theorem takeChain_of_policy {l : Nat} {c o kem key : List Byte} {s : State} (hkey : Config.chainKey c = some key)
    (hpol : ownerPolicyOk s key o = true) :
    takeChain l c o kem s = if isInitiator s l then putLink l { linkOf s l with chainKey := some key } s
      else linkRespond l kem (putLink l { linkOf s l with chainKey := some key } s) := by
  unfold takeChain
  rw [hkey]
  dsimp only
  rw [if_pos hpol]

/-- R316, R432: a chain that is none, or that the owner's policy refuses, fences the link. -/
theorem takeChain_of_refused {l : Nat} {c o kem : List Byte} {s : State}
    (hno : ∀ key, Config.chainKey c = some key → ownerPolicyOk s key o = false) : takeChain l c o kem s = fence l 0x4001 2 0 s := by
  unfold takeChain
  split
  case h_1 key hkey => rw [hno key hkey]; rfl
  case h_2 => rfl

/-- R316: a signature of another is no signature of the partner: the link is fenced. -/
theorem takeSignature_of_bad {l : Nat} {key sig kem : List Byte} {s : State} (hst : (linkOf s l).st = .auth)
    (hbad : ¬Config.dsaVerify key (transcriptOf (takeCipher l kem s) l (partnerRole (takeCipher l kem s) l)) sig = true) :
    (linkOf (takeSignature l key sig kem s) l).st = .fenced ∧ .report 0x4001 (pgLnk l) ∈ (takeSignature l key sig kem s).out := by
  have hup : (linkOf (takeCipher l kem s) l).st ≠ .up := by
    rw [(takeCipher_sameLinkSt l kem s).st, hst]
    decide
  have hfence : takeSignature l key sig kem s = fence l 0x4001 2 0 (takeCipher l kem s) := by
    unfold takeSignature
    dsimp only
    rw [if_pos (by simp [hbad])]
  rw [hfence]
  exact ⟨fence_st hup .., report_mem_out_fence ..⟩

/-- R247, R316: a partner that signed and stands where the link must lead is authenticated. -/
theorem takeSignature_of_good {l : Nat} {key sig kem : List Byte} {s : State} (hmark : daymarkOff s = false)
    (hpos : (linkOf s l).partnerPos = expectPos s l)
    (hgood : Config.dsaVerify key (transcriptOf (takeCipher l kem s) l (partnerRole (takeCipher l kem s) l)) sig = true) :
    takeSignature l key sig kem s = authDone l (takeCipher l kem s) := by
  have hmark' : daymarkOff (takeCipher l kem s) = false := by
    unfold daymarkOff withheld at hmark ⊢
    rw [takeCipher_kpr]
    exact hmark
  obtain ⟨⟨c, sh, m, n, hlink⟩, hframe⟩ := takeCipher_spec l kem s
  have hfit : (linkOf (authDone l (takeCipher l kem s)) l).partnerPos = expectPos (authDone l (takeCipher l kem s)) l := by
    unfold authDone
    dsimp only
    rw [linkOf_putLink_same, hlink]
    refine hpos.trans ?_
    rw [hframe]
    rfl
  unfold takeSignature
  dsimp only
  rw [if_neg (by simp [hmark', hgood]), checkPosition, if_pos hfit]

/-- R317, R318: a link that is authenticated. -/
theorem authDone_spec (l : Nat) (s : State) :
    (linkOf (authDone l s) l).st = .position ∧ (linkOf (authDone l s) l).partner = some (linkOf s l).claimed ∧
      (linkOf (authDone l s) l).transcript = transcriptOf s l 1 ∧
      ((linkOf s l).sealed = true → (linkOf (authDone l s) l).keyTx = sealKey (linkOf s l).shared (transcriptOf s l 1) (dirTx s l) ∧
        (linkOf (authDone l s) l).keyRx = sealKey (linkOf s l).shared (transcriptOf s l 1) (dirRx s l)) ∧
      authDone l s = { s with fab := { s.fab with links := (authDone l s).fab.links } } := by
  unfold authDone
  dsimp only
  rw [linkOf_putLink_same]
  exact ⟨rfl, rfl, rfl, fun hseal => ⟨if_pos hseal, if_pos hseal⟩, rfl⟩

/-! ### DELAY and UP -/

/-- R266: a member link that is unfit is recorded; it stays otherwise, but for its Bulk queues. -/
theorem checkFit_spec (l : Nat) (s : State) :
    (∃ u q r o, linkOf (checkFit l s) l = { linkOf s l with unfit := u, bulkQ := q, rxBulk := r, offOut := o }) ∧
      ∀ o ∈ s.out, o ∈ (checkFit l s).out := by
  unfold checkFit
  split
  · have hstay := linkLost_linksStay l (report 0x3017 (pgLnk l) (putLink l { linkOf s l with unfit := true } s))
    obtain ⟨q, r, o, hl⟩ := hstay.links l
    have hunfit : linkOf (report 0x3017 (pgLnk l) (putLink l { linkOf s l with unfit := true } s)) l = { linkOf s l with unfit := true } :=
      linkOf_putLink_same ..
    rw [hunfit] at hl
    exact ⟨⟨true, q, r, o, hl⟩, fun o ho => hstay.out o (List.mem_cons_of_mem _ ho)⟩
  · exact ⟨⟨_, _, _, _, rfl⟩, fun _ h => h⟩

/-- R271, R306, R314: a link that comes UP counts its SEQ from 0. -/
theorem enterUp_spec (l ticks : Nat) (s : State) :
    (linkOf (enterUp l ticks s) l).st = .up ∧ (linkOf (enterUp l ticks s) l).delay = ticks + (if (linkOf s l).sealed then 5 else 0) ∧
      (linkOf (enterUp l ticks s) l).seq = 0 ∧ (linkOf (enterUp l ticks s) l).buf = [] ∧ (linkOf (enterUp l ticks s) l).expect = 0 := by
  unfold enterUp
  dsimp only
  generalize hu : setOff l (putLink l _ s) = u
  obtain ⟨⟨f, q, r, o, hfit⟩, -⟩ := checkFit_spec l u
  obtain ⟨q', r', o', hoff⟩ := (setOff_bulkMoves l (putLink l { linkOf s l with
    st := .up, delay := delayOf (linkOf s l) ticks, unfit := false, graceAt := none, flashAt := s.watch, backoff := 1000000, seq := 0, buf := []
    ackAt := s.watch, timeouts := 0, expect := 0, got := [], ackValid := false, nak := none, asked := [], offIn := false
    late := [], staged := [], occ := [], frames := 0, fec := 0, errAt := [] } s)).links l
  rw [hu, linkOf_putLink_same] at hoff
  rw [hfit, hoff]
  exact ⟨rfl, rfl, rfl, rfl, rfl⟩

theorem countFec_st (l n : Nat) (s : State) : (linkOf (countFec l n s) l).st = (linkOf s l).st := by
  have hlinks : (countFec l n s).fab.links =
    (putLink l { linkOf s l with frames := (linkOf s l).frames + 1, fec := (linkOf s l).fec + n } s).fab.links := rfl
  rw [linkOf_congr hlinks, linkOf_putLink_same]

/-- Settles O40: each event of training, in the state in which it counts. -/
theorem linkTrains : Obligations.LinkTrains := by
  unfold Obligations.LinkTrains
  intro l s k
  refine ⟨fun r n hst hrate => ?_, fun e n hst => ⟨fun hn hratio => ?_, fun hbad hrate => ?_, fun hbad hrate => ?_⟩,
    fun h nonce hst hgot hseal => ?_, fun c o kem hst hgot hnone => ?_, fun c z h kem key hst hkey hmark hpos => ?_,
    fun f hrails hst hok => ?_, fun n hst => ?_, fun htrain => ?_, fun hrails hpos hst hcable hen => ?_⟩
  · change execSignalLock l r n s = _
    rw [execSignalLock, hst]
    exact congrArg Host.Outcome.next (if_pos hrate)
  · have hexec : exec (.equaliseRateDone l e n) s = .next (enterAuth l s) := by
      change execEqualiseRateDone l e n s = _
      rw [execEqualiseRateDone, if_pos hst, rateDone, if_pos (by simp [hn, hratio])]
    refine ⟨_, hexec, ?_⟩
    unfold enterAuth
    dsimp only
    rw [linkOf_putLink_same]
    exact ⟨rfl, rfl, rfl, rfl, rfl, rfl⟩
  · change execEqualiseRateDone l e n s = _
    rw [execEqualiseRateDone, if_pos hst, rateDone, if_neg (by simpa using hbad), if_pos hrate]
  · have hexec : exec (.equaliseRateDone l e n) s = .next (trainFailed l s) := by
      change execEqualiseRateDone l e n s = _
      rw [execEqualiseRateDone, if_pos hst, rateDone, if_neg (by simpa using hbad), if_neg (Nat.not_lt.mpr hrate)]
    obtain ⟨hdown, -, hreport, -⟩ := trainFailed_spec l s
    exact ⟨_, hexec, hdown, hreport⟩
  · have hexec : exec (.linkHello l h nonce) s = .next (takeHello l h nonce s) := by
      change execLinkHello l h nonce s = _
      rw [execLinkHello, if_pos (by simp [k] at hst hgot; simp [hst, hgot])]
    rw [takeHello_of_sealable hseal] at hexec
    obtain ⟨hlink, hrole, hframe⟩ := sendChain_spec l (putLink l { linkOf s l with
      helloGot := some (helloBytes h nonce), partnerPos := h.pos, claimed := chipAt h.pos
      sealed := h.sealCapable && (h.sealRequire || bitAt (lnkCtl s l) 3) } s)
    refine ⟨_, hexec, ?_⟩
    rw [hrole, hlink, linkOf_putLink_same]
    exact ⟨rfl, rfl, rfl, rfl, hst, rfl, rfl, hframe⟩
  · have hexec : exec (.linkCertChain l ⟨c, kem⟩ o) s = .next (takeChain l c o kem s) := by
      change execLinkCertChain l ⟨c, kem⟩ o s = _
      rw [execLinkCertChain, if_pos (by simp [k] at hst hgot hnone; simp [hst, hgot, hnone])]
    refine ⟨_, hexec, fun key hkey hpol => ?_, fun hno => ?_⟩
    · rw [takeChain_of_policy hkey hpol]
      cases hrole : isInitiator s l with
      | true =>
        rw [if_pos rfl, linkOf_putLink_same]
        exact ⟨hst, rfl, rfl, fun _ => rfl, fun h => absurd h (by decide), fun h => absurd h (by decide)⟩
      | false =>
        have hresp : isInitiator (putLink l { linkOf s l with chainKey := some key } s) l = false := by
          unfold isInitiator at hrole ⊢
          rw [linkOf_putLink_same]
          exact hrole
        obtain ⟨hst', hchain, hseal, hmsg, hframe⟩ := linkRespond_spec hresp kem
        rw [linkOf_putLink_same] at hst' hchain hseal hmsg
        rw [if_neg Bool.false_ne_true]
        exact ⟨hst'.trans hst, hchain, hframe, fun h => absurd h (by decide), fun _ => hseal, fun _ => hmsg⟩
    · rw [takeChain_of_refused hno]
      exact ⟨fence_st (by rw [hst]; decide) .., report_mem_out_fence ..⟩
  · intro s1
    refine ⟨_, exec_linkTranscriptSignature hst hkey c z h kem, ?_⟩
    split
    case isTrue hgood =>
      obtain ⟨hst', hpartner, htrans, hkeys, hframe⟩ := authDone_spec l s1
      obtain ⟨⟨c', sh, m, n, hlink⟩, hframe'⟩ := takeCipher_spec l kem s
      rw [takeSignature_of_good hmark hpos hgood]
      have hclaimed : (linkOf s1 l).claimed = k.claimed := by rw [hlink]
      have hchip : chipNo s1 = chipNo s := (congrArg chipNo hframe').trans rfl
      have hdir : dirTx s1 l = dirTx s l := by rw [dirTx, dirTx, hclaimed, hchip]
      refine ⟨hst', by rw [hpartner, hclaimed], links_only_trans hframe' hframe, htrans, fun hseal => ?_⟩
      have hkeys := hkeys (by rw [hlink]; exact hseal)
      rw [htrans, ← hdir, dirRx, ← hdir]
      exact hkeys
    case isFalse hbad => exact takeSignature_of_bad hst hbad
  · have hexec : exec (.trainFrameRx l f) s = .next (trainStep l (countFec l (frameOpen f).1 s)) := by
      change execTrainFrameRx l f s = _
      rw [execTrainFrameRx, if_neg (by simp [k] at hst; simp [hrails, inTraining, hst]), takeTrain, if_pos hok]
    refine ⟨_, hexec, ?_⟩
    rw [trainStep, if_pos ((countFec_st ..).trans hst), linkOf_putLink_same]
  · have hexec : exec (.delayMeasureDone l n) s = .next (enterUp l n s) := congrArg Host.Outcome.next (if_pos hst)
    exact ⟨_, hexec, enterUp_spec l n s⟩
  · have hexec : exec (.trainingTimeout l) s = .next (trainFailed l (watchTo (k.trainBegan + 100000000) s)) :=
      congrArg Host.Outcome.next (if_pos htrain)
    obtain ⟨hdown, hback, hreport, hwatch⟩ := trainFailed_spec l (watchTo (k.trainBegan + 100000000) s)
    exact ⟨_, hexec, hdown, hreport, hwatch, hback⟩
  · have hmay : mayTrain s l = true := by
      rw [mayTrain, hpos, Bool.true_and, Bool.and_eq_true, Bool.and_eq_true]
      exact ⟨⟨hen, hcable⟩, decide_eq_true hst⟩
    have hexec : exec (.linkDownRetry l) s = .next (tryLink l (watchTo k.retryAt s)) :=
      congrArg Host.Outcome.next (if_pos (by rw [hrails, hmay]; rfl))
    refine ⟨_, hexec, ?_, rfl⟩
    rw [tryLink, linkOf_putLink_same]

end Sys2Proof.Machine
end

section
/-! Loss, resume and GRACE of a link, its timers and register actions, and its cable (R311, R314, R318 to R321, R492). -/

namespace Sys2Proof.Machine

/-! ### The end of a job leaves the links -/

theorem ledEvent_linksStay (type code step rank watch : Nat) (detail : List Byte) (s : State) :
    LinksStay s (ledEvent type code step rank watch detail s) := by
  unfold ledEvent
  split
  · exact .of_links rfl rfl fun _ h => h
  · refine LinksStay.trans ?_ (raise_linksStay ..)
    exact .of_links rfl rfl fun _ h => h

theorem assertFog_linksStay (code : Nat) (s : State) : LinksStay s (assertFog code s) :=
  .of_links (by rw [assertFog_frame]) (assertFog_booked ..).watch fun _ h => mem_out_assertFog h code

theorem pokeDram_linksStay (a : Nat) (bs : List Byte) (s : State) : LinksStay s (pokeMem 1 a bs s) := (pokeDram_bulkMoves ..).linksStay

theorem regPut_linksStay (a v : Nat) (s : State) : LinksStay s (regPut a v s) := .of_links rfl rfl fun _ h => h

theorem storeRecord_linksStay (jobId : Nat) (bs : List Byte) (s : State) : LinksStay s (storeRecord jobId bs s).2 := by
  unfold storeRecord
  dsimp only
  refine LinksStay.trans (LinksStay.trans ?_ (pokeDram_linksStay ..)) (regPut_linksStay ..)
  split
  · exact raise_linksStay ..
  · exact .refl s

theorem postJob_linksStay (e : Ended) (cert : Bool) (s : State) : LinksStay s (postJob e cert s) := by
  unfold postJob
  split
  · exact postComp_linksStay ..
  · exact .refl s

theorem noteWithheld_linksStay (s : State) : LinksStay s (noteWithheld s) := by
  unfold noteWithheld
  split
  · exact .refl s
  · exact raise_linksStay ..

theorem bookRecord_linksStay (e : Ended) (bs : List Byte) (s : State) : LinksStay s (bookRecord e bs s) := by
  have hstore := storeRecord_linksStay e.jobId bs s
  unfold bookRecord
  dsimp only
  split
  · exact ((hstore.trans (noteWithheld_linksStay _)).trans (pokeDram_linksStay ..)).trans (postJob_linksStay ..)
  · refine hstore.trans ?_
    exact .of_links rfl rfl fun _ h => h

theorem writeLedger_linksStay (a : Active) (s : State) : LinksStay s (writeLedger a s) := by
  unfold writeLedger
  dsimp only
  split
  · exact .of_links rfl rfl fun _ h => h
  · exact bookRecord_linksStay ..

theorem answerEnds_linksStay (id : Nat) (s : State) : LinksStay s (answerEnds id s) := by
  unfold answerEnds
  dsimp only
  refine LinksStay.trans ?_ (.foldl (fun _ _ => cmdDone_linksStay ..) _ _)
  exact .of_links rfl rfl fun _ h => h

/-- R364: the end of a job leaves the links, and takes back nothing sent. -/
theorem faulted_linksStay (code step rank : Nat) (s : State) : LinksStay s (faulted code step rank s) := by
  unfold faulted
  dsimp only
  have hstop : LinksStay s (stopAll (sendHold ⟨step, code, rank⟩ s)) := .of_links rfl rfl fun _ h => h
  have hled := hstop.trans (ledEvent_linksStay 5 code step rank s.watch [] _)
  generalize ledEvent 5 code step rank s.watch [] (stopAll (sendHold ⟨step, code, rank⟩ s)) = u at hled ⊢
  have hfault : LinksStay u { u with life := .faulted, recov := { u.recov with terminal := some (code, rank), origin := none } } :=
    .of_links rfl rfl fun _ h => h
  have hfog := (hled.trans hfault).trans (assertFog_linksStay code _)
  generalize assertFog code _ = v at hfog ⊢
  split
  · exact hfog
  · refine LinksStay.trans (LinksStay.trans (hfog.trans ?_) (writeLedger_linksStay ..)) (answerEnds_linksStay ..)
    exact .of_links rfl rfl fun _ h => h

/-- R370: a pair link that is lost leaves the links. -/
theorem pairLost_linksStay (l : Nat) (s : State) : LinksStay s (pairLost l s) := by
  have hclear : LinksStay s { s with fab := { s.fab with comparing := false } } := .of_links rfl rfl fun _ h => h
  unfold pairLost
  dsimp only
  split
  · exact .refl s
  · split
    · split
      · exact (hclear.trans (raise_linksStay ..)).trans (faulted_linksStay ..)
      · exact hclear.trans (raise_linksStay ..)
    · exact hclear.trans (ledEvent_linksStay ..)

/-! ### A link put, and the other links -/

/-- A link put in place of another state of it, with what moves Bulk flits after it. -/
theorem LinksStay.of_put {l : Nat} {k : Link} {s t : State} (h : LinksStay (putLink l k s) t) :
    (∃ q r o, linkOf t l = { k with bulkQ := q, rxBulk := r, offOut := o }) ∧
      ∀ m, m ≠ l → ∃ q r o, linkOf t m = { linkOf s m with bulkQ := q, rxBulk := r, offOut := o } := by
  refine ⟨?_, fun m hm => ?_⟩
  · obtain ⟨q, r, o, hl⟩ := h.links l
    rw [linkOf_putLink_same] at hl
    exact ⟨q, r, o, hl⟩
  · obtain ⟨q, r, o, hl⟩ := h.links m
    rw [linkOf_putLink_other _ _ hm] at hl
    exact ⟨q, r, o, hl⟩

/-! ### Loss -/

/-- R318, R319: a link that leaves UP waits in RESUME with its GRACE; the others stay. -/
theorem leaveUp_spec {l : Nat} {s : State} (h : (linkOf s l).st = .up) :
    (∃ q r o, linkOf (leaveUp l s) l = { linkOf s l with
      st := .resume, graceAt := some (s.watch + graceTicks s l), nonceSent := [], bulkQ := q, rxBulk := r, offOut := o }) ∧
    (∀ m, m ≠ l → ∃ q r o, linkOf (leaveUp l s) m = { linkOf s m with bulkQ := q, rxBulk := r, offOut := o }) ∧
    (∀ o ∈ s.out, o ∈ (leaveUp l s).out) ∧ (leaveUp l s).watch = s.watch := by
  have hleft : (leftUp l s).fab.links = s.fab.links := by rw [leftUp, setEvent_frame]
  have hmono := (setEvent_linksStay (pgLnk l) 0 (linkCode (linkOf s l).st * 2 ^ 16) (linkOf s l).claimed 0 s)
  have hleave : leaveUp l s = linkLost l (putLink l { linkOf s l with
      st := .resume, graceAt := some (s.watch + graceTicks s l), nonceSent := [] } (leftUp l s)) := by
    unfold leaveUp
    rw [if_neg (by simp [h])]
    dsimp only
    rw [linkOf_congr hleft]
  have hlost := linkLost_linksStay l (putLink l { linkOf s l with
      st := .resume, graceAt := some (s.watch + graceTicks s l), nonceSent := [] } (leftUp l s))
  rw [hleave]
  obtain ⟨hown, hother⟩ := hlost.of_put
  refine ⟨hown, fun m hm => ?_, fun o ho => hlost.out o (hmono.out o ho), hlost.watch.trans hmono.watch⟩
  obtain ⟨q, r, o, hlink⟩ := hother m hm
  rw [linkOf_congr hleft m] at hlink
  exact ⟨q, r, o, hlink⟩

/-- R318: the session of a link that resumes. -/
theorem resumed_spec (l : Nat) (ns : List Byte) (d : Nat) (s : State) :
    (linkOf (resumed l ns d s) l).st = .up ∧ (linkOf (resumed l ns d s) l).buf = ((linkOf s l).buf.map fun e => { e with again := true }) ∧
      (linkOf (resumed l ns d s) l).seq = (linkOf s l).seq ∧ (linkOf (resumed l ns d s) l).expect = (linkOf s l).expect ∧
      (linkOf (resumed l ns d s) l).delay = d + (if (linkOf s l).sealed then 5 else 0) ∧
      (∀ o ∈ s.out, o ∈ (resumed l ns d s).out) ∧ .report 0x0060 (pgLnk l) ∈ (resumed l ns d s).out := by
  unfold resumed
  dsimp only
  generalize hk : ({ linkOf s l with
    st := .up, delay := delayOf (linkOf s l) d, graceAt := none, nonceSent := [], flashAt := s.watch, ackAt := s.watch, timeouts := 0
    keyTx := if (linkOf s l).sealed then sha3 ((linkOf s l).keyTx ++ ns) else []
    keyRx := if (linkOf s l).sealed then sha3 ((linkOf s l).keyRx ++ ns) else []
    sentUnder := 0, gotUnder := 0, tagFails := 0, errAt := [], occ := [], buf := (linkOf s l).buf.map fun e => { e with again := true } } : Link) = k
  have hevent : LinksStay (putLink l k s) (linkEvent l 0x0060 1 0 (putLink l k s)) := raise_linksStay ..
  have hreport : Out.report 0x0060 (pgLnk l) ∈ (linkEvent l 0x0060 1 0 (putLink l k s)).out := report_mem_out_raise ..
  generalize linkEvent l 0x0060 1 0 (putLink l k s) = v at hevent hreport ⊢
  obtain ⟨⟨q, r, o, hlink⟩, -⟩ := hevent.of_put
  obtain ⟨⟨u, q', r', o', hfit⟩, hout⟩ := checkFit_spec l v
  rw [hlink] at hfit
  rw [hfit, ← hk]
  exact ⟨rfl, rfl, rfl, rfl, rfl, fun o ho => hout o (hevent.out o ho), hout _ hreport⟩

/-- R320: the flush of a link. -/
theorem flushLink_spec (l : Nat) (s : State) :
    (linkOf (flushLink l s) l).st = .down ∧ (linkOf (flushLink l s) l).buf = [] ∧ .report 0x4010 (pgLnk l) ∈ (flushLink l s).out ∧
      (flushLink l s).watch = s.watch := by
  have hreport : Out.report 0x4010 (pgLnk l) ∈ (linkEvent l 0x4010 4 (linkOf s l).buf.length s).out := report_mem_out_raise ..
  have hwatch : (linkEvent l 0x4010 4 (linkOf s l).buf.length s).watch = s.watch := (raise_linksStay ..).watch
  unfold flushLink
  dsimp only
  generalize linkEvent l 0x4010 4 (linkOf s l).buf.length s = u at hreport hwatch ⊢
  have hstay := (pairLost_linksStay l (putLink l { downFrom u (linkOf s l) with bulkQ := [] } u)).trans (drainAll_bulkMoves _).linksStay
  obtain ⟨⟨q, r, o, hlink⟩, -⟩ := hstay.of_put
  rw [hlink]
  exact ⟨rfl, rfl, hstay.out _ hreport, hstay.watch.trans hwatch⟩

theorem drainOut_of_empty {s : State} (h : s.fab.outbox = []) : (drainOut s).fab.links = s.fab.links := by
  unfold drainOut
  rw [h]
  rfl

/-- R303, R320: with no other Bulk flit in the module and no pair to compare, a flushed link has no flit to send. -/
theorem flushLink_bulkQ {l : Nat} {s : State} (hrx : ∀ j, j < 96 → (linkOf s j).rxBulk = []) (hl : l < 96) (hbox : s.fab.outbox = [])
    (hcmp : s.fab.comparing = false) : (linkOf (flushLink l s) l).bulkQ = [] := by
  have hframe := linkEvent_frame l 0x4010 4 (linkOf s l).buf.length s
  unfold flushLink
  dsimp only
  generalize linkEvent l 0x4010 4 (linkOf s l).buf.length s = u at hframe ⊢
  have hlinks : u.fab.links = s.fab.links := by rw [hframe]
  have hpair : pairLost l (putLink l { downFrom u (linkOf s l) with bulkQ := [] } u) = putLink l { downFrom u (linkOf s l) with bulkQ := [] } u := by
    have hoff : (putLink l { downFrom u (linkOf s l) with bulkQ := [] } u).fab.comparing = false := by
      rw [putLink, hframe]
      exact hcmp
    rw [pairLost, hoff]
    rfl
  have hempty : ∀ j, j < 96 → (linkOf (putLink l { downFrom u (linkOf s l) with bulkQ := [] } u) j).rxBulk = [] := fun j hj => by
    by_cases hjl : j = l
    · rw [hjl, linkOf_putLink_same]
      exact hrx l hl
    · rw [linkOf_putLink_other _ _ hjl, linkOf_congr hlinks, hrx j hj]
  have hout : (putLink l { downFrom u (linkOf s l) with bulkQ := [] } u).fab.outbox = [] := by
    rw [putLink, hframe]
    exact hbox
  rw [hpair, drainAll_of_empty hempty, linkOf_congr (drainOut_of_empty hout), linkOf_putLink_same]

/-- Settles O41: each event of a link that is UP or in RESUME. -/
theorem linkLossAndResume : Obligations.LinkLossAndResume := by
  unfold Obligations.LinkLossAndResume
  intro l s k
  refine ⟨fun hup => ?_, fun hres => ⟨fun r n => ?_, fun n p d hnonce hgrace => ?_, ?_⟩, fun hup hbuf => ⟨fun htimes => ?_, fun htimes => ?_⟩⟩
  · have hexec : exec (.lossOfSignal l) s = .next (leaveUp l s) := by
      change execLossOfSignal l s = _
      rw [execLossOfSignal, loseSignal, hup]
    obtain ⟨⟨q, r, o, hlink⟩, -⟩ := leaveUp_spec hup
    refine ⟨_, hexec, ?_⟩
    rw [hlink]
    exact ⟨rfl, rfl, rfl⟩
  · change execSignalLock l r n s = _
    unfold execSignalLock
    split
    case h_1 hst => exact absurd (hres.symm.trans hst) (by decide)
    case h_2 => rfl
    case h_3 hst => exact absurd hres hst
  · intro ns own
    have hexec : exec (.resumeProof l n p d) s = .next (takeProof l n p d s) := by
      change execResumeProof l n p d s = _
      rw [execResumeProof, if_pos (by simp [k] at hres hnonce hgrace; simp [hres, hnonce, hgrace])]
    have hown : own ∈ (sendProof l ns s).out := List.mem_cons_self
    refine ⟨fun hgood => ?_, fun hbad => ?_⟩
    · obtain ⟨hst, hbuf, hseq, hexp, hdelay, hout, hreport⟩ := resumed_spec l ns d (sendProof l ns s)
      rw [takeProof, if_pos hgood] at hexec
      exact ⟨_, hexec, hst, hbuf, hseq, hexp, hdelay, hout _ hown, hreport⟩
    · rw [takeProof, if_neg hbad] at hexec
      refine ⟨_, hexec, ?_⟩
      rw [fullTraining, linkOf_putLink_same]
      exact ⟨rfl, rfl, hown⟩
  · have hexec : exec (.graceExpiry l) s = .next (flushLink l (watchTo (k.graceAt.getD 0) s)) := congrArg Host.Outcome.next (if_pos hres)
    obtain ⟨hst, hbuf, hreport, hwatch⟩ := flushLink_spec l (watchTo (k.graceAt.getD 0) s)
    exact ⟨_, hexec, hst, hbuf, fun hrx hbox hcmp => flushLink_bulkQ hrx l.isLt hbox hcmp, hreport, hwatch⟩
  · have hexec : exec (.ackTimeout l) s = .next (ackLate l (watchTo (k.ackAt + ackTicks s l) s)) := by
      change execAckTimeout l s = _
      rw [execAckTimeout, if_pos (by simp [k] at hup hbuf; simp [hup, hbuf])]
    rw [ackLate, if_neg (by exact htimes)] at hexec
    refine ⟨_, hexec, ?_⟩
    rw [linkOf_putLink_same]
    exact ⟨rfl, rfl, hup, rfl⟩
  · have hexec : exec (.ackTimeout l) s = .next (ackLate l (watchTo (k.ackAt + ackTicks s l) s)) := by
      change execAckTimeout l s = _
      rw [execAckTimeout, if_pos (by simp [k] at hup hbuf; simp [hup, hbuf])]
    rw [ackLate, if_pos (by exact htimes)] at hexec
    obtain ⟨⟨q, r, o, hlink⟩, -⟩ := leaveUp_spec (l := l) (s := putLink l { linkOf s l with timeouts := 0 } (watchTo (k.ackAt + ackTicks s l) s))
      (by rw [linkOf_putLink_same]; exact hup)
    rw [linkOf_putLink_same] at hlink
    refine ⟨_, hexec, ?_⟩
    change (linkOf (leaveUp l (putLink l { linkOf s l with timeouts := 0 } (watchTo (k.ackAt + ackTicks s l) s))) l).st = _ ∧
      (linkOf (leaveUp l (putLink l { linkOf s l with timeouts := 0 } (watchTo (k.ackAt + ackTicks s l) s))) l).buf = _
    rw [hlink]
    exact ⟨rfl, rfl⟩

/-! ### UNFENCE and RETRAIN -/

theorem conflict_fab (q a : Nat) (s : State) : (conflict q a s).fab = s.fab := by rw [conflict_frame]

/-- R314, R319: a link sent to DOWN trains at once. -/
theorem fullTraining_spec (l : Nat) (s : State) :
    (linkOf (fullTraining l s) l).st = .down ∧ (linkOf (fullTraining l s) l).buf = [] ∧ (linkOf (fullTraining l s) l).retryAt = s.watch := by
  rw [fullTraining, linkOf_putLink_same]
  exact ⟨rfl, rfl, rfl⟩

theorem forceDown_spec {l : Nat} {s : State} (h : (linkOf s l).st ≠ .fenced) :
    (linkOf (forceDown l s) l).st = .down ∧ (linkOf (forceDown l s) l).buf = [] ∧ (linkOf (forceDown l s) l).retryAt = s.watch := by
  unfold forceDown
  split
  case h_1 hst => exact absurd hst h
  case h_2 =>
    obtain ⟨hst, hbuf, hretry⟩ := fullTraining_spec l (leftUp l s)
    obtain ⟨q, r, o, hlink⟩ := (linkLost_linksStay l (fullTraining l (leftUp l s))).links l
    rw [hlink]
    refine ⟨hst, hbuf, hretry.trans ?_⟩
    exact (setEvent_linksStay ..).watch
  case h_3 => exact fullTraining_spec l s

/-! ### Cables -/

/-- R314, R319: a link that loses its signal is not UP; the others stay, and its cable stays as it is. -/
theorem loseSignal_spec (l : Nat) (s : State) :
    (linkOf (loseSignal l s) l).st ≠ .up ∧ (linkOf (loseSignal l s) l).cable = (linkOf s l).cable ∧
      (∀ m, m ≠ l → ∃ q r o, linkOf (loseSignal l s) m = { linkOf s m with bulkQ := q, rxBulk := r, offOut := o }) ∧
      ∀ o ∈ s.out, o ∈ (loseSignal l s).out := by
  have hput : ∀ k m, m ≠ l → ∃ q r o, linkOf (putLink l k s) m = { linkOf s m with bulkQ := q, rxBulk := r, offOut := o } := fun k m hm =>
    ⟨_, _, _, linkOf_putLink_other _ _ hm⟩
  unfold loseSignal
  split
  case h_1 hst =>
    obtain ⟨⟨q, r, o, hlink⟩, hother, hout, -⟩ := leaveUp_spec hst
    rw [hlink]
    exact ⟨by simp, rfl, hother, hout⟩
  case h_2 hst =>
    rw [linkOf_putLink_same]
    exact ⟨by rw [hst]; decide, rfl, hput _, fun _ h => h⟩
  case h_3 hst => exact ⟨by rw [hst]; decide, rfl, fun _ _ => ⟨_, _, _, rfl⟩, fun _ h => h⟩
  case h_4 hst => exact ⟨by rw [hst]; decide, rfl, fun _ _ => ⟨_, _, _, rfl⟩, fun _ h => h⟩
  case h_5 =>
    rw [toDown, linkOf_putLink_same]
    exact ⟨by simp [downFrom, linkReset], rfl, hput _, fun _ h => h⟩

/-- R492: what a cable's removal does to one link. -/
theorem cableLink_removed (l : Nat) (s : State) :
    (linkOf (cableLink false l s) l).st ≠ .up ∧ (linkOf (cableLink false l s) l).cable = false ∧
      (∀ m, m ≠ l → ∃ q r o, linkOf (cableLink false l s) m = { linkOf s m with bulkQ := q, rxBulk := r, offOut := o }) ∧
      ∀ o ∈ s.out, o ∈ (cableLink false l s).out := by
  obtain ⟨hst, hcable, hother, hout⟩ := loseSignal_spec l (putLink l { linkOf s l with cable := false } s)
  have hlose : cableLink false l s = loseSignal l (putLink l { linkOf s l with cable := false } s) := rfl
  rw [hlose]
  refine ⟨hst, by rw [hcable, linkOf_putLink_same], fun m hm => ?_, hout⟩
  obtain ⟨q, r, o, hlink⟩ := hother m hm
  rw [linkOf_putLink_other _ _ hm] at hlink
  exact ⟨q, r, o, hlink⟩

/-- R492: the removal of a connector's cable, link by link. -/
theorem cable_removed_foldl (conn n : Nat) (hn : n ≤ 8) (s : State) :
    let t := (List.range n).foldl (fun t i => cableLink false (8 * conn + i) t) s
    (∀ i, i < n → (linkOf t (8 * conn + i)).st ≠ .up ∧ (linkOf t (8 * conn + i)).cable = false) ∧
      (∀ m, m / 8 ≠ conn → ∃ q r o, linkOf t m = { linkOf s m with bulkQ := q, rxBulk := r, offOut := o }) ∧ ∀ o ∈ s.out, o ∈ t.out := by
  induction n with
  | zero => exact ⟨fun i hi => absurd hi (Nat.not_lt_zero i), fun _ _ => ⟨_, _, _, rfl⟩, fun _ h => h⟩
  | succ n ih =>
    obtain ⟨hdone, hother, hout⟩ := ih (by omega)
    dsimp only
    rw [List.range_succ, List.foldl_append, List.foldl_cons, List.foldl_nil]
    generalize (List.range n).foldl (fun t i => cableLink false (8 * conn + i) t) s = u at hdone hother hout ⊢
    obtain ⟨hst, hcable, hother', hout'⟩ := cableLink_removed (8 * conn + n) u
    refine ⟨fun i hi => ?_, fun m hm => ?_, fun o ho => hout' o (hout o ho)⟩
    · by_cases hin : i = n
      · rw [hin]
        exact ⟨hst, hcable⟩
      · obtain ⟨q, r, o, hlink⟩ := hother' (8 * conn + i) (by omega)
        rw [hlink]
        exact hdone i (by omega)
    · obtain ⟨q, r, o, hlink⟩ := hother m hm
      obtain ⟨q', r', o', hlink'⟩ := hother' m (by omega)
      rw [hlink] at hlink'
      exact ⟨q', r', o', hlink'⟩

/-- R492: a cable's arrival puts the link, alone. -/
theorem cableLink_present (l : Nat) (s : State) :
    (∃ k, cableLink true l s = putLink l k s) ∧
      (mayTrain (putLink l { linkOf s l with cable := true } s) l = true → railsOff s = false →
        (linkOf (cableLink true l s) l).st = .detect ∧ (linkOf (cableLink true l s) l).cable = true) := by
  have hpresent : cableLink true l s = if !railsOff s && mayTrain (putLink l { linkOf s l with cable := true } s) l
      then tryLink l (putLink l { linkOf (putLink l { linkOf s l with cable := true } s) l with backoff := 1000000 }
        (putLink l { linkOf s l with cable := true } s))
      else putLink l { linkOf s l with cable := true } s := rfl
  rw [hpresent]
  refine ⟨?_, fun hmay hrails => ?_⟩
  · split
    · rw [tryLink, putLink_putLink, putLink_putLink]
      exact ⟨_, rfl⟩
    · exact ⟨_, rfl⟩
  · rw [hmay, hrails, if_pos (by rfl), tryLink, linkOf_putLink_same, linkOf_putLink_same, linkOf_putLink_same]
    exact ⟨rfl, rfl⟩

/-- R492: the arrival of a connector's cable, link by link. -/
theorem cable_present_foldl (conn n : Nat) (hn : n ≤ 8) (s : State) :
    let t := (List.range n).foldl (fun t i => cableLink true (8 * conn + i) t) s
    (∀ i, i < n → mayTrain (putLink (8 * conn + i) { linkOf s (8 * conn + i) with cable := true } s) (8 * conn + i) = true → railsOff s = false →
        (linkOf t (8 * conn + i)).st = .detect ∧ (linkOf t (8 * conn + i)).cable = true) ∧
      (∀ i, n ≤ i → linkOf t (8 * conn + i) = linkOf s (8 * conn + i)) ∧ t = { s with fab := { s.fab with links := t.fab.links } } := by
  induction n with
  | zero => exact ⟨fun i hi => absurd hi (Nat.not_lt_zero i), fun _ _ => rfl, rfl⟩
  | succ n ih =>
    obtain ⟨hdone, hrest, hframe⟩ := ih (by omega)
    dsimp only
    rw [List.range_succ, List.foldl_append, List.foldl_cons, List.foldl_nil]
    generalize (List.range n).foldl (fun t i => cableLink true (8 * conn + i) t) s = u at hdone hrest hframe ⊢
    obtain ⟨⟨k, hput⟩, htrain⟩ := cableLink_present (8 * conn + n) u
    refine ⟨fun i hi hmay hrails => ?_, fun i hi => ?_, ?_⟩
    · by_cases hin : i = n
      · subst hin
        refine htrain ?_ ?_
        · rw [hrest i (Nat.le_refl i)]
          unfold mayTrain at hmay ⊢
          rw [linkOf_putLink_same] at hmay ⊢
          rw [putLink, hframe]
          exact hmay
        · rw [hframe]
          exact hrails
      · rw [hput, linkOf_putLink_other _ _ (by omega)]
        exact hdone i (by omega) hmay hrails
    · rw [hput, linkOf_putLink_other _ _ (by omega)]
      exact hrest i (by omega)
    · rw [hput, putLink]
      rw [hframe]

/-- R492: CBL_3V3 of a connector follows its cable. -/
def connectorPower (conn : Nat) (present : Bool) (s : State) : State :=
  emit (.pin ("CBL_3V3 " ++ toString conn) (b2n present))
    { s with kpr := { s.kpr with pins := { s.kpr.pins with cblPower := tput s.kpr.pins.cblPower conn present } } }

theorem cableChange_eq (conn : Nat) (present : Bool) (s : State) :
    cableChange conn present s = (List.range 8).foldl (fun t i => cableLink present (8 * conn + i) t) (connectorPower conn present s) := rfl

theorem exec_cablePresentChange {s : State} (hoff : s.life ≠ .off) (conn : Fin 12) (present : Bool) :
    exec (.cablePresentChange conn present) s = .next (cableChange conn present s) := congrArg Host.Outcome.next (if_neg hoff)

/-- Settles O42: the two register actions of a link, and its cable. -/
theorem linkRegisterActions : Obligations.LinkRegisterActions := by
  unfold Obligations.LinkRegisterActions
  intro l s k
  have hserved : paused s = false → railsOff s = false → ∀ act : State → State, hostWrite (pgLnk l) (lnkReg l 0x10) act s = act s :=
    fun hp hrails act => hostWrite_served _ _ act hp (fun hoff => by simp [railsOff, hoff] at hrails) (.inl hrails)
  refine ⟨fun hp hrails hfree => ⟨fun hfen hpos => ?_, fun hst => ?_⟩, fun hp hrails hbusy c hc => ?_, fun conn hconn hoff => ⟨fun hst hrails hpos hen => ?_, ?_⟩⟩
  · have hexec : exec (.unfence l) s = .next (fullTraining l s) := by
      change execUnfence l s = _
      rw [execUnfence, hserved hp hrails, if_neg (by simp [hfree]), unfenceLink, if_pos (by simp [k] at hfen; simp [hfen, hpos])]
    obtain ⟨hst, -, hretry⟩ := fullTraining_spec l s
    exact ⟨_, hexec, hst, hretry, rfl⟩
  · have hexec : exec (.retrain l) s = .next (forceDown l s) := by
      change execRetrain l s = _
      rw [execRetrain, hserved hp hrails, if_neg (by simp [hfree])]
    exact ⟨_, hexec, forceDown_spec hst⟩
  · have hexec : exec c s = .next (conflict 0x7F (lnkReg l 0x10) s) := by
      rcases List.mem_cons.mp hc with rfl | hc
      · change execUnfence l s = _
        rw [execUnfence, hserved hp hrails, if_pos hbusy]
      · rw [List.mem_singleton.mp hc]
        change execRetrain l s = _
        rw [execRetrain, hserved hp hrails, if_pos hbusy]
    exact ⟨_, hexec, report_mem_out_conflict .., linkOf_congr (by rw [conflict_fab]) l⟩
  · have hlc : l.val = 8 * conn.val + l.val % 8 := by omega
    obtain ⟨hdone, -, hframe⟩ := cable_present_foldl conn 8 (Nat.le_refl 8) (connectorPower conn true s)
    have hmay : mayTrain (putLink (8 * conn.val + l.val % 8) { linkOf s (8 * conn.val + l.val % 8) with cable := true } s)
        (8 * conn.val + l.val % 8) = true := by
      rw [← hlc, mayTrain, linkOf_putLink_same]
      exact Bool.and_eq_true_iff.mpr ⟨Bool.and_eq_true_iff.mpr ⟨Bool.and_eq_true_iff.mpr ⟨hpos, hen⟩, rfl⟩, decide_eq_true hst⟩
    obtain ⟨hdet, hcable⟩ := hdone (l.val % 8) (by omega) hmay hrails
    rw [← hlc] at hdet hcable
    refine ⟨_, exec_cablePresentChange hoff conn true, hdet, hcable, ?_⟩
    rw [cableChange_eq, hframe]
    exact List.mem_cons_self
  · have hlc : l.val = 8 * conn.val + l.val % 8 := by omega
    obtain ⟨hdone, hother, hout⟩ := cable_removed_foldl conn 8 (Nat.le_refl 8) (connectorPower conn false s)
    obtain ⟨hup, hcable⟩ := hdone (l.val % 8) (by omega)
    rw [← hlc] at hup hcable
    refine ⟨_, exec_cablePresentChange hoff conn false, hup, hcable, hout _ List.mem_cons_self, fun j hj => ?_⟩
    obtain ⟨q, r, o, hlink⟩ := hother j hj
    rw [cableChange_eq, hlink]
    exact ⟨rfl, rfl, rfl, rfl⟩

end Sys2Proof.Machine
end

section
/-! How the admin queue takes a command (R402, R410), and partitions (R251 to R255). -/

namespace Sys2Proof.Machine

/-! ### Admin commands -/

/-- R402, R410, R417: a command that is taken, well formed and legal has its effect, with the head past its record. -/
theorem adminRun_of_ready {c : CmdRec} {listed : Nat} {holes : List Nat} {legal : State → Bool} {s : State} (h : AdminReady c listed holes s)
    (hlegal : legal s = true) (body : CmdBody) :
    adminRun c listed holes legal body s = body (cmdOrigin c s) c.args (advanceHead 64 s) := by
  have hrom : romRecovery (advanceHead 64 s) = false := h.booted
  rw [adminRun, if_pos h.take, cmdGate, hrom, h.args, hlegal]
  rfl

theorem halted_of_ready {c : CmdRec} {listed : Nat} {holes : List Nat} {s : State} (h : AdminReady c listed holes s) : s.jobs.halted = false := by
  have htake := h.take
  simp only [canTake, Bool.and_eq_true, Bool.not_eq_true'] at htake
  exact htake.1.2

/-- R404, R414: a command of the admin queue completes with its record. -/
theorem completed_cmdDone (c : CmdRec) (status : Nat) (result : List Byte) (s : State) {u : State} (h : u.jobs.halted = false) :
    Completed c status s (cmdDone (cmdOrigin c s) status result u) := by
  have hpost : ∀ (r : List Byte) {v : State}, v.jobs.halted = false → (queueOf (postComp 64 r v) 64).comps.getLast? = some r := fun r v hv => by
    rw [postComp, if_neg (by simp [hv])]
    dsimp only
    rw [queueOf_putQueue_same]
    exact List.getLast?_concat
  have hdone : ∃ v, v.jobs.halted = false ∧ cmdDone (cmdOrigin c s) status result u =
      postComp 64 (compRecord status 0 0 (headIndex s 64) c.tag 0 0 0 0 0 0) v := by
    unfold cmdDone
    dsimp only
    rw [if_neg (by simp [cmdOrigin])]
    split
    · exact ⟨emit (.hostWrite c.resultPtr (resultBlock result)) u, h, rfl⟩
    · exact ⟨u, h, rfl⟩
  obtain ⟨v, hv, hdone⟩ := hdone
  unfold Completed
  rw [hdone]
  exact hpost _ hv

theorem Completed.congr {c : CmdRec} {status : Nat} {s t u : State} (h : Completed c status s t) (hq : u.jobs.queues = t.jobs.queues) :
    Completed c status s u := by
  unfold Completed queueOf at h ⊢
  rw [hq]
  exact h

/-! ### Messages to the members -/

/-- What a message to another Keeper changes: what is sent, the queues of the links, the flits that wait, and the message number. -/
def Sent (s t : State) : Prop :=
  t = { s with out := t.out, fab := { s.fab with links := t.fab.links, outbox := t.fab.outbox, msgid := t.fab.msgid } }

theorem Sent.refl (s : State) : Sent s s := rfl

theorem Sent.trans {s t u : State} (h : Sent s t) (k : Sent t u) : Sent s u := by
  unfold Sent at h k ⊢
  rw [h] at k
  exact k

theorem Sent.foldl {α : Type} {f : State → α → State} (h : ∀ t x, Sent t (f t x)) (l : List α) (s : State) : Sent s (l.foldl f s) :=
  List.foldlRecOn l f (motive := Sent s) (.refl s) fun _ ht x _ => ht.trans (h _ x)

theorem Sent.part {s t : State} (h : Sent s t) : t.fab.part = s.fab.part := by rw [h]
theorem Sent.jobs {s t : State} (h : Sent s t) : t.jobs = s.jobs := by rw [h]
theorem Sent.banks {s t : State} (h : Sent s t) : t.banks = s.banks := by rw [h]

theorem sendBytes_sent (dest bchan : Nat) (bs : List Byte) (s : State) : Sent s (sendBytes dest bchan bs s) := by
  unfold Sent sendBytes
  rw [drainOut_frame]

theorem sendMsg_sent (bchan r : Nat) (name : String) (data : List Byte) (s : State) : Sent s (sendMsg bchan r name data s) :=
  Sent.trans (t := emit (.msg r name data) s) rfl (sendBytes_sent ..)

theorem toMembersOn_sent (bchan : Nat) (name : String) (data : List Byte) (s : State) : Sent s (toMembersOn bchan name data s) :=
  .foldl (fun _ _ => sendMsg_sent ..) _ s

/-- What every step of a sequence sends is sent in the end. -/
theorem mem_out_foldl {α : Type} {f : State → α → State} {g : α → Out} (hmono : ∀ t x, ∀ o ∈ t.out, o ∈ (f t x).out)
    (hadd : ∀ t x, g x ∈ (f t x).out) (l : List α) (s : State) : ∀ x ∈ l, g x ∈ (l.foldl f s).out := by
  induction l generalizing s with
  | nil => exact fun x hx => absurd hx (by simp)
  | cons y l ih =>
    intro x hx
    rcases List.mem_cons.mp hx with rfl | hx
    · exact List.foldlRecOn l f (motive := fun t => g x ∈ t.out) (hadd s x) fun t ht z _ => hmono t z _ ht
    · exact ih _ x hx

theorem mem_out_sendMsg (bchan r : Nat) (name : String) (data : List Byte) (s : State) :
    .msg r name data ∈ (sendMsg bchan r name data s).out :=
  (sendBytes_linksStay (rankChip s r) bchan (messageBytes name data) (emit (.msg r name data) s)).out _ List.mem_cons_self

/-- R253: every other member is sent the message. -/
theorem mem_out_toMembersOn (bchan : Nat) (name : String) (data : List Byte) (s : State) :
    ∀ x ∈ otherRanks s.fab.part, .msg x name data ∈ (toMembersOn bchan name data s).out :=
  mem_out_foldl (fun t x => (sendMsg_linksStay bchan x name data t).out) (fun t x => mem_out_sendMsg bchan x name data t) _ s

/-! ### The ends of a formation -/

theorem formDone_booked (status : Nat) (s : State) : Booked s (formDone status s) := by
  unfold formDone
  split
  · exact .refl s
  · exact (jobs_booked rfl).trans (cmdDone_booked ..)

theorem bankOf_congr {s t : State} (h : t.banks = s.banks) (b : Nat) : bankOf t b = bankOf s b := by simp only [bankOf, h]

/-- R255: FORMED: a changed Sector table makes LOADED banks STALE. -/
theorem enterFormed_spec (s : State) :
    (enterFormed s).fab.part = { s.fab.part with st := .formed } ∧ (∀ o ∈ s.out, o ∈ (enterFormed s).out) ∧
      ∀ b, (bankOf s b).st = .loaded → (bankOf (enterFormed s) b).st = .stale := by
  have hdone := formDone_booked 0 (staleBanks (putPart { s.fab.part with st := .formed } s))
  have hout := (formDone_linksStay 0 (staleBanks (putPart { s.fab.part with st := .formed } s))).out
  refine ⟨by rw [enterFormed, hdone.fab]; rfl, hout, fun b hb => ?_⟩
  rw [enterFormed, bankOf_congr hdone.banks]
  exact bankOf_staleBanks_of_loaded hb

/-- R255: the end of a partition. -/
theorem staleBanks_noPart_formDone (status : Nat) (s : State) :
    (staleBanks (noPart (formDone status s))).fab.part.st = .none ∧ (∀ o ∈ s.out, o ∈ (staleBanks (noPart (formDone status s))).out) ∧
      (staleBanks (noPart (formDone status s))).watch = s.watch ∧
      (∀ b, (bankOf s b).st = .loaded → (bankOf (staleBanks (noPart (formDone status s))) b).st = .stale) ∧
      (staleBanks (noPart (formDone status s))).jobs.halted = s.jobs.halted := by
  have hdone := formDone_booked status s
  have hout := (formDone_linksStay status s).out
  generalize formDone status s = t at hdone hout ⊢
  refine ⟨rfl, hout, hdone.watch, fun b hb => bankOf_staleBanks_of_loaded ?_, hdone.halted⟩
  exact (congrArg Bank.st (bankOf_congr (t := noPart t) hdone.banks b)).trans hb

/-- R253: ABORT at the head Keeper. -/
theorem headAbort_spec (s : State) :
    (headAbort s).fab.part.st = .none ∧ (∀ x ∈ otherRanks s.fab.part, .msg x "ABORT" [] ∈ (headAbort s).out) ∧
      .report 0x3005 pgKpr ∈ (headAbort s).out ∧ (headAbort s).watch = s.watch := by
  have hmsgs := mem_out_toMembersOn 3 "ABORT" [] s
  obtain ⟨hpart, hout, -, -, -⟩ := staleBanks_noPart_formDone 0x3005
    (report 0x3005 pgKpr (emit (.msg (firstMissing s.fab.part) "FORMATION_FAILED" []) (toMembersOn 3 "ABORT" [] s)))
  exact ⟨hpart, fun x hx => hout _ (List.mem_cons_of_mem _ (List.mem_cons_of_mem _ (hmsgs x hx))), hout _ List.mem_cons_self,
    (headAbort_linksStay s).watch⟩

/-- R253: FORMED at the head Keeper. -/
theorem headFormed_spec (s : State) :
    (headFormed s).fab.part.st = .formed ∧ (∀ x ∈ otherRanks s.fab.part, .msg x "FORMED" [] ∈ (headFormed s).out) ∧
      ∀ b, (bankOf s b).st = .loaded → (bankOf (headFormed s) b).st = .stale := by
  obtain ⟨hpart, hout, hstale⟩ := enterFormed_spec (toMembersOn 3 "FORMED" [] s)
  refine ⟨by rw [headFormed, hpart], fun x hx => hout _ (mem_out_toMembersOn 3 "FORMED" [] s x hx), fun b hb => hstale b ?_⟩
  rw [bankOf_congr (toMembersOn_sent ..).banks]
  exact hb

theorem headDecide_of_all {s : State} (h : ∀ x ∈ otherRanks s.fab.part, x ∈ s.fab.part.reports) :
    headDecide s = if s.fab.part.differed.isNone then headFormed s else headAbort s :=
  if_pos (List.all_eq_true.mpr fun x hx => List.contains_iff_mem.mpr (h x hx))

theorem headDecide_of_missing {s : State} (h : ∃ x ∈ otherRanks s.fab.part, x ∉ s.fab.part.reports) : headDecide s = s := by
  obtain ⟨x, hx, hmiss⟩ := h
  refine if_neg fun hall => hmiss ?_
  exact List.contains_iff_mem.mp (List.all_eq_true.mp hall x hx)

/-! ### Reports -/

/-- R253: a report that counts comes to the head Keeper's decision. -/
theorem exec_formationReport {rank pid : Nat} {hash : List Byte} {s : State} (hhead : headForming s = true) (hlt : rank < s.fab.part.chips)
    (hnew : rank ∉ s.fab.part.reports) : exec (.formationReport rank pid hash) s = .next (takeReport rank pid hash s) :=
  congrArg Host.Outcome.next (if_pos (by simp [hhead, hlt, hnew]))

/-- R253: a report of the same record. -/
theorem takeReport_of_match {rank pid : Nat} {hash : List Byte} {s : State} (hpid : pid = s.fab.part.pid) (hhash : hash = s.fab.part.hash) :
    takeReport rank pid hash s = headDecide (putPart { s.fab.part with reports := rank :: s.fab.part.reports } s) := by
  have hok : (decide (pid = s.fab.part.pid) && decide (hash = s.fab.part.hash)) = true := by simp [hpid, hhash]
  unfold takeReport
  dsimp only
  rw [hok, if_pos (by rfl)]

/-- R253: a report of another record. -/
theorem takeReport_of_differ {rank pid : Nat} {hash : List Byte} {s : State} (h : pid ≠ s.fab.part.pid ∨ hash ≠ s.fab.part.hash) :
    ∃ d, takeReport rank pid hash s = headDecide (putPart { s.fab.part with reports := rank :: s.fab.part.reports, differed := some d } s) := by
  have hok : (decide (pid = s.fab.part.pid) && decide (hash = s.fab.part.hash)) = false := by
    rcases h with h | h <;> simp [h]
  unfold takeReport
  dsimp only
  rw [hok, if_neg (by exact Bool.false_ne_true)]
  exact ⟨_, rfl⟩

/-! ### The start of a formation -/

/-- R253: the partition that a record forms, as it begins. -/
def newPart (r : List Byte) (differed : Option Nat) (s : State) : Part :=
  { st := .forming, record := r, hash := sha3 r, pid := prPid r, rank := rankOf (prShape r) (prSelf s r), chips := prSize r, self := prSelf s r
    shape := prShape r, sector := sectorBytes s r, reports := [], differed := differed
    deadline := s.watch + prFormMs r * 1000000, detours := [] }

/-- R253: with other members to hear from, the head Keeper waits; a member reports. -/
theorem firstReport_spec {u : State} (h : u.fab.part.rank ≠ 0 ∨ 1 < u.fab.part.chips) (hrep : u.fab.part.reports = []) (good : Bool) :
    (if u.fab.part.rank = 0 then headDecide u else sendReport good u).fab.part = u.fab.part ∧
      (if u.fab.part.rank = 0 then headDecide u else sendReport good u).jobs = u.jobs := by
  by_cases hrank : u.fab.part.rank = 0
  · have hother : ∃ x ∈ otherRanks u.fab.part, x ∉ u.fab.part.reports := by
      refine ⟨1, ?_, by simp [hrep]⟩
      simp only [otherRanks, hrank, List.mem_filter, List.mem_range]
      exact ⟨h.resolve_left (not_not.mpr hrank), by decide⟩
    rw [if_pos hrank, headDecide_of_missing hother]
    exact ⟨rfl, rfl⟩
  · rw [if_neg hrank]
    exact ⟨(sendMsg_sent ..).part, (sendMsg_sent ..).jobs⟩

/-- R253: a member that begins a formation waits in FORMING. -/
theorem startForming_spec {o : CmdFrom} {r : List Byte} {s : State} (h : rankOf (prShape r) (prSelf s r) ≠ 0 ∨ 1 < prSize r) :
    (startForming o r s).fab.part.st = .forming ∧ (startForming o r s).fab.part.record = r ∧ (startForming o r s).fab.part.hash = sha3 r ∧
      (startForming o r s).fab.part.pid = prPid r ∧ (startForming o r s).fab.part.rank = rankOf (prShape r) (prSelf s r) ∧
      (startForming o r s).fab.part.sector = sectorBytes s r ∧ (startForming o r s).fab.part.deadline = s.watch + prFormMs r * 1000000 ∧
      (startForming o r s).jobs.formCmd = some o := by
  obtain ⟨d, hpart, hcmd⟩ : ∃ d, (startForming o r s).fab.part = newPart r d s ∧ (startForming o r s).jobs.formCmd = some o := by
    unfold startForming
    dsimp only
    cases badLink s r with
    | none =>
      obtain ⟨hpart, hjobs⟩ := firstReport_spec
        (u := staleBanks (putPart (newPart r none s) { s with jobs := { s.jobs with formCmd := some o } })) h rfl true
      exact ⟨none, hpart, congrArg JobSt.formCmd hjobs⟩
    | some l =>
      obtain ⟨hpart, hjobs⟩ := firstReport_spec (u := report 0x3004 pgKpr (emit (.msg 0 "FORMATION_LINK" (leBytes 1 l))
        (staleBanks (putPart (newPart r (some (rankOf (prShape r) (prSelf s r))) s) { s with jobs := { s.jobs with formCmd := some o } })))) h rfl false
      exact ⟨some _, hpart, congrArg JobSt.formCmd hjobs⟩
  rw [hpart]
  exact ⟨rfl, rfl, rfl, rfl, rfl, rfl, rfl, hcmd⟩

/-- R253: a command that forms a partition, where there is none. -/
theorem cmdForm_of_none {o : CmdFrom} {r args : List Byte} {s : State} (hnone : s.fab.part.st = .none) (hlen : r.length = 144) :
    cmdForm r o args s = if recordOk s r then startForming o r s else cmdDone o 0x3001 [] (report 0x3001 pgKpr s) := by
  unfold cmdForm
  rw [hnone, if_neg (by simp), if_neg (by simp), hlen]
  cases recordOk s r <;> rfl

/-- Settles O43: each event of a formation. -/
theorem partitionForms : Obligations.PartitionForms := by
  unfold Obligations.PartitionForms
  intro s p
  refine ⟨fun c r hready hlife hnone hlen => ⟨fun hok hrank => ?_, fun hbad => ?_⟩, fun rank pid hash hhead hlt hnew => ⟨fun hpid hhash hmiss => ?_,
    fun hall hpid hhash hsame => ?_, fun hall hdiff => ?_⟩, fun hhead => ?_, fun hmember => ⟨?_, ?_⟩, fun c hready hlife hform => ?_⟩
  · have hform := cmdForm_of_none (o := cmdOrigin c s) (args := c.args) (s := advanceHead 64 s) hnone hlen
    rw [if_pos (by exact hok)] at hform
    have hexec : exec (.partitionForm c r) s = .next (adminRun c 8 [] inRL (cmdForm r) s) := rfl
    rw [adminRun_of_ready hready hlife, hform] at hexec
    exact ⟨_, hexec, startForming_spec (s := advanceHead 64 s) hrank⟩
  · have hform := cmdForm_of_none (o := cmdOrigin c s) (args := c.args) (s := advanceHead 64 s) hnone hlen
    rw [if_neg (by exact ne_true_of_eq_false hbad)] at hform
    have hexec : exec (.partitionForm c r) s = .next (adminRun c 8 [] inRL (cmdForm r) s) := rfl
    rw [adminRun_of_ready hready hlife, hform] at hexec
    exact ⟨_, hexec, completed_cmdDone c _ _ s (by exact halted_of_ready (s := s) hready), (cmdDone_booked ..).fab⟩
  · have hmiss' : ∃ x ∈ otherRanks (putPart { p with reports := rank :: p.reports } s).fab.part,
        x ∉ (putPart { p with reports := rank :: p.reports } s).fab.part.reports := by
      obtain ⟨x, hx, hne, hrep⟩ := hmiss
      exact ⟨x, hx, fun hin => (List.mem_cons.mp hin).elim hne hrep⟩
    rw [exec_formationReport hhead hlt hnew, takeReport_of_match hpid hhash, headDecide_of_missing hmiss']
  · have hin : ∀ d, ∀ x ∈ otherRanks (putPart { p with reports := rank :: p.reports, differed := d } s).fab.part,
        x ∈ (putPart { p with reports := rank :: p.reports, differed := d } s).fab.part.reports := fun _ x hx => List.mem_cons.mpr (hall x hx)
    have hexec := exec_formationReport (pid := pid) (hash := hash) hhead hlt hnew
    rw [takeReport_of_match hpid hhash, headDecide_of_all (hin _), if_pos (by exact Option.isNone_iff_eq_none.mpr hsame)] at hexec
    exact ⟨_, hexec, headFormed_spec _⟩
  · have hin : ∀ d, ∀ x ∈ otherRanks (putPart { p with reports := rank :: p.reports, differed := d } s).fab.part,
        x ∈ (putPart { p with reports := rank :: p.reports, differed := d } s).fab.part.reports := fun _ x hx => List.mem_cons.mpr (hall x hx)
    obtain ⟨d, htake⟩ := takeReport_of_differ (rank := rank) hdiff
    have hexec := exec_formationReport (pid := pid) (hash := hash) hhead hlt hnew
    rw [htake, headDecide_of_all (hin _), if_neg (by exact Bool.false_ne_true)] at hexec
    obtain ⟨hst, hmsgs, hreport, -⟩ := headAbort_spec (putPart { p with reports := rank :: p.reports, differed := some d } s)
    exact ⟨_, hexec, hst, hmsgs, hreport⟩
  · have hexec : exec .formationTimeout s = .next (headAbort (watchTo p.deadline s)) := congrArg Host.Outcome.next (if_pos hhead)
    obtain ⟨hst, hmsgs, hreport, hwatch⟩ := headAbort_spec (watchTo p.deadline s)
    exact ⟨_, hexec, hst, hreport, hwatch, hmsgs⟩
  · have hexec : exec .formedMessage s = .next (enterFormed s) := congrArg Host.Outcome.next (if_pos hmember)
    obtain ⟨hpart, -, hstale⟩ := enterFormed_spec s
    exact ⟨_, hexec, hpart, hstale⟩
  · have hexec : exec .formationAbort s = .next (staleBanks (noPart (formDone (if p.differed.isSome then 0x3004 else 0x3005) s))) :=
      congrArg Host.Outcome.next (if_pos hmember)
    obtain ⟨hpart, -, -, hstale, -⟩ := staleBanks_noPart_formDone (if p.differed.isSome then 0x3004 else 0x3005) s
    exact ⟨_, hexec, hpart, hstale⟩
  · have hexec : exec (.partitionDissolve c) s = .next (adminRun c 0 [] inRL cmdDissolve s) := rfl
    rw [adminRun_of_ready hready hlife, cmdDissolve, if_neg (by exact hform)] at hexec
    obtain ⟨hpart, -, -, hstale, hhalt⟩ := staleBanks_noPart_formDone 0x3005 (advanceHead 64 s)
    have hdone := cmdDone_booked (cmdOrigin c s) 0 [] (staleBanks (noPart (formDone 0x3005 (advanceHead 64 s))))
    refine ⟨_, hexec, by rw [hdone.fab, hpart], completed_cmdDone c _ _ s (hhalt.trans (by exact halted_of_ready (s := s) hready)), fun b hb => ?_⟩
    rw [bankOf_congr hdone.banks]
    exact hstale b hb

end Sys2Proof.Machine
end

section
/-! Fabric time (R330 to R343). -/

namespace Sys2Proof.Machine

theorem timEvent_frame (code bit : Nat) (off : Int) (rank : Nat) (s : State) : timEvent code bit off rank s = { s with
    regs := (timEvent code bit off rank s).regs, out := (timEvent code bit off rank s).out } := raise_frame ..

theorem timEvent_fab (code bit : Nat) (off : Int) (rank : Nat) (s : State) : (timEvent code bit off rank s).fab = s.fab := by rw [timEvent_frame]

theorem report_mem_out_timEvent (code bit : Nat) (off : Int) (rank : Nat) (s : State) : .report code pgTim ∈ (timEvent code bit off rank s).out :=
  report_mem_out_raise ..

/-! ### Domains -/

theorem domOf_putDom_same (b : Bool) (d : Dom) (s : State) : domOf (putDom b d s) b = d := by cases b <;> rfl

theorem domOf_putDom_other (b : Bool) (d : Dom) (s : State) : domOf (putDom b d s) (!b) = domOf s (!b) := by cases b <;> rfl

theorem servo_putDom (b : Bool) (d : Dom) (s : State) : (putDom b d s).fab.time.servo = s.fab.time.servo := by cases b <;> rfl

theorem actB_putDom (b : Bool) (d : Dom) (s : State) : (putDom b d s).fab.time.actB = s.fab.time.actB := by cases b <;> rfl

theorem domOf_congr {s t : State} (ha : t.fab.time.domA = s.fab.time.domA) (hb : t.fab.time.domB = s.fab.time.domB) (b : Bool) :
    domOf t b = domOf s b := by
  cases b
  · exact ha
  · exact hb

/-- R338: a switch to a domain follows it with its held offset; the other domain stays. -/
theorem switchDomain_spec (b : Bool) (s : State) :
    (switchDomain b s).fab.time.actB = b ∧
      ((domOf s b).eligible = true → (switchDomain b s).fab.time.target = meanOff (domOf s b)) ∧
      domOf (switchDomain b s) (!b) = domOf s (!b) ∧ .report 0x0070 pgTim ∈ (switchDomain b s).out := by
  have htime : ∃ u : State, (switchDomain b s).fab.time = u.fab.time ∧ u.fab.time.actB = b ∧
      u.fab.time.target = (if (domOf s b).eligible then meanOff (domOf s b) else (domOf s b).held) ∧ domOf u (!b) = domOf s (!b) := by
    unfold switchDomain
    dsimp only
    rw [timEvent_frame]
    refine ⟨_, rfl, rfl, rfl, ?_⟩
    cases b <;> rfl
  obtain ⟨u, hu, hact, htarget, hother⟩ := htime
  refine ⟨by rw [hu, hact], fun hel => by rw [hu, htarget, if_pos hel], ?_, report_mem_out_timEvent ..⟩
  rw [← hother]
  exact domOf_congr (by rw [hu]) (by rw [hu]) _

/-- R338: a domain that stays without a block is invalid; an eligible other one takes over, and with none the servo holds over. -/
theorem domainLost_spec (b : Bool) (s : State) :
    (domOf (domainLost b s) b).valid = false ∧ (domOf (domainLost b s) b).syncs = [] ∧ (domOf (domainLost b s) b).eligible = false ∧
      (s.fab.time.actB = b → (domOf s (!b)).eligible = true →
        (domainLost b s).fab.time.actB = !b ∧ .report 0x0070 pgTim ∈ (domainLost b s).out) ∧
      ((domOf s (!b)).eligible = false → (domOf s (!b)).valid = false →
        (domainLost b s).fab.time.servo = if s.fab.time.servo = .free then .free else .holdover) := by
  generalize hd : ({ domOf s b with valid := false, syncs := [], eligible := false, upstream := none } : Dom) = d
  obtain ⟨hvalid, hsyncs, hel⟩ : d.valid = false ∧ d.syncs = [] ∧ d.eligible = false := by
    rw [← hd]
    exact ⟨rfl, rfl, rfl⟩
  unfold domainLost
  dsimp only
  rw [hd, domOf_putDom_other]
  have hactB := actB_putDom b d s
  split
  case isTrue hswitch =>
    obtain ⟨hact, -, hkept, hreport⟩ := switchDomain_spec (!b) (putDom b d s)
    rw [Bool.not_not, domOf_putDom_same] at hkept
    rw [hkept]
    refine ⟨hvalid, hsyncs, hel, fun _ _ => ⟨hact, hreport⟩, fun hne => ?_⟩
    simp [hne] at hswitch
  case isFalse hstay =>
    have hno : s.fab.time.actB = b → (domOf s (!b)).eligible = true → False := fun ha he => hstay (by simp [hactB, ha, he])
    split
    case isTrue hov =>
      rw [domOf_putDom_same]
      exact ⟨hvalid, hsyncs, hel, fun ha he => (hno ha he).elim, fun _ hv => absurd hov (by simp [hv])⟩
    case isFalse =>
      generalize hu : putTime _ (putDom b d s) = u
      have hdom : domOf u b = d := by rw [← hu, ← domOf_putDom_same b d s]; cases b <;> rfl
      have hservo : u.fab.time.servo = if s.fab.time.servo = .free then .free else .holdover := by rw [← hu, ← servo_putDom b d s]; rfl
      obtain ⟨v, hv, hfab⟩ : ∃ v, v = (if (putDom b d s).fab.time.servo = .locked then timEvent 0x0073 6 (domOf s b).offset 0 u else u) ∧ v.fab = u.fab := by
        refine ⟨_, rfl, ?_⟩
        split
        · exact timEvent_fab ..
        · rfl
      rw [← hv, domOf_congr (s := u) (t := v) (by rw [hfab]) (by rw [hfab]) b, hdom, hfab]
      exact ⟨hvalid, hsyncs, hel, fun ha he => (hno ha he).elim, fun _ _ => hservo⟩

/-! ### PPS and TOD -/

theorem leNat_lt (bs : List Byte) : leNat bs < 256 ^ bs.length := by
  induction bs with
  | nil => decide
  | cons b bs ih =>
    have hb := b.isLt
    rw [leNat, List.length_cons, Nat.pow_succ]
    omega

theorem length_slice (bs : List Byte) (o n : Nat) : (slice bs o n).length = n := by
  simp only [slice, List.length_append, List.length_take, List.length_drop, List.length_replicate]
  omega

/-- R8: a field is below the power of its length. -/
theorem field_lt (bs : List Byte) (o n : Nat) : field bs o n < 256 ^ n := by
  have hlt := leNat_lt (slice bs o n)
  rwa [length_slice] at hlt

/-- R340: the edge before came at the right distance. -/
def goodEdge (s : State) : Bool :=
  match s.fab.time.ppsAt with
  | some p => decide (999900000 ≤ s.watch - p) && decide (s.watch - p ≤ 1000100000)
  | none => false

theorem goodEdge_iff (s : State) :
    goodEdge s = true ↔ ∃ p, s.fab.time.ppsAt = some p ∧ 999900000 ≤ s.watch - p ∧ s.watch - p ≤ 1000100000 := by
  unfold goodEdge
  split
  case h_1 p hp => simp [hp]
  case h_2 hp => simp [hp]

/-- R332, R340: an edge that is the run-th in a row at the right distance. -/
def stampEdge (run : Nat) (s : State) : State :=
  let valid := s.fab.time.ppsValid || decide (3 ≤ run)
  let s1 := regPut64 (pageBase pgTim + 0x68) s.watch (putTime { s.fab.time with ppsAt := some s.watch, ppsRun := run, ppsValid := valid } s)
  if valid && gmDomain s != 0 then
    slew (regPut64 (pageBase pgTim + 0x58) (2 ^ 32) (anchorAt s.watch (nearestSec (ownTod s s.watch)) s1))
  else s1

theorem ppsEdge_eq (s : State) : ppsEdge s = stampEdge (if goodEdge s then s.fab.time.ppsRun + 1 else 1) s := rfl

theorem stampEdge_spec (run : Nat) (s : State) :
    (stampEdge run s).fab.time.ppsAt = some s.watch ∧ (stampEdge run s).fab.time.ppsRun = run ∧
      (stampEdge run s).fab.time.ppsValid = (s.fab.time.ppsValid || decide (3 ≤ run)) := by
  unfold stampEdge
  dsimp only
  generalize (s.fab.time.ppsValid || decide (3 ≤ run)) = valid
  cases (valid && gmDomain s != 0) with
  | false => exact ⟨rfl, rfl, rfl⟩
  | true => exact ⟨rfl, rfl, rfl⟩

/-- R340: an edge of PPS_IN is stamped, and counts when its distance from the one before is right. -/
theorem ppsEdge_spec (s : State) :
    (ppsEdge s).fab.time.ppsAt = some s.watch ∧
      (ppsEdge s).fab.time.ppsValid = (s.fab.time.ppsValid || decide (3 ≤ (ppsEdge s).fab.time.ppsRun)) ∧
      (ppsEdge s).fab.time.ppsRun =
        if (∃ p, s.fab.time.ppsAt = some p ∧ 999900000 ≤ s.watch - p ∧ s.watch - p ≤ 1000100000) then s.fab.time.ppsRun + 1 else 1 := by
  obtain ⟨hat, hrun, hvalid⟩ := stampEdge_spec (if goodEdge s then s.fab.time.ppsRun + 1 else 1) s
  rw [ppsEdge_eq, hrun]
  exact ⟨hat, hvalid, if_congr (goodEdge_iff s) rfl rfl⟩

/-- R343: a second begins: PPS_OUT goes high when it is enabled, and the second's message is due. -/
theorem ppsOut_spec (s : State) :
    (ppsOut s).watch = nextSecond s ∧ (ppsOut s).fab.time.ppsHigh = some (ppsOut s).watch ∧ (ppsOut s).fab.time.todDue = some (ppsOut s).watch ∧
      (bitAt (timCtl s) 4 = true → (ppsOut s).out = .pin "PPS_OUT" 1 :: s.out) ∧
      ∀ v, s.fab.time.secWrite = some v →
        (ppsOut s).fab.time.anchorSec = v % 2 ^ 48 ∧ (ppsOut s).fab.time.anchorW = (ppsOut s).watch ∧ (ppsOut s).fab.time.secWrite = none := by
  unfold ppsOut applySec
  dsimp only
  cases s.fab.time.secWrite with
  | none =>
    split
    case isTrue => exact ⟨rfl, rfl, rfl, fun _ => rfl, fun v hv => by simp at hv⟩
    case isFalse hbit => exact ⟨rfl, rfl, rfl, fun h => absurd h hbit, fun v hv => by simp at hv⟩
  | some v =>
    split
    case isTrue => exact ⟨rfl, rfl, rfl, fun _ => rfl, fun w hw => by cases hw; exact ⟨rfl, rfl, rfl⟩⟩
    case isFalse hbit => exact ⟨rfl, rfl, rfl, fun h => absurd h hbit, fun w hw => by cases hw; exact ⟨rfl, rfl, rfl⟩⟩

/-- Settles O44: each event of fabric time. -/
theorem fabricTime : Obligations.FabricTime := by
  unfold Obligations.FabricTime
  intro s x
  have hserved : paused s = false → railsOff s = false → ∀ (a : Nat) (act : State → State), hostWrite pgTim a act s = act s :=
    fun hp hrails a act => hostWrite_served _ _ act hp (fun hoff => by simp [railsOff, hoff] at hrails) (.inl hrails)
  refine ⟨⟨fun hnone => ?_, fun n hn hstep => ?_⟩, fun b hvalid => ?_, ⟨_, rfl, ppsEdge_spec s⟩, fun p hat hvalid => ?_, fun m hgm => ?_, fun hgm hlost => ?_,
    fun hhigh hdue => ?_, fun w hhigh => ?_, fun w hdue => ?_, fun hpause hrails => ⟨?_, fun v hlock hgm htod => ?_⟩⟩
  · change execWatchReferencePulse s = _
    have hstep : ({ s with watch := roundUp s.watch 1000 } : State).fab.time.stepBy = none := hnone
    rw [execWatchReferencePulse, applyStep, hstep]
  · have hexec : exec .watchReferencePulse s = .next (applyStep { s with watch := roundUp s.watch 1000 }) := rfl
    have hby : ({ s with watch := roundUp s.watch 1000 } : State).fab.time.stepBy = some n := hn
    rw [applyStep, hby] at hexec
    dsimp only at hexec
    rw [if_pos (by exact hstep)] at hexec
    exact ⟨_, hexec, rfl, rfl, rfl⟩
  · have hexec : exec (.domainTimeout b) s =
        .next (domainLost b (watchTo (((domOf s b).blk.map TimeBlk.at_).getD 0 + eightPeriods s ((domOf s b).upstream.getD 0)) s)) :=
      congrArg Host.Outcome.next (if_pos hvalid)
    exact ⟨_, hexec, domainLost_spec b _⟩
  · have hexec : exec .ppsTimeout s = .next (ppsLost (watchTo (p + 1100000000) s)) := by
      change execPpsTimeout s = _
      rw [execPpsTimeout, hat]
      exact congrArg Host.Outcome.next (if_pos hvalid)
    refine ⟨_, hexec, ?_⟩
    unfold ppsLost
    dsimp only
    split
    case isTrue =>
      refine ⟨by rw [timEvent_fab]; rfl, by rw [timEvent_frame]; rfl, fun _ => report_mem_out_timEvent ..⟩
    case isFalse hg => exact ⟨rfl, rfl, fun hgm => absurd (bne_iff_ne.mpr hgm) hg⟩
  · have hexec : exec (.todMessageRx m) s = .next (if todOk m && todInTime s then todTake m s else putTime { x with todBad := satInc x.todBad } s) := by
      change execTodMessageRx m s = _
      rw [execTodMessageRx, if_neg hgm]
    refine ⟨_, hexec, ?_, fun hok htime => ?_, fun hbad => ?_⟩
    · split <;> rfl
    · rw [hok, htime, if_pos (by rfl)]
      obtain ⟨p, hp⟩ : ∃ p, x.ppsAt = some p := by
        unfold todInTime at htime
        split at htime
        case h_1 p hp => exact ⟨p, hp⟩
        case h_2 => cases htime
      refine ⟨Nat.mod_eq_of_lt (field_lt m 4 6), rfl, rfl, ?_, rfl, rfl⟩
      rw [hp]
      exact congrArg some (congrArg (Option.getD · s.watch) hp)
    · rw [if_neg (by rcases hbad with h | h <;> simp [h])]
      rfl
  · have hexec : ∃ u, exec .todTimeout s = .next (timEvent 0x3020 3 (offNow s) 0 (putTime { x with todLost := true } u)) := by
      refine ⟨watchTo ((x.todAt.map (· + 3000000000)).getD 0) s, congrArg Host.Outcome.next (if_neg ?_)⟩
      simp [x] at hlost
      simp [hgm, hlost]
    obtain ⟨u, hexec⟩ := hexec
    exact ⟨_, hexec, by rw [timEvent_fab]; rfl, report_mem_out_timEvent ..⟩
  · have hexec : exec .ppsOutPulse s = .next (ppsOut s) := by
      change execPpsOutPulse s = _
      rw [execPpsOutPulse, if_pos]
      simp [x] at hhigh hdue
      simp [hhigh, hdue]
    exact ⟨_, hexec, ppsOut_spec s⟩
  · have hexec : exec .ppsOutEnd s = .next (if bitAt (timCtl s) 4 then emit (.pin "PPS_OUT" 0) (putTime { x with ppsHigh := none } (watchTo (w + 100000000) s))
        else putTime { x with ppsHigh := none } (watchTo (w + 100000000) s)) := by
      change execPpsOutEnd s = _
      rw [execPpsOutEnd, hhigh]
      rfl
    refine ⟨_, hexec, ?_⟩
    split
    case isTrue => exact ⟨rfl, rfl, fun _ => rfl⟩
    case isFalse hbit => exact ⟨rfl, rfl, fun h => absurd h hbit⟩
  · have hexec : exec .todTxSend s = .next (if bitAt (timCtl s) 5 then
        emit (.reply "TOD_TX" (todMessage s w)) (putTime { x with todDue := none } (watchTo (w + 10000000) s))
        else putTime { x with todDue := none } (watchTo (w + 10000000) s)) := by
      change execTodTxSend s = _
      rw [execTodTxSend, hdue]
      rfl
    refine ⟨_, hexec, ?_⟩
    split
    case isTrue => exact ⟨rfl, rfl, fun _ => rfl⟩
    case isFalse hbit => exact ⟨rfl, rfl, fun h => absurd h hbit⟩
  · intro b hb hel
    have hexec : exec .timeRevert s = .next (timeRevert s) := congrArg Host.Outcome.next (hserved hpause hrails _ _)
    rw [timeRevert, if_pos (by simp [x, b] at hb hel; simp [hb, hel])] at hexec
    obtain ⟨hact, htarget, -, hreport⟩ := switchDomain_spec b s
    exact ⟨_, hexec, hact, htarget hel, hreport⟩
  · have hexec : exec (.todSecWrite v) s = .next (todSecWrite v s) := congrArg Host.Outcome.next (hserved hpause hrails _ _)
    rw [hexec, todSecWrite, hlock, if_neg Bool.false_ne_true, if_pos]
    simpa [hgm] using htod

end Sys2Proof.Machine
end

section
/-! What reading memory leaves (R183, R185), and the control registers that events leave (R472, R476). -/

namespace Sys2Proof.Machine

/-! ### Control registers -/

/-- R485: pages lie at multiples of 4 KiB. -/
theorem pageBase_mod (p : Nat) : pageBase p % 0x1000 = 0 := by
  unfold pageBase
  dsimp only
  cases (pageKind p).1 <;> dsimp only <;> omega

/-- R322, R365: a CONTROL register, at offset 0x10 of its page. -/
def controlOf (s : State) (p : Nat) : Nat := regGet s (pageBase p + 0x10)

theorem controlOf_regPut {p q off : Nat} (v : Nat) (s : State) (h : off % 0x1000 ≠ 0x10) : controlOf (regPut (pageBase q + off) v s) p = controlOf s p := by
  have hp := pageBase_mod p
  have hq := pageBase_mod q
  exact regGet_regPut_other v s (by omega)

theorem controlOf_congr {s t : State} (h : t.regs = s.regs) (p : Nat) : controlOf t p = controlOf s p := regGet_congr h _

/-- R476: an event touches its own four registers. -/
theorem controlOf_setEvent (q bit a b c : Nat) (s : State) (p : Nat) : controlOf (setEvent q bit a b c s) p = controlOf s p := by
  have hsum : ∀ (w : Bool) (u : State), controlOf (afterSummary q w u) p = controlOf u p := fun w u => by
    unfold afterSummary
    split
    · rfl
    · rfl
  unfold setEvent
  dsimp only
  rw [hsum, controlOf_regPut _ _ (by decide)]
  split
  · rw [controlOf_regPut _ _ (by decide), controlOf_regPut _ _ (by decide), controlOf_regPut _ _ (by decide)]
  · rfl

theorem controlOf_raise (code q bit a b c : Nat) (s : State) (p : Nat) : controlOf (raise code q bit a b c s) p = controlOf s p :=
  (controlOf_setEvent ..).trans rfl

theorem controlOf_regCount {p q off : Nat} (s : State) (h : off % 0x1000 ≠ 0x10) : controlOf (regCount (pageBase q + off) s) p = controlOf s p :=
  controlOf_regPut _ s h

/-! ### Reading -/

/-- What reading memory under its code leaves: all but the marks and counts of bad bits, registers that are not of control, messages and
the checks of the Ledger. -/
def ReadKept (s : State) := (s.watch, s.life, s.sram, s.dram, s.engs, s.banks, s.moorings, s.run, s.recov, s.fab, s.jobs, s.kpr, fun p => controlOf s p)

theorem readKept_congr {s t : State} (h : t = { s with
      free := t.free, out := t.out, regs := t.regs, led := t.led, stations := t.stations, sramEcc := t.sramEcc, symCount := t.symCount })
    (hctl : ∀ p, controlOf t p = controlOf s p) : ReadKept t = ReadKept s := by
  have hfun : (fun p => controlOf t p) = fun p => controlOf s p := funext hctl
  unfold ReadKept
  rw [hfun, h]

theorem sramCorrected_readKept (b : Bool) (a : Nat) (s : State) : ReadKept (sramCorrected b a s) = ReadKept s := by
  refine readKept_congr ?_ fun p => ?_
  · rw [sramCorrected_frame]
  · unfold sramCorrected
    dsimp only
    split
    · refine (controlOf_congr (s := raise ..) rfl p).trans ?_
      rw [controlOf_raise]
      exact controlOf_regCount _ (by decide)
    · exact controlOf_regCount _ (by decide)

theorem sramWord_readKept (b : Bool) (a : Nat) (s : State) : ReadKept (sramWord b a s).2 = ReadKept s := by
  unfold sramWord
  dsimp only
  split
  · rfl
  · split
    · exact (sramCorrected_readKept ..).trans rfl
    · refine readKept_congr ?_ fun p => ?_
      · dsimp only
        rw [raise_frame]
        rfl
      · refine (controlOf_congr (s := raise ..) rfl p).trans ?_
        rw [controlOf_raise]
        exact controlOf_regCount _ (by decide)

theorem dramCorrected_readKept (b : Bool) (a y : Nat) (s : State) : ReadKept (dramCorrected b a y s) = ReadKept s := by
  refine readKept_congr ?_ fun p => ?_
  · rw [dramCorrected_frame]
  · have hcount : ∀ i, (0x100 + 4 * (i % 16)) % 0x1000 ≠ 0x10 := fun i => by omega
    have hret : ∀ i, (0x180 + 4 * (i % 16)) % 0x1000 ≠ 0x10 := fun i => by omega
    unfold dramCorrected
    dsimp only
    simp only [Nat.add_assoc]
    split
    · rw [controlOf_raise, controlOf_regPut _ _ (hret _)]
      exact controlOf_regCount _ (hcount _)
    · exact controlOf_regCount _ (hcount _)

theorem dramWord_readKept (a : Nat) (s : State) : ReadKept (dramWord false a s).2 = ReadKept s := by
  unfold dramWord
  dsimp only
  split
  · rfl
  · exact dramCorrected_readKept ..
  · refine readKept_congr ?_ fun p => ?_
    · dsimp only
      rw [raise_frame]
      rfl
    · exact controlOf_raise ..

theorem sramCheck_readKept (n w : Nat) : Leaves ReadKept (sramCheck n w) := by
  induction n generalizing w with
  | zero => exact leaves_pure _
  | succ n ih =>
    refine leaves_get_bind fun s => ?_
    rw [go_set_bind]
    refine Eq.trans ?_ (sramWord_readKept false w s)
    split
    · exact (ih ..).snd _
    · rfl

theorem dramCheck_readKept (n w : Nat) : Leaves ReadKept (dramCheck n w) := by
  induction n generalizing w with
  | zero => exact leaves_pure _
  | succ n ih =>
    refine leaves_get_bind fun s => ?_
    rw [go_set_bind]
    refine Eq.trans ?_ (dramWord_readKept w s)
    split
    · exact (ih ..).snd _
    · rfl

/-- R183, R185: reading leaves the bytes, the Watch, the job and the registers of control. -/
theorem readMem_readKept (space a n : Nat) : Leaves ReadKept (readMem space a n) := by
  unfold readMem
  refine leaves_ite (leaves_pure _) (leaves_ite ?_ ?_)
  · exact (dramCheck_readKept ..).bind fun _ => leaves_get.bind fun _ => leaves_pure _
  · exact (sramCheck_readKept ..).bind fun _ => leaves_get.bind fun _ => leaves_pure _

theorem leaves_mapM {α β γ : Type} {p : State → β} {f : α → M γ} (h : ∀ x, Leaves p (f x)) (l : List α) : Leaves p (l.mapM f) := by
  induction l with
  | nil =>
    rw [List.mapM_nil]
    exact leaves_pure _
  | cons x l ih =>
    rw [List.mapM_cons]
    exact (h x).bind fun _ => ih.bind fun _ => leaves_pure _

/-- R382: hashing the buffers of a job reads them. -/
theorem bufHash_readKept (j : Job) (bit : Nat) : Leaves ReadKept (bufHash j bit) := by
  unfold bufHash
  refine leaves_get.bind fun s => (leaves_mapM (fun e => ?_) _).bind fun _ => leaves_pure _
  split
  · exact (readMem_readKept ..).bind fun _ => leaves_pure _
  · exact leaves_pure _

end Sys2Proof.Machine
end

section
/-! Jobs from their record to L (R344, R345, R405, R409, R417). -/

namespace Sys2Proof.Machine

/-! ### Records -/

/-- R414: a job of this chip that is refused completes with its record. -/
theorem refuseJob_spec (j : Job) (code : Nat) {s : State} (h : s.jobs.halted = false) :
    (queueOf (refuseJob j true code s) j.queue).comps =
        (queueOf s j.queue).comps ++ [compRecord code 0 0 j.sqIndex (jId j.record) 0 0 0 0 0 0] ∧
      (refuseJob j true code s).jobs.waiting = s.jobs.waiting ∧ (refuseJob j true code s).jobs.active = s.jobs.active := by
  rw [refuseJob, if_pos rfl, postComp, if_neg (by simp [h])]
  dsimp only
  rw [queueOf_putQueue_same]
  exact ⟨rfl, rfl, rfl⟩

theorem queueOf_congr {s t : State} (h : t.jobs = s.jobs) (q : Nat) : queueOf t q = queueOf s q := by simp only [queueOf, h]

theorem canTake_halted {s : State} {q : Nat} (h : canTake s q = true) : s.jobs.halted = false := by
  simp only [canTake, Bool.and_eq_true, Bool.not_eq_true'] at h
  exact h.1.2

theorem comps_advanceHead (q : Nat) (s : State) : (queueOf (advanceHead q s) q).comps = (queueOf s q).comps := by
  rw [advanceHead, queueOf_putQueue_same]

theorem raise_jobs (code p bit a b c : Nat) (s : State) : (raise code p bit a b c s).jobs = s.jobs := by rw [raise_frame]

/-- R405: a record that is refused completes with the code of the rule that it breaks. -/
theorem takeJob_of_refused {q idx k : Nat} {r : List Byte} {ps bs : Option (List Byte)} {s : State} (hlife : refusesJobs s = false)
    (href : jobRefusal s r ps bs = some k) : ∃ u : State, u.jobs = s.jobs ∧
      takeJob q idx r ps bs s = refuseJob (jobOf q idx r (ps.getD []) (bs.getD [])) true k u := by
  unfold takeJob
  dsimp only
  rw [hlife, if_neg Bool.false_ne_true, href]
  refine ⟨_, ?_, rfl⟩
  split
  · exact raise_jobs ..
  · rfl

theorem takeJob_of_ok {q idx : Nat} {r : List Byte} {ps bs : Option (List Byte)} {s : State} (hlife : refusesJobs s = false)
    (href : jobRefusal s r ps bs = none) :
    takeJob q idx r ps bs s = { s with jobs := { s.jobs with waiting := s.jobs.waiting ++ [jobOf q idx r (ps.getD []) (bs.getD [])] } } := by
  unfold takeJob
  dsimp only
  rw [hlife, if_neg Bool.false_ne_true, href]

/-! ### Dispatch -/

/-- R236: a bank that is LOADED is not placed again. -/
theorem replaceBank_of_loaded {b : Nat} {s : State} (hload : (bankOf s b).st = .loaded) (himg : (bankOf s b).img.isSome = true) :
    replaceBank b s = (0, s) := by
  obtain ⟨im, him⟩ := Option.isSome_iff_exists.mp himg
  unfold replaceBank
  dsimp only
  rw [him]
  dsimp only
  rw [hload]
  rfl

/-- R271: links that are unfit are reported, and nothing else. -/
theorem noteUnfit_frame (b : Nat) (s : State) : noteUnfit b s = { s with out := (noteUnfit b s).out } := by
  refine List.foldlRecOn (motive := fun t : State => t = { s with out := t.out }) _ _ rfl fun t ht l _ => ?_
  split
  · rw [ht]
    rfl
  · exact ht

/-- R344: a head Keeper that has not heard from a member waits. -/
theorem decideLaunch_of_waiting {a : Active} {s : State} (hact : s.jobs.active = some a)
    (hwait : ∃ x ∈ otherRanks s.fab.part, x ∉ a.replies.map PrepareReply.rank) : decideLaunch s = s := by
  obtain ⟨x, hx, hmiss⟩ := hwait
  have hall : ((otherRanks s.fab.part).all (a.replies.map PrepareReply.rank).contains) = false := by
    rw [Bool.eq_false_iff]
    exact fun hall => hmiss (List.contains_iff_mem.mp (List.all_eq_true.mp hall x hx))
  unfold decideLaunch
  rw [hact]
  dsimp only
  rw [hall, Bool.not_false, Bool.or_true, Bool.true_or, if_pos rfl]

/-- R344: with no other member the head Keeper decides at once. -/
theorem decideLaunch_of_alone {a : Active} {s : State} (hact : s.jobs.active = some a) (hlaunch : a.launch = none)
    (hlead : jLeading a.job.record = false) (hrep : a.replies = []) (halone : otherRanks s.fab.part = []) :
    decideLaunch s = decide3 a (ownReply s a.job) [ownReply s a.job] s := by
  have hwait : waitsForL s a = false := by rw [waitsForL, hlead]; rfl
  unfold decideLaunch
  rw [hact]
  dsimp only
  rw [hlaunch, halone, hwait, hrep]
  rfl

/-- R264, R344, R387: a chip on its own that has nothing against the launch launches. -/
theorem decide3_of_alone {a : Active} {j : Job} {s : State} (hpend : pendingSlots s < 64) (hheld : withheld s = false)
    (hpart : s.fab.part.st ≠ .formed) (hdown : linksDownHere s (jBank j.record) = []) :
    decide3 a (ownReply s j) [ownReply s j] s = launchWith a [ownReply s j] s := by
  have hpending : ([ownReply s j].any fun r => decide (64 ≤ r.pending)) = false := by simp [ownReply, hpend]
  have hcover : (downLinks [ownReply s j]) = [] := by simp [downLinks, ownReply, hdown]
  unfold decide3
  rw [hpending, if_neg Bool.false_ne_true, hheld, if_neg Bool.false_ne_true]
  rw [if_neg (by simp [ownReply]), if_neg (by simp), if_neg (by exact hpart)]
  have hstrict : ([ownReply s j].find? fun r => r.strict != (ownReply s j).strict) = none := by simp
  rw [hstrict, hcover]
  rfl

/-- R344: at L's choice the chip is ARMED and its switch begins. -/
theorem arm_spec (a : Active) (l fq : Nat) (s : State) (hclash : a.clash = false) :
    (arm a l fq false [] s).life = .armed ∧ (arm a l fq false [] s).run.bank = jBank a.job.record ∧
      ∃ d, (arm a l fq false [] s).jobs.active = some { a with launch := some l, switching := true, lateLaunch := false, dma := d } := by
  unfold arm launchDetours
  dsimp only [List.foldl_nil]
  rw [hclash, Bool.or_false, if_neg Bool.false_ne_true]
  exact ⟨rfl, rfl, _, rfl⟩

theorem toMembers_of_alone {name : String} {data : List Byte} {s : State} (h : otherRanks s.fab.part = []) : toMembers name data s = s := by
  rw [toMembers, toMembersOn, h]
  rfl

/-- R344: the launch of a chip on its own. -/
theorem launchWith_of_alone {a : Active} {r : PrepareReply} {s : State} (hlead : jLeading a.job.record = false) (hclash : a.clash = false)
    (hdown : r.linksDown = []) (halone : otherRanks s.fab.part = []) :
    (launchWith a [r] s).life = .armed ∧ (launchWith a [r] s).run.bank = jBank a.job.record ∧
      ∃ d, (launchWith a [r] s).jobs.active = some { a with
        launch := some (chooseL s (jBank a.job.record) r.switchTicks), switching := true, lateLaunch := false, dma := d } := by
  have hlinks : downLinks [r] = [] := by simp [downLinks, hdown]
  have hnolead : (jLeading a.job.record && higherPid s) = false := by rw [hlead]; rfl
  have htell : ∀ l u, tellLead a l u = u := fun l u => by rw [tellLead, hlead]; rfl
  have hmax : ([r].foldl (fun m r => max m r.switchTicks) 0) = r.switchTicks := by simp
  unfold launchWith
  dsimp only
  rw [hlinks, hnolead, if_neg Bool.false_ne_true, htell, toMembers_of_alone halone, hmax]
  exact arm_spec a _ _ s hclash

/-- R344, R409: a launch that nothing bars before PREPARE. -/
theorem beginLaunch_of_fit {j : Job} {s : State} (hload : (bankOf s (jBank j.record)).st = .loaded)
    (himg : (bankOf s (jBank j.record)).img.isSome = true) (hfit : launchRefusal s j = none) (hlead : jLeading j.record = false) :
    beginLaunch j true s = decideLaunch (toMembers "PREPARE" (prepareBytes j (bankOf s (jBank j.record)).fq [])
      (putActive (some (newActive j true)) (noteUnfit (jBank j.record) s))) := by
  have hbank : bankOf (putActive (some (newActive j true)) (noteUnfit (jBank j.record) s)) (jBank j.record) = bankOf s (jBank j.record) := by
    rw [noteUnfit_frame]
    rfl
  unfold beginLaunch
  dsimp only
  rw [replaceBank_of_loaded hload himg, if_pos rfl]
  dsimp only
  rw [hfit]
  dsimp only
  rw [sendPrepare, hbank, hlead]
  rfl

theorem exec_jobDispatch_of_may {j : Job} {s : State} (hnext : nextJob s = some j) (hmay : mayDispatch s = true) :
    exec .jobDispatch s = .next (beginLaunch j true (takeOff j s)) := by
  change execJobDispatch s = _
  rw [execJobDispatch, hnext]
  exact congrArg Host.Outcome.next (if_pos hmay)

/-- R344, R409: with other members in the partition, PREPARE goes out and the head Keeper waits. -/
theorem dispatch_to_members {j : Job} {s : State} (hload : (bankOf s (jBank j.record)).st = .loaded)
    (himg : (bankOf s (jBank j.record)).img.isSome = true) (hfit : launchRefusal s j = none) (hlead : jLeading j.record = false)
    (hother : otherRanks s.fab.part ≠ []) :
    (beginLaunch j true s).jobs.active = some (newActive j true) ∧ (beginLaunch j true s).life = s.life ∧
      (beginLaunch j true s).jobs.waiting = s.jobs.waiting ∧
      ∀ x ∈ otherRanks s.fab.part, .msg x "PREPARE" (prepareBytes j (bankOf s (jBank j.record)).fq []) ∈ (beginLaunch j true s).out := by
  rw [beginLaunch_of_fit hload himg hfit hlead]
  have hu : putActive (some (newActive j true)) (noteUnfit (jBank j.record) s) =
      { s with jobs := { s.jobs with active := some (newActive j true) }, out := (noteUnfit (jBank j.record) s).out } := by
    rw [putActive, noteUnfit_frame]
  generalize putActive (some (newActive j true)) (noteUnfit (jBank j.record) s) = u at hu ⊢
  have hpart : u.fab.part = s.fab.part := by rw [hu]
  have hmsgs := mem_out_toMembersOn 0 "PREPARE" (prepareBytes j (bankOf s (jBank j.record)).fq []) u
  have hsent := toMembersOn_sent 0 "PREPARE" (prepareBytes j (bankOf s (jBank j.record)).fq []) u
  change ∀ x ∈ _, _ ∈ (toMembers "PREPARE" (prepareBytes j (bankOf s (jBank j.record)).fq []) u).out at hmsgs
  change Sent u (toMembers "PREPARE" (prepareBytes j (bankOf s (jBank j.record)).fq []) u) at hsent
  generalize toMembers "PREPARE" (prepareBytes j (bankOf s (jBank j.record)).fq []) u = v at hmsgs hsent ⊢
  have hact : v.jobs.active = some (newActive j true) := by rw [hsent.jobs, hu]
  obtain ⟨x, hx⟩ := List.exists_mem_of_ne_nil _ hother
  rw [decideLaunch_of_waiting hact ⟨x, by rwa [hsent.part, hpart], by simp [newActive]⟩]
  refine ⟨hact, by rw [hsent, hu], by rw [hsent, hu], fun y hy => hmsgs y ?_⟩
  rwa [hpart]

/-- R437: a launch that is not refused has its Daymark. -/
theorem withheld_of_launchRefusal {s : State} {j : Job} (h : launchRefusal s j = none) : withheld s = false := by
  cases hw : withheld s with
  | false => rfl
  | true =>
    unfold launchRefusal at h
    rw [hw] at h
    split at h
    · cases h
    · split at h
      · cases h
      · cases h

/-- R344, R409: a chip on its own is ARMED at once. -/
theorem dispatch_alone {j : Job} {s : State} (hload : (bankOf s (jBank j.record)).st = .loaded)
    (himg : (bankOf s (jBank j.record)).img.isSome = true) (hfit : launchRefusal s j = none) (hlead : jLeading j.record = false)
    (hother : otherRanks s.fab.part = []) (hpart : s.fab.part.st ≠ .formed) (hdown : linksDownHere s (jBank j.record) = [])
    (hpend : pendingSlots s < 64) :
    (beginLaunch j true s).life = .armed ∧ (beginLaunch j true s).run.bank = jBank j.record ∧
      ∃ a, (beginLaunch j true s).jobs.active = some a ∧ a.job = j ∧ a.launch = some (chooseL s (jBank j.record) (switchTicks s j)) ∧
        a.switching = true := by
  rw [beginLaunch_of_fit hload himg hfit hlead]
  have hu : putActive (some (newActive j true)) (noteUnfit (jBank j.record) s) =
      { s with jobs := { s.jobs with active := some (newActive j true) }, out := (noteUnfit (jBank j.record) s).out } := by
    rw [putActive, noteUnfit_frame]
  rw [toMembers_of_alone (by rw [hu]; exact hother), hu]
  generalize (noteUnfit (jBank j.record) s).out = o
  have hheld := withheld_of_launchRefusal hfit
  generalize hv : ({ s with jobs := { s.jobs with active := some (newActive j true) }, out := o } : State) = v
  have hact : v.jobs.active = some (newActive j true) := by rw [← hv]
  rw [decideLaunch_of_alone hact rfl hlead rfl (by rw [← hv]; exact hother),
    decide3_of_alone (by rw [← hv]; exact hpend) (by rw [← hv]; exact hheld) (by rw [← hv]; exact hpart) (by rw [← hv]; exact hdown)]
  obtain ⟨hlife, hbank, d, hact'⟩ := launchWith_of_alone (a := newActive j true) (r := ownReply v j) (s := v) hlead rfl
    (by rw [← hv]; exact hdown) (by rw [← hv]; exact hother)
  refine ⟨hlife, hbank, _, hact', rfl, ?_, rfl⟩
  rw [← hv]
  rfl

end Sys2Proof.Machine
end

section
/-! PREPARE at a member, the switch, and L (R238, R344, R345). -/

namespace Sys2Proof.Machine

/-! ### PREPARE -/

/-- R344: a member that can launch holds the job. -/
theorem holdJob_active (m : PrepareMsg) (j : Job) (s : State) : ∃ a, (holdJob m j s).jobs.active = some a ∧ a.job = j ∧ a.own = false ∧ a.launch = none ∧
    a.replies = [] ∧ a.fq = max (bankOf s (jBank m.record)).fq m.fq := ⟨_, rfl, rfl, rfl, rfl, rfl, rfl⟩

theorem out_sendMsg (bchan r : Nat) (name : String) (data : List Byte) (s : State) : (sendMsg bchan r name data s).out = .msg r name data :: s.out := by
  unfold sendMsg sendBytes
  rw [drainOut_frame]
  rfl

/-- R344: a member whose Daymark is not withheld replies to PREPARE, with the code that bars it or none, and holds the job when nothing does. -/
theorem takePrepare_eq {m : PrepareMsg} {s : State} {c : Nat} (hload : (bankOf s (jBank m.record)).st = .loaded)
    (himg : (bankOf s (jBank m.record)).img.isSome = true) (hc : memberRefusal s 0 (jobOf 0 0 m.record m.patches m.buffers) = c) (hne : c ≠ 0x5031) :
    takePrepare m s = sendMsg 0 0 "PREPARE_REPLY" (replyBytes { ownReply s (jobOf 0 0 m.record m.patches m.buffers) with refused := c })
      (if c = 0 then holdJob m (jobOf 0 0 m.record m.patches m.buffers) (noteUnfit (jBank m.record) s)
        else putActive none (noteUnfit (jBank m.record) s)) := by
  unfold takePrepare
  dsimp only
  rw [replaceBank_of_loaded hload himg]
  dsimp only
  rw [hc, if_neg hne, hload]
  simp only [decide_true, Bool.true_and, decide_eq_true_eq]

theorem memberRefusal_of_misfit {s : State} {j : Job} (himg : (bankOf s (jBank j.record)).img.isSome = true) (h : writesFit s j = false) :
    memberRefusal s 0 j = 0x1009 := by
  obtain ⟨im, him⟩ := Option.isSome_iff_exists.mp himg
  unfold memberRefusal
  dsimp only
  rw [him, h]
  rfl

theorem memberRefusal_of_fit {s : State} {j : Job} (himg : (bankOf s (jBank j.record)).img.isSome = true) (h : writesFit s j = true)
    (hheld : withheld s = false) : memberRefusal s 0 j = 0 := by
  obtain ⟨im, him⟩ := Option.isSome_iff_exists.mp himg
  unfold memberRefusal
  dsimp only
  rw [him, h, hheld]
  rfl

/-! ### Replies -/

theorem mem_insReply {x y : PrepareReply} {l : List PrepareReply} (h : y ∈ insReply x l) : y = x ∨ y ∈ l := by
  induction l with
  | nil => exact .inl (List.mem_singleton.mp h)
  | cons z l ih =>
    rw [insReply] at h
    split at h
    · exact (List.mem_cons.mp h)
    · rcases List.mem_cons.mp h with rfl | h
      · exact .inr List.mem_cons_self
      · exact (ih h).imp_right (List.mem_cons_of_mem _)

/-! ### The switch -/

/-- R345: a switch that ends late changes slot 0 and the recovery's mark besides the step. -/
theorem lateReady_spec (s : State) :
    (lateReady s).jobs = s.jobs ∧ (lateReady s).sram = s.sram ∧ (lateReady s).dram = s.dram ∧ (lateReady s).run.bound = s.run.bound := by
  unfold lateReady
  split
  · exact ⟨rfl, rfl, rfl, rfl⟩
  · exact ⟨rfl, rfl, rfl, rfl⟩

/-! ### L -/

/-- R351, R357: after a release no engine has ended its step. -/
theorem stepEnded_releaseAll (s : State) (g : Eng) : (engOf (releaseAll s) g).stepEnded = false := by
  rcases tget_tmap_or (fun _ e => ({ e with stepEnded := false, issues := [], lastAct := s.watch, wdFrom := s.watch } : Engine)) engReset s.engs (ekey g)
    with h | h
  · exact congrArg Engine.stepEnded h
  · exact congrArg Engine.stepEnded h

/-- R344, R351: the job runs from step 0 at L. -/
theorem launchRun_spec (a : Active) (l : Nat) (s : State) :
    (launchRun a l s).life = .running ∧ (launchRun a l s).run.step = 0 ∧ (launchRun a l s).run.start = l * 1024 ∧ (launchRun a l s).run.grid = l ∧
      (launchRun a l s).watch = s.watch ∧ (∀ g, (engOf (launchRun a l s) g).stepEnded = false) ∧ (launchRun a l s).sram = s.sram ∧
      (launchRun a l s).dram = s.dram ∧ (launchRun a l s).jobs.active = some a := by
  have hnoted : ∀ u : State, Noted u (noteDetours 0 l u) := noteDetours_noted 0 l
  unfold launchRun
  dsimp only
  generalize hv : releaseAll _ = v
  have hstep : ∀ g, (engOf v g).stepEnded = false := by
    rw [← hv]
    exact stepEnded_releaseAll _
  have hframe : v.life = .running ∧ v.run.step = 0 ∧ v.run.start = l * 1024 ∧ v.run.grid = l ∧ v.watch = s.watch ∧ v.sram = s.sram ∧ v.dram = s.dram ∧
      v.jobs.active = some a := by
    rw [← hv]
    exact ⟨rfl, rfl, rfl, rfl, rfl, rfl, rfl, rfl⟩
  obtain ⟨hlife, hs, hstart, hgrid, hwatch, hsram, hdram, hact⟩ := hframe
  rw [hnoted, putSlot_frame]
  exact ⟨hlife, hs, hstart, hgrid, hwatch, hstep, hsram, hdram, hact⟩

theorem replayOff_congr {s t : State} (hrun : t.run.replay = s.run.replay) (hctl : controlOf t pgRcv = controlOf s pgRcv) : replayOff t = replayOff s := by
  unfold controlOf at hctl
  rw [replayOff, replayOff, hrun, hctl]

/-- R365: without replay the module is HELD all the same. -/
theorem heldNoReplay_spec (h : Hold) {s : State} (hlife : s.life = .held) :
    (heldNoReplay h s).life = .held ∧ ∀ o ∈ s.out, o ∈ (heldNoReplay h s).out := by
  unfold heldNoReplay
  split
  · exact ⟨hlife, fun _ ho => ho⟩
  · dsimp only
    have hstop : LinksStay s (stopAll s) := .of_links rfl rfl fun _ ho => ho
    exact ⟨rfl, fun o ho => (ledEvent_linksStay ..).out o ((raise_linksStay ..).out o (hstop.out o ho))⟩

theorem fixOrigin_spec (s : State) : (fixOrigin s).life = s.life ∧ (fixOrigin s).out = s.out := by
  rw [fixOrigin_frame]
  exact ⟨rfl, rfl⟩

/-- R345, R365: the hold of step 0, with the replay or without it. -/
def holdLate (h : Hold) (ready : Bool) (s : State) : State :=
  if replayOff s then heldNoReplay h (sendHold h s)
  else putRecov { (fixOrigin (sendHold h s)).recov with holds := [h], target := some 0, rolledBack := ready } (fixOrigin (sendHold h s))

theorem holdLate_spec (h : Hold) (ready : Bool) {s : State} (hlife : s.life = .held) :
    (holdLate h ready s).life = .held ∧ (∀ o ∈ s.out, o ∈ (holdLate h ready s).out) ∧
      (replayOff s = false → (holdLate h ready s).recov.holds = [h] ∧ (holdLate h ready s).recov.target = some 0) := by
  unfold holdLate
  split
  case isTrue hoff =>
    obtain ⟨hheld, hout⟩ := heldNoReplay_spec h (s := sendHold h s) hlife
    exact ⟨hheld, hout, fun hyes => absurd hoff (by simp [hyes])⟩
  case isFalse =>
    obtain ⟨hheld, hout⟩ := fixOrigin_spec (sendHold h s)
    exact ⟨hheld.trans hlife, fun o ho => by rw [putRecov, hout]; exact ho, fun _ => ⟨rfl, rfl⟩⟩

/-- R345: a member that is not ready at L is HELD with 0x3023, and its hold names step 0. -/
theorem launchLate_spec (a : Active) (l : Nat) (s : State) :
    (launchLate a l s).life = .held ∧ .report 0x3023 pgTim ∈ (launchLate a l s).out ∧
      (replayOff s = false → (launchLate a l s).recov.holds = [⟨0, 0x3023, s.fab.part.rank⟩] ∧ (launchLate a l s).recov.target = some 0) := by
  have hreport : Out.report 0x3023 pgTim ∈ (timEvent 0x3023 5 (offNow s) 0 s).out := report_mem_out_timEvent ..
  obtain ⟨u, hlate, hlife, hout, hrun, hctl⟩ : ∃ u, launchLate a l s = holdLate ⟨0, 0x3023, s.fab.part.rank⟩ a.switched u ∧ u.life = .held ∧
      u.out = (timEvent 0x3023 5 (offNow s) 0 s).out ∧ u.run.replay = (timEvent 0x3023 5 (offNow s) 0 s).run.replay ∧
      controlOf u pgRcv = controlOf (timEvent 0x3023 5 (offNow s) 0 s) pgRcv := by
    unfold launchLate
    dsimp only
    rw [putSlot_frame]
    exact ⟨_, rfl, rfl, rfl, rfl, rfl⟩
  have hoff : replayOff u = replayOff s := replayOff_congr (hrun.trans (by rw [timEvent_frame])) (hctl.trans (controlOf_raise ..))
  obtain ⟨hheld, hmono, hholds⟩ := holdLate_spec ⟨0, 0x3023, s.fab.part.rank⟩ a.switched hlife
  rw [hlate]
  exact ⟨hheld, hmono _ (by rw [hout]; exact hreport), fun hno => hholds (hoff.trans hno)⟩

/-- R344, R345: at L, the job of an ARMED member that has not switched, or whose L came late, does not start. -/
theorem exec_launchWatch_late {a : Active} {l : Nat} {hash : List Byte} {s t : State} (harmed : s.life = .armed) (hact : s.jobs.active = some a)
    (hl : a.launch = some l) (hlate : a.switched = false ∨ a.lateLaunch = true) (hread : (bufHash a.job 0).go (watchTo l s) = (.ok hash, t)) :
    exec .launchWatch s = .next (launchLate (launchHashes t a hash) l t) := by
  have hno : (a.switched && !a.lateLaunch) = false := by
    rcases hlate with h | h <;> simp [h]
  change execLaunchWatch s = _
  simp only [execLaunchWatch, atLaunch, hact, hl, harmed, hread, hno, if_true, Bool.false_eq_true, if_false]

/-- Settles O45: a record, its dispatch, PREPARE, the replies, the switch and L. -/
theorem jobsLaunch : Obligations.JobsLaunch := by
  unfold Obligations.JobsLaunch
  intro s
  refine ⟨fun q r ps bs htake hlife => ⟨fun href => ?_, fun k href => ?_⟩, fun j hnext hmay => ?_, fun j hnext hlife hhalt hpause => ?_,
    fun m htakes hrank hload himg => ?_, fun r a x htakes hact hx hne hmiss => ?_, fun a im pl s1 hpend hact him hpl hmem => ?_,
    fun a l h s1 harmed hact hl hread => ?_⟩
  · have hexec : exec (.jobRecord q r ps bs) s = .next (takeJob q (headIndex s q) r ps bs (advanceHead q s)) := congrArg Host.Outcome.next (if_pos htake)
    rw [takeJob_of_ok (s := advanceHead q s) hlife href] at hexec
    refine ⟨_, hexec, rfl, rfl, ?_⟩
    have hq : (queueOf (advanceHead q s) q).sqHead = (headIndex s q + 1) % ringSize s q := by
      rw [advanceHead, queueOf_putQueue_same]
      rfl
    exact hq
  · have hexec : exec (.jobRecord q r ps bs) s = .next (takeJob q (headIndex s q) r ps bs (advanceHead q s)) := congrArg Host.Outcome.next (if_pos htake)
    obtain ⟨u, hu, hrefuse⟩ := takeJob_of_refused (q := q) (idx := headIndex s q) (s := advanceHead q s) hlife href
    rw [hrefuse] at hexec
    obtain ⟨hcomps, hwait, -⟩ := refuseJob_spec (jobOf q (headIndex s q) r (ps.getD []) (bs.getD [])) k (s := u)
      (by rw [hu]; exact canTake_halted (s := s) htake)
    refine ⟨_, hexec, by rw [hwait, hu]; rfl, hcomps.trans ?_⟩
    have hq : (queueOf u q).comps = (queueOf s q).comps := by rw [queueOf_congr hu, comps_advanceHead]
    exact congrArg (· ++ _) hq
  · intro b hload himg hfit hlead
    have hexec := exec_jobDispatch_of_may hnext hmay
    simp only [mayDispatch, Bool.and_eq_true, decide_eq_true_eq, Bool.not_eq_true'] at hmay
    obtain ⟨⟨⟨⟨hlife, -⟩, -⟩, -⟩, hpend⟩ := hmay
    refine ⟨fun hother => ?_, fun hother hpart hdown => ?_⟩
    · obtain ⟨hact, hl, hwait, hmsgs⟩ := dispatch_to_members (s := takeOff j s) hload himg hfit hlead hother
      exact ⟨_, hexec, hact, hl.trans hlife, hwait, hmsgs⟩
    · obtain ⟨hl, hbank, a, hact, hjob, hlaunch, hsw⟩ := dispatch_alone (s := takeOff j s) hload himg hfit hlead hother hpart hdown hpend
      exact ⟨_, a, hexec, hl, hact, hjob, hlaunch, hsw, hbank⟩
  · have hmay : mayDispatch s = false := by
      unfold refusesJobs at hlife
      unfold mayDispatch
      cases hl : s.life <;> simp_all
    have hexec : exec .jobDispatch s = .next (refuseWaiting j s) := by
      change execJobDispatch s = _
      rw [execJobDispatch, hnext]
      dsimp only
      rw [hmay, if_neg Bool.false_ne_true, if_pos (by rw [hlife, hhalt, hpause]; rfl)]
    have hjobs : (conflict j.queue 0 (takeOff j s)).jobs = (takeOff j s).jobs := by rw [conflict_frame]
    obtain ⟨hcomps, hwait, hact⟩ := refuseJob_spec j 0x2040 (s := conflict j.queue 0 (takeOff j s)) (by rw [hjobs]; exact hhalt)
    refine ⟨_, hexec, by rw [refuseWaiting, hwait, hjobs]; rfl, by rw [refuseWaiting, hact, hjobs]; rfl, ?_⟩
    rw [refuseWaiting, hcomps, queueOf_congr hjobs]
    rfl
  · intro j
    have hexec : exec (.prepare m) s = .next (takePrepare m s) := by
      change execPrepare m s = _
      rw [execPrepare, if_pos htakes, if_neg hrank]
    refine ⟨fun hfit hheld => ?_, fun hmis => ?_⟩
    · rw [takePrepare_eq hload himg (memberRefusal_of_fit (j := j) himg hfit hheld) (by decide), if_pos rfl] at hexec
      obtain ⟨a, hact, hjob, hown, hlaunch, hrep, hfq⟩ := holdJob_active m j (noteUnfit (jBank m.record) s)
      refine ⟨_, a, hexec, (congrArg JobSt.active (sendMsg_sent ..).jobs).trans hact, hjob, hown, hlaunch, hrep, ?_, by rw [out_sendMsg]; rfl⟩
      rw [hfq, noteUnfit_frame]
      rfl
    · rw [takePrepare_eq hload himg (memberRefusal_of_misfit (j := j) himg hmis) (by decide), if_neg (by decide)] at hexec
      exact ⟨_, hexec, (congrArg JobSt.active (sendMsg_sent ..).jobs).trans rfl, by rw [out_sendMsg]; rfl⟩
  · have hexec : exec (.prepareReply r) s = .next (decideLaunch (keepReply r s)) := congrArg Host.Outcome.next (if_pos htakes)
    have hkeep : keepReply r s = putActive (some { a with replies := insReply r a.replies }) s := by rw [keepReply, hact]
    rw [hexec, hkeep]
    refine congrArg Host.Outcome.next (decideLaunch_of_waiting rfl ⟨x, hx, fun hin => ?_⟩)
    obtain ⟨y, hy, rfl⟩ := List.mem_map.mp hin
    rcases mem_insReply hy with rfl | hy
    · exact hne rfl
    · exact hmiss y hy rfl
  · have hexec : exec (.switchComplete []) s = .next (switchDone [] s) := congrArg Host.Outcome.next (if_pos hpend)
    have hdone : switchDone [] s = lateReady (putActive (some { a with switched := true })
        { s1 with run := { s1.run with bound := some (jBank a.job.record, some (jMooring a.job.record)) } }) := by
      unfold switchDone
      rw [hact]
      dsimp only
      rw [him, hpl]
      dsimp only
      simp only [strikes, List.foldl_nil]
      rw [hmem]
    obtain ⟨hjobs, hsram, hdram, hbound⟩ := lateReady_spec (putActive (some { a with switched := true })
        { s1 with run := { s1.run with bound := some (jBank a.job.record, some (jMooring a.job.record)) } })
    rw [hdone] at hexec
    exact ⟨_, hexec, congrArg JobSt.active hjobs, hsram, hdram, hbound⟩
  · have hkept := (bufHash_readKept a.job 0).of_go hread
    simp only [ReadKept, Prod.mk.injEq] at hkept
    obtain ⟨hwatch, -, -, -, -, -, -, hrun, -, hfab, -, -, hctl⟩ := hkept
    refine ⟨fun hsw hlate => ?_, fun hlate => ?_⟩
    · obtain ⟨hlife, hstep, hstart, hgrid, hw, hended, hsram, hdram, hact'⟩ := launchRun_spec (launchHashes s1 a h) l s1
      exact ⟨_, exec_launchWatch harmed hact hl hsw hlate hread, hlife, hstep, hstart, hgrid, hw.trans hwatch, hended, hsram, hdram, hact'⟩
    · obtain ⟨hlife, hreport, hholds⟩ := launchLate_spec (launchHashes s1 a h) l s1
      refine ⟨_, exec_launchWatch_late harmed hact hl hlate hread, hlife, hreport, fun hoff => ?_⟩
      have hno : replayOff s1 = false := (replayOff_congr (by rw [hrun]) (congrFun hctl pgRcv)).trans hoff
      rw [hfab] at hholds
      exact hholds hno

end Sys2Proof.Machine
end

section
/-! A member that is HELD without replay, and the end of its job (R411). -/

namespace Sys2Proof.Machine

/-- R365: a member of a formed partition that is HELD without replay, with a job in force. -/
def heldMember : State := { State.reset with
  life := .held
  fab := { State.reset.fab with part := { partReset with st := .formed, rank := 1, chips := 2 } }
  recov := { recovReset with noReplay := some 0x20A1 }
  jobs := { State.reset.jobs with active := some (newActive ⟨0, 0, [], [], []⟩ false) } }

/-- R365, R411: END_JOB_STEP makes such a member drain at once. -/
theorem endJobStep_heldMember : exec (.endJobStepMessage 5) heldMember = .next (drainHeld 0x20A1 heldMember) := rfl

theorem drainHeld_heldMember : (drainHeld 0x20A1 heldMember).life = .draining := by decide +kernel

/-- Refutes O46: a member that is HELD without replay takes no end step from END_JOB_STEP; it drains at once. -/
theorem not_jobsEnd : ¬ Obligations.JobsEnd := by
  unfold Obligations.JobsEnd
  intro h
  obtain ⟨-, hstep, -⟩ := h heldMember
  have hnext := hstep 5 rfl rfl (by decide)
  rw [endJobStep_heldMember] at hnext
  have hlife := congrArg State.life (Host.Outcome.next.inj hnext)
  rw [drainHeld_heldMember] at hlife
  cases hlife

end Sys2Proof.Machine
end

section
/-! The Ledger store: slots, certificates and gathering (R387 to R390, R437, R438). -/

namespace Sys2Proof.Machine

theorem pokeDram_dram (a : Nat) (bs : List Byte) (s : State) : (pokeMem 1 a bs s).dram = wrN s.dram a bs := by rw [pokeDram_eq]

theorem countSigned_dram (s : State) : (countSigned s).dram = s.dram := rfl

theorem dram_wf_of_memoriesWf {s : State} (h : memoriesWf s = true) : Mem.wf s.dram = true := by
  simp only [memoriesWf, Bool.and_eq_true] at h
  exact h.1.1.2

/-! ### Ended jobs -/

theorem closeEnded_booked (cert : Bool) (e : Ended) (s : State) : Booked s (closeEnded cert e s) :=
  (postJob_booked e cert s).trans (jobs_booked rfl)

theorem Booked.sram {s t : State} (h : Booked s t) : t.sram = s.sram := by rw [h]

/-- R414: after the close of a job nothing with its slot is owed. -/
theorem slot_ne_of_closeEnded (cert : Bool) (e : Ended) (s : State) : ∀ x ∈ (closeEnded cert e s).jobs.ended, x.slot ≠ e.slot := fun x hx => by
  obtain ⟨-, hne⟩ := List.mem_filter.mp hx
  simpa using hne

theorem closeEnded_out (cert : Bool) (e : Ended) (s : State) : (closeEnded cert e s).out = s.out := by
  unfold closeEnded dropEnded postJob postComp
  split
  · split
    · rfl
    · rfl
  · rfl

/-! ### Member certificates -/

/-- R390: a slot whose certificate and STATE have been written. -/
theorem slot_signed {s : State} (hwf : Mem.wf s.dram = true) (i : Nat) (c : List Byte) {u : State}
    (hu : u.dram = (putSlotState i 2 (pokeMem 1 (slotAddr i + 0x3C000) c s)).dram) :
    slotState u i = 2 ∧ rdN u.dram (slotAddr i + 0x3C000) c.length = c := by
  have hdram : u.dram = wrN (wrN s.dram (slotAddr i + 0x3C000) c) (slotAddr i) [2] := by
    rw [hu, putSlotState, pokeDram_eq, pokeDram_eq]
    rfl
  have hstate : rd (wrN (wrN s.dram (slotAddr i + 0x3C000) c) (slotAddr i) [2]) (slotAddr i) = 2 :=
    rd_wrN_same (i := 0) (bs := [2]) (wrN_wf _ _ hwf) (by decide)
  rw [slotState, hdram, hstate]
  refine ⟨rfl, ?_⟩
  rw [rdN_wrN_other _ (.inr (by simp)), rdN_wrN _ _ hwf]

/-- R387 to R389: the member certificate stands in the slot; a member that is not the head sends it and owes nothing more. -/
theorem signMember_spec {e : Ended} {s : State} (hwf : Mem.wf s.dram = true) (sig : List Byte) :
    slotState (signMember e sig s) e.slot = 2 ∧
      rdN (signMember e sig s).dram (slotAddr e.slot + 0x3C000) (certBytes s 1 e.recHash e.recLen e.pid e.jobId sig).length =
        certBytes s 1 e.recHash e.recLen e.pid e.jobId sig ∧
      (signMember e sig s).sram = s.sram ∧
      (notHeadOf e = true → .msg 0 "MEMBER_CERT" (certBytes s 1 e.recHash e.recLen e.pid e.jobId sig) ∈ (signMember e sig s).out ∧
        ∀ x ∈ (signMember e sig s).jobs.ended, x.slot ≠ e.slot) := by
  have hslot := @slot_signed s hwf e.slot (certBytes s 1 e.recHash e.recLen e.pid e.jobId sig)
  have hsram : (countSigned (putSlotState e.slot 2 (pokeMem 1 (slotAddr e.slot + 0x3C000)
      (certBytes s 1 e.recHash e.recLen e.pid e.jobId sig) s))).sram = s.sram := by
    rw [countSigned, putSlotState, pokeDram_eq, pokeDram_eq]
    rfl
  unfold signMember
  dsimp only
  generalize certBytes s 1 e.recHash e.recLen e.pid e.jobId sig = c at hslot hsram ⊢
  have hdram : (countSigned (putSlotState e.slot 2 (pokeMem 1 (slotAddr e.slot + 0x3C000) c s))).dram =
      (putSlotState e.slot 2 (pokeMem 1 (slotAddr e.slot + 0x3C000) c s)).dram := rfl
  generalize countSigned (putSlotState e.slot 2 (pokeMem 1 (slotAddr e.slot + 0x3C000) c s)) = v at hsram hdram ⊢
  split
  case isTrue hmember =>
    have hsent := sendMsg_sent 0 0 "MEMBER_CERT" c v
    obtain ⟨hstate, hcert⟩ := hslot ((closeEnded_dram false e (sendMsg 0 0 "MEMBER_CERT" c v)).trans ((by rw [hsent] : _ = v.dram).trans hdram))
    refine ⟨hstate, hcert, (closeEnded_booked ..).sram.trans ((by rw [hsent] : _ = v.sram).trans hsram), fun _ => ⟨?_, slot_ne_of_closeEnded _ _ _⟩⟩
    rw [closeEnded_out, out_sendMsg]
    exact List.mem_cons_self
  case isFalse hhead =>
    split
    · obtain ⟨hstate, hcert⟩ := hslot ((closeEnded_dram false e v).trans hdram)
      exact ⟨hstate, hcert, (closeEnded_booked ..).sram.trans hsram, fun h => absurd h hhead⟩
    · obtain ⟨hstate, hcert⟩ := hslot (u := setEnded { e with signed := true, certs := tput e.certs 0 c } v) hdram
      exact ⟨hstate, hcert, hsram, fun h => absurd h hhead⟩

/-- R437: a slot whose signature is refused is INCOMPLETE, and nothing more is owed. -/
theorem leaveIncomplete_spec {e : Ended} {s : State} (hwf : memoriesWf s = true) :
    slotState (leaveIncomplete e s) e.slot = 3 ∧ ∀ x ∈ (leaveIncomplete e s).jobs.ended, x.slot ≠ e.slot := by
  have hnote : memoriesWf (noteWithheld s) = true := by
    unfold noteWithheld
    split
    · exact hwf
    · rw [raise_frame]
      exact hwf
  refine ⟨?_, slot_ne_of_closeEnded _ _ _⟩
  rw [leaveIncomplete, slotState_congr (closeEnded_dram ..)]
  exact slotState_putSlotState_same hnote e.slot (by decide)

/-- R387: the first record without its member certificate is the one being signed. -/
theorem signNext_of_unsigned {s : State} {e : Ended} (hfind : s.jobs.ended.find? (fun x => !x.signed) = some e) (sig : List Byte) :
    signNext sig s = if refusesSign s e then leaveIncomplete { e with begun := false } s else signMember { e with begun := false } sig s := by
  have hsigned : (!e.signed) = true := List.find?_some (p := fun x : Ended => !x.signed) hfind
  have hjob : signingJob s = some e := by rw [signingJob, hfind, Option.some_or]
  unfold signNext
  rw [hjob]
  dsimp only
  rw [if_pos hsigned]

/-! ### Partition certificates -/

/-- R389: the partition certificate is noted in the slot, and nothing more is owed. -/
theorem signPartition_spec {e : Ended} {s : State} (hwf : Mem.wf s.dram = true) (sig : List Byte) :
    rd (signPartition e sig s).dram (slotAddr e.slot + 1) = 1 ∧ ∀ x ∈ (signPartition e sig s).jobs.ended, x.slot ≠ e.slot := by
  refine ⟨?_, slot_ne_of_closeEnded _ _ _⟩
  have hdram : (signPartition e sig s).dram =
      wrN (wrN s.dram (slotAddr e.slot + 0x3C9C0) (certBytes s 2 (certRoot e) e.chips e.pid e.jobId sig)) (slotAddr e.slot + 1) [1] := by
    unfold signPartition
    dsimp only
    rw [closeEnded_dram, countSigned_dram, pokeDram_dram, pokeDram_dram]
  rw [hdram]
  exact rd_wrN_same (i := 0) (bs := [1]) (wrN_wf _ _ hwf) (by decide)

/-- R389: a gathering that fails is reported; DRAM stays. -/
theorem gatherFails_spec (e : Ended) (s : State) :
    .report 0x5020 pgLdg ∈ (gatherFails e s).out ∧ (gatherFails e s).watch = s.watch ∧ (gatherFails e s).dram = s.dram := by
  have hreport := report_mem_out_raise 0x5020 pgLdg 3 0x5020 (e.jobId % 2 ^ 32) (firstUncertified e) s
  have hraise : (raise 0x5020 pgLdg 3 0x5020 (e.jobId % 2 ^ 32) (firstUncertified e) s).watch = s.watch ∧
      (raise 0x5020 pgLdg 3 0x5020 (e.jobId % 2 ^ 32) (firstUncertified e) s).dram = s.dram := by
    rw [raise_frame]
    exact ⟨rfl, rfl⟩
  unfold gatherFails
  dsimp only
  split
  · exact ⟨by rw [closeEnded_out]; exact hreport, (closeEnded_booked ..).watch.trans hraise.1, (closeEnded_dram ..).trans hraise.2⟩
  · exact ⟨hreport, hraise⟩

/-- R387, R390: a record put in the store is PENDING. -/
theorem storeRecord_spec {s : State} (hwf : memoriesWf s = true) (jobId : Nat) (bs : List Byte) :
    slotState (storeRecord jobId bs s).2 (storeRecord jobId bs s).1 = 1 := by
  have hput : ∀ (r : List Byte) (a v : Nat) (u : State), u.dram = s.dram → ∀ i,
      slotState (regPut a v (pokeMem 1 (slotAddr i) (1 :: r) u)) i = 1 := fun r a v u hu i => by
    have hrd : rd (wrN s.dram (slotAddr i) (1 :: r)) (slotAddr i) = 1 :=
      rd_wrN_same (i := 0) (bs := 1 :: r) (dram_wf_of_memoriesWf hwf) (by simp)
    rw [slotState_congr (s := pokeMem 1 (slotAddr i) (1 :: r) u) (t := regPut a v (pokeMem 1 (slotAddr i) (1 :: r) u)) rfl, slotState, pokeDram_dram,
      hu, hrd]
    rfl
  unfold storeRecord
  dsimp only
  simp only [List.append_assoc]
  refine hput _ _ _ _ ?_ _
  split
  · rw [raise_frame]
  · rfl

/-- R387: a record that is booked with the Daymark at hand waits for its signature. -/
theorem bookRecord_of_daymark {e : Ended} {bs : List Byte} {s : State} (h : daymarkOff s = false) : bookRecord e bs s =
    { (storeRecord e.jobId bs s).2 with jobs := { (storeRecord e.jobId bs s).2.jobs with
      ended := (storeRecord e.jobId bs s).2.jobs.ended ++ [{ e with slot := (storeRecord e.jobId bs s).1 }] } } := by
  unfold bookRecord
  dsimp only
  rw [h, if_neg Bool.false_ne_true]

theorem storeRecord_jobs (jobId : Nat) (bs : List Byte) (s : State) : (storeRecord jobId bs s).2.jobs = s.jobs := by
  unfold storeRecord
  dsimp only
  rw [pokeDram_eq, regPut]
  dsimp only
  split
  · exact raise_jobs ..
  · rfl

/-- Settles O47: the signature in progress, the gathering, and the records held back. -/
theorem ledgerStore : Obligations.LedgerStore := by
  unfold Obligations.LedgerStore
  intro s hwf hhalt
  refine ⟨fun e sig hfind => ?_, fun rank cert sig e hcert => ?_, fun e hgather => ?_, fun e r hlife hdef hmark => ?_⟩
  · intro c
    have hexec := exec_ledgerSignComplete hhalt sig
    rw [signNext_of_unsigned hfind] at hexec
    obtain ⟨hstate, hdram, hsram, hmember⟩ := signMember_spec (e := { e with begun := false }) (dram_wf_of_memoriesWf hwf) sig
    refine ⟨fun hmark => ?_, fun hkill hbegun => ?_, fun hmark hrefused => ?_⟩
    · have hrefuse : refusesSign s e = false := by
        simp only [daymarkOff, Bool.or_eq_false_iff] at hmark
        rw [refusesSign, hmark.1, hmark.2]
        rfl
      rw [hrefuse, if_neg Bool.false_ne_true] at hexec
      exact ⟨_, hexec, hstate, hdram, hsram, hmember⟩
    · have hrefuse : refusesSign s e = false := by
        rw [refusesSign, hkill, hbegun, Bool.not_true, Bool.and_false]
        rfl
      rw [hrefuse, if_neg Bool.false_ne_true] at hexec
      exact ⟨_, hexec, hstate⟩
    · have hrefuse : refusesSign s e = true := by
        simp only [daymarkOff, Bool.or_eq_true] at hmark
        rcases hrefused with h | h
        · rw [refusesSign, h, Bool.true_or]
        · rcases hmark with h' | h'
          · rw [refusesSign, h', Bool.true_or]
          · rw [refusesSign, h', h]
            exact Bool.or_true _
      rw [hrefuse, if_pos rfl] at hexec
      exact ⟨_, hexec, leaveIncomplete_spec hwf⟩
  · intro e1
    have hexec : exec (.memberCertRx rank cert sig) s = .next (takeCert e rank cert sig s) := by
      change execMemberCertRx rank cert sig s = _
      rw [execMemberCertRx, hcert, hhalt]
      rfl
    refine ⟨fun hno => ?_, fun hall hmark => ?_⟩
    · rw [hexec, takeCert, hno]
      rfl
    · rw [takeCert, hall, hmark, if_pos (by rfl)] at hexec
      exact ⟨_, hexec, signPartition_spec (e := e1) (s := setEnded e1 s) (dram_wf_of_memoriesWf hwf) sig⟩
  · have hexec : exec .certGatherTimeout s = .next (gatherFails e (watchTo (e.endedAt + 1000000000) s)) := by
      change execCertGatherTimeout s = _
      rw [execCertGatherTimeout, hgather, hhalt]
      rfl
    exact ⟨_, hexec, gatherFails_spec e _⟩
  · have hexec : exec .ledgerDeferredWrite s = .next (bookRecord e r { s with jobs := { s.jobs with deferred := [] } }) := by
      change execLedgerDeferredWrite s = _
      rw [execLedgerDeferredWrite, if_neg hlife, hdef]
      rfl
    have hjobs := storeRecord_jobs e.jobId r { s with jobs := { s.jobs with deferred := [] } }
    have hstate := storeRecord_spec (s := { s with jobs := { s.jobs with deferred := [] } }) hwf e.jobId r
    rw [bookRecord_of_daymark (by exact hmark), hjobs] at hexec
    generalize storeRecord e.jobId r { s with jobs := { s.jobs with deferred := [] } } = p at hexec hstate
    exact ⟨_, p.1, hexec, rfl, hstate, rfl⟩

end Sys2Proof.Machine
end

section
/-! Queues of the host interface: doorbells, enable and disable, and the posting of a completion (R400, R403, R404). -/

namespace Sys2Proof.Machine

theorem queueOf_regPut (a v q : Nat) (s : State) : queueOf (regPut a v s) q = queueOf s q := rfl

theorem queueOf_emit (o : Out) (q : Nat) (s : State) : queueOf (emit o s) q = queueOf s q := rfl

/-- R403: a halted pair is reported, and keeps everything else. -/
theorem haltQueue_spec (q off : Nat) (s : State) :
    queueOf (haltQueue q off s) q = { queueOf s q with error := true } ∧ .report 0x20B4 pgPci ∈ (haltQueue q off s).out := by
  refine ⟨?_, report_mem_out_raise ..⟩
  unfold haltQueue badDoorbell
  rw [queueOf_congr (raise_jobs ..), queueOf_putQueue_same]

/-- R400: what a doorbell of an enabled pair that is not halted does. -/
theorem queueDoorbell_of_enabled {q off v : Nat} {act : State → State} {s : State} (hpause : paused s = false) (hlife : s.life ≠ .off) (hv : v < 4096)
    (hon : (queueOf s q).enabled = true) (herr : (queueOf s q).error = false) : queueDoorbell q off v act s = act s := by
  unfold queueDoorbell
  rw [if_neg (by simp [hpause, hlife]), if_neg (Nat.not_le.mpr hv), hon, herr]
  rfl

theorem not_off_or_paused {s : State} (hpause : paused s = false) (hlife : s.life ≠ .off) : ¬(paused s || s.life = .off) = true := by
  simp [hpause, hlife]

/-- Settles O48: each doorbell by its test, each write of ENABLE, and the completion at the head of those that wait. -/
theorem hostQueues : Obligations.HostQueues := by
  unfold Obligations.HostQueues
  intro s hpause hlife
  have hup := not_off_or_paused hpause hlife
  refine ⟨fun q v => ?_, fun q c r => ?_⟩
  · intro k
    refine ⟨fun hv hon herr => ?_, fun hoff hcfg => ?_, fun hfree => ?_, fun hbusy => ?_⟩
    · have htail : exec (.sqTailDoorbell q v) s = .next (sqTail q v.toNat (8 * q.val) s) :=
        congrArg Host.Outcome.next (queueDoorbell_of_enabled hpause hlife hv hon herr)
      have hhead : exec (.cqHeadDoorbell q v) s = .next (cqHead q v.toNat (8 * q.val + 4) s) :=
        congrArg Host.Outcome.next (queueDoorbell_of_enabled hpause hlife hv hon herr)
      refine ⟨fun h => ?_, fun h => ?_, fun h => ?_, fun h => ?_⟩
      · rw [htail, sqTail, if_pos h]
      · rw [hhead, cqHead, if_pos h]
      · rw [sqTail, if_neg (ne_true_of_eq_false h)] at htail
        exact ⟨_, htail, haltQueue_spec ..⟩
      · rw [cqHead, if_neg (ne_true_of_eq_false h)] at hhead
        exact ⟨_, hhead, haltQueue_spec ..⟩
    · have hexec : exec (.queueEnable q v) s = .next (enableQueue q v.toNat s) := congrArg Host.Outcome.next (if_neg hup)
      rw [enableQueue, if_neg (by exact ne_true_of_eq_false hoff), if_pos hcfg] at hexec
      refine ⟨_, hexec, ?_, rfl⟩
      rw [queueOf_regPut, queueOf_putQueue_same]
      rfl
    · have hexec : exec (.queueDisable q v) s = .next (disableQueue q v.toNat s) := congrArg Host.Outcome.next (if_neg hup)
      rw [disableQueue, if_neg (ne_true_of_eq_false hfree)] at hexec
      refine ⟨_, hexec, ?_, rfl⟩
      rw [queueOf_regPut, queueOf_putQueue_same]
      rfl
    · have hexec : exec (.queueDisable q v) s = .next (disableQueue q v.toNat s) := congrArg Host.Outcome.next (if_neg hup)
      rw [disableQueue, if_pos hbusy] at hexec
      exact ⟨_, hexec, report_mem_out_conflict .., raise_jobs ..⟩
  · intro k hcomps hroom hhalt
    have hexec : exec (.completionPost q) s = .next (postNext q c r s) := by
      change execCompletionPost q s = _
      rw [execCompletionPost, hcomps, hroom, hhalt, hpause]
      rfl
    refine ⟨_, hexec, rfl, ?_⟩
    unfold postNext
    dsimp only
    rw [queueOf_emit, queueOf_emit, queueOf_putQueue_same]
    exact ⟨rfl, rfl, rfl, rfl⟩

end Sys2Proof.Machine
end

section
/-! O49: BAR2 and BAR0 accesses (R397, R398, R470 to R476) and the common registers of a page (R478 to R480). -/

namespace Sys2Proof.Machine

/-! ### BAR2 -/

/-- R482: rails that are on are those of a module that has power. -/
theorem not_off_of_rails {s : State} (h : railsOff s = false) : s.life ≠ .off := fun hoff => by simp [railsOff, hoff] at h

/-- R482: a host write that the pause and the rails let through has its effect. -/
theorem hostWrite_of_rails (p a : Nat) (act : State → State) {s : State} (hp : paused s = false) (h : railsOff s = false) :
    hostWrite p a act s = act s :=
  hostWrite_served _ _ act hp (not_off_of_rails h) (.inl h)

/-- R397: a window range that ends within DRAM lies in DRAM alone. -/
theorem dramPart_of_within {w n : Nat} (h : w + n ≤ dramSize) : dramPart w n = (w, n) := by
  simp [dramPart, below, Nat.min_eq_left h]

/-- R397: a window range that ends within DRAM has no byte in SRAM. -/
theorem sramPart_of_within {w n : Nat} (h : w + n ≤ dramSize) : (sramPart w n).2 = 0 := by
  unfold sramPart below
  generalize dramSize = D at h ⊢
  dsimp only
  rw [Nat.max_eq_right (by omega), Nat.sub_eq_zero_of_le h]
  exact Nat.sub_eq_zero_of_le (Nat.min_le_left _ _)

theorem strikes_nil (s : State) : strikes [] s = s := rfl

theorem writePart_nil (off space a : Nat) (us : List Upset) (s : State) : writePart off space a [] us s = s := rfl

/-- R397: a BAR2 write that ends within DRAM is one write of the DRAM part. -/
theorem exec_bar2Write_dram {s : State} (off : Nat) {data : List Byte} (hp : paused s = false) (hr : railsOff s = false)
    (hoff : off + data.length ≤ bar2Size s) (hw : windowAt s off + data.length ≤ dramSize) :
    exec (.bar2Write off data []) s = .next (writePart off 1 (windowAt s off) data [] s) := by
  change execBar2Write off data [] s = _
  unfold execBar2Write bar2Write
  rw [if_neg (by simp [not_off_of_rails hr]; omega), if_neg (by simp [hp, bar2Dead, hr])]
  dsimp only
  rw [dramPart_of_within hw, sramPart_of_within hw, List.take_zero, writePart_nil, List.take_length, strikes_nil]

theorem writePart_barred {s : State} (off space a : Nat) {bs : List Byte} (us : List Upset) (hne : bs ≠ [])
    (h : writeBarred s (space, a, bs.length) = true) : writePart off space a bs us s = conflict 0x7F off s := by
  unfold writePart
  rw [if_neg (by simp [hne]), if_pos h]

theorem writePart_ok {s s1 : State} (off space a : Nat) {bs : List Byte} (hne : bs ≠ [])
    (h : writeBarred s (space, a, bs.length) = false) (hgo : (writeMem space a bs).go s = (.ok (), s1)) :
    writePart off space a bs [] s = s1 := by
  have hgate : (do galleryGate []; writeMem space a bs : M Unit).go s = (.ok (), s1) := by rw [go_galleryGate_nil_bind, hgo]
  unfold writePart
  rw [if_neg (by simp [hne]), if_neg (by simp [h]), hgate]

theorem exec_bar2Read_served {s s1 : State} {off len : Nat} {bs : List Byte} (hp : paused s = false) (hr : railsOff s = false)
    (hoff : off + len ≤ bar2Size s) (hd : dramServed s = true) (hgo : (readWindow (windowAt s off) len true).go s = (.ok bs, s1)) :
    exec (.bar2Read off len []) s = .next (emit (.data bs) s1) := by
  have hgate : (do galleryGate []; readWindow (windowAt s off) len true : M (List Byte)).go s = (.ok bs, s1) := by
    rw [go_galleryGate_nil_bind, hgo]
  change execBar2Read off len [] s = _
  unfold execBar2Read bar2Read
  rw [if_neg (by simp [not_off_of_rails hr]; omega), if_neg (by simp [hp]), if_neg (by simp [bar2Dead, hr])]
  dsimp only
  rw [if_pos (by simp [hd])]
  change Host.Outcome.next (serveRead (windowAt s off) len true [] s) = _
  unfold serveRead
  rw [hgate]

/-! ### BAR0 -/

/-- R471, R472: an aligned 4-byte read answers the word that the read latch gives. -/
theorem exec_lowWordRead_four {s : State} {a : Nat} (ha : a % 4 = 0) (hp : paused s = false) :
    exec (.lowWordRead a 4) s = .next (emit (.data (leBytes 4 (readLatch a s).1)) (readLatch a s).2) := by
  have hal : a / 4 * 4 = a := by omega
  change execLowWordRead a 4 s = _
  unfold execLowWordRead bar0Read
  rw [if_neg (by simp [hp])]
  simp [hal, ha]

/-- R471, R472: an aligned 4-byte write of a word that a register's low word lies at. -/
theorem exec_registerWrite_low {s : State} {a v p : Nat} {d : RegDesc} {i : Nat} (ha : a % 4 = 0) (hp : paused s = false)
    (hr : railsOff s = false) (hpage : pageAt a = some p) (hreg : regFind (regsOf (pageKind p).1) (a % 0x1000) = some (d, i, 0)) :
    exec (.registerWrite a 4 v) s = .next (if !d.wide then putRegister p a d i (v % 2 ^ 32) s
      else { s with staged := tput s.staged a (v % 2 ^ 32) }) := by
  change Host.Outcome.next (bar0Write a 4 v s) = _
  unfold bar0Write writeWord
  rw [if_pos (by simp [ha]), hpage]
  dsimp only
  rw [hreg]
  dsimp only
  rw [hostWrite_of_rails _ _ _ hp hr]
  rfl

/-- R474 to R480: a register outside the common header has no header action. -/
theorem headerWrite_none (p v : Nat) (s : State) {off : Nat} (h : off ∉ [0x18, 0x1C, 0x20, 0x30]) : headerWrite p off v s = none := by
  simp only [List.mem_cons, List.not_mem_nil, or_false, not_or] at h
  obtain ⟨h1, h2, h3, h4⟩ := h
  unfold headerWrite
  rw [if_neg h1, if_neg h2, if_neg h3, if_neg h4]

/-- R475: on a page without actions of its own a register outside the header takes a write by its access codes. -/
theorem putRegister_plain (p a i v : Nat) {d : RegDesc} (s : State) (h : d.off ∉ [0x18, 0x1C, 0x20, 0x30])
    (hk : (pageKind p).1 ∈ [PageKind.kpr, .kprSec, .kprUpd, .kprRcv, .stnSram, .stnClk, .xch, .drm, .fus]) :
    putRegister p a d i v s = writeReg p a d v s := by
  unfold putRegister
  dsimp only
  rw [headerWrite_none p v s h]
  simp only [List.mem_cons, List.not_mem_nil, or_false] at hk
  rcases hk with hk | hk | hk | hk | hk | hk | hk | hk | hk <;> rw [hk]

/-! ### EVENT, EVENT_ENABLE, EVENT_SET and LOCK -/

theorem afterSummary_frame (p : Nat) (was : Bool) (s : State) : afterSummary p was s = { s with out := (afterSummary p was s).out } := by
  unfold afterSummary
  split <;> rfl

theorem regGet_afterSummary (p : Nat) (was : Bool) (s : State) (a : Nat) : regGet (afterSummary p was s) a = regGet s a :=
  regGet_congr (by rw [afterSummary_frame]) a

/-- R478: a clear writes EVENT and, where hardware met it, counts at SET_DURING_CLEAR. -/
theorem clearEvents_spec (p b v : Nat) (s : State) :
    clearEvents p b v s = { s with regs := (clearEvents p b v s).regs, out := (clearEvents p b v s).out } ∧
      regGet (clearEvents p b v s) (pageBase p + 0x18) =
        Nat.lor (Nat.land (regGet s (pageBase p + 0x18)) (Nat.xor b 0xFFFFFFFF)) (Nat.land (Nat.land v b) (eventMask p)) := by
  unfold clearEvents
  dsimp only
  refine ⟨?_, ?_⟩
  · rw [afterSummary_frame]
    split <;> rfl
  · rw [regGet_afterSummary]
    split
    · rw [regGet_regPut_same]
    · unfold regCount16
      rw [regGet_regPut_other _ _ (by omega), regGet_regPut_same]

/-- A register write whose summary bit may rise: the register takes the value, no other one changes. -/
theorem afterSummary_regPut_spec (p a v : Nat) (was : Bool) (s : State) : ∃ t, afterSummary p was (regPut a v s) = t ∧
    t = { s with regs := t.regs, out := t.out } ∧ regGet t a = v ∧ ∀ c, c ≠ a → regGet t c = regGet s c := by
  refine ⟨_, rfl, ?_, ?_, fun c hc => ?_⟩
  · rw [afterSummary_frame]
    rfl
  · rw [regGet_afterSummary, regGet_regPut_same]
  · rw [regGet_afterSummary, regGet_regPut_other _ _ hc]

theorem pageLocked_lockPage (p : Nat) (s : State) : pageLocked (lockPage p s) p = true := by
  unfold lockPage pageLocked
  rw [regGet_regPut_same]
  rfl

/-- Settles O49: every access is served, since neither the pause nor the rails bar it; each then follows its register's own rule. -/
theorem hostMemoryAndRegisters : Obligations.HostMemoryAndRegisters := by
  intro s hp hr
  refine ⟨?_, ?_, ?_, ?_, ?_, ?_, ?_⟩
  · exact fun off len bs s1 hoff hd hgo => exec_bar2Read_served hp hr hoff hd hgo
  · intro off data s1 w hne hoff hw hbar hgo
    rw [exec_bar2Write_dram off hp hr hoff hw, writePart_ok _ _ _ hne hbar hgo]
  · intro off data w hne hoff hw hbar
    refine ⟨_, by rw [exec_bar2Write_dram off hp hr hoff hw, writePart_barred _ _ _ _ hne hbar], report_mem_out_conflict .., ?_, ?_⟩ <;>
      rw [conflict_frame]
  · intro a ha hns hsec
    rw [exec_lowWordRead_four ha hp]
    unfold readLatch
    rw [if_neg hns, if_neg hsec]
    refine ⟨fun h => ?_, fun h => ?_⟩
    · rw [h]
    · rw [h]
      rfl
  · intro a p d i v ha hpage hreg hwide
    rw [exec_registerWrite_low ha hp hr hpage hreg, hwide]
    rfl
  · intro a p d i v ha hpage hreg hwide hoff hk
    rw [exec_registerWrite_low ha hp hr hpage hreg, hwide, ← putRegister_plain p a i _ s hoff hk]
    rfl
  · intro p b v e m
    refine ⟨?_, ?_, ?_, ?_⟩
    · exact ⟨clearEvents p b.toNat v.toNat s, congrArg Host.Outcome.next (hostWrite_of_rails _ _ _ hp hr), clearEvents_spec p b.toNat v.toNat s⟩
    · obtain ⟨t, ht, hrest⟩ := afterSummary_regPut_spec p e (Nat.lor (regGet s e) (Nat.land b.toNat m)) (summaryOn s p) s
      exact ⟨t, congrArg Host.Outcome.next ((hostWrite_of_rails _ _ _ hp hr).trans ht), hrest⟩
    · obtain ⟨t, ht, hrest⟩ := afterSummary_regPut_spec p (e + 4) (Nat.land v.toNat m) (summaryOn s p) s
      exact ⟨t, congrArg Host.Outcome.next ((hostWrite_of_rails _ _ _ hp hr).trans ht), hrest⟩
    · exact ⟨lockPage p s, congrArg Host.Outcome.next (hostWrite_of_rails _ _ _ hp hr), rfl, pageLocked_lockPage p s,
        fun a ha => regGet_regPut_other _ _ ha⟩

end Sys2Proof.Machine
end

section
/-! O50: the actions of registers: ENGINE_RESET (R481), FREEZE and RESUME (R173, R177), the parameter window (R483), STRICT (R378) and OPP
(R460). -/

namespace Sys2Proof.Machine

/-! ### ENGINE_RESET -/

/-- R481: what an engine reset reaches besides its engine: the scoreboard and the unit behind the engine. -/
structure UnitOnly (s t : State) : Prop where
  frame : t = { s with sb := t.sb, lanterns := t.lanterns, wicks := t.wicks, fab := t.fab }

theorem dropRegs_frame (l : Latched) (s : State) : dropRegs l s = { s with sb := (dropRegs l s).sb } := by
  unfold dropRegs
  induction l.sb generalizing s with
  | nil => rfl
  | cons r rs ih =>
    rw [List.foldl_cons, ih]
    rfl

theorem clearUnit_unitOnly (g : Eng) (s : State) : UnitOnly s (clearUnit g s) := by
  unfold clearUnit
  split
  · split <;> exact ⟨rfl⟩
  · split
    · split <;> exact ⟨rfl⟩
    · split <;> exact ⟨rfl⟩

/-- R481: an engine reset clears the engine but for its registers and its binding, and reaches no other engine and no memory. -/
theorem resetEng_spec (g : Eng) (s : State) :
    engOf (resetEng g s) g = clearEng (engOf s g) ∧ (∀ k, k ≠ g → engOf (resetEng g s) k = engOf s k) ∧
      (resetEng g s).sram = s.sram ∧ (resetEng g s).dram = s.dram ∧ (resetEng g s).life = s.life := by
  have hdrop : ∃ u, resetEng g s = clearUnit g (putEng g (clearEng (engOf u g)) u) ∧ u = { s with sb := u.sb } := by
    unfold resetEng
    cases (engOf s g).cur with
    | none => exact ⟨s, rfl, rfl⟩
    | some l => exact ⟨dropRegs l s, rfl, dropRegs_frame l s⟩
  obtain ⟨u, hreset, hu⟩ := hdrop
  obtain ⟨hframe⟩ := clearUnit_unitOnly g (putEng g (clearEng (engOf u g)) u)
  have hengs : ∀ k, engOf (clearUnit g (putEng g (clearEng (engOf u g)) u)) k = engOf (putEng g (clearEng (engOf u g)) u) k :=
    engOf_congr (by rw [hframe])
  have hold : ∀ k, engOf u k = engOf s k := engOf_congr (by rw [hu])
  rw [hreset]
  refine ⟨?_, fun k hk => ?_, ?_, ?_, ?_⟩
  · rw [hengs, engOf_putEng_same, hold]
  · rw [hengs, engOf_putEng_other _ _ hk, hold]
  all_goals
    rw [hframe]
    rw [putEng, hu]

/-! ### Pauses of a Station -/

/-- R175: watchdog counts and pauses are all that differs: every engine keeps all but where its watchdog counts from. -/
structure CountsOnly (s t : State) : Prop where
  frame : t = { s with engs := t.engs, stations := t.stations }
  engs : ∀ k, engOf t k = { engOf s k with wdFrom := (engOf t k).wdFrom }

theorem CountsOnly.refl (s : State) : CountsOnly s s := ⟨rfl, fun _ => rfl⟩

theorem CountsOnly.trans {s t u : State} (h1 : CountsOnly s t) (h2 : CountsOnly t u) : CountsOnly s u :=
  ⟨by rw [h2.frame, h1.frame], fun k => by rw [h2.engs, h1.engs]⟩

theorem CountsOnly.putStn (n : Nat) (x : Station) (s : State) : CountsOnly s (putStn n x s) := ⟨rfl, fun _ => rfl⟩

theorem CountsOnly.putEng (g : Eng) (w : Nat) (s : State) : CountsOnly s (putEng g { engOf s g with wdFrom := w } s) := by
  refine ⟨rfl, fun k => ?_⟩
  by_cases hk : k = g
  · rw [hk, engOf_putEng_same]
  · rw [engOf_putEng_other _ _ hk]

/-- R175: at the end of a pause the watchdog of one engine goes on from where it stood. -/
def resumeCount (n from_ now : Nat) (u : State) (e : Nat) : State :=
  putEng (engAt n e) { engOf u (engAt n e) with wdFrom := (engOf u (engAt n e)).wdFrom + (now - max from_ (engOf u (engAt n e)).wdFrom) } u

theorem resumeCounts_spec (n from_ now : Nat) (es : List Nat) (u : State) :
    CountsOnly u (es.foldl (resumeCount n from_ now) u) ∧ (es.foldl (resumeCount n from_ now) u).stations = u.stations := by
  induction es generalizing u with
  | nil => exact ⟨.refl u, rfl⟩
  | cons e es ih =>
    obtain ⟨hcounts, hstn⟩ := ih (resumeCount n from_ now u e)
    exact ⟨.trans (CountsOnly.putEng ..) hcounts, hstn⟩

theorem settlePause_of_paused {n : Nat} {s : State} (h : stnPaused s n = true) :
    settlePause n s = putStn n { stnOf s n with pausedAt := some ((stnOf s n).pausedAt.getD s.watch) } s := by
  unfold settlePause
  rw [if_pos h]

/-- R175: settling a pause reaches the counts alone, and leaves the Station as frozen as it was. -/
theorem settlePause_spec (n : Nat) (s : State) :
    CountsOnly s (settlePause n s) ∧ (stnOf (settlePause n s) n).frozen = (stnOf s n).frozen := by
  by_cases h : stnPaused s n = true
  · rw [settlePause_of_paused h]
    exact ⟨.putStn .., by rw [stnOf_putStn_same]⟩
  · unfold settlePause
    rw [if_neg h]
    dsimp only
    cases hat : (stnOf s n).pausedAt with
    | none => exact ⟨.refl s, rfl⟩
    | some w =>
      obtain ⟨hcounts, hstn⟩ := resumeCounts_spec n w s.watch (List.range 17) (putStn n { stnOf s n with pausedAt := none } s)
      refine ⟨.trans (.putStn ..) hcounts, ?_⟩
      change (tget stationReset ((List.range 17).foldl (resumeCount n w s.watch) (putStn n { stnOf s n with pausedAt := none } s)).stations n).frozen = _
      rw [hstn]
      change (stnOf (putStn n _ s) n).frozen = _
      rw [stnOf_putStn_same]

/-! ### FREEZE and RESUME -/

theorem bitAt_setBits_zero (w : Nat) (b : Bool) : bitAt (setBits w 0 0 (b2n b)) 0 = b := by
  unfold bitAt setBits b2n
  cases b <;> simp <;> omega

/-- R177: a Station whose FREEZE is written as 1 is frozen and its watchdogs stand still. -/
theorem freezeStation_true_spec (st : Fin 16) (s : State) :
    isFrozen (freezeStation st true s) st = true ∧
      (stnOf (freezeStation st true s) st).pausedAt = some ((stnOf s st).pausedAt.getD s.watch) ∧
      freezeStation st true s = { s with regs := (freezeStation st true s).regs, stations := (freezeStation st true s).stations } := by
  generalize hu : regPut (pageBase (pgSync st) + 0x10) (setBits (regGet s (pageBase (pgSync st) + 0x10)) 0 0 (b2n true)) s = u
  have hbit : bitAt (regGet u (pageBase (pgSync st) + 0x10)) 0 = true := by rw [← hu, regGet_regPut_same, bitAt_setBits_zero]
  have hpaused : stnPaused u st = true := by simp [stnPaused, isFrozen, hbit]
  have hfreeze : freezeStation st true s = putStn st { stnOf u st with pausedAt := some ((stnOf u st).pausedAt.getD u.watch) } u := by
    unfold freezeStation
    dsimp only
    rw [if_pos rfl, hu, settlePause_of_paused hpaused]
  rw [hfreeze]
  refine ⟨?_, ?_, ?_⟩
  · change (bitAt (regGet u (pageBase (pgSync st) + 0x10)) 0 || _) = true
    rw [hbit, Bool.true_or]
  · rw [stnOf_putStn_same, ← hu]
    rfl
  · rw [← hu]
    rfl

/-- R177: a Station whose FREEZE is written as 0 is not frozen, and no stream moves. -/
theorem freezeStation_false_spec (st : Fin 16) (s : State) :
    isFrozen (freezeStation st false s) st = false ∧ (stnOf (freezeStation st false s) st).frozen = false ∧
      freezeStation st false s = { s with regs := (freezeStation st false s).regs, stations := (freezeStation st false s).stations,
                                          engs := (freezeStation st false s).engs } ∧
      ∀ g, (engOf (freezeStation st false s) g).pos = (engOf s g).pos := by
  generalize hu : regPut (pageBase (pgSync st) + 0x10) (setBits (regGet s (pageBase (pgSync st) + 0x10)) 0 0 (b2n false)) s = u
  generalize hv : putStn st { stnOf u st with frozen := false } u = v
  have hfreeze : freezeStation st false s = settlePause st v := by
    unfold freezeStation
    dsimp only
    rw [if_neg (by decide), hu, hv]
  obtain ⟨hcounts, hfrozen⟩ := settlePause_spec st v
  have hregs : (settlePause st v).regs = u.regs := by rw [hcounts.frame, ← hv]; rfl
  have hthaw : (stnOf (settlePause st v) st).frozen = false := by rw [hfrozen, ← hv, stnOf_putStn_same]
  rw [hfreeze]
  refine ⟨?_, hthaw, ?_, fun g => ?_⟩
  · unfold isFrozen
    rw [hthaw, regGet_congr hregs, ← hu, regGet_regPut_same, bitAt_setBits_zero]
    rfl
  · have hframe := hcounts.frame
    generalize settlePause st v = t at hframe hregs ⊢
    subst hv hu
    rw [hregs]
    exact hframe
  · rw [hcounts.engs, ← hv, ← hu]
    rfl

/-- R173: an engine at a break goes on without the break test; no other stream moves. -/
theorem resumeEngine_spec {g : Eng} {s : State} {k : Nat} (h : (engOf s g).atBreak = some k) : ∃ t, resumeEngine g s = t ∧
    engOf t g = { engOf s g with atBreak := none, resumed := true, wdFrom := (engOf t g).wdFrom } ∧
    (∀ j, j ≠ g → engOf t j = { engOf s j with wdFrom := (engOf t j).wdFrom }) ∧ t = { s with engs := t.engs, stations := t.stations } := by
  generalize hu : putEng g { engOf s g with atBreak := none, resumed := true } s = u
  generalize hv : (if breakFreezes u g.st then u else putStn g.st { stnOf u g.st with frozen := false } u) = v
  have hresume : resumeEngine g s = settlePause g.st v := by
    unfold resumeEngine
    dsimp only
    rw [if_neg (by simp [h]), hu, hv]
  have huv : CountsOnly u v := by
    rw [← hv]
    split
    · exact .refl u
    · exact .putStn ..
  have hcounts := huv.trans (settlePause_spec g.st v).1
  refine ⟨_, hresume, ?_, fun j hj => ?_, ?_⟩
  · rw [hcounts.engs, ← hu, engOf_putEng_same]
  · rw [hcounts.engs, ← hu, engOf_putEng_other _ _ hj]
  · have hframe := hcounts.frame
    rw [← hu] at hframe
    exact hframe

/-! ### STRICT -/

theorem clkOf_putClk_same (n : Nat) (c : Clk) (s : State) : clkOf (putClk n c s) n = c := by
  unfold clkOf putClk
  rw [tget_tput_same]

theorem clkOf_putClk_other {n m : Nat} (c : Clk) (s : State) (h : m ≠ n) : clkOf (putClk n c s) m = clkOf s m := by
  unfold clkOf putClk
  rw [tget_tput_other _ _ _ h]

theorem clkOf_regPut64 (a v n : Nat) (s : State) : clkOf (regPut64 a v s) n = clkOf s n := rfl

/-- R325: a change of k reaches the registers and the clocks alone. -/
structure ClocksOnly (s t : State) : Prop where
  frame : t = { s with regs := t.regs, kpr := { s.kpr with clk := t.kpr.clk } }
  strict : strictOn t = strictOn s

theorem ClocksOnly.trans {s t u : State} (h1 : ClocksOnly s t) (h2 : ClocksOnly t u) : ClocksOnly s u :=
  ⟨by rw [h2.frame, h1.frame], h2.strict.trans h1.strict⟩

theorem setK_clocksOnly (n k : Nat) (s : State) : ClocksOnly s (setK n k s) := by
  unfold setK
  dsimp only
  split
  · exact ⟨rfl, rfl⟩
  · refine ⟨rfl, ?_⟩
    change bitAt (controlOf (regPut64 _ _ _) pgLdg) 0 = bitAt (controlOf s pgLdg) 0
    unfold regPut64
    rw [Nat.add_assoc, controlOf_regPut _ _ (by decide), controlOf_regPut _ _ (by decide)]
    rfl

/-- R348: a Station whose k is set has it, and no other Station's k changes. -/
theorem clkOf_setK (n k m : Nat) (s : State) : (clkOf (setK n k s) m).k = if m = n then k else (clkOf s m).k := by
  unfold setK
  dsimp only
  split
  next hk =>
    split
    next hm => rw [hm, hk]
    next => rfl
  next =>
    rw [clkOf_regPut64]
    split
    next hm => rw [hm, clkOf_putClk_same]
    next hm => rw [clkOf_putClk_other _ _ hm]

theorem clkOf_setK_foldl (k : Nat) (ns : List Nat) (m : Nat) (s : State) :
    (clkOf (ns.foldl (fun t n => setK n k t) s) m).k = if m ∈ ns then k else (clkOf s m).k := by
  induction ns generalizing s with
  | nil => rfl
  | cons n ns ih =>
    rw [List.foldl_cons, ih, clkOf_setK]
    by_cases hmem : m ∈ ns <;> by_cases hm : m = n <;> simp [hmem, hm]

theorem setK_foldl_clocksOnly (k : Nat) (ns : List Nat) (s : State) : ClocksOnly s (ns.foldl (fun t n => setK n k t) s) := by
  induction ns generalizing s with
  | nil => exact ⟨rfl, rfl⟩
  | cons n ns ih => exact (setK_clocksOnly n k s).trans (ih _)

/-- R378, R379: STRICT takes the value written; with it no clock stretches. -/
theorem setStrict_spec (b : Bool) (s : State) :
    strictOn (setStrict b s) = b ∧ (b = true → (setStrict b s).kpr.pwr.kt = 0 ∧ ∀ n : Nat, n < 16 → (clkOf (setStrict b s) n).k = 0) ∧
      setStrict b s = { s with regs := (setStrict b s).regs, kpr := (setStrict b s).kpr } := by
  have hwrite : strictOn (regPut (pageBase pgLdg + 0x10) (b2n b) s) = b := by
    unfold strictOn
    rw [regGet_regPut_same]
    cases b <;> rfl
  cases b with
  | false => exact ⟨hwrite, fun h => absurd h (by decide), rfl⟩
  | true =>
    have hclocks := setK_foldl_clocksOnly 0 (List.range 16) (regPut (pageBase pgLdg + 0x10) (b2n true) s)
    have hk := clkOf_setK_foldl 0 (List.range 16)
    have hset : ∃ t, setStrict true s = putPwr { pwrOf t with kt := 0, lowAt := none } t ∧
        t = (List.range 16).foldl (fun t n => setK n 0 t) (regPut (pageBase pgLdg + 0x10) (b2n true) s) := ⟨_, rfl, rfl⟩
    obtain ⟨t, hset, ht⟩ := hset
    rw [hset]
    refine ⟨?_, fun _ => ⟨rfl, fun n hn => ?_⟩, ?_⟩
    · change strictOn t = true
      rw [ht, hclocks.strict, hwrite]
    · change (clkOf t n).k = 0
      rw [ht, hk, if_pos (List.mem_range.mpr hn)]
    · have hframe := hclocks.frame
      rw [← ht] at hframe
      rw [hframe]
      rfl

/-! ### Refusals -/

/-- R417: a write that the state does not allow is reported and changes nothing. -/
theorem exec_conflict_spec {c : Instr} {s : State} (q a : Nat) (h : exec c s = .next (conflict q a s)) :
    ∃ t, exec c s = .next t ∧ .report 0x2040 pgPci ∈ t.out ∧ t = { s with regs := t.regs, out := t.out } :=
  ⟨_, h, report_mem_out_conflict .., by rw [conflict_frame]⟩

/-- Settles O50: each action runs, since the write is served; where the state forbids it, 0x2040 is all there is. -/
theorem registerActions : Obligations.RegisterActions := by
  intro s hp hr
  have hserved (p a : Nat) (act : State → State) : hostWrite p a act s = act s := hostWrite_of_rails p a act hp hr
  refine ⟨fun g hok => ?_, fun st => ⟨?_, ?_⟩, fun g k hk => ?_, fun st v hok => ?_, fun hkrl b => ?_, fun v hv hfree hlock => ?_, ?_⟩
  · exact ⟨resetEng g s, congrArg Host.Outcome.next ((hserved _ _ _).trans (if_pos hok)), resetEng_spec g s⟩
  · exact ⟨freezeStation st true s, congrArg Host.Outcome.next (hserved _ _ _), freezeStation_true_spec st s⟩
  · exact ⟨freezeStation st false s, congrArg Host.Outcome.next (hserved _ _ _), freezeStation_false_spec st s⟩
  · obtain ⟨t, ht, hrest⟩ := resumeEngine_spec hk
    exact ⟨t, congrArg Host.Outcome.next ((hserved _ _ _).trans ht), hrest⟩
  · intro sel g hpresent hsel
    refine congrArg Host.Outcome.next ((hserved _ _ _).trans ?_)
    unfold paramWrite writeParam
    rw [if_pos hok]
    exact if_pos (by rw [hpresent, hsel]; rfl)
  · exact ⟨setStrict b s, congrArg Host.Outcome.next ((hserved _ _ _).trans (if_pos hkrl)), setStrict_spec b s⟩
  · refine congrArg Host.Outcome.next ((hserved _ _ _).trans ?_)
    unfold oppWrite
    rw [if_neg (by simp [hlock]), if_neg (by simp [hfree]), if_pos hv]
  · rintro c (⟨⟨g, rfl⟩ | ⟨st, v, rfl⟩, hno⟩ | ⟨⟨b, rfl⟩, hno⟩)
    · exact exec_conflict_spec 0x7F (engCtlAddr s g) (congrArg Host.Outcome.next ((hserved _ _ _).trans (if_neg (by simp [hno]))))
    · exact exec_conflict_spec 0x7F (paramReg st) (congrArg Host.Outcome.next ((hserved _ _ _).trans (if_neg (by simp [hno]))))
    · exact exec_conflict_spec 0x7F (pageBase pgLdg + 0x10) (congrArg Host.Outcome.next ((hserved _ _ _).trans (if_neg (by simp [hno]))))

end Sys2Proof.Machine
end

section
/-! O51: loading, releasing and addressing of program banks (R207, R208, R410). -/

namespace Sys2Proof.Machine

/-! ### Units that follow a placement -/

/-- R230, R458: what binding, gating and powering of units change: the units, their engines' bindings and their ENABLE bits. -/
def UnitsMoved (s t : State) : Prop := t = { s with regs := t.regs, lanterns := t.lanterns, wicks := t.wicks, engs := t.engs }

theorem UnitsMoved.refl (s : State) : UnitsMoved s s := rfl

theorem UnitsMoved.trans {s t u : State} (h : UnitsMoved s t) (k : UnitsMoved t u) : UnitsMoved s u := by
  unfold UnitsMoved at h k ⊢
  rw [h] at k
  exact k

theorem UnitsMoved.foldl {α : Type} {f : State → α → State} (h : ∀ t x, UnitsMoved t (f t x)) (l : List α) (s : State) :
    UnitsMoved s (l.foldl f s) :=
  List.foldlRecOn l f (motive := UnitsMoved s) (.refl s) fun _ ht x _ => ht.trans (h _ x)

theorem UnitsMoved.banks {s t : State} (h : UnitsMoved s t) : t.banks = s.banks := by rw [h]
theorem UnitsMoved.out {s t : State} (h : UnitsMoved s t) : t.out = s.out := by rw [h]
theorem UnitsMoved.jobs {s t : State} (h : UnitsMoved s t) : t.jobs = s.jobs := by rw [h]
theorem UnitsMoved.life {s t : State} (h : UnitsMoved s t) : t.life = s.life := by rw [h]
theorem UnitsMoved.kpr {s t : State} (h : UnitsMoved s t) : t.kpr = s.kpr := by rw [h]
theorem UnitsMoved.sram {s t : State} (h : UnitsMoved s t) : t.sram = s.sram := by rw [h]
theorem UnitsMoved.dram {s t : State} (h : UnitsMoved s t) : t.dram = s.dram := by rw [h]

theorem putLan_unitsMoved (n p : Nat) (x : Lantern) (s : State) : UnitsMoved s (putLan n p x s) := rfl
theorem putWick_unitsMoved (n p : Nat) (x : Wick) (s : State) : UnitsMoved s (putWick n p x s) := rfl
theorem putEng_unitsMoved (g : Eng) (x : Engine) (s : State) : UnitsMoved s (putEng g x s) := rfl

theorem enableUnit_unitsMoved (page : Nat) (s : State) : UnitsMoved s (enableUnit page s) := rfl

theorem bindStation_unitsMoved (r : PlacedSt) (s : State) : UnitsMoved s (bindStation r s) :=
  .trans (.foldl (fun _ _ => putLan_unitsMoved ..) _ _) (.foldl (fun _ _ => putWick_unitsMoved ..) _ _)

theorem enableStation_unitsMoved (r : PlacedSt) (s : State) : UnitsMoved s (enableStation r s) :=
  .trans (.foldl (fun _ _ => enableUnit_unitsMoved ..) _ _) (.foldl (fun _ _ => enableUnit_unitsMoved ..) _ _)

theorem bindUnits_unitsMoved (b : Nat) (s : State) : UnitsMoved s (bindUnits b s) := by
  unfold bindUnits
  split
  · exact .foldl (fun t r => (bindStation_unitsMoved r t).trans (enableStation_unitsMoved r _)) _ _
  · exact .refl s

theorem bindStreams_unitsMoved (im : Image) (r : PlacedSt) (s : State) : UnitsMoved s (bindStreams im r s) := by
  unfold bindStreams
  split
  · exact .refl s
  · exact .foldl (fun _ _ => putEng_unitsMoved ..) _ _

theorem loadCurves_unitsMoved (im : Image) (r : PlacedSt) (s : State) : UnitsMoved s (loadCurves im r s) :=
  .foldl (fun _ _ => putWick_unitsMoved ..) _ _

theorem bindIdle_unitsMoved (b : Nat) (s : State) : UnitsMoved s (bindIdle b s) := by
  unfold bindIdle
  split
  · exact .refl s
  · split
    · exact (bindUnits_unitsMoved b s).trans
        (.foldl (fun t r => (bindStreams_unitsMoved _ r t).trans (loadCurves_unitsMoved _ r _)) _ _)
    · exact .refl s

theorem gateSpares_unitsMoved (s : State) : UnitsMoved s (gateSpares s) := by
  unfold gateSpares
  refine .foldl (fun t i => ?_) _ _
  dsimp only
  split <;> rfl

/-! ### The state that a bank's change leads to -/

theorem settleDram_frame (s : State) : settleDram s = { s with kpr := { s.kpr with dram := (settleDram s).kpr.dram } } := by
  unfold settleDram
  split <;> rfl

/-- R415: what READY and LOADED by the banks may change. -/
theorem settleLife_frame (s : State) : settleLife s = { s with
    life := (settleLife s).life, regs := (settleLife s).regs, lanterns := (settleLife s).lanterns, wicks := (settleLife s).wicks
    engs := (settleLife s).engs, kpr := { s.kpr with dram := (settleLife s).kpr.dram } } := by
  unfold settleLife
  split
  · dsimp only
    rw [settleDram_frame]
    split
    · rfl
    · have hgate := gateSpares_unitsMoved { s with life := restLife s }
      generalize gateSpares { s with life := restLife s } = t at hgate ⊢
      rw [hgate]
  · rfl

theorem settleLife_banks (s : State) : (settleLife s).banks = s.banks := by rw [settleLife_frame]
theorem settleLife_out (s : State) : (settleLife s).out = s.out := by rw [settleLife_frame]
theorem settleLife_jobs (s : State) : (settleLife s).jobs = s.jobs := by rw [settleLife_frame]

theorem bankDone_banks (b status : Nat) (result : List Byte) (s : State) : (bankDone b status result s).banks = s.banks := by
  unfold bankDone
  split
  · rw [(cmdDone_booked ..).banks]
  · rfl

theorem mem_out_bankDone {o : Out} {s : State} (h : o ∈ s.out) (b status : Nat) (result : List Byte) : o ∈ (bankDone b status result s).out := by
  unfold bankDone
  split
  next f _ => exact (cmdDone_linksStay f status result { s with jobs := { s.jobs with bankCmd := terase s.jobs.bankCmd b } }).out o h
  next => exact h

theorem bankOf_putBank_other {b k : Nat} (x : Bank) (s : State) (h : k ≠ b) : bankOf (putBank b x s) k = bankOf s k :=
  tget_tput_other _ _ _ h

/-! ### The ends of a load -/

/-- R207, R223: a load that failed leaves its bank FREE, and its code. -/
theorem loadFailed_spec (b : Nat) (r : Rej) (s : State) :
    (∀ k, k ≠ b → bankOf (loadFailed b r s) k = bankOf s k) ∧ (bankOf (loadFailed b r s) b).st = .free ∧
      .report r.code pgKpr ∈ (loadFailed b r s).out := by
  have hbanks : ∀ k, bankOf (loadFailed b r s) k = bankOf (putBank b { bankReset with failed := r.code } s) k :=
    bankOf_congr (by rw [loadFailed, settleLife_banks, bankDone_banks]; rfl)
  refine ⟨fun k hk => by rw [hbanks, bankOf_putBank_other _ _ hk], by rw [hbanks, bankOf_putBank_same]; rfl, ?_⟩
  rw [loadFailed, settleLife_out]
  exact mem_out_bankDone (List.mem_cons_of_mem _ List.mem_cons_self) ..

/-- R207: a load that is done leaves its bank LOADED, or STALE, with what was placed. -/
theorem loadDone_spec (b : Nat) (img : List Byte) (r : Image × Nat × Placement) (s : State) :
    (∀ k, k ≠ b → bankOf (loadDone b img r s) k = bankOf s k) ∧
      (bankOf (loadDone b img r s) b).st = (if (bankOf s b).staleOnLoad then .stale else .loaded) ∧
      (bankOf (loadDone b img r s) b).img = some r.1 ∧ (bankOf (loadDone b img r s) b).placement = some r.2.2 ∧
      (bankOf (loadDone b img r s) b).fq = r.2.1 ∧ (bankOf (loadDone b img r s) b).bytes = slice img 0 (imgSize img) := by
  have hreport (t : State) : (if 1024 < r.2.1 then report 0x0040 pgKpr t else t).banks = t.banks := by split <;> rfl
  have hbanks : ∃ x : Bank, (∀ k, bankOf (loadDone b img r s) k = bankOf (putBank b x s) k) ∧
      x.st = (if (bankOf s b).staleOnLoad then .stale else .loaded) ∧ x.img = some r.1 ∧ x.placement = some r.2.2 ∧ x.fq = r.2.1 ∧
      x.bytes = slice img 0 (imgSize img) := by
    refine ⟨_, bankOf_congr (by rw [loadDone, settleLife_banks, bankDone_banks, hreport, (bindIdle_unitsMoved ..).banks]), ?_⟩
    exact ⟨rfl, rfl, rfl, rfl, rfl⟩
  obtain ⟨x, hx, hkept⟩ := hbanks
  refine ⟨fun k hk => by rw [hx, bankOf_putBank_other _ _ hk], ?_⟩
  rw [hx, bankOf_putBank_same]
  exact hkept

/-- R207: the fetch that ends a load, by the checks on its image. -/
theorem exec_imageFetchComplete {s : State} {b : Fin 16} (img : List Byte) (hst : (bankOf s b).st = .loading)
    (hheld : (bankOf s b).strictHeld = false) (hstrict : strictHolds s = false) :
    exec (.imageFetchComplete b (some img)) s = .next (fetchDone b (some img) s) := by
  change execImageFetchComplete b (some img) s = _
  unfold execImageFetchComplete
  rw [if_pos (by simp [hst, hheld]), if_neg (by simp [hstrict])]

/-! ### LOAD_IMAGE, RELEASE_BANK and TENSOR_ADDR -/

theorem cmdLoadImage_of_free {o : CmdFrom} {args : List Byte} {s : State} (ho : o.mctp = false) (hb : field args 0 1 < 16)
    (hst : (bankOf s (field args 0 1)).st ≠ .loading) (hnamed : bankNamed s (field args 0 1) = false)
    (hended : field args 0 1 ∉ endedBanks s) : cmdLoadImage o args s = startLoad (field args 0 1) (field args 8 8) o s := by
  unfold cmdLoadImage
  dsimp only
  rw [if_neg (by simp [ho]; omega), if_neg (by simp [hst, hnamed, hended])]

/-- R207: a load that begins: its bank is LOADING and its command waits for the end. -/
theorem startLoad_spec (b host : Nat) (o : CmdFrom) (s : State) :
    (bankOf (startLoad b host o s) b).st = .loading ∧ (bankOf (startLoad b host o s) b).hostPtr = host ∧
      tget? (startLoad b host o s).jobs.bankCmd b = some o ∧ ∀ k, k ≠ b → bankOf (startLoad b host o s) k = bankOf s k := by
  have hbank : ∃ x : Bank, x.st = .loading ∧ x.hostPtr = host ∧ (startLoad b host o s).banks = (putBank b x s).banks := ⟨_, rfl, rfl, rfl⟩
  obtain ⟨x, hst, hhost, hbanks⟩ := hbank
  refine ⟨?_, ?_, tget?_tput_same .., fun k hk => ?_⟩
  · rw [bankOf_congr hbanks, bankOf_putBank_same, hst]
  · rw [bankOf_congr hbanks, bankOf_putBank_same, hhost]
  · rw [bankOf_congr hbanks, bankOf_putBank_other _ _ hk]

theorem cmdReleaseBank_of_idle {o : CmdFrom} {args : List Byte} {s : State} (hb : field args 0 1 < 16)
    (hst : (bankOf s (field args 0 1)).st ≠ .loading) (hnamed : bankNamed s (field args 0 1) = false) :
    cmdReleaseBank o args s = settleLife (cmdDone o 0 [] (forgetBank (field args 0 1) (putBank (field args 0 1) bankReset s))) := by
  unfold cmdReleaseBank
  dsimp only
  rw [if_neg (by omega), if_neg (by simp [hst, hnamed])]

theorem cmdTensorAddr_of_found {o : CmdFrom} {args r : List Byte} {s : State} (hb : field args 0 1 < 16)
    (hst : (bankOf s (field args 0 1)).st = .loaded ∨ (bankOf s (field args 0 1)).st = .stale)
    (hr : tensorResult (bankOf s (field args 0 1)) (field args 2 2) = some r) : cmdTensorAddr o args s = cmdDone o 0 r s := by
  unfold cmdTensorAddr
  dsimp only
  rw [if_neg (by omega), if_neg (by rcases hst with h | h <;> simp [h]), hr]

/-- R410: a command that succeeds with a result has it written where the record asks for it. -/
theorem cmdDone_result {o : CmdFrom} {r : List Byte} (s : State) (ho : o.mctp = false) (hptr : o.resultPtr ≠ 0) (hr : r ≠ []) :
    (cmdDone o 0 r s).out = .hostWrite o.resultPtr (resultBlock r) :: s.out := by
  have hpost (q : Nat) (bs : List Byte) (t : State) : (postComp q bs t).out = t.out := by
    unfold postComp
    split <;> rfl
  unfold cmdDone
  dsimp only
  rw [if_neg (by simp [ho]), hpost, if_pos (by simp [hptr, hr])]
  rfl

/-- Settles O51: each command by its checks, each load by the verdict on its image. -/
theorem bankCommands : Obligations.BankCommands := by
  intro s
  refine ⟨?_, ?_, fun b hheld hrun => ?_, ?_, ?_⟩
  · intro c hready hlife b hb hst hnamed hended
    have hexec : exec (.loadImage c) s = .next (adminRun c 16 [1, 2, 3, 4, 5, 6, 7] inLoadStates cmdLoadImage s) := rfl
    rw [adminRun_of_ready hready hlife, cmdLoadImage_of_free (s := advanceHead 64 s) rfl hb hst hnamed hended] at hexec
    exact ⟨_, hexec, startLoad_spec b (field c.args 8 8) (cmdOrigin c s) (advanceHead 64 s)⟩
  · intro b img hst hheld hstrict
    refine ⟨_, exec_imageFetchComplete img hst hheld hstrict, ?_⟩
    unfold fetchDone
    dsimp only
    cases loadResult s b img with
    | error r => exact loadFailed_spec b r s
    | ok r => exact loadDone_spec b img r s
  · exact congrArg Host.Outcome.next (if_pos (by simp [hheld, hrun]))
  · intro c hready hlife b hb hnamed hst
    have hexec : exec (.releaseBank c) s = .next (adminRun c 1 [] inBankStates cmdReleaseBank s) := rfl
    rw [adminRun_of_ready hready hlife, cmdReleaseBank_of_idle (s := advanceHead 64 s) hb hst hnamed] at hexec
    have hbanks : ∀ k, bankOf (settleLife (cmdDone (cmdOrigin c s) 0 [] (forgetBank b (putBank b bankReset (advanceHead 64 s))))) k =
        bankOf (putBank b bankReset s) k := bankOf_congr (by rw [settleLife_banks, (cmdDone_booked ..).banks]; rfl)
    refine ⟨_, hexec, ?_, ?_, fun k hk => ?_⟩
    · rw [hbanks, bankOf_putBank_same]
    · exact (completed_cmdDone c 0 [] s (u := forgetBank b (putBank b bankReset (advanceHead 64 s)))
        (by exact halted_of_ready (s := s) hready)).congr (by rw [settleLife_jobs])
    · rw [hbanks, bankOf_putBank_other _ _ hk]
  · intro c hready hlife k hb hst r hr
    have hexec : exec (.tensorAddr c) s = .next (adminRun c 4 [1] inAddrStates cmdTensorAddr s) := rfl
    rw [adminRun_of_ready hready hlife, cmdTensorAddr_of_found (s := advanceHead 64 s) hb hst hr] at hexec
    exact ⟨_, hexec, completed_cmdDone c 0 r s (by exact halted_of_ready (s := s) hready),
      fun hptr hne => cmdDone_result (o := cmdOrigin c s) (advanceHead 64 s) rfl hptr hne⟩

end Sys2Proof.Machine
end

section
/-! O52: Moorings, from their opening to their release (R193 to R195, R410). -/

namespace Sys2Proof.Machine

theorem moorOf_congr {s t : State} (h : t.moorings = s.moorings) (m : Nat) : moorOf t m = moorOf s m := by simp only [moorOf, h]

theorem moorOf_putMoor_other {m n : Nat} (k : Mooring) (s : State) (h : n ≠ m) : moorOf (putMoor m k s) n = moorOf s n :=
  tget_tput_other _ _ _ h

theorem Booked.moorings {s t : State} (h : Booked s t) : t.moorings = s.moorings := by rw [h]

theorem cmdDone_dram (o : CmdFrom) (status : Nat) (result : List Byte) (s : State) : (cmdDone o status result s).dram = s.dram := by
  unfold cmdDone
  dsimp only
  split
  · rfl
  · rw [postComp_dram]
    split <;> rfl

/-! ### MOORING_OPEN, MOORING_SEAL and MOORING_RELEASE -/

theorem cmdMooringOpen_of_empty {o : CmdFrom} {args : List Byte} {s : State} {im : Image} {pl : Placement} (hm : field args 0 1 < 64)
    (hb : field args 1 1 < 16) (hempty : (moorOf s (field args 0 1)).st = .empty)
    (hst : (bankOf s (field args 1 1)).st = .loaded ∨ (bankOf s (field args 1 1)).st = .stale) (him : (bankOf s (field args 1 1)).img = some im)
    (hpl : (bankOf s (field args 1 1)).placement = some pl) : cmdMooringOpen o args s = openMooring o (field args 0 1) im pl s := by
  have hroom : ¬((List.range 64).all fun i => (moorOf s i).st != .empty) = true := fun hall => by
    simpa [hempty] using List.all_eq_true.mp hall (field args 0 1) (List.mem_range.mpr hm)
  unfold cmdMooringOpen
  dsimp only
  rw [if_neg (by simp; omega), if_neg hroom, if_neg (by rcases hst with h | h <;> simp [hempty, h]), him, hpl]

/-- R193, R194: with an extent found the Mooring is FILLING there, and the command succeeds. -/
theorem openMooring_spec {o : CmdFrom} {m off : Nat} {im : Image} {pl : Placement} {s : State} (h : allocExtent s none (moorNeed im) = some off) :
    ∃ (bs : List Byte) (u : State), openMooring o m im pl s = cmdDone o 0 bs u ∧ u.jobs = s.jobs ∧
      moorOf u m = { moorReset with st := .filling, off := off, len := moorNeed im, img := some im, phys := pl.stations.map PlacedSt.phys } := by
  unfold openMooring
  rw [h]
  exact ⟨_, _, rfl, rfl, moorOf_putMoor_same ..⟩

theorem cmdMooringSeal_of_filling {o : CmdFrom} {args : List Byte} {s : State} (hm : field args 0 1 < 64)
    (hst : (moorOf s (field args 0 1)).st = .filling) : cmdMooringSeal o args s =
      putMoorCmds (tput s.jobs.moorCmd (field args 0 1) o)
        (putMoor (field args 0 1) { moorOf s (field args 0 1) with st := .verifying, strictHeld := strictOn s && s.life = .running } s) := by
  unfold cmdMooringSeal
  dsimp only
  rw [if_neg (by omega), if_neg (by simp [hst])]

theorem moorDone_booked (m status : Nat) (s : State) : Booked s (moorDone m status s) := by
  unfold moorDone
  split
  · exact (jobs_booked rfl).trans (cmdDone_booked ..)
  · exact .refl s

theorem moorDone_dram (m status : Nat) (s : State) : (moorDone m status s).dram = s.dram := by
  unfold moorDone
  split
  · rw [cmdDone_dram]
    rfl
  · rfl

theorem mem_out_moorDone {o : Out} {s : State} (h : o ∈ s.out) (m status : Nat) : o ∈ (moorDone m status s).out := by
  unfold moorDone
  split
  next f _ => exact (cmdDone_linksStay f status [] (putMoorCmds (terase s.jobs.moorCmd m) s)).out o h
  next => exact h

theorem settleDram_moorings (s : State) : (settleDram s).moorings = s.moorings := by rw [settleDram_frame]
theorem settleDram_dram (s : State) : (settleDram s).dram = s.dram := by rw [settleDram_frame]
theorem settleDram_out (s : State) : (settleDram s).out = s.out := by rw [settleDram_frame]
theorem settleDram_jobs (s : State) : (settleDram s).jobs = s.jobs := by rw [settleDram_frame]

/-- R410: a Mooring that is released, its verification abandoned. -/
def releasedMoor (m : Nat) (s : State) : State := settleDram (moorDone m 0x2040 (forgetMooring m (putMoor m moorReset s)))

theorem cmdMooringRelease_of_unnamed {o : CmdFrom} {args : List Byte} {s : State} (hm : field args 0 1 < 64)
    (hnamed : moorNamed s (field args 0 1) = false) : cmdMooringRelease o args s = cmdDone o 0 [] (releasedMoor (field args 0 1) s) := by
  unfold cmdMooringRelease releasedMoor
  dsimp only
  rw [if_neg (by omega), if_neg (by simp [hnamed])]

theorem releasedMoor_spec (m : Nat) (s : State) :
    moorOf (releasedMoor m s) m = moorReset ∧ (releasedMoor m s).jobs.halted = s.jobs.halted := by
  have hdone := moorDone_booked m 0x2040 (forgetMooring m (putMoor m moorReset s))
  refine ⟨?_, ?_⟩
  · rw [releasedMoor, moorOf_congr (settleDram_moorings _), moorOf_congr hdone.moorings]
    exact moorOf_putMoor_same ..
  · rw [releasedMoor, settleDram_jobs, hdone.halted]
    rfl

/-! ### The end of a verification -/

theorem exec_mooringVerifyComplete {s : State} {m : Fin 64} (hst : (moorOf s m).st = .verifying) (hheld : (moorOf s m).strictHeld = false)
    (hstrict : strictHolds s = false) : exec (.mooringVerifyComplete m) s = .next (moorVerified m s) := by
  change execMooringVerifyComplete m s = _
  unfold execMooringVerifyComplete
  rw [if_pos (by simp [hst, hheld]), if_neg (by simp [hstrict])]

/-- R194: a verification that finds nothing wrong leaves the Mooring READY. -/
theorem moorVerified_ok {s s1 : State} {m : Nat} {im : Image} (him : (moorOf s m).img = some im)
    (hgo : (moorVerify (moorOf s m) im).go s = (.ok (), s1)) :
    moorOf (moorVerified m s) m = { moorOf s m with st := .ready } ∧ (moorVerified m s).dram = s1.dram := by
  have hend : moorVerified m s = moorDone m 0 (settleDram (putMoor m { moorOf s m with st := .ready } s1)) := by
    unfold moorVerified
    dsimp only
    rw [him]
    dsimp only
    rw [hgo]
  rw [hend, moorDone_dram, settleDram_dram, moorOf_congr (moorDone_booked ..).moorings, moorOf_congr (settleDram_moorings _)]
  exact ⟨moorOf_putMoor_same .., rfl⟩

/-- R188: a failed copy reports 0x2091, and a Mooring that has failed stays as it is. -/
theorem noSource_spec (space a : Nat) {m : Nat} {s : State} (h : (moorOf s m).st = .failed) :
    moorOf (noSource space a s) m = moorOf s m ∧ ∃ p, .report 0x2091 p ∈ (noSource space a s).out := by
  have hfail : ∀ o : Option Nat, moorOf (match o with
      | some i => putMoor i { moorOf s i with st := .failed } s
      | none => s) m = moorOf s m := fun o => by
    cases o with
    | none => rfl
    | some i =>
      by_cases hi : m = i
      · rw [← hi, moorOf_putMoor_same, ← h]
      · exact moorOf_putMoor_other _ _ hi
  unfold noSource
  split
  · refine ⟨?_, _, report_mem_out_raise ..⟩
    rw [moorOf_congr (raise_booked ..).moorings]
    exact hfail _
  · exact ⟨moorOf_congr (raise_booked ..).moorings m, _, report_mem_out_raise ..⟩

/-- R194, R206: why a verification failed is reported, and the Mooring stays FAILED. -/
theorem moorLost_spec (f : Fail) {m : Nat} {s : State} (h : (moorOf s m).st = .failed) :
    moorOf (moorLost f s) m = moorOf s m ∧ (f.code = 0x1073 → .report 0x1073 pgKpr ∈ (moorLost f s).out) ∧
      (f.code ≠ 0x1073 → ∃ p, .report 0x2091 p ∈ (moorLost f s).out) := by
  unfold moorLost
  split
  next hcode => exact ⟨rfl, fun _ => List.mem_cons_self, fun hne => absurd hcode hne⟩
  next space a _ hne =>
    obtain ⟨hkept, hout⟩ := noSource_spec space a h
    exact ⟨hkept, fun hcode => absurd hcode hne, fun _ => hout⟩
  next _ hne => exact ⟨rfl, fun hcode => absurd hcode hne, fun _ => ⟨_, List.mem_cons_self⟩⟩

/-- R194: a verification that fails leaves the Mooring FAILED, with its code. -/
theorem moorVerified_error {s s1 : State} {m : Nat} {im : Image} {f : Fail} (him : (moorOf s m).img = some im)
    (hgo : (moorVerify (moorOf s m) im).go s = (.error f, s1)) :
    moorOf (moorVerified m s) m = { moorOf s m with st := .failed } ∧ (f.code = 0x1073 → .report 0x1073 pgKpr ∈ (moorVerified m s).out) ∧
      (f.code ≠ 0x1073 → ∃ p, .report 0x2091 p ∈ (moorVerified m s).out) := by
  generalize hu : putMoor m { moorOf s m with st := .failed } (keepHandles s s1) = u
  have hmoor : moorOf u m = { moorOf s m with st := .failed } := by rw [← hu, moorOf_putMoor_same]
  obtain ⟨hkept, hblock, hmem⟩ := moorLost_spec f (m := m) (s := u) (by rw [hmoor])
  have hend : ∃ code, moorVerified m s =
      moorDone m code (settleDram (moorLost f (putMoor m { moorOf s m with st := .failed } (keepHandles s s1)))) := by
    unfold moorVerified
    dsimp only
    rw [him]
    dsimp only
    rw [hgo]
    exact ⟨_, rfl⟩
  obtain ⟨code, hend⟩ := hend
  rw [hu] at hend
  have hout {o : Out} (ho : o ∈ (moorLost f u).out) : o ∈ (moorVerified m s).out := by
    rw [hend]
    exact mem_out_moorDone (by rw [settleDram_out]; exact ho) ..
  refine ⟨?_, fun h => hout (hblock h), fun h => (hmem h).imp fun p hp => hout hp⟩
  rw [hend, moorOf_congr (moorDone_booked ..).moorings, moorOf_congr (settleDram_moorings _), hkept, hmoor]

/-- Settles O52: each command by its checks, each verification by what its reads find. -/
theorem mooringCommands : Obligations.MooringCommands := by
  intro s
  refine ⟨?_, ?_, ?_, fun m hheld hrun => congrArg Host.Outcome.next (if_pos (by simp [hheld, hrun]))⟩
  · intro c im pl off hready hlife m k hm hb hempty hst him hpl halloc
    have hexec : exec (.mooringOpen c) s = .next (adminRun c 2 [] inBankStates cmdMooringOpen s) := rfl
    obtain ⟨bs, u, hopen, hjobs, hmoor⟩ := openMooring_spec (o := cmdOrigin c s) (m := m) (pl := pl) (s := advanceHead 64 s) halloc
    rw [adminRun_of_ready hready hlife, cmdMooringOpen_of_empty (s := advanceHead 64 s) hm hb hempty hst him hpl, hopen] at hexec
    have hhalt : u.jobs.halted = false := by rw [hjobs]; exact halted_of_ready (s := s) hready
    exact ⟨_, hexec, completed_cmdDone c 0 bs s hhalt, (moorOf_congr (cmdDone_booked ..).moorings m).trans hmoor⟩
  · intro c hready hlife m hm
    refine ⟨fun hst => ?_, fun hnamed => ?_⟩
    · have hexec : exec (.mooringSeal c) s = .next (adminRun c 1 [] inBankStates cmdMooringSeal s) := rfl
      rw [adminRun_of_ready hready hlife, cmdMooringSeal_of_filling (s := advanceHead 64 s) hm hst] at hexec
      exact ⟨_, hexec, moorOf_putMoor_same .., tget?_tput_same ..⟩
    · have hexec : exec (.mooringRelease c) s = .next (adminRun c 1 [] inBankStates cmdMooringRelease s) := rfl
      obtain ⟨hmoor, hhalt⟩ := releasedMoor_spec m (advanceHead 64 s)
      rw [adminRun_of_ready hready hlife, cmdMooringRelease_of_unnamed (s := advanceHead 64 s) hm hnamed] at hexec
      exact ⟨_, hexec, (moorOf_congr (cmdDone_booked ..).moorings m).trans hmoor,
        completed_cmdDone c 0 [] s (hhalt.trans (by exact halted_of_ready (s := s) hready))⟩
  · intro m im hst hheld hstrict him
    exact ⟨fun s1 hgo => ⟨_, exec_mooringVerifyComplete hst hheld hstrict, moorVerified_ok him hgo⟩,
      fun f s1 hgo => ⟨_, exec_mooringVerifyComplete hst hheld hstrict, moorVerified_error him hgo⟩⟩

end Sys2Proof.Machine
end

section
/-! O53: the SPDM responder, GET_NONCE and commands over MCTP (R412, R424, R430, R434, R435); and POWER_UP (R415, R467). -/

namespace Sys2Proof.Machine

/-! ### POWER_UP -/

/-- R314: the links that may train begin to; nothing else changes. -/
theorem tryLinks_frame (ls : List Nat) (s : State) : ∃ k, ls.foldl (fun t l => if mayTrain t l then tryLink l t else t) s =
    { s with fab := { s.fab with links := k } } := by
  induction ls generalizing s with
  | nil => exact ⟨_, rfl⟩
  | cons l ls ih =>
    rw [List.foldl_cons]
    split
    · obtain ⟨k, hk⟩ := ih (tryLink l s)
      exact ⟨k, hk⟩
    · exact ih s

/-- R415, R467: after POWER_UP the rails are on, the life is that of the banks, and no memory or record has changed. -/
theorem powerUp_spec (s : State) :
    (powerUp s).life = restLife s ∧ (powerUp s).kpr.pwr.railsOff = false ∧ (powerUp s).sram = s.sram ∧ (powerUp s).dram = s.dram ∧
      (powerUp s).jobs = s.jobs ∧ (powerUp s).out = s.out := by
  unfold powerUp
  dsimp only
  generalize hu : State.mk .. = u
  have hlife : u.life = restLife s := by rw [← hu]
  have hpwr : u.kpr.pwr.railsOff = false := by rw [← hu]
  have hsram : u.sram = s.sram := by rw [← hu]
  have hdram : u.dram = s.dram := by rw [← hu]
  have hjobs : u.jobs = s.jobs := by rw [← hu]
  have hout : u.out = s.out := by rw [← hu]
  have hgate := gateSpares_unitsMoved u
  generalize gateSpares u = v at hgate ⊢
  obtain ⟨k, hk⟩ := tryLinks_frame (List.range 96) v
  rw [hk]
  exact ⟨hgate.life.trans hlife, (congrArg (·.pwr.railsOff) hgate.kpr).trans hpwr, hgate.sram.trans hsram, hgate.dram.trans hdram,
    hgate.jobs.trans hjobs, hgate.out.trans hout⟩

theorem cmdPowerUp_of_clear {o : CmdFrom} {args : List Byte} {s : State} (hlife : s.life = .keep) (htrip : tripBars s = none) :
    cmdPowerUp o args s = cmdDone o 0 [] (powerUp s) := by
  unfold cmdPowerUp
  rw [if_neg (by simp [hlife]), htrip]

/-! ### Commands over MCTP -/

/-- R412: where a command over MCTP came from. -/
def mctpOrigin (r : List Byte) : CmdFrom := ⟨true, 0, field r 8 8, field r 0x10 8⟩

/-- R410, R412: a command record without arguments passes its gate where its state allows it. -/
theorem cmdGate_of_plain {r : List Byte} {legal : Bool} {s : State} (body : CmdBody) (o : CmdFrom) (hrom : romRecovery s = false)
    (hargs : argsOk (slice r 1 7) (slice r 0x18 104) 0 [] = true) (hlegal : legal = true) :
    cmdGate (slice r 1 7) (slice r 0x18 104) 0 [] legal body o s = body o (slice r 0x18 104) s := by
  unfold cmdGate
  rw [if_neg (by simp [hrom]), if_neg (by simp [hargs]), if_neg (by simp [hlegal])]

/-- R412: a command over MCTP completes in its reply. -/
theorem cmdDone_mctp (r : List Byte) (status : Nat) (s : State) :
    cmdDone (mctpOrigin r) status [] s = emit (.reply "mctp" (compRecord status 0 0 0 (field r 8 8) 0 0 0 0 0 0)) s := by
  unfold cmdDone
  dsimp only
  rw [if_pos (show (mctpOrigin r).mctp = true from rfl), if_pos (show ([] : List Byte).isEmpty = true from rfl), List.append_nil]
  rfl

theorem exec_mctpCommand {s : State} (r a : List Byte) (hup : keeperUp s = true) : exec (.mctpCommand r a) s = .next (mctpRun r a s) :=
  congrArg Host.Outcome.next (if_pos hup)

theorem mctpRun_powerUp {r : List Byte} (a : List Byte) (s : State) (h : field r 0 1 = 0x01) :
    mctpRun r a s = cmdGate (slice r 1 7) (slice r 0x18 104) 0 [] (upLegal s) cmdPowerUp (mctpOrigin r) s := by
  unfold mctpRun
  rw [h]
  rfl

theorem mctpRun_leadingClear {r : List Byte} (a : List Byte) (s : State) (h : field r 0 1 = 0x33) :
    mctpRun r a s = cmdGate (slice r 1 7) (slice r 0x18 104) 0 [] (inRL s) cmdLeadingClear (mctpOrigin r) s := by
  unfold mctpRun
  rw [h]
  rfl

/-! ### The responder -/

theorem spdmServe_of_up (answer : State → State) {s : State} (hup : keeperUp s = true) (hrom : romRecovery s = false) :
    spdmServe answer s = answer s := by
  unfold spdmServe
  rw [if_neg (by simp [hup]), if_neg (by simp [hrom])]

/-- R434: an answer signed by the Daymark, while it is available. -/
theorem withDaymark_of_on (answer : State → State) {s : State} (h : daymarkOff s = false) : withDaymark answer s = answer s :=
  if_neg (by simp [h])

/-- R434: killed or withheld, the Daymark signs nothing: 0x5031 is reported and answered. -/
theorem withDaymark_of_off (answer : State → State) {s : State} (h : daymarkOff s = true) :
    .report 0x5031 pgSec ∈ (withDaymark answer s).out ∧
      (withDaymark answer s).out.head? = some (.reply "SPDM ERROR Unspecified" (leBytes 2 0x5031)) := by
  unfold withDaymark
  rw [if_pos h]
  exact ⟨List.mem_cons_of_mem _ (report_mem_out_raise ..), rfl⟩

theorem getNonceOk_op {r : List Byte} (h : getNonceOk r = true) : rqOp r = 0 := by
  simp only [getNonceOk, Bool.and_eq_true, decide_eq_true_eq] at h
  obtain ⟨⟨⟨⟨-, hop⟩, -⟩, -⟩, -⟩ := h
  exact hop

theorem exec_getNonce {r : List Byte} {s : State} (n : List Byte) (h : getNonceOk r = true) (hup : keeperUp s = true)
    (hrom : romRecovery s = false) : exec (.getNonce r n) s = .next (giveNonce r n s) := by
  change execGetNonce r n s = _
  unfold execGetNonce
  rw [if_neg (by simp [hup, getNonceOk_op h]), if_neg (by simp [hrom]), if_pos h]

theorem exec_nonceExpiry {s : State} {n : List Byte × Nat} (h : s.kpr.sec.nonce = some n) :
    exec .nonceExpiry s = .next (putSec { s.kpr.sec with nonce := none } (watchTo n.2 s)) := by
  change execNonceExpiry s = _
  unfold execNonceExpiry
  rw [h]
  rfl

/-- Settles O53: the responder serves what it is asked, the Daymark signs or is withheld, and a command over MCTP meets no other gate than
its own. -/
theorem attestation : Obligations.Attestation := by
  intro s hup hrom
  have hserve (answer : State → State) : spdmServe answer s = answer s := spdmServe_of_up answer hup hrom
  refine ⟨congrArg Host.Outcome.next (hserve _), fun slot c m hchain => ?_, fun i m b hb => ?_, fun r n hok => ?_, fun n hn => ?_,
    fun r a hargs => ⟨fun hop hlife htrip => ?_, fun hop hlife => ?_⟩⟩
  · have hcert : exec (.spdmGetCertificate slot) s = .next (emit (.reply "SPDM CERTIFICATE" c) s) := by
      refine congrArg Host.Outcome.next ((hserve _).trans ?_)
      rw [hchain]
      rfl
    have hchal : exec (.spdmChallenge slot m) s = .next (withDaymark (fun u => spdm "CHALLENGE_AUTH" (attest u m) u) s) := by
      refine congrArg Host.Outcome.next ((hserve _).trans ?_)
      rw [hchain]
    refine ⟨hcert, fun hon => ?_, fun hoff => ⟨_, hchal, withDaymark_of_off _ hoff⟩⟩
    rw [hchal, withDaymark_of_on _ hon]
    rfl
  · refine ⟨?_, fun hon => ?_⟩
    · refine congrArg Host.Outcome.next ((hserve _).trans ?_)
      rw [hb]
      rfl
    · refine congrArg Host.Outcome.next ((hserve _).trans ?_)
      rw [hb]
      exact withDaymark_of_on _ hon
  · exact ⟨_, exec_getNonce n hok hup hrom, rfl, rfl⟩
  · exact ⟨_, exec_nonceExpiry hn, rfl, rfl⟩
  · have hlegal : upLegal s = true := by simp [upLegal, hlife]
    refine ⟨_, exec_mctpCommand r a hup, ?_⟩
    rw [mctpRun_powerUp a s hop, cmdGate_of_plain _ _ hrom hargs hlegal, cmdPowerUp_of_clear hlife htrip, cmdDone_mctp]
    obtain ⟨hrest, -⟩ := powerUp_spec s
    generalize powerUp s = t at hrest ⊢
    exact ⟨hrest, List.head?_cons⟩
  · refine ⟨_, exec_mctpCommand r a hup, ?_⟩
    rw [mctpRun_leadingClear a s hop, cmdGate_of_plain _ _ hrom hargs hlife, cmdLeadingClear, cmdDone_mctp]
    exact ⟨rfl, rfl, rfl⟩

end Sys2Proof.Machine
end

section
/-! O54: owner requests (R430 to R433) and debug scopes (R436, R437). -/

namespace Sys2Proof.Machine

/-- R430: a response is sent, and nothing else changes. -/
theorem respond_frame (code : Nat) (nonce extra : List Byte) (s : State) :
    respond code nonce extra s = { s with out := (respond code nonce extra s).out } := rfl

/-- R439: a request that fails is recorded and answered: no record and no life changes. -/
theorem rqRefuse_spec (k : Nat) (r : List Byte) (s : State) : (rqRefuse k r s).kpr = s.kpr ∧ (rqRefuse k r s).life = s.life := by
  have hnote : (noteBad k r s).kpr = s.kpr ∧ (noteBad k r s).life = s.life := by
    unfold noteBad
    split
    · exact ⟨by rw [conflict_frame], by rw [conflict_frame]⟩
    · exact ⟨by rw [raise_frame], raise_life ..⟩
  unfold rqRefuse
  rw [respond_frame]
  exact hnote

/-- R424, R430: a request that the Keeper takes: its effect when it passes every check, else the refusal; its nonce is gone either way. -/
theorem ownerRun_of_up {op : Nat} {r : List Byte} (effect : List Byte → State → State) {s : State} (hup : keeperUp s = true)
    (hrom : romRecovery s = false) (hop : rqOp r = op) :
    (rqFails s r = none → ownerRun op r effect s = respond 0 (rqNonce r) [] (effect r (useNonce s))) ∧
      ∀ k, rqFails s r = some k → ownerRun op r effect s = rqRefuse k r (useNonce s) := by
  unfold ownerRun
  rw [if_neg (by simp [hup, hop]), if_neg (by simp [hrom])]
  exact ⟨fun h => by rw [h], fun k h => by rw [h]⟩

/-- R430: one that fails changes nothing but the nonce. -/
theorem ownerRun_refused {op : Nat} {r : List Byte} (effect : List Byte → State → State) {s : State} (hup : keeperUp s = true)
    (hrom : romRecovery s = false) (hop : rqOp r = op) (k : Nat) (h : rqFails s r = some k) :
    (ownerRun op r effect s).kpr = { s.kpr with sec := { s.kpr.sec with nonce := none } } ∧ (ownerRun op r effect s).life = s.life := by
  rw [(ownerRun_of_up effect hup hrom hop).2 k h]
  exact rqRefuse_spec k r (useNonce s)

/-- R430, R431: an operation that acts on the owner record and the epoch alone: what it leaves when it passes and when it fails. -/
theorem ownerRun_done {op : Nat} {r : List Byte} {effect : List Byte → State → State} {s : State} {sec : Sec} {epoch : Nat}
    (hup : keeperUp s = true) (hrom : romRecovery s = false) (hop : rqOp r = op)
    (heffect : effect r (useNonce s) = { s with kpr := { s.kpr with sec := sec, fuses := { s.kpr.fuses with epoch := epoch } } }) :
    (rqFails s r = none → (ownerRun op r effect s).kpr = { s.kpr with sec := sec, fuses := { s.kpr.fuses with epoch := epoch } } ∧
        ownerRun op r effect s = { s with kpr := (ownerRun op r effect s).kpr, out := (ownerRun op r effect s).out }) ∧
      ∀ k, rqFails s r = some k →
        (ownerRun op r effect s).kpr = { s.kpr with sec := { s.kpr.sec with nonce := none } } ∧ (ownerRun op r effect s).life = s.life := by
  refine ⟨fun h => ?_, ownerRun_refused effect hup hrom hop⟩
  rw [(ownerRun_of_up effect hup hrom hop).1 h, heffect]
  exact ⟨rfl, rfl⟩

/-! ### DEBUG_UNLOCK -/

/-- R431: a request that passes every check stands in a life that allows its operation. -/
theorem lifeAllows_of_passes {s : State} {r : List Byte} (h : rqFails s r = none) : lifeAllows s r = true := by
  unfold rqFails at h
  split at h
  · cases h
  · split at h
    · cases h
    · split at h
      · cases h
      · split at h
        · cases h
        · split at h
          · cases h
          · split at h
            · cases h
            · split at h
              · cases h
              next hlife => simpa using hlife

/-- R431: DEBUG_UNLOCK passes in KEEP, READY and LOADED alone, where no job runs. -/
theorem runOrHeld_of_unlock {s : State} {r : List Byte} (hop : rqOp r = 0x10) (h : rqFails s r = none) : runOrHeld s = false := by
  have hlife := lifeAllows_of_passes h
  unfold lifeAllows at hlife
  rw [hop] at hlife
  simp only [inKRL, Bool.or_eq_true, decide_eq_true_eq] at hlife
  rcases hlife with (hl | hl) | hl <;> simp [runOrHeld, hl]

/-- R438: a signature in progress is noted in the jobs' records. -/
theorem keepSigning_frame (s : State) : keepSigning s = { s with jobs := (keepSigning s).jobs } := by
  unfold keepSigning
  split <;> rfl

theorem scopeFaults_of_idle (scope : Nat) {s : State} (h : runOrHeld s = false) : scopeFaults scope s = s :=
  if_neg (by simp [h])

/-- R436: with no job running the scopes open, and that is all there is to the record. -/
theorem openScopes_sec {r : List Byte} {s : State} (h : runOrHeld s = false) :
    (openScopes r s).kpr.sec = { s.kpr.sec with debugOpen := Nat.lor s.kpr.sec.debugOpen (field (rqPayload r) 0 4) } := by
  have hkept : ∃ j, (if daymarkOff s || !(bitAt (field (rqPayload r) 0 4) 1 || bitAt (field (rqPayload r) 0 4) 2) then s else keepSigning s) =
      { s with jobs := j } := by
    split
    · exact ⟨_, rfl⟩
    · exact ⟨_, keepSigning_frame s⟩
  obtain ⟨j, hj⟩ := hkept
  have hopen : ∃ u, openScopes r s = scopeFaults (field (rqPayload r) 0 4) u ∧ runOrHeld u = runOrHeld s ∧
      u.kpr.sec = { s.kpr.sec with debugOpen := Nat.lor s.kpr.sec.debugOpen (field (rqPayload r) 0 4) } := by
    unfold openScopes
    dsimp only
    rw [hj]
    refine ⟨_, rfl, ?_, ?_⟩
    · split
      · rfl
      · rw [setEvent_frame]
        rfl
    · split
      · rfl
      · rw [setEvent_frame]
        rfl
  obtain ⟨u, hu, hrun, hsec⟩ := hopen
  rw [hu, scopeFaults_of_idle _ (hrun.trans h)]
  exact hsec

/-- Settles O54: each operation has its effect on the record without the nonce; one that fails leaves that record. -/
theorem ownerRequests : Obligations.OwnerRequests := by
  intro r s hup hrom c blank enrolled released done
  refine ⟨fun i op sec hmem hop => ?_, fun i op sec hmem hop => ?_, fun hop => ?_⟩
  · simp only [List.mem_cons, Prod.mk.injEq, List.not_mem_nil, or_false] at hmem
    rcases hmem with ⟨rfl, rfl, rfl⟩ | ⟨rfl, rfl, rfl⟩
    · exact ⟨_, rfl, ownerRun_done (effect := enrolOwner) hup hrom hop rfl⟩
    · exact ⟨_, rfl, ownerRun_done (effect := releaseOwner) hup hrom hop rfl⟩
  · simp only [List.mem_cons, Prod.mk.injEq, List.not_mem_nil, or_false] at hmem
    rcases hmem with ⟨rfl, rfl, rfl⟩ | ⟨rfl, rfl, rfl⟩ | ⟨rfl, rfl, rfl⟩ | ⟨rfl, rfl, rfl⟩ | ⟨rfl, rfl, rfl⟩ | ⟨rfl, rfl, rfl⟩
    · exact ⟨_, rfl, ownerRun_done (effect := addKey) hup hrom hop rfl⟩
    · exact ⟨_, rfl, ownerRun_done (effect := revokeKey) hup hrom hop rfl⟩
    · exact ⟨_, rfl, ownerRun_done (effect := setPolicy) hup hrom hop rfl⟩
    · exact ⟨_, rfl, ownerRun_done (effect := setOwnerCert) hup hrom hop rfl⟩
    · exact ⟨_, rfl, ownerRun_done (effect := setLock) hup hrom hop rfl⟩
    · exact ⟨_, rfl, ownerRun_done (effect := clearLock) hup hrom hop rfl⟩
  · refine ⟨_, rfl, fun hpass => ?_, ownerRun_refused openScopes hup hrom hop⟩
    have hidle := runOrHeld_of_unlock hop hpass
    refine ⟨?_, fun hrun => absurd hrun (by simp [hidle])⟩
    rw [(ownerRun_of_up openScopes hup hrom hop).1 hpass, respond_frame]
    exact openScopes_sec (s := useNonce s) hidle

end Sys2Proof.Machine
end

section
/-! O55: a firmware update, from its request to its end (R441 to R450). -/

namespace Sys2Proof.Machine

/-! ### Restarts of the Keeper -/

theorem reportAll_frame (cs : List Nat) (s : State) : reportAll cs s = { s with out := (reportAll cs s).out } := by
  unfold reportAll
  induction cs generalizing s with
  | nil => rfl
  | cons c cs ih =>
    rw [List.foldl_cons, ih]
    rfl

/-- R422: the boot stages report, and note what they booted. -/
theorem bootStages_frame (s : State) : bootStages s = { s with
    out := (bootStages s).out, kpr := { s.kpr with boot := (bootStages s).kpr.boot } } := by
  unfold bootStages romBoot
  dsimp only
  split
  · rw [reportAll_frame]
    rfl
  · split
    · rw [reportAll_frame]
      rfl
    · rw [reportAll_frame]
      rfl

theorem bootStages_upd (s : State) : (bootStages s).kpr.upd = s.kpr.upd := by rw [bootStages_frame]
theorem bootStages_watch (s : State) : (bootStages s).watch = s.watch := by rw [bootStages_frame]

/-- R481: blanking the chip leaves the Keeper's own state. -/
theorem blankChip_kpr (s : State) : (blankChip s).kpr = s.kpr := rfl

/-- R447: a restart of the Keeper begins the Watch at 0 and keeps the update's record. -/
theorem restartChip_spec (s : State) : (restartChip s).watch = 0 ∧ (restartChip s).kpr.upd = s.kpr.upd := by
  unfold restartChip
  dsimp only
  generalize hu : blankChip _ = u
  have hkpr : u.kpr = s.kpr := by rw [← hu, blankChip_kpr]
  refine ⟨rfl, ?_⟩
  change u.kpr.upd = _
  rw [hkpr]

/-- R450: a revert begins with the record at REVERTING and the Watch at 0. -/
theorem startRevert_spec (cause : Nat) (s : State) :
    (startRevert cause s).kpr.upd.rec_ = .reverting ∧ (startRevert cause s).watch = 0 := by
  unfold startRevert
  dsimp only
  rw [bootStages_upd, bootStages_watch, (restartChip_spec _).1, (restartChip_spec _).2]
  exact ⟨rfl, rfl⟩

/-- R446: after activation the record stands in TRIAL, its timer at 0. -/
theorem activate_spec (s : State) :
    (activate s).kpr.upd.rec_ = .trial ∧ (activate s).kpr.upd.trialAt = some 0 ∧ (activate s).watch = 0 := by
  refine ⟨rfl, rfl, ?_⟩
  unfold activate
  dsimp only
  change (bootStages (putUpd { updOf s with rec_ := .idle } (restartChip (pldm "ActivateFirmware 2 s" [] s)))).watch = 0
  rw [bootStages_watch]
  exact (restartChip_spec (pldm "ActivateFirmware 2 s" [] s)).1

/-! ### Ends of an update -/

/-- R415, R442: an update that ends is IDLE, and the module in the state it left. -/
theorem updClose_spec (s : State) :
    (updClose s).kpr.upd.phase = .closed ∧ (updClose s).kpr.upd.rec_ = .idle ∧ (updClose s).out = s.out ∧
      (updClose s).kpr.flash = s.kpr.flash ∧ (s.life = .updating → (updClose s).life = s.kpr.upd.left) := by
  refine ⟨rfl, rfl, ?_, ?_, fun h => ?_⟩
  · unfold updClose
    dsimp only
    split <;> rfl
  · unfold updClose
    dsimp only
    split <;> rfl
  · unfold updClose
    dsimp only
    rw [if_pos (by exact h)]
    rfl

/-- R439: an event of the update page is reported, and leaves the Keeper's state and the life. -/
theorem updEvent_spec (code bit cause off : Nat) (s : State) :
    .report code pgUpd ∈ (updEvent code bit cause off s).out ∧ (updEvent code bit cause off s).kpr = s.kpr ∧
      (updEvent code bit cause off s).life = s.life :=
  ⟨report_mem_out_raise .., by rw [updEvent, raise_frame], raise_life ..⟩

/-- An event of the update page, and the end of the update. -/
theorem updClose_updEvent_spec (code bit cause off : Nat) (s : State) : ∃ t, updClose (updEvent code bit cause off s) = t ∧
    t.kpr.upd.phase = .closed ∧ t.kpr.upd.rec_ = .idle ∧ .report code pgUpd ∈ t.out ∧ t.kpr.flash = s.kpr.flash ∧
      (s.life = .updating → t.life = s.kpr.upd.left) := by
  obtain ⟨hrep, hkpr, hlife⟩ := updEvent_spec code bit cause off s
  obtain ⟨hphase, hrec, hout, hflash, hleft⟩ := updClose_spec (updEvent code bit cause off s)
  exact ⟨_, rfl, hphase, hrec, by rw [hout]; exact hrep, by rw [hflash, hkpr], fun h => by rw [hleft (hlife.trans h), hkpr]⟩

/-- R442: an update that is abandoned. -/
theorem abandon_spec (s : State) : (abandon s).kpr.upd.phase = .closed ∧ (abandon s).kpr.upd.rec_ = .idle ∧
    .report 0x6006 pgUpd ∈ (abandon s).out ∧ (s.life = .updating → (abandon s).life = s.kpr.upd.left) := by
  obtain ⟨t, ht, hphase, hrec, hout, -, hleft⟩ := updClose_updEvent_spec 0x6006 2 0 (updOf s).bytes.length s
  rw [abandon, ht]
  exact ⟨hphase, hrec, hout, hleft⟩

/-! ### Request and transfer -/

theorem exec_requestUpdate {s : State} (n : Nat) (hup : pldmUp s = true) (hlife : s.life ≠ .updating) (hcheck : updateCheck s = none) :
    exec (.requestUpdate n) s = .next (openUpdate n s) := by
  change execRequestUpdate n s = _
  unfold execRequestUpdate
  rw [if_neg (by simp [hup]), if_neg hlife, hcheck]

theorem exec_firmwareDataResponse {s : State} (ok : Bool) (d : List Byte) (hup : pldmUp s = true) (hphase : s.kpr.upd.phase = .transfer)
    (hmore : s.kpr.upd.bytes.length < s.kpr.upd.size) : exec (.firmwareDataResponse ok d) s =
      .next (if ok && d.length = nextAsk s.kpr.upd then stageData d s else retryData s) := by
  change execFirmwareDataResponse ok d s = _
  unfold execFirmwareDataResponse
  rw [if_pos (by simp [updOf, hup, hphase, hmore])]
  rfl

theorem stageData_upd (d : List Byte) (s : State) :
    (stageData d s).kpr.upd = { s.kpr.upd with bytes := s.kpr.upd.bytes ++ d, fails := 0, lastAt := s.watch } := by
  unfold stageData
  dsimp only
  split <;> rfl

theorem retryData_of_few {s : State} (h : s.kpr.upd.fails < 3) :
    (retryData s).kpr.upd = { s.kpr.upd with fails := s.kpr.upd.fails + 1, lastAt := s.watch } := by
  unfold retryData
  dsimp only
  rw [if_neg (by unfold updOf; omega)]
  rfl

theorem retryData_of_many {s : State} (h : 3 ≤ s.kpr.upd.fails) : retryData s = abandon s :=
  if_pos (by unfold updOf; omega)

/-- R442: the timeout and the two cancels end an update that is open. -/
theorem exec_abandons {c : Instr} {s : State} (h : c = Instr.firmwareDataTimeout ∧ waitsAgent s.kpr.upd = true ∨
      (c = .cancelUpdate ∨ c = .cancelUpdateComponent) ∧ pldmUp s = true ∧ beforeApply s.kpr.upd = true) :
    ∃ u, exec c s = .next (abandon u) ∧ u.life = s.life ∧ u.kpr = s.kpr := by
  rcases h with ⟨rfl, hwait⟩ | ⟨rfl | rfl, hup, hopen⟩
  · exact ⟨watchTo ((updOf s).lastAt + 120000000000) s, congrArg Host.Outcome.next (if_pos hwait), rfl, rfl⟩
  · refine ⟨s, ?_, rfl, rfl⟩
    change execCancelUpdate s = _
    unfold execCancelUpdate
    rw [if_neg (by simp [hup]), if_pos (show beforeApply (updOf s) = true from hopen)]
  · exact ⟨s, congrArg Host.Outcome.next (if_pos (by rw [hup]; exact hopen)), rfl, rfl⟩

/-! ### Verification and flash -/

theorem exec_transferComplete {s : State} (b : Bundle) (hup : pldmUp s = true) (hphase : s.kpr.upd.phase = .transfer)
    (hall : s.kpr.upd.size = s.kpr.upd.bytes.length) : exec (.transferComplete b) s = .next (verifyStaged b s) :=
  congrArg Host.Outcome.next (if_pos (by simp [updOf, hup, hphase, hall]))

/-- R443: a bundle that fails its check ends the update with the code. -/
theorem verifyStaged_of_bad {s : State} {b : Bundle} {k : Nat × Nat} (h : stagedCheck s b = some k) :
    (verifyStaged b s).kpr.upd.phase = .closed ∧ (verifyStaged b s).kpr.upd.rec_ = .idle ∧ .report k.1 pgUpd ∈ (verifyStaged b s).out := by
  obtain ⟨t, ht, hphase, hrec, hout, -, -⟩ := updClose_updEvent_spec k.1 1 k.2 0 (pldm "VerifyComplete failure" [] s)
  have hclose : verifyStaged b s = t := by
    unfold verifyStaged
    rw [h]
    exact ht
  rw [hclose]
  exact ⟨hphase, hrec, hout⟩

/-- R444: ACTIVE is erased before it is written. -/
theorem startActive_spec {s : State} (h : romRecovery s = false) : (startActive s).kpr.upd.rec_ = .writing ∧
    (startActive s).kpr.upd.phase = .writeActive ∧ (startActive s).kpr.upd.staged = s.kpr.upd.staged ∧
      (startActive s).kpr.flash = { s.kpr.flash with active := noBundle } := by
  refine ⟨?_, rfl, rfl, rfl⟩
  change (if romRecovery s then UpRec.idle else .writing) = .writing
  rw [h]
  rfl

/-- R444: a good bundle is staged, and written, after a copy of the one that booted where FALLBACK does not hold it. -/
theorem startWriting_spec (b : Bundle) {s : State} (h : romRecovery s = false) : (startWriting b s).kpr.upd.staged = some b ∧
    if sha3 s.kpr.flash.fallback.manifest = sha3 s.kpr.boot.bundle.manifest
    then (startWriting b s).kpr.upd.rec_ = .writing ∧ (startWriting b s).kpr.upd.phase = .writeActive ∧
      (startWriting b s).kpr.flash.active = noBundle
    else (startWriting b s).kpr.upd.rec_ = .copying ∧ (startWriting b s).kpr.upd.phase = .writeFallback ∧
      (startWriting b s).kpr.flash = s.kpr.flash := by
  unfold startWriting
  dsimp only
  rw [h, Bool.false_or]
  by_cases heq : sha3 s.kpr.flash.fallback.manifest = sha3 s.kpr.boot.bundle.manifest
  · rw [if_pos (by simp [heq]), if_pos heq]
    generalize hv : pldm "VerifyComplete success" [] _ = v
    obtain ⟨hrec, hphase, hstaged, hflash⟩ := startActive_spec (s := v) (by rw [← hv]; exact h)
    refine ⟨?_, hrec, hphase, by rw [hflash]⟩
    rw [hstaged, ← hv]
    rfl
  · rw [if_neg (by simp [heq]), if_neg heq]
    exact ⟨rfl, rfl, rfl, rfl⟩

theorem flashStep_fallback {s : State} {b : Bundle} (hphase : s.kpr.upd.phase = .writeFallback) (hstaged : s.kpr.upd.staged = some b) :
    flashStep true s = startActive (putFlash { s.kpr.flash with fallback := s.kpr.boot.bundle } s) := by
  unfold flashStep updOf
  dsimp only
  rw [hphase, hstaged]
  rfl

theorem flashStep_active {s : State} {b : Bundle} (hphase : s.kpr.upd.phase = .writeActive) (hstaged : s.kpr.upd.staged = some b) :
    flashStep true s = activeWritten b s := by
  unfold flashStep updOf
  dsimp only
  rw [hphase, hstaged]
  rfl

/-- R444: the last step leaves the record at WRITTEN. -/
theorem activeWritten_spec (b : Bundle) {s : State} (h : romRecovery s = false) :
    (activeWritten b s).kpr.flash = { s.kpr.flash with active := b } ∧ (activeWritten b s).kpr.upd.rec_ = .written ∧
      (activeWritten b s).kpr.upd.phase = .applied := by
  unfold activeWritten
  dsimp only
  rw [h]
  exact ⟨rfl, rfl, rfl⟩

/-! ### Activation and trial -/

theorem exec_activateFirmware {s : State} (hup : pldmUp s = true) (hrec : s.kpr.upd.rec_ = .written) (hphase : s.kpr.upd.phase = .applied)
    (hcheck : activateCheck s = none) : exec .activateFirmware s = .next (activate s) := by
  change execActivateFirmware s = _
  unfold execActivateFirmware
  rw [if_pos (by simp [updOf, hup, hrec, hphase]), hcheck]

theorem exec_activateTimeout {s : State} (hrec : s.kpr.upd.rec_ = .written) (hphase : s.kpr.upd.phase = .applied) :
    exec .activateTimeout s = .next (startRevert 0 (watchTo ((updOf s).lastAt + 120000000000) s)) :=
  congrArg Host.Outcome.next (if_pos (by simp [updOf, hrec, hphase]))

/-- R449: an update that is confirmed is IDLE, in the state it left, with its fuses burned. -/
theorem confirm_spec (s : State) : (confirm s).kpr.upd.rec_ = .idle ∧ (s.life = .updating → (confirm s).life = s.kpr.upd.left) ∧
    (confirm s).kpr.fuses = burnFuses s.kpr.flash.active s.kpr.fuses ∧ .report 0x00C0 pgUpd ∈ (confirm s).out := by
  generalize hu : putUpd { updOf s with rec_ := .confirming } s = u
  have hsteps : (confirmSteps u).kpr.upd.rec_ = .idle ∧ (confirmSteps u).kpr.fuses = burnFuses u.kpr.flash.active u.kpr.fuses ∧
      .report 0x00C0 pgUpd ∈ (confirmSteps u).out := by
    unfold confirmSteps
    dsimp only
    refine ⟨?_, ?_, report_mem_out_raise ..⟩
    · rw [raise_frame]
      rfl
    · rw [raise_frame]
      rfl
  obtain ⟨hrec, hfuses, hout⟩ := hsteps
  have hlife : (confirmSteps u).life = s.life := by rw [confirmSteps_life, ← hu]; rfl
  have hburn : burnFuses u.kpr.flash.active u.kpr.fuses = burnFuses s.kpr.flash.active s.kpr.fuses := by rw [← hu]; rfl
  unfold confirm
  dsimp only
  rw [hu, ← hburn]
  split
  · exact ⟨hrec, fun _ => rfl, hfuses, hout⟩
  next hno => exact ⟨hrec, fun h => absurd (hlife.trans h) hno, hfuses, hout⟩

theorem inTrial_spec {s : State} (h : inTrial s = true) : s.kpr.upd.rec_ = .trial ∧ ∃ w, s.kpr.upd.trialAt = some w := by
  unfold inTrial updOf at h
  simp only [Bool.and_eq_true, decide_eq_true_eq] at h
  obtain ⟨hrec, htime⟩ := h
  cases hat : s.kpr.upd.trialAt with
  | none => simp [hat] at htime
  | some w => exact ⟨hrec, w, rfl⟩

theorem exec_trialTimeout {s : State} {w : Nat} (hrec : s.kpr.upd.rec_ = .trial) (hat : s.kpr.upd.trialAt = some w) :
    exec .trialTimeout s = .next (startRevert 0 (watchTo (w + 30000000000) s)) := by
  change execTrialTimeout s = _
  unfold execTrialTimeout updOf
  rw [hrec, hat]

/-- R450: after the copy ACTIVE equals FALLBACK, and the update is over. -/
theorem revertDone_spec (s : State) : (revertDone s).kpr.flash.active = s.kpr.flash.fallback ∧ (revertDone s).kpr.upd.rec_ = .idle ∧
    .report 0x6010 pgUpd ∈ (revertDone s).out ∧ (s.life = .updating → (revertDone s).life = s.kpr.upd.left) := by
  unfold revertDone
  dsimp only
  generalize hu : regPut (pageBase pgUpd + 0x48) _ _ = u
  have hkpr : u.kpr.flash.active = s.kpr.flash.fallback ∧ u.kpr.upd = s.kpr.upd ∧ u.life = s.life := by
    rw [← hu]
    exact ⟨rfl, rfl, rfl⟩
  obtain ⟨hactive, hupd, hlife⟩ := hkpr
  obtain ⟨t, ht, -, hrec, hout, hflash, hleft⟩ := updClose_updEvent_spec 0x6010 4 (updOf s).cause 0 u
  rw [ht]
  exact ⟨by rw [hflash, hactive], hrec, hout, fun h => by rw [hleft (hlife.trans h), hupd]⟩

/-- Settles O55: each stage of an update by its own command, each end by what it leaves of the record. -/
theorem firmwareUpdate : Obligations.FirmwareUpdate := by
  intro s u
  refine ⟨?_, ?_, ?_, ?_, ?_, ?_, ?_, ?_, ?_⟩
  · intro n hup hlife hcheck
    exact ⟨_, exec_requestUpdate n hup hlife hcheck, rfl, rfl, rfl, rfl⟩
  · intro n hup hphase
    exact ⟨_, congrArg Host.Outcome.next (if_pos (by simp [updOf, hup, u, hphase])), rfl⟩
  · intro d hup hphase hmore
    refine ⟨fun hd => ?_, fun hfew => ?_, fun hmany => ?_⟩
    · exact ⟨_, (exec_firmwareDataResponse true d hup hphase hmore).trans (congrArg _ (if_pos (by simp [u, hd]))), stageData_upd d s⟩
    · exact ⟨_, exec_firmwareDataResponse false d hup hphase hmore, retryData_of_few hfew⟩
    · obtain ⟨hclosed, -, hout, -⟩ := abandon_spec s
      refine ⟨abandon s, ?_, hclosed, hout⟩
      rw [exec_firmwareDataResponse false d hup hphase hmore, ← retryData_of_many hmany]
      rfl
  · intro c hc
    obtain ⟨v, hexec, hlife, hkpr⟩ := exec_abandons hc
    obtain ⟨hclosed, hrec, hout, hleft⟩ := abandon_spec v
    exact ⟨_, hexec, hclosed, hrec, hout, fun h => by rw [hleft (hlife.trans h), hkpr]⟩
  · intro b hup hphase hall hrom
    refine ⟨_, exec_transferComplete b hup hphase hall, fun k hk => verifyStaged_of_bad hk, fun hok => ?_⟩
    have hwrite : verifyStaged b s = startWriting b s := by
      unfold verifyStaged
      rw [hok]
    rw [hwrite]
    exact startWriting_spec b hrom
  · intro b hstaged hrom
    refine ⟨fun hphase => ?_, fun hphase => ?_⟩
    · obtain ⟨hrec, hnext, -, hflash⟩ := startActive_spec (s := putFlash { s.kpr.flash with fallback := s.kpr.boot.bundle } s) hrom
      exact ⟨_, congrArg Host.Outcome.next (flashStep_fallback hphase hstaged), hflash, hrec, hnext⟩
    · exact ⟨_, congrArg Host.Outcome.next (flashStep_active hphase hstaged), activeWritten_spec b hrom⟩
  · intro hrec hphase
    refine ⟨fun hup hcheck => ?_, ?_⟩
    · exact ⟨_, exec_activateFirmware hup hrec hphase hcheck, activate_spec s⟩
    · exact ⟨_, exec_activateTimeout hrec hphase, startRevert_spec 0 _⟩
  · intro htrial
    obtain ⟨hrec, w, hat⟩ := inTrial_spec htrial
    have hhealth (passed : Bool) : exec (.healthConfirmed passed) s =
        .next (if passed then confirm s else startRevert ((Config.freeValue s.free).toNat % 65536) (bumpFree s)) :=
      congrArg Host.Outcome.next (if_pos htrial)
    exact ⟨⟨_, hhealth true, confirm_spec s⟩, ⟨_, hhealth false, (startRevert_spec _ _).1⟩,
      ⟨_, exec_trialTimeout hrec hat, startRevert_spec 0 _⟩⟩
  · intro hrec
    exact ⟨_, congrArg Host.Outcome.next (if_pos hrec), revertDone_spec s⟩

end Sys2Proof.Machine
end

section
/-! O56: POWER_UP and POWER_DOWN, the feeds, the samples and their trips, and droops (R325, R415, R454 to R467). -/

namespace Sys2Proof.Machine

/-! ### POWER_UP and POWER_DOWN -/

theorem refuseJob_booked (j : Job) (own : Bool) (status : Nat) (s : State) : Booked s (refuseJob j own status s) := by
  unfold refuseJob
  split
  · exact postComp_booked ..
  · exact .refl s

theorem cutCommands_booked (s : State) : Booked s (cutCommands s) :=
  (Booked.foldl (fun _ _ => cmdDone_booked ..) _ s).trans
    ((Booked.foldl (fun _ _ => refuseJob_booked ..) _ _).trans (jobs_booked rfl))

/-- R458, R481: what blanking the chip loses and what it leaves. -/
theorem blankChip_spec (s : State) : (blankChip s).sram = [] ∧ (blankChip s).fab.part.st = .none ∧ (blankChip s).jobs = s.jobs ∧
    (blankChip s).life = s.life ∧ (blankChip s).watch = s.watch ∧ (blankChip s).dram = s.dram ∧ (blankChip s).banks = s.banks ∧
      (blankChip s).engs = [] :=
  ⟨rfl, rfl, rfl, rfl, rfl, rfl, rfl, rfl⟩

/-- R415, R458: a module that is powered down is in KEEP, with nothing loaded and no partition. -/
theorem powerDown_spec (s : State) :
    (powerDown s).life = .keep ∧ (powerDown s).sram = [] ∧ (powerDown s).banks = [] ∧ (powerDown s).moorings = [] ∧
      (powerDown s).fab.part.st = .none ∧ (powerDown s).jobs.halted = s.jobs.halted := by
  have hcut := (formDone_booked 0x3005 s).trans (cutCommands_booked (formDone 0x3005 s))
  unfold powerDown
  dsimp only
  generalize cutCommands (formDone 0x3005 s) = t at hcut ⊢
  exact ⟨rfl, rfl, rfl, rfl, rfl, hcut.halted⟩

theorem cmdPowerDown_of_on {o : CmdFrom} {args : List Byte} {s : State} (h : s.life ≠ .keep) :
    cmdPowerDown o args s = cmdDone o 0 [] (powerDown s) := by
  unfold cmdPowerDown
  rw [if_neg h]

/-! ### Feeds -/

theorem powered_of_on {s : State} (h : s.life ≠ .off) : powered s = true := by simp [powered, h]

/-- R456: a power failure ends in OFF; SRAM, DRAM, banks and Moorings are lost, the fuses and the flash are kept. -/
theorem powerFail_spec (a b : Nat) (s : State) : (powerFail a b s).life = .off ∧ (powerFail a b s).sram = [] ∧ (powerFail a b s).dram = [] ∧
    (powerFail a b s).banks = [] ∧ (powerFail a b s).moorings = [] ∧ (powerFail a b s).kpr.pwr.brownout = true ∧
      (powerFail a b s).kpr.fuses = s.kpr.fuses ∧ (powerFail a b s).kpr.flash = s.kpr.flash := by
  have hkpr : (releaseFog (stopAll (assertFog 0x7030 s))).kpr = s.kpr := by
    rw [releaseFog_frame]
    change (assertFog 0x7030 s).kpr = s.kpr
    rw [assertFog_frame]
  unfold powerFail
  dsimp only
  generalize releaseFog (stopAll (assertFog 0x7030 s)) = t at hkpr ⊢
  exact ⟨rfl, rfl, rfl, rfl, rfl, rfl, (show t.kpr.fuses = s.kpr.fuses by rw [hkpr]), (show t.kpr.flash = s.kpr.flash by rw [hkpr])⟩

/-! ### Trips -/

/-- R466, R467: a trip during a job: its code is reported, the job ends in FAULTED, and the rails go off. -/
theorem trip_inJob_spec (code bit value stn : Nat) {s : State} (h : inJob s = true) : (trip code bit value stn s).life = .faulted ∧
    (trip code bit value stn s).kpr.pwr.railsOff = true ∧ .report code pgPwr ∈ (trip code bit value stn s).out := by
  unfold trip
  dsimp only
  generalize hs1 : regCount (pageBase pgPwr + 0x58) (raise code pgPwr bit code value stn (putPwr { pwrOf s with trip := some code } s)) = s1
  have hout1 : .report code pgPwr ∈ s1.out := by
    rw [← hs1]
    exact report_mem_out_raise ..
  have hout2 := (assertFog_linksStay code s1).out _ hout1
  generalize assertFog code s1 = s2 at hout2 ⊢
  have hfault := faulted_spec code s.run.step s.fab.part.rank s2
  have hout3 := (faulted_linksStay code s.run.step s.fab.part.rank s2).out _ hout2
  generalize faulted code s.run.step s.fab.part.rank s2 = s3 at hfault hout3 ⊢
  simp only [inJob, Bool.or_eq_true, decide_eq_true_eq] at h
  rcases h with ((h | h) | h) | h <;> rw [h] <;> exact ⟨hfault.1, rfl, hout3⟩

/-! ### Readings -/

/-- R464: what a reading leaves of the power controller. -/
theorem throttle_spec (w : Nat) (s : State) :
    (throttle w s).life = s.life ∧ (throttle w s).watch = s.watch ∧ (throttle w s).kpr.pwr.readings = s.kpr.pwr.readings ∧
      (throttle w s).kpr.pwr.trip = s.kpr.pwr.trip ∧ (strictOn s = true → (throttle w s).kpr.pwr.kt = 0) ∧
      (strictOn s = false → capOf s.kpr.pwr.band < w → (throttle w s).kpr.pwr.kt = min 4 (s.kpr.pwr.kt + 1)) := by
  unfold throttle
  dsimp only
  split
  next hstrict =>
    split
    · rw [raise_frame]
      exact ⟨rfl, rfl, rfl, rfl, fun _ => rfl, fun h => absurd hstrict (by simp [h])⟩
    · exact ⟨rfl, rfl, rfl, rfl, fun _ => rfl, fun h => absurd hstrict (by simp [h])⟩
  next hstrict =>
    split
    next => exact ⟨rfl, rfl, rfl, rfl, fun h => absurd h hstrict, fun _ _ => rfl⟩
    next hcap =>
      split
      · split
        · exact ⟨rfl, rfl, rfl, rfl, fun h => absurd h hstrict, fun _ h => absurd h hcap⟩
        · split
          · exact ⟨rfl, rfl, rfl, rfl, fun h => absurd h hstrict, fun _ h => absurd h hcap⟩
          · exact ⟨rfl, rfl, rfl, rfl, fun h => absurd h hstrict, fun _ h => absurd h hcap⟩
      · exact ⟨rfl, rfl, rfl, rfl, fun h => absurd h hstrict, fun _ h => absurd h hcap⟩

/-- R464: the Watch of the next 10 µs reading. -/
def readingAt (s : State) : Nat :=
  match (pwrOf s).readings.head? with
  | some r => max s.watch (r.1 + 10000)
  | none => s.watch

theorem le_readingAt (s : State) : s.watch ≤ readingAt s := by
  unfold readingAt
  split
  · exact Nat.le_max_left ..
  · exact Nat.le_refl _

/-- R464, R466: a reading joins those of the last second. -/
def notePower (at_ w : Nat) (s : State) : State :=
  putPwr { pwrOf s with
    readings := (at_, w) :: (pwrOf s).readings.filter fun r => decide (at_ < r.1 + 1000000000)
    peakAt := if 1150 < w then some ((pwrOf s).peakAt.getD at_) else none } { s with watch := at_ }

theorem takePower_eq (w : Nat) (s : State) : takePower w s = throttle w (notePower (readingAt s) w s) := rfl

/-- R464: the next reading is noted at its own Watch, and the throttle follows it. -/
theorem takePower_spec (w : Nat) (s : State) :
    (takePower w s).life = s.life ∧ s.watch ≤ (takePower w s).watch ∧
      (takePower w s).kpr.pwr.readings.head? = some ((takePower w s).watch, w) ∧ (takePower w s).kpr.pwr.trip = s.kpr.pwr.trip ∧
      (strictOn s = true → (takePower w s).kpr.pwr.kt = 0) ∧
      (strictOn s = false → capOf s.kpr.pwr.band < w → (takePower w s).kpr.pwr.kt = min 4 (s.kpr.pwr.kt + 1)) := by
  rw [takePower_eq]
  have hle := le_readingAt s
  generalize readingAt s = at_ at hle ⊢
  generalize hu : notePower at_ w s = u
  obtain ⟨hlife, hwatch, hread, htrip, hkt, hcap⟩ := throttle_spec w u
  have hold : u.life = s.life ∧ u.watch = at_ ∧ u.kpr.pwr.readings.head? = some (at_, w) ∧ u.kpr.pwr.trip = s.kpr.pwr.trip ∧
      strictOn u = strictOn s ∧ u.kpr.pwr.band = s.kpr.pwr.band ∧ u.kpr.pwr.kt = s.kpr.pwr.kt := by
    rw [← hu]
    exact ⟨rfl, rfl, rfl, rfl, rfl, rfl, rfl⟩
  obtain ⟨hl, hw, hr, ht, hs, hb, hk⟩ := hold
  rw [hlife, hwatch, hread, htrip, hl, hw, hr, ht]
  rw [hs, hb, hk] at hcap
  rw [hs] at hkt
  exact ⟨rfl, hle, rfl, rfl, hkt, hcap⟩

theorem exec_powerSample_calm {s : State} {w : Nat} (hon : s.life ≠ .off) (h : powerTrips (takePower w s) = false) :
    exec (.powerSample w) s = .next (takePower w s) := by
  change execPowerSample w s = _
  unfold execPowerSample
  rw [if_pos (powered_of_on hon)]
  dsimp only
  rw [if_neg (by simp [h])]

theorem exec_powerSample_trip {s : State} {w : Nat} (hon : s.life ≠ .off) (h : powerTrips (takePower w s) = true)
    (htrip : s.kpr.pwr.trip = none) : exec (.powerSample w) s = .next (trip 0x7020 5 w 0 (takePower w s)) := by
  have hnone : (pwrOf (takePower w s)).trip.isNone = true := by
    obtain ⟨-, -, -, hkept, -, -⟩ := takePower_spec w s
    unfold pwrOf
    rw [hkept, htrip]
    rfl
  change execPowerSample w s = _
  unfold execPowerSample
  rw [if_pos (powered_of_on hon)]
  dsimp only
  rw [if_pos (by rw [h, hnone]; rfl)]

theorem inJob_congr {s t : State} (h : t.life = s.life) : inJob t = inJob s := by unfold inJob; rw [h]

theorem not_off_of_inJob {s : State} (h : inJob s = true) : s.life ≠ .off := fun hoff => by simp [inJob, hoff] at h

/-- R463: a change of band leaves the temperatures and the trip. -/
theorem reband_spec (s : State) : (reband s).life = s.life ∧ (reband s).kpr.pwr.tj = s.kpr.pwr.tj ∧
    (reband s).kpr.pwr.trip = s.kpr.pwr.trip := by
  have hto (b : Nat) : (rebandTo b s).life = s.life ∧ (rebandTo b s).kpr.pwr.tj = s.kpr.pwr.tj ∧ (rebandTo b s).kpr.pwr.trip = s.kpr.pwr.trip := by
    unfold rebandTo
    dsimp only
    split
    · rw [raise_frame]
      exact ⟨rfl, rfl, rfl⟩
    · exact ⟨rfl, rfl, rfl⟩
  unfold reband
  dsimp only
  split
  · exact hto _
  · split
    · split
      · exact ⟨rfl, rfl, rfl⟩
      · split
        · exact hto _
        · exact ⟨rfl, rfl, rfl⟩
    · exact ⟨rfl, rfl, rfl⟩

theorem exec_temperatureSample {s : State} (j : Nat) (st : Fin 16) (d : Nat) (hon : s.life ≠ .off) :
    exec (.temperatureSample j st d) s = .next (thermalTrip (takeTemp j st d s)) :=
  congrArg Host.Outcome.next (if_pos (powered_of_on hon))

theorem reband_of_zero {s : State} (hband : s.kpr.pwr.band = 0) (hzero : bandOf s.kpr.pwr.tj s.kpr.pwr.td = 0) :
    reband s = putPwr { s.kpr.pwr with coolAt := none } s := by
  unfold reband pwrOf
  dsimp only
  rw [hzero, hband, if_neg (Nat.not_lt_zero 0), if_neg (by simp)]

/-- R463: in band 0, temperatures of band 0 are noted and that is all. -/
theorem takeTemp_cool {s : State} {j d : Nat} (st : Nat) (hband : s.kpr.pwr.band = 0) (hj : j ≤ 95) (hd : d ≤ 85) :
    takeTemp j st d s = putPwr { s.kpr.pwr with tempAt := max s.watch (s.kpr.pwr.tempAt + 1000000), tj := j, td := d, hot := st, tjAt := none
                                                tdAt := none, coolAt := none } { s with watch := max s.watch (s.kpr.pwr.tempAt + 1000000) } := by
  have hzero : bandOf j d = 0 := by unfold bandOf; rw [if_pos hj, if_pos hd]; rfl
  unfold takeTemp
  dsimp only
  rw [if_neg (by omega), if_neg (by omega)]
  refine (reband_of_zero ?_ ?_).trans rfl
  · exact hband
  · exact hzero

/-- R466: readings below every limit trip nothing. -/
theorem thermalTrip_of_cool {s : State} (hj : s.kpr.pwr.tj < 110) (hjAt : s.kpr.pwr.tjAt = none) (hdAt : s.kpr.pwr.tdAt = none) :
    thermalTrip s = s := by
  unfold thermalTrip pwrOf
  dsimp only
  split
  · rfl
  · rw [hjAt, hdAt, if_neg (by simp [overFor]; omega), if_neg (by simp [overFor])]

/-- R466: a junction at 110 degrees trips. -/
theorem thermalTrip_of_hot {s : State} (htrip : s.kpr.pwr.trip = none) (hj : 110 ≤ s.kpr.pwr.tj) :
    thermalTrip s = trip 0x7010 3 s.kpr.pwr.tj s.kpr.pwr.hot s := by
  unfold thermalTrip pwrOf
  dsimp only
  rw [htrip, if_neg (by decide), if_pos (by simp [hj])]

theorem takeTemp_hot (j st d : Nat) (s : State) : (takeTemp j st d s).life = s.life ∧ (takeTemp j st d s).kpr.pwr.tj = j ∧
    (takeTemp j st d s).kpr.pwr.trip = s.kpr.pwr.trip := by
  unfold takeTemp
  dsimp only
  generalize hu : putPwr _ _ = u
  obtain ⟨hlife, htj, htrip⟩ := reband_spec u
  rw [hlife, htj, htrip, ← hu]
  exact ⟨rfl, rfl, rfl⟩

/-! ### Droops -/

theorem regGet_setK {a : Nat} (n k : Nat) (s : State) (ha : a % 0x1000 = 0x40) : regGet (setK n k s) a = regGet s a := by
  have hpage := pageBase_mod (pgClk n)
  unfold setK
  dsimp only
  split
  · rfl
  · unfold regPut64
    rw [regGet_regPut_other _ _ (by omega), regGet_regPut_other _ _ (by omega)]
    rfl

theorem regGet_setK_foldl {a : Nat} (k : Nat) (ns : List Nat) (s : State) (ha : a % 0x1000 = 0x40) :
    regGet (ns.foldl (fun t n => setK n k t) s) a = regGet s a := by
  induction ns generalizing s with
  | nil => rfl
  | cons n ns ih => rw [List.foldl_cons, ih, regGet_setK n k s ha]

/-- R327: a Station's own clock is among those that its droop stretches. -/
theorem mem_stretchSet (s : State) {st : Nat} (h : st < 16) : st ∈ stretchSet s st := by
  unfold stretchSet
  split
  · exact List.mem_range.mpr h
  · exact List.mem_singleton.mpr rfl

theorem droop_spec (st : Fin 16) (s : State) :
    regGet (droop st s) (pageBase (pgClk st) + 0x40) = satInc (regGet s (pageBase (pgClk st) + 0x40)) ∧
      (clkOf (droop st s) st).k = if strictOn s then (clkOf s st).k else 4 := by
  have hpage := pageBase_mod (pgClk st)
  unfold droop
  dsimp only
  split
  · exact ⟨regGet_regPut_same .., rfl⟩
  · refine ⟨?_, ?_⟩
    · rw [regGet_setK_foldl _ _ _ (by omega)]
      exact regGet_regPut_same ..
    · rw [clkOf_setK_foldl, if_pos (mem_stretchSet s st.isLt)]

theorem setK_droops (n k m : Nat) (s : State) : (clkOf (setK n k s) m).droops = (clkOf s m).droops := by
  unfold setK
  dsimp only
  split
  · rfl
  · rw [clkOf_regPut64]
    by_cases hm : m = n
    · rw [hm, clkOf_putClk_same]
    · rw [clkOf_putClk_other _ _ hm]

/-- R325: one clock of the return of each Station of a list. -/
def returnClocks (ns : List Nat) (s : State) : State := ns.foldl (fun t n => setK n ((clkOf t n).k - 1) t) s

theorem returnClocks_spec {ns : List Nat} (m : Nat) (s : State) (hns : ns.Nodup) :
    (clkOf (returnClocks ns s) m).droops = (clkOf s m).droops ∧
      (clkOf (returnClocks ns s) m).k = if m ∈ ns then (clkOf s m).k - 1 else (clkOf s m).k := by
  induction ns generalizing s with
  | nil => exact ⟨rfl, rfl⟩
  | cons n ns ih =>
    obtain ⟨hn, hns⟩ := List.nodup_cons.mp hns
    obtain ⟨hdroops, hk⟩ := ih (setK n ((clkOf s n).k - 1) s) hns
    refine ⟨hdroops.trans (setK_droops ..), hk.trans ?_⟩
    rw [clkOf_setK]
    by_cases hm : m = n
    · rw [hm, if_neg hn, if_pos rfl, if_pos List.mem_cons_self]
    · by_cases hmem : m ∈ ns
      · simp [hmem, hm]
      · simp [hmem, hm]

theorem stretchSet_nodup (s : State) (st : Nat) : (stretchSet s st).Nodup := by
  unfold stretchSet
  split
  · exact List.nodup_range
  · exact List.nodup_singleton _

/-- R325, R327: in forwarded mode another Station that still droops holds the clocks. -/
theorem stretchSet_any_droops (st : Fin 16) (s : State) :
    ((stretchSet s st).any fun n => (clkOf (putClk st { clkOf s st with droops := false } s) n).droops) = true ↔
      s.kpr.forwarded = true ∧ ∃ n : Nat, n < 16 ∧ n ≠ st.val ∧ (clkOf s n).droops = true := by
  have hdroops (n : Nat) : (clkOf (putClk st { clkOf s st with droops := false } s) n).droops = true ↔ n ≠ st.val ∧ (clkOf s n).droops = true := by
    by_cases hn : n = st.val
    · rw [hn, clkOf_putClk_same]
      simp
    · rw [clkOf_putClk_other _ _ hn]
      simp [hn]
  rw [List.any_eq_true]
  unfold stretchSet
  cases hf : s.kpr.forwarded with
  | true => simp [hdroops]
  | false => simp [hdroops]

theorem droopRelease_spec (st : Fin 16) (s : State) : (clkOf (droopRelease st s) st).droops = false ∧
    (clkOf (droopRelease st s) st).k =
      if s.kpr.forwarded = true ∧ ∃ n : Nat, n < 16 ∧ n ≠ st.val ∧ (clkOf s n).droops = true then (clkOf s st).k else (clkOf s st).k - 1 := by
  unfold droopRelease
  dsimp only
  have hany := stretchSet_any_droops st s
  by_cases hheld : s.kpr.forwarded = true ∧ ∃ n : Nat, n < 16 ∧ n ≠ st.val ∧ (clkOf s n).droops = true
  · rw [if_pos (hany.mpr hheld), if_pos hheld, clkOf_putClk_same]
    exact ⟨rfl, rfl⟩
  · rw [if_neg (fun h => hheld (hany.mp h)), if_neg hheld]
    obtain ⟨hdroops, hk⟩ := returnClocks_spec st (putClk st { clkOf s st with droops := false } s) (stretchSet_nodup s st)
    rw [clkOf_putClk_same] at hdroops hk
    rw [if_pos (mem_stretchSet s st.isLt)] at hk
    exact ⟨hdroops, hk⟩

/-- Settles O56: power commands by their checks, feeds and readings by their limits, droops by the clocks that they stretch. -/
theorem powerAndFeeds : Obligations.PowerAndFeeds := by
  intro s p
  refine ⟨fun c hready => ⟨fun hlife htrip => ?_, fun hlife => ?_⟩, fun hon a b => ⟨?_, ?_, ?_, ?_, ?_⟩, fun hon w => ?_,
    fun hon htrip hband st j d hj hd => ?_, fun htrip hjob st j d hj => ?_, fun hrails st => ⟨?_, ?_⟩⟩
  · have hlegal : upLegal s = true := by simp [upLegal, hlife]
    obtain ⟨hrest, hrails, hsram, hdram, hjobs, -⟩ := powerUp_spec (advanceHead 64 s)
    have hexec : exec (.powerUp c) s = .next (adminRun c 0 [] upLegal cmdPowerUp s) := rfl
    rw [adminRun_of_ready hready hlegal, cmdPowerUp_of_clear (s := advanceHead 64 s) hlife htrip] at hexec
    have hdone := cmdDone_booked (cmdOrigin c s) 0 [] (powerUp (advanceHead 64 s))
    refine ⟨_, hexec, hdone.life.trans hrest, completed_cmdDone c 0 [] s ?_, ?_, hdone.sram.trans hsram, (cmdDone_dram ..).trans hdram⟩
    · rw [hjobs]
      exact halted_of_ready (s := s) hready
    · rw [hdone.pwr]
      exact hrails
  · have hlegal : inKRL s = true := by rcases hlife with h | h <;> simp [inKRL, h]
    have hkeep : s.life ≠ .keep := by rcases hlife with h | h <;> simp [h]
    obtain ⟨hdown, hsram, hbanks, hmoor, hpart, hhalt⟩ := powerDown_spec (advanceHead 64 s)
    have hexec : exec (.powerDown c) s = .next (adminRun c 0 [] inKRL cmdPowerDown s) := rfl
    rw [adminRun_of_ready hready hlegal, cmdPowerDown_of_on (s := advanceHead 64 s) hkeep] at hexec
    have hdone := cmdDone_booked (cmdOrigin c s) 0 [] (powerDown (advanceHead 64 s))
    refine ⟨_, hexec, hdone.life.trans hdown, completed_cmdDone c 0 [] s ?_, hdone.sram.trans hsram, hdone.banks.trans hbanks,
      hdone.moorings.trans hmoor, by rw [hdone.fab, hpart]⟩
    exact hhalt.trans (by exact halted_of_ready (s := s) hready)
  · intro ha hb
    refine congrArg Host.Outcome.next ((if_pos (by simp [powered_of_on hon, ha])).trans ?_)
    unfold feedADrop
    rw [hb, Bool.or_true]
    rfl
  · intro hb ha
    exact congrArg Host.Outcome.next (if_pos (by rw [powered_of_on hon, show (pwrOf s).onB = true from hb]; simp [ha]))
  · intro hsingle hrange
    refine ⟨_, congrArg Host.Outcome.next (if_pos ?_), ?_, report_mem_out_raise ..⟩
    · rw [powered_of_on hon, show (pwrOf s).single = false from hsingle]
      rcases hrange with h | h <;> simp [h]
    · rw [singleEnter, raise_frame]
      rfl
  · intro hsingle ha hb
    exact congrArg Host.Outcome.next (if_pos (by rw [powered_of_on hon, show (pwrOf s).single = true from hsingle, ha, hb]; rfl))
  · intro ha hb
    exact ⟨_, congrArg Host.Outcome.next (if_pos (by simp [powered_of_on hon, ha, hb])), powerFail_spec a b s⟩
  · intro hot
    obtain ⟨hlife, hwatch, hread, -, hkt, hcap⟩ := takePower_spec w s
    refine ⟨fun hcalm => ?_, fun htrips htrip hjob => ?_⟩
    · exact ⟨_, exec_powerSample_calm hon hcalm, hread, hwatch, hlife, hkt, hcap⟩
    · exact ⟨_, exec_powerSample_trip hon htrips htrip, trip_inJob_spec _ _ _ _ ((inJob_congr hlife).trans hjob)⟩
  · have hcool := takeTemp_cool (s := s) st.val hband hj hd
    refine ⟨_, exec_temperatureSample j st d hon, ?_⟩
    rw [hcool, thermalTrip_of_cool (by change j < 110; omega) rfl rfl]
    exact ⟨rfl, rfl, rfl, hband, htrip, rfl⟩
  · obtain ⟨hlife, htj, hkept⟩ := takeTemp_hot j st.val d s
    refine ⟨_, exec_temperatureSample j st d (not_off_of_inJob hjob), ?_⟩
    rw [thermalTrip_of_hot (hkept.trans htrip) (by rw [htj]; exact hj)]
    exact trip_inJob_spec _ _ _ _ ((inJob_congr hlife).trans hjob)
  · exact ⟨_, congrArg Host.Outcome.next (if_neg (by simp [hrails])), droop_spec st s⟩
  · exact ⟨_, rfl, droopRelease_spec st s⟩

end Sys2Proof.Machine
end

section
/-! O57: power applied, the warm resets, the reset pins, the alert and the JTAG port (R395, R416, R436, R481, R495, R496, R499). -/

namespace Sys2Proof.Machine

/-! ### Power applied -/

/-- R422, R429, R452: what a start of the Keeper may change, and that the nonce and the debug scopes are not among it. -/
structure KeeperStarts (s t : State) : Prop where
  frame : t = { s with regs := t.regs, out := t.out, kpr := t.kpr }
  scopes : t.kpr.sec.debugOpen = s.kpr.sec.debugOpen
  nonce : t.kpr.sec.nonce = s.kpr.sec.nonce

theorem KeeperStarts.refl (s : State) : KeeperStarts s s := ⟨rfl, rfl, rfl⟩

theorem KeeperStarts.trans {s t u : State} (h : KeeperStarts s t) (k : KeeperStarts t u) : KeeperStarts s u :=
  ⟨by rw [k.frame, h.frame], k.scopes.trans h.scopes, k.nonce.trans h.nonce⟩

theorem raise_keeperStarts (code p bit a b c : Nat) (s : State) : KeeperStarts s (raise code p bit a b c s) := by
  rw [raise_frame]
  exact ⟨rfl, rfl, rfl⟩

theorem regPut_keeperStarts (a v : Nat) (s : State) : KeeperStarts s (regPut a v s) := ⟨rfl, rfl, rfl⟩

/-- R449: the update's record, the flash and the fuses are none of what a start keeps. -/
theorem putRecord_keeperStarts (u : Upd) (f : Flash) (g : Fuses) (s : State) : KeeperStarts s (putUpd u (putFlash f (putFuses g s))) :=
  ⟨rfl, rfl, rfl⟩

theorem bootStages_keeperStarts (s : State) : KeeperStarts s (bootStages s) := by
  rw [bootStages_frame]
  exact ⟨rfl, rfl, rfl⟩

theorem recAtStart_keeperStarts (s : State) : KeeperStarts s (recAtStart s) := by
  unfold recAtStart
  dsimp only
  split <;> exact ⟨rfl, rfl, rfl⟩

theorem startOwner_keeperStarts (s : State) : KeeperStarts s (startOwner s) := by
  unfold startOwner
  dsimp only
  split
  · refine KeeperStarts.trans ?_ (raise_keeperStarts ..)
    exact ⟨rfl, rfl, rfl⟩
  · exact .refl s

theorem confirmSteps_keeperStarts (s : State) : KeeperStarts s (confirmSteps s) := by
  unfold confirmSteps
  exact ((putRecord_keeperStarts ..).trans (regPut_keeperStarts ..)).trans (raise_keeperStarts ..)

theorem keeperStart_keeperStarts (s : State) : KeeperStarts s (keeperStart s) := by
  have hstart := ((bootStages_keeperStarts s).trans (recAtStart_keeperStarts _)).trans (startOwner_keeperStarts _)
  unfold keeperStart
  dsimp only
  split
  · exact hstart.trans (confirmSteps_keeperStarts _)
  · exact hstart

theorem fencedLinks_frame (ls : List Nat) (s : State) : ∃ k, ls.foldl (fun t l => putLink l { linkOf t l with st := .fenced } t) s =
    { s with fab := { s.fab with links := k } } := by
  induction ls generalizing s with
  | nil => exact ⟨_, rfl⟩
  | cons l ls ih =>
    obtain ⟨k, hk⟩ := ih (putLink l { linkOf s l with st := .fenced } s)
    exact ⟨k, hk⟩

/-- R245: the straps give the position; nothing of the Keeper, the Watch or the banks changes. -/
theorem sampleStraps_spec (x : Straps) (s : State) : (sampleStraps x s).watch = s.watch ∧ (sampleStraps x s).kpr = s.kpr ∧
    (sampleStraps x s).banks = s.banks ∧ (sampleStraps x s).fab.pos = [x.d0.val, x.d1.val, x.d2.val, x.d3.val] := by
  unfold sampleStraps
  dsimp only
  split
  · exact ⟨rfl, rfl, rfl, rfl⟩
  · generalize hu : noPart _ = u
    have hkept : u.watch = s.watch ∧ u.kpr = s.kpr ∧ u.banks = s.banks ∧ u.fab.pos = [x.d0.val, x.d1.val, x.d2.val, x.d3.val] := by
      rw [← hu]
      exact ⟨rfl, rfl, rfl, rfl⟩
    obtain ⟨k, hk⟩ := fencedLinks_frame (List.range 96) u
    rw [hk]
    exact hkept

/-- R481: a cold reset is a start of the Keeper on a chip that lost everything but what the fuses and the flash hold. -/
theorem coldReset_starts (x : Straps) (s : State) : ∃ u, KeeperStarts u (coldReset x s) ∧ u.watch = 0 ∧ u.banks = [] ∧
    u.kpr.sec.debugOpen = 0 ∧ u.kpr.sec.nonce = none ∧ u.fab.pos = [x.d0.val, x.d1.val, x.d2.val, x.d3.val] := by
  unfold coldReset
  dsimp only
  generalize hv : sampleStraps x _ = v
  have hblank : v.watch = 0 ∧ v.banks = [] ∧ v.kpr.sec.debugOpen = 0 ∧ v.kpr.sec.nonce = none ∧
      v.fab.pos = [x.d0.val, x.d1.val, x.d2.val, x.d3.val] := by
    rw [← hv]
    obtain ⟨hwatch, hkpr, hbanks, hpos⟩ := sampleStraps_spec x _
    rw [hwatch, hkpr, hbanks, hpos]
    exact ⟨rfl, rfl, rfl, rfl, rfl⟩
  have hstart := keeperStart_keeperStarts v
  generalize keeperStart v = w at hstart ⊢
  refine ⟨v, ?_, hblank⟩
  split
  · refine hstart.trans (KeeperStarts.trans ?_ (raise_keeperStarts ..))
    exact ⟨rfl, rfl, rfl⟩
  · exact hstart

/-! ### Warm resets -/

theorem putSlotState_booked (i v : Nat) (s : State) : Booked s (putSlotState i v s) := pokeDram_booked ..

/-- R392, R416: the slots that are spoiled lie in the Ledger store. -/
theorem spoilSlots_booked (s : State) : Booked s (spoilSlots s) := by
  have hdrop (t : State) : Booked t (dropPending t) := Booked.foldl (fun u i => by
    split
    · exact putSlotState_booked ..
    · exact .refl u) _ t
  have hdeferred := Booked.foldl (fun t (e : Ended × List Byte) => storeRecord_booked e.1.jobId e.2 t) s.jobs.deferred s
  unfold spoilSlots
  refine Booked.trans (hdeferred.trans ?_) (hdrop _)
  split
  · split
    · exact storeRecord_booked ..
    · exact .refl _
  · exact .refl _

/-- R416, R451, R481: what every warm reset leads to. -/
def WarmlyReset (s t : State) : Prop :=
  t.life = .keep ∧ t.watch = 0 ∧ t.engs = [] ∧ t.sram = [] ∧ t.jobs.active = none ∧ t.jobs.waiting = [] ∧
    t.kpr.fuses = s.kpr.fuses ∧ t.kpr.flash = s.kpr.flash ∧ t.kpr.sec.keys = s.kpr.sec.keys ∧
    t.kpr.sec.debugOpen = s.kpr.sec.debugOpen ∧ ∀ b, (bankOf s b).st = .loaded → (bankOf t b).st = .stale

theorem bankOf_warmBank {s t : State} (h : t.banks = tmap (fun _ k => warmBank k) s.banks) {b : Nat} (hb : (bankOf s b).st = .loaded) :
    (bankOf t b).st = .stale := by
  unfold bankOf at hb ⊢
  rw [h, tget_tmap (fun _ => rfl), warmBank, if_pos (by simp [hb])]

/-- R416, R481: a warm reset while no update is in force. -/
theorem warmReset_spec {s : State} (h : s.kpr.upd.rec_ = .idle) : WarmlyReset s (warmReset s) := by
  have hbooked : Booked s (releaseFog (spoilSlots s)) := (spoilSlots_booked s).trans (by
    unfold Booked
    rw [releaseFog_frame])
  unfold warmReset
  dsimp only
  rw [if_neg (by simp [h])]
  generalize releaseFog (spoilSlots s) = t at hbooked ⊢
  have hkpr : t.kpr.fuses = s.kpr.fuses ∧ t.kpr.flash = s.kpr.flash ∧ t.kpr.sec.keys = s.kpr.sec.keys ∧
      t.kpr.sec.debugOpen = s.kpr.sec.debugOpen := by
    rw [hbooked]
    exact ⟨rfl, rfl, rfl, rfl⟩
  obtain ⟨hfuses, hflash, hkeys, hscopes⟩ := hkpr
  refine ⟨rfl, rfl, rfl, rfl, rfl, rfl, hfuses, hflash, hkeys, hscopes, fun b hb => bankOf_warmBank ?_ hb⟩
  rw [← hbooked.banks]
  rfl

theorem cmdDone_jobs (o : CmdFrom) (status : Nat) (result : List Byte) (s : State) :
    (cmdDone o status result s).jobs.active = s.jobs.active ∧ (cmdDone o status result s).jobs.waiting = s.jobs.waiting := by
  have hpost (q : Nat) (bs : List Byte) (t : State) : (postComp q bs t).jobs.active = t.jobs.active ∧
      (postComp q bs t).jobs.waiting = t.jobs.waiting := by
    unfold postComp
    split <;> exact ⟨rfl, rfl⟩
  unfold cmdDone
  dsimp only
  split
  · exact ⟨rfl, rfl⟩
  · rw [(hpost ..).1, (hpost ..).2]
    split <;> exact ⟨rfl, rfl⟩

/-- R416, R418: a completion posted after the reset leaves it as it is. -/
theorem WarmlyReset.cmdDone {s t : State} (h : WarmlyReset s t) (o : CmdFrom) (status : Nat) (result : List Byte) :
    WarmlyReset s (cmdDone o status result t) := by
  obtain ⟨hlife, hwatch, hengs, hsram, hactive, hwaiting, hfuses, hflash, hkeys, hscopes, hbanks⟩ := h
  have hdone := cmdDone_booked o status result t
  have hjobs := cmdDone_jobs o status result t
  refine ⟨hdone.life.trans hlife, hdone.watch.trans hwatch, hdone.engs.trans hengs, hdone.sram.trans hsram, hjobs.1.trans hactive,
    hjobs.2.trans hwaiting, ?_, ?_, ?_, ?_, fun b hb => (congrArg Bank.st (bankOf_congr hdone.banks b)).trans (hbanks b hb)⟩
  all_goals
    rw [hdone]
    assumption

theorem exec_resetWarm {c : CmdRec} {s : State} (h : AdminReady c 0 [] s) :
    exec (.resetWarm c) s = .next (cmdDone (cmdOrigin c s) 0 [] (warmReset (advanceHead 64 s))) :=
  congrArg Host.Outcome.next (adminRun_of_ready h rfl cmdResetWarm)

theorem exec_warmResetPin {s : State} (b : Bool) (hon : s.life ≠ .off) (hperst : s.kpr.pins.perst = false) (hwarm : s.kpr.pins.warm = false) :
    ∃ p, exec (.warmResetPin b) s = .next (putPins p (warmReset s)) := by
  have hpin : ∃ p, pinReset b s = putPins p (warmReset s) := by
    unfold pinReset
    dsimp only
    rw [if_neg (by simp [hperst, hwarm])]
    exact ⟨_, rfl⟩
  obtain ⟨p, hp⟩ := hpin
  exact ⟨p, congrArg Host.Outcome.next ((if_pos (powered_of_on hon)).trans hp)⟩

/-! ### Pins, alert and JTAG -/

/-- R436, R499: an instruction whose scope is shut acts as BYPASS. -/
theorem bscan_of_shut {s : State} (n : Nat) (h : bitAt s.kpr.sec.debugOpen 0 = false) : bscan n s = closedScope s := by
  unfold bscan
  rw [if_neg (by simp [h])]
  rfl

theorem exec_jtag_shut {s : State} {op : JtagOp} (h : op = .bypass ∨ ((op = .sample ∨ op = .preload ∨ op = .extest) ∧ bitAt s.kpr.sec.debugOpen 0 = false) ∨
      ((∃ g, op = .engineHalt g ∨ op = .engineState g) ∧ bitAt s.kpr.sec.debugOpen 1 = false) ∨ (op = .keeper ∧ bitAt s.kpr.sec.debugOpen 2 = false)) :
    exec (.jtagInstruction op) s = .next (closedScope s) := by
  rcases h with rfl | ⟨rfl | rfl | rfl, h⟩ | ⟨⟨g, rfl | rfl⟩, h⟩ | ⟨rfl, h⟩
  · rfl
  · exact congrArg Host.Outcome.next (bscan_of_shut 2 h)
  · exact congrArg Host.Outcome.next (bscan_of_shut 3 h)
  · exact congrArg Host.Outcome.next (bscan_of_shut 4 h)
  · exact congrArg Host.Outcome.next (if_neg (by simp [h]))
  · exact congrArg Host.Outcome.next (if_neg (by simp [h]))
  · exact if_neg (by simp [h])

/-- R496: a pin that returns high; with neither low the PCI Express link retrains. -/
theorem pinRelease_spec (b : Bool) (z : Fin 9) (s : State) :
    (if b then (pinRelease b z s).kpr.pins.perst else (pinRelease b z s).kpr.pins.warm) = false ∧
      pinRelease b z s = { s with kpr := { s.kpr with pins := (pinRelease b z s).kpr.pins } } ∧
      ((if b then s.kpr.pins.warm else s.kpr.pins.perst) = false → (pinRelease b z s).kpr.pins.pciRate = 4 ∧
        (pinRelease b z s).kpr.pins.pciWidth = 8 ∧ bar2Size (pinRelease b z s) = 2 ^ (30 + z.val)) := by
  unfold pinRelease
  dsimp only
  refine ⟨?_, rfl, fun h => ?_⟩
  · cases b
    · rw [if_neg (by decide)]
      split <;> simp [putPins]
    · rw [if_pos rfl]
      split <;> simp [putPins]
  · rw [if_neg (by cases b <;> simp_all)]
    exact ⟨rfl, rfl, rfl⟩

/-- Settles O57: every reset by what it leaves, every pin and port by its own rule. -/
theorem resetsAndPins : Obligations.ResetsAndPins := by
  intro s
  refine ⟨fun hoff x => ?_, fun hon hrec c hc => ?_, fun b z hlow => ?_, fun halert => congrArg Host.Outcome.next (if_pos halert), rfl,
    ⟨_, rfl, rfl, rfl⟩, fun g hopen => congrArg Host.Outcome.next (if_pos hopen), fun op hop => exec_jtag_shut hop⟩
  · obtain ⟨u, hstart, hwatch, hbanks, hscopes, hnonce, hpos⟩ := coldReset_starts x s
    refine ⟨_, exec_powerApplied hoff x, coldReset_life x s, ?_, hstart.scopes.trans hscopes, hstart.nonce.trans hnonce, ?_, ?_⟩
    · rw [hstart.frame]
      exact hwatch
    · rw [hstart.frame]
      exact hbanks
    · rw [hstart.frame]
      exact hpos
  · rcases hc with rfl | ⟨b, rfl, hperst, hwarm⟩ | ⟨r, rfl, hready⟩
    · exact ⟨_, congrArg Host.Outcome.next (if_pos (powered_of_on hon)), warmReset_spec hrec⟩
    · obtain ⟨p, hexec⟩ := exec_warmResetPin b hon hperst hwarm
      exact ⟨_, hexec, warmReset_spec hrec⟩
    · exact ⟨_, exec_resetWarm hready, (warmReset_spec (s := advanceHead 64 s) hrec).cmdDone ..⟩
  · exact ⟨_, congrArg Host.Outcome.next (if_pos hlow), pinRelease_spec b z s⟩

end Sys2Proof.Machine
end
